-- ==== Sys2Proof/Word.lean ====
section
/-! DEFINITION. The word types of the KRX-9256 and their plainest arithmetic. -/

namespace Sys2Proof

/-- A 64-bit scalar register value (R11). -/
abbrev Word := BitVec 64
/-- The smallest addressable unit of every memory. -/
abbrev Byte := BitVec 8
/-- A virtual address (R112, R345). -/
abbrev VAddr := BitVec 48
/-- A vector register: 64 lanes of 32 bits (R13). -/
abbrev VReg := BitVec 2048
/-- A 64-lane predicate; the A, T and S clusters use bit 0 (R13). -/
abbrev Mask := BitVec 64

/-- The four issue-slot clusters of a core (R11, R12). -/
inductive Cluster | A | V | T | S
  deriving DecidableEq, Repr

/-- The two token directions of a cluster (R12, R154). -/
inductive Dir | left | right
  deriving DecidableEq, Repr

/-- The right neighbour in the ring A, V, T, S, A (R12). -/
def Cluster.right : Cluster → Cluster
  | .A => .V | .V => .T | .T => .S | .S => .A

/-- The left neighbour in the ring (R12). -/
def Cluster.left : Cluster → Cluster
  | .A => .S | .V => .A | .T => .V | .S => .T

/-- The order A, V, T, S in which origins and failing words are named (R132, R296). -/
def Cluster.all : List Cluster := [.A, .V, .T, .S]

/-- Width in bytes of a word of the cluster's stream (R112). -/
def Cluster.wordBytes : Cluster → Nat
  | .A => 4 | .V => 12 | .T => 24 | .S => 4

/-- Words of the cluster's stream that a 2 MiB page holds (R113). -/
def Cluster.wordsPerPage : Cluster → Nat
  | .A => 524280 | .V => 174760 | .T => 87380 | .S => 524280

/-- The number krdb and the trap record give a cluster (R298, R374). -/
def Cluster.num : Cluster → Nat
  | .A => 0 | .V => 1 | .T => 2 | .S => 3

/-- Bits [hi:lo] of a natural number, as a number. -/
def bits (w hi lo : Nat) : Nat := (w / 2 ^ lo) % 2 ^ (hi + 1 - lo)

/-- Bit `i` of a natural number. -/
def bit (w i : Nat) : Bool := w.testBit i

/-- A Bool as 0 or 1. -/
def b2n (b : Bool) : Nat := if b then 1 else 0

/-- The value of a bit pattern of width `w` read as two's complement. -/
def signedOf (w n : Nat) : Int := if n % 2 ^ w < 2 ^ (w - 1) then ((n % 2 ^ w : Nat) : Int) else ((n % 2 ^ w : Nat) : Int) - (2 ^ w : Nat)

/-- wrap(x, n) of R8: the low n bits as an unsigned pattern. -/
def wrapTo (n : Nat) (x : Int) : Nat := (x % ((2 ^ n : Nat) : Int)).toNat

end Sys2Proof
end

