-- ==== Sys2Proof/Syntax.lean ====
section
/-! DEFINITION. The operations and events of the KRX-9256: one constructor for each row of spec/opcode_table.json. -/

namespace Sys2Proof

/-- A 5-bit register field: a scalar register s0 to s31, or a handle h0 to h31 where the body says so (R120). -/
abbrev Reg := BitVec 5
/-- A 4-bit predicate field p0 to p15. -/
abbrev Pred := BitVec 4
/-- A core number (R10). -/
abbrev CoreId := BitVec 8
/-- A context number (R284). -/
abbrev CtxId := BitVec 6
/-- A queue number (R306). -/
abbrev QueueId := BitVec 14
/-- A frame id (R346). -/
abbrev FrameId := BitVec 28

/-- The 11-bit header of every word (R116). -/
structure Hdr where
  e : Bool
  g : Pred
  n : Bool
  y : Bool
  k : BitVec 4
  deriving DecidableEq, Repr

/-- The literal of ld and st (R122). -/
structure MemLit where
  sp : Bool
  wd : BitVec 2
  ac : BitVec 2
  pp : Bool
  pd : Pred
  off : BitVec 21
  deriving DecidableEq, Repr

/-- The literal of amo and red (R248). -/
structure AtomLit where
  ac : BitVec 2
  res : Bool
  o : Reg
  uns : Bool
  fp : Bool
  wd : BitVec 2
  use : BitVec 3
  op : BitVec 4
  deriving DecidableEq, Repr

/-- The operand fields of a V word (R127): TYPE, RM, SAT, W2, the three named registers with their strides, and field C. -/
structure VOps where
  typ : BitVec 4
  rm : BitVec 2
  sat : Bool
  w2 : Bool
  d : BitVec 10
  ds : BitVec 3
  a : BitVec 10
  as : BitVec 3
  b : BitVec 10
  bs : BitVec 3
  c : BitVec 25
  deriving DecidableEq, Repr

/-- The operand fields of a T word of class 0 (R134). -/
structure MOps where
  atd : BitVec 8
  aw : BitVec 4
  btd : BitVec 8
  bw : BitVec 4
  acc : BitVec 3
  am : BitVec 2
  sa : BitVec 8
  sb : BitVec 8
  aty : BitVec 4
  bty : BitVec 4
  sat : Bool
  rm : BitVec 2
  m : BitVec 8
  n : BitVec 8
  k : BitVec 8
  spm : BitVec 2
  wb : Bool
  qj : Bool
  oty : BitVec 4
  otd : BitVec 8
  csel : BitVec 8
  koff : BitVec 16
  moff : BitVec 16
  noff : BitVec 16
  deriving DecidableEq, Repr

/-- Where an arrival comes from: a cluster's barv at the head of its store queue, or the oldest engine arrival on its way (R336). -/
inductive ArrivalSrc
  | thread (core : CoreId) (c : Cluster)
  | engine
  deriving DecidableEq, Repr

/-- What a flit between modules carries (R376): an element asked of an export entry (R377 to R379), with the entry, the offset, the bytes written or
    the number of bytes read, and for a reduction its 4-byte operation; a reply to an element of this module; or the arrival that ends a
    command (R379), which an element marked `last` ends too. -/
inductive RemoteKind | read | write | red | reply | arrival
  deriving DecidableEq, Repr

/-- A remote request (R376): `op` and `fp` give a reduction's operation and type as R254's OPX does; source and tag tell commands apart. `num` is the
    sequence number of its flit. -/
structure RemoteReq where
  dst : BitVec 10
  src : BitVec 10
  tag : BitVec 16
  kind : RemoteKind
  entry : BitVec 12
  off : BitVec 21
  len : Nat
  data : List Byte
  op : BitVec 2
  fp : Bool
  last : Bool
  num : BitVec 64
  deriving DecidableEq, Repr

/-- The registers with no behaviour of their own that REGISTER_WRITE stores (R7). -/
inductive RegName
  | dseed | fltbase | win | dbgctl | dbgsel | devid | tinvarg
  | dpl (slice : BitVec 4) (tier : BitVec 2)
  | flr (tier : BitVec 2) (scheme : BitVec 3)
  | route (dev : BitVec 10)
  | exportEntry (e : BitVec 12)
  | dbgbp (core : CoreId) (c : Cluster) (k : BitVec 2)
  | rtag (slice k : BitVec 4)
  | lctl (link : BitVec 5)
  | elbase | elcfg | eltail
  deriving DecidableEq, Repr

/-- The KRX-9256's table of operations and events. Each constructor's docstring names the rule of its row; the first 188
    are words of the streams and carry their header, the others are the events of agents and of the outside world. -/
inductive Instr
  /-- R138. -/
  | add (h : Hdr) (d a b : Reg)
  /-- R138. -/
  | sub (h : Hdr) (d a b : Reg)
  /-- R138. -/
  | and (h : Hdr) (d a b : Reg)
  /-- R138. -/
  | or (h : Hdr) (d a b : Reg)
  /-- R138. -/
  | xor (h : Hdr) (d a b : Reg)
  /-- R138. -/
  | shl (h : Hdr) (d a b : Reg)
  /-- R138. -/
  | shr (h : Hdr) (d a b : Reg)
  /-- R138. -/
  | sar (h : Hdr) (d a b : Reg)
  /-- R138. -/
  | mul (h : Hdr) (d a b : Reg)
  /-- R138. -/
  | mulhs (h : Hdr) (d a b : Reg)
  /-- R138. -/
  | mulhn (h : Hdr) (d a b : Reg)
  /-- R138. -/
  | divs (h : Hdr) (d a b : Reg)
  /-- R138. -/
  | divn (h : Hdr) (d a b : Reg)
  /-- R138. -/
  | rems (h : Hdr) (d a b : Reg)
  /-- R138. -/
  | remn (h : Hdr) (d a b : Reg)
  /-- R138. -/
  | min (h : Hdr) (d a b : Reg)
  /-- R138. -/
  | max (h : Hdr) (d a b : Reg)
  /-- R142. -/
  | sel (h : Hdr) (d a b : Reg)
  /-- R140. -/
  | addi (h : Hdr) (d a : Reg) (k : BitVec 5)
  /-- R140. -/
  | andi (h : Hdr) (d a : Reg) (k : BitVec 5)
  /-- R140. -/
  | ori (h : Hdr) (d a : Reg) (k : BitVec 5)
  /-- R140. -/
  | shli (h : Hdr) (d a : Reg) (k : BitVec 5)
  /-- R140. -/
  | shri (h : Hdr) (d a : Reg) (k : BitVec 5)
  /-- R140. -/
  | sari (h : Hdr) (d a : Reg) (k : BitVec 5)
  /-- R141. -/
  | limm (h : Hdr) (d : Reg) (hi : Bool) (lit : BitVec 32)
  /-- R144. -/
  | plog (h : Hdr) (op : BitVec 2) (pd pa pb : Pred)
  /-- R143. -/
  | cmpEq (h : Hdr) (pd : Pred) (a b : Reg)
  /-- R143. -/
  | cmpNe (h : Hdr) (pd : Pred) (a b : Reg)
  /-- R143. -/
  | cmpLt (h : Hdr) (pd : Pred) (a b : Reg)
  /-- R143. -/
  | cmpLe (h : Hdr) (pd : Pred) (a b : Reg)
  /-- R143. -/
  | cmpLo (h : Hdr) (pd : Pred) (a b : Reg)
  /-- R143. -/
  | cmpLs (h : Hdr) (pd : Pred) (a b : Reg)
  /-- R143. -/
  | cmpiEq (h : Hdr) (pd : Pred) (a : Reg) (k : BitVec 5)
  /-- R143. -/
  | cmpiNe (h : Hdr) (pd : Pred) (a : Reg) (k : BitVec 5)
  /-- R143. -/
  | cmpiLt (h : Hdr) (pd : Pred) (a : Reg) (k : BitVec 5)
  /-- R143. -/
  | cmpiLe (h : Hdr) (pd : Pred) (a : Reg) (k : BitVec 5)
  /-- R143. -/
  | cmpiLo (h : Hdr) (pd : Pred) (a : Reg) (k : BitVec 5)
  /-- R143. -/
  | cmpiLs (h : Hdr) (pd : Pred) (a : Reg) (k : BitVec 5)
  /-- R145. -/
  | br (h : Hdr) (f : BitVec 10)
  /-- R145. -/
  | brp (h : Hdr) (sense : Bool) (p : Pred) (f : BitVec 10)
  /-- R146. -/
  | jmp (h : Hdr) (a : Reg)
  /-- R146. -/
  | call (h : Hdr) (c : Reg) (f : BitVec 10)
  /-- R146. -/
  | ret (h : Hdr) (a : Reg)
  /-- R148. -/
  | loop (h : Hdr) (c : Reg) (f : BitVec 10)
  /-- R150. -/
  | lbr (h : Hdr) (f : BitVec 10)
  /-- R156. -/
  | getc (h : Hdr) (d : Reg) (r : BitVec 10)
  /-- R156. -/
  | setc (h : Hdr) (a : Reg) (r : BitVec 10)
  /-- R154. -/
  | tkrd (h : Hdr) (d : Reg) (dir : Dir)
  /-- R154. -/
  | tkwr (h : Hdr) (a : Reg) (dir : Dir)
  /-- R155. -/
  | cwait (h : Hdr) (ld st : BitVec 7) (cp : BitVec 8) (ts : BitVec 6)
  /-- R243. -/
  | ld (h : Hdr) (d a b : Reg) (m : MemLit)
  /-- R243. -/
  | st (h : Hdr) (d a b : Reg) (m : MemLit)
  /-- R166. -/
  | nop (h : Hdr)
  /-- R159. -/
  | trap (h : Hdr) (code : BitVec 10)
  /-- R160. -/
  | eret (h : Hdr)
  /-- R159. -/
  | bkpt (h : Hdr) (code : BitVec 10)
  /-- R161. -/
  | yield (h : Hdr)
  /-- R33. -/
  | tend (h : Hdr)
  /-- R162. -/
  | waita (h : Hdr) (a b : Reg) (cc : BitVec 3)
  /-- R163. -/
  | signal (h : Hdr) (d a b : Reg) (self : Bool)
  /-- R164. -/
  | lmode (h : Hdr) (exposed : Bool)
  /-- R165. -/
  | phase (h : Hdr) (n : BitVec 3)
  /-- R247. -/
  | mark (h : Hdr)
  /-- R247. -/
  | release (h : Hdr) (scope : BitVec 3)
  /-- R247. -/
  | acquire (h : Hdr) (scope : BitVec 3)
  /-- R241. -/
  | xlat (h : Hdr) (d a : Reg) (pd : Pred)
  /-- R242. -/
  | rprobe (h : Hdr) (d a b : Reg)
  /-- R249. -/
  | amo (h : Hdr) (d a b : Reg) (m : AtomLit)
  /-- R250. -/
  | red (h : Hdr) (d a b : Reg) (m : AtomLit)
  /-- R252. -/
  | cpq (h : Hdr) (d a b : Reg)
  /-- R252. -/
  | cptail (h : Hdr) (d a : Reg) (n : BitVec 8)
  /-- R252. -/
  | gath (h : Hdr) (d a b : Reg)
  /-- R252. -/
  | scat (h : Hdr) (d a b : Reg)
  /-- R261. -/
  | dgld (h : Hdr) (d a b : Reg) (ac : BitVec 2) (off : BitVec 21)
  /-- R262. -/
  | dgq (h : Hdr) (d a b : Reg) (ac : BitVec 2) (cpy : Bool) (l : Reg) (test : BitVec 4)
  /-- R263. -/
  | dgseal (h : Hdr) (a b : Reg) (ac : BitVec 2) (n : BitVec 12)
  /-- R251. -/
  | owng (h : Hdr) (a b : Reg) (cls : BitVec 3)
  /-- R251. -/
  | ownt (h : Hdr) (a b : Reg)
  /-- R251. -/
  | ownw (h : Hdr) (a b : Reg)
  /-- R264. -/
  | cflush (h : Hdr) (d a b : Reg) (ac : BitVec 2) (scope : BitVec 3)
  /-- R264. -/
  | cinv (h : Hdr) (d a b : Reg) (ac : BitVec 2) (scope : BitVec 3)
  /-- R265. -/
  | cway (h : Hdr) (d a b : Reg) (mode : Bool)
  /-- R317. -/
  | lpatch (h : Hdr) (d a b : Reg) (field : BitVec 5)
  /-- R317. -/
  | larm (h : Hdr) (d a : Reg)
  /-- R311. -/
  | qapp (h : Hdr) (d a b : Reg)
  /-- R337. -/
  | binit (h : Hdr) (d a : Reg) (lv : BitVec 2) (num : BitVec 8)
  /-- R338. -/
  | barv (h : Hdr) (d : Reg) (lv : BitVec 2) (num : BitVec 8)
  /-- R340. -/
  | bwait (h : Hdr) (d a : Reg) (lv : BitVec 2) (num : BitVec 8)
  /-- R365. -/
  | pmig (h : Hdr) (d a : Reg) (tier : BitVec 2)
  /-- R365. -/
  | pmigAbort (h : Hdr) (d a : Reg)
  /-- R366. -/
  | pheat (h : Hdr) (d a : Reg)
  /-- R351. -/
  | tinv (h : Hdr) (a b : Reg)
  /-- R351. -/
  | tinvAll (h : Hdr)
  /-- R371. -/
  | lstat (h : Hdr) (d a : Reg)
  /-- R172. -/
  | vadd (h : Hdr) (o : VOps)
  /-- R172. -/
  | vsub (h : Hdr) (o : VOps)
  /-- R172. -/
  | vmul (h : Hdr) (o : VOps)
  /-- R172. -/
  | vmulh (h : Hdr) (o : VOps)
  /-- R172. -/
  | vmin (h : Hdr) (o : VOps)
  /-- R172. -/
  | vmax (h : Hdr) (o : VOps)
  /-- R172. -/
  | vabs (h : Hdr) (o : VOps)
  /-- R172. -/
  | vneg (h : Hdr) (o : VOps)
  /-- R172. -/
  | vand (h : Hdr) (o : VOps)
  /-- R172. -/
  | vor (h : Hdr) (o : VOps)
  /-- R172. -/
  | vxor (h : Hdr) (o : VOps)
  /-- R172. -/
  | vshl (h : Hdr) (o : VOps)
  /-- R172. -/
  | vshr (h : Hdr) (o : VOps)
  /-- R172. -/
  | vsar (h : Hdr) (o : VOps)
  /-- R173. -/
  | vfadd (h : Hdr) (o : VOps)
  /-- R173. -/
  | vfsub (h : Hdr) (o : VOps)
  /-- R173. -/
  | vfmul (h : Hdr) (o : VOps)
  /-- R173. -/
  | vfma (h : Hdr) (o : VOps)
  /-- R173. -/
  | vfmin (h : Hdr) (o : VOps)
  /-- R173. -/
  | vfmax (h : Hdr) (o : VOps)
  /-- R173. -/
  | vfabs (h : Hdr) (o : VOps)
  /-- R173. -/
  | vfneg (h : Hdr) (o : VOps)
  /-- R174. -/
  | vcmpEq (h : Hdr) (o : VOps)
  /-- R174. -/
  | vcmpNe (h : Hdr) (o : VOps)
  /-- R174. -/
  | vcmpLt (h : Hdr) (o : VOps)
  /-- R174. -/
  | vcmpLe (h : Hdr) (o : VOps)
  /-- R174. -/
  | vcmpLo (h : Hdr) (o : VOps)
  /-- R174. -/
  | vcmpLs (h : Hdr) (o : VOps)
  /-- R174. -/
  | vfcmpEq (h : Hdr) (o : VOps)
  /-- R174. -/
  | vfcmpNe (h : Hdr) (o : VOps)
  /-- R174. -/
  | vfcmpLt (h : Hdr) (o : VOps)
  /-- R174. -/
  | vfcmpLe (h : Hdr) (o : VOps)
  /-- R175. -/
  | vsel (h : Hdr) (o : VOps)
  /-- R176. -/
  | vplogAnd (h : Hdr) (o : VOps)
  /-- R176. -/
  | vplogOr (h : Hdr) (o : VOps)
  /-- R176. -/
  | vplogXor (h : Hdr) (o : VOps)
  /-- R176. -/
  | vplogAndn (h : Hdr) (o : VOps)
  /-- R177. -/
  | vcvt (h : Hdr) (o : VOps)
  /-- R178. -/
  | vamax (h : Hdr) (o : VOps)
  /-- R179. -/
  | vqcvt (h : Hdr) (o : VOps)
  /-- R180. -/
  | vexp2 (h : Hdr) (o : VOps)
  /-- R180. -/
  | vlog2 (h : Hdr) (o : VOps)
  /-- R180. -/
  | vrcp (h : Hdr) (o : VOps)
  /-- R180. -/
  | vrsqrt (h : Hdr) (o : VOps)
  /-- R181. -/
  | vredadd (h : Hdr) (o : VOps)
  /-- R181. -/
  | vredmax (h : Hdr) (o : VOps)
  /-- R181. -/
  | vredmin (h : Hdr) (o : VOps)
  /-- R182. -/
  | vperm (h : Hdr) (o : VOps)
  /-- R182. -/
  | vbcast (h : Hdr) (o : VOps)
  /-- R182. -/
  | vbcastScalar (h : Hdr) (o : VOps)
  /-- R182. -/
  | vslide (h : Hdr) (o : VOps)
  /-- R183. -/
  | vbext (h : Hdr) (o : VOps)
  /-- R183. -/
  | vfunnel (h : Hdr) (o : VOps)
  /-- R183. -/
  | vpopc (h : Hdr) (o : VOps)
  /-- R183. -/
  | vclz (h : Hdr) (o : VOps)
  /-- R184. -/
  | vmov (h : Hdr) (o : VOps)
  /-- R184. -/
  | vmovMaskToV (h : Hdr) (o : VOps)
  /-- R184. -/
  | vmovMaskToP (h : Hdr) (o : VOps)
  /-- R184. -/
  | vgets (h : Hdr) (o : VOps)
  /-- R184. -/
  | vsets (h : Hdr) (o : VOps)
  /-- R186. -/
  | vld (h : Hdr) (o : VOps)
  /-- R187. -/
  | vldx (h : Hdr) (o : VOps)
  /-- R186. -/
  | vst (h : Hdr) (o : VOps)
  /-- R187. -/
  | vstx (h : Hdr) (o : VOps)
  /-- R186. -/
  | vldg (h : Hdr) (o : VOps)
  /-- R186. -/
  | vstg (h : Hdr) (o : VOps)
  /-- R192. -/
  | vbadd (h : Hdr) (o : VOps)
  /-- R192. -/
  | vbmul (h : Hdr) (o : VOps)
  /-- R192. -/
  | vbmax (h : Hdr) (o : VOps)
  /-- R193. -/
  | vaccept (h : Hdr) (o : VOps)
  /-- R210. -/
  | mma (h : Hdr) (o : MOps)
  /-- R211. -/
  | mms (h : Hdr) (o : MOps)
  /-- R212. -/
  | mzero (h : Hdr) (o : MOps)
  /-- R212. -/
  | mstore (h : Hdr) (o : MOps)
  /-- R212. -/
  | mload (h : Hdr) (o : MOps)
  /-- R217. -/
  | mwldWindow (h : Hdr) (td : BitVec 8) (w : BitVec 4) (wb : Bool) (noff : BitVec 16)
  /-- R217. -/
  | mwldRange (h : Hdr) (td : BitVec 8) (rows : BitVec 11) (wb : Bool) (koff noff : BitVec 16)
  /-- R218. -/
  | mwswap (h : Hdr) (wb : Bool)
  /-- R214. -/
  | mnset (h : Hdr) (level : BitVec 3) (a b : Reg)
  /-- R215. -/
  | mgo (h : Hdr) (levels klevel : BitVec 3) (tmpl : Option MOps)
  /-- R200. -/
  | tdset (h : Hdr) (td : BitVec 8) (a : Reg)
  /-- R200. -/
  | tdget (h : Hdr) (td : BitVec 8) (a : Reg)
  /-- R202. -/
  | twin (h : Hdr) (td : BitVec 8) (w : BitVec 4) (a b : Reg) (lv : BitVec 2)
  /-- R202. -/
  | twinGet (h : Hdr) (w : BitVec 4) (a b : Reg)
  /-- R203. -/
  | tcut (h : Hdr) (td : BitVec 8) (w : BitVec 4) (budget : BitVec 12) (level : BitVec 2) (span : BitVec 10)
  /-- R205. -/
  | tcocut (h : Hdr) (td : BitVec 8) (w l : BitVec 4) (dim : BitVec 2)
  /-- R208. -/
  | tmerge (h : Hdr) (wd wa wb : BitVec 4) (mode : Bool) (otd : BitVec 8)
  /-- R206. -/
  | tnext (h : Hdr) (w : BitVec 4)
  /-- R233. -/
  | xprog (h : Hdr) (pair : BitVec 3) (a b : Reg) (csel : BitVec 8)
  /-- R234. -/
  | xverify (h : Hdr) (pair : BitVec 3) (a : Reg) (tol : BitVec 4) (csel : BitVec 8)
  /-- R235. -/
  | xcal (h : Hdr) (xb : BitVec 4) (csel : BitVec 8)
  /-- R229. -/
  | xmvm (h : Hdr) (pair : BitVec 3) (d : BitVec 10) (a b : Reg) (p : BitVec 3) (sgn : Bool) (rm : BitVec 2) (csel : BitVec 8)
  /-- R237. -/
  | xstat (h : Hdr) (xb : BitVec 4) (d : Reg) (field : BitVec 4) (col : BitVec 9)
  /-- R236. -/
  | xerase (h : Hdr) (xb : BitVec 4) (csel : BitVec 8)
  /-- R32. -/
  | taskLevelAction (core : CoreId)
  /-- R38. -/
  | waitEvaluate (core : CoreId) (slot : BitVec 6)
  /-- R38. -/
  | continuationSaveDone (core : CoreId)
  /-- R39. -/
  | waitHoldRelease (core : CoreId)
  /-- R30. -/
  | taskStart (core : CoreId)
  /-- R36. -/
  | continuationStart (core : CoreId)
  /-- R85. -/
  | phaseSplitChange (core : CoreId)
  /-- R50. -/
  | lmodeSwitch (core : CoreId) (c : Cluster)
  /-- R53. -/
  | watchdog (core : CoreId) (c : Cluster)
  /-- R298. -/
  | handlerEntry (core : CoreId)
  /-- R304. -/
  | debugHalt (core : CoreId) (c : Cluster)
  /-- R304. -/
  | debugResume (core : CoreId)
  /-- R304. -/
  | debugWindowAccess (write : Bool) (off : BitVec 24) (val : BitVec 64)
  /-- R245. -/
  | loadReturn (core : CoreId) (c : Cluster)
  /-- R189. -/
  | vldgReturn (core : CoreId)
  /-- R90. -/
  | releaseDone (core : CoreId) (c : Cluster)
  /-- R90. -/
  | acquireDone (core : CoreId) (c : Cluster)
  /-- R107. -/
  | homeWrite (die : BitVec 3) (line : Nat)
  /-- R410. -/
  | homeRead (line : Nat)
  /-- R249. -/
  | atomicPerform (core : CoreId) (c : Cluster)
  /-- R250. -/
  | reductionPerform (core : CoreId) (c : Cluster)
  /-- R106. -/
  | dgsealEntry (core : CoreId) (c : Cluster)
  /-- R375. -/
  | backInvalidate (line : Nat)
  /-- R385. -/
  | patrolVisit (line : Nat)
  /-- R163. -/
  | signalDeliver (core : CoreId) (c : Cluster)
  /-- R194. -/
  | tileStepExecute (core : CoreId)
  /-- R213. -/
  | tileStepComplete (core : CoreId)
  /-- R220. -/
  | jointStepExecute (quad : BitVec 6)
  /-- R215. -/
  | nestStepPlace (core : CoreId)
  /-- R217. -/
  | weightFillStart (core : CoreId)
  /-- R217. -/
  | weightFillComplete (core : CoreId)
  /-- R225. -/
  | xbarOpStart (core : CoreId) (pair : BitVec 3)
  /-- R229. -/
  | xmvmComplete (core : CoreId) (pair : BitVec 3)
  /-- R233. -/
  | xprogComplete (core : CoreId) (pair : BitVec 3)
  /-- R234. -/
  | xverifyComplete (core : CoreId) (pair : BitVec 3)
  /-- R235. -/
  | xcalComplete (core : CoreId) (pair : BitVec 3)
  /-- R236. -/
  | xeraseComplete (core : CoreId) (pair : BitVec 3)
  /-- R237. -/
  | xstatComplete (core : CoreId) (pair : BitVec 3)
  /-- R255. -/
  | copyEntryStart (core : CoreId)
  /-- R257. -/
  | copyEntryComplete (core : CoreId) (seq : Nat)
  /-- R251. -/
  | owntReturn (core : CoreId)
  /-- R335. -/
  | barrierArrival (src : ArrivalSrc)
  /-- R337. -/
  | binitPerform (core : CoreId) (c : Cluster)
  /-- R28. -/
  | superstepRelease (launch : Nat)
  /-- R322. -/
  | dispatchChoice
  /-- R330. -/
  | groupDone (quad : BitVec 6)
  /-- R330. -/
  | groupQuadFree (quad : BitVec 6)
  /-- R319. -/
  | kernelRetire (launch : Nat)
  /-- R288. -/
  | ctxLoad (ctx : CtxId) (daddr : BitVec 52)
  /-- R289. -/
  | ctxPreempt (ctx : CtxId)
  /-- R295. -/
  | ctxRestore (ctx : CtxId)
  /-- R305. -/
  | ctxSeal (ctx : CtxId)
  /-- R289. -/
  | contextLoadDone (ctx : CtxId)
  /-- R291. -/
  | contextSaveStart (ctx : CtxId)
  /-- R289. -/
  | contextSaveDone (ctx : CtxId)
  /-- R290. -/
  | contextRestoreStart (ctx : CtxId)
  /-- R295. -/
  | contextRestoreDone (ctx : CtxId)
  /-- R305. -/
  | contextSealDone (ctx : CtxId)
  /-- R347. -/
  | pageWalk (core : CoreId) (vpage : BitVec 27)
  /-- R347. -/
  | walkComplete (core : CoreId) (vpage : BitVec 27)
  /-- R302. -/
  | frtailWrite (ctx : CtxId) (val : BitVec 32)
  /-- R301. -/
  | fqtailWrite (ctx : CtxId) (val : BitVec 32)
  /-- R352. -/
  | tinvRange (asid : BitVec 16) (gen : BitVec 8)
  /-- R352. -/
  | tinvAsidGen (asid : BitVec 16) (gen : BitVec 8)
  /-- R352. -/
  | tinvAsidAllGen (asid : BitVec 16)
  /-- R352. -/
  | tinvcmdReserved
  /-- R310. -/
  | queueEnable (q : QueueId) (cfg : BitVec 64)
  /-- R310. -/
  | queueDrain (q : QueueId)
  /-- R310. -/
  | queueTailWrite (q : QueueId) (val : BitVec 32)
  /-- R308. -/
  | queueHandEntry (q : QueueId)
  /-- R309. -/
  | queueEntryRetire (q : QueueId) (entry : BitVec 32)
  /-- R318. -/
  | recArm (ctx : CtxId) (rec : BitVec 16)
  /-- R318. -/
  | recBlank (ctx : CtxId) (rec : BitVec 16)
  /-- R318. -/
  | recQuery (ctx : CtxId) (rec : BitVec 16)
  /-- R318. -/
  | reccmdReserved
  /-- R312. -/
  | rpoolWrite (ctx : CtxId) (val : BitVec 64)
  /-- R334. -/
  | bcfgWrite (dev : Bool) (num : BitVec 9) (val : BitVec 64)
  /-- R101. -/
  | dictLoad (slot : BitVec 6) (addr : BitVec 52)
  /-- R101. -/
  | dictLoadDone (slot : BitVec 6)
  /-- R101. -/
  | dictRetire (slot : BitVec 6)
  /-- R101. -/
  | dictPin (slot : BitVec 6)
  /-- R101. -/
  | dictUnpin (slot : BitVec 6)
  /-- R354. -/
  | frameMap (frame : FrameId) (loc : BitVec 31) (ilv : BitVec 3)
  /-- R354. -/
  | frameUnmap (frame : FrameId)
  /-- R354. -/
  | frameMigrate (frame : FrameId) (loc : BitVec 31)
  /-- R354. -/
  | frameAbort (frame : FrameId)
  /-- R362. -/
  | migrationLineCopy (frame : FrameId)
  /-- R282. -/
  | migrationCommit (frame : FrameId)
  /-- R361. -/
  | migrationCommitDone (frame : FrameId)
  /-- R361. -/
  | migrationParkTimeout (frame : FrameId)
  /-- R363. -/
  | hotDecay
  /-- R353. -/
  | fltlimWrite (val : BitVec 64)
  /-- R93. -/
  | wayFlushDone (slice way : BitVec 4)
  /-- R93. -/
  | wayZeroDone (slice way : BitVec 4)
  /-- R95. -/
  | rdemoteWrite (slice : BitVec 4) (chain : BitVec 8)
  /-- R95. -/
  | demotionDone (slice : BitVec 4)
  /-- R20. -/
  | powerSample (watts : Nat) (maxTemp : Nat)
  /-- R20. -/
  | stepChangeDone
  /-- R20. -/
  | powerCapWrite (watts : Nat)
  /-- R23. -/
  | powerOvercapAlarm
  /-- R23. -/
  | thermalTrip
  /-- R370. -/
  | linkTrain (link : BitVec 5)
  /-- R370. -/
  | linkDown (link : BitVec 5)
  /-- R370. -/
  | linkRelease (link : BitVec 5)
  /-- R369. -/
  | linkTrained (link : BitVec 5) (lanes : BitVec 5) (full : Bool) (peer : BitVec 10)
  /-- R369. -/
  | linkTrainTimeout (link : BitVec 5)
  /-- R369. -/
  | linkLanesLost (link : BitVec 5) (left : BitVec 5)
  /-- R369. -/
  | linkErrorWindow (link : BitVec 5) (errors : BitVec 16)
  /-- R376. -/
  | salmusFlitReceive (link : BitVec 5) (crcOk : Bool) (req : RemoteReq)
  /-- R378. -/
  | remoteElementServe (req : RemoteReq)
  /-- R372. -/
  | bar2Read (off : BitVec 36) (n : BitVec 4)
  /-- R372. -/
  | bar2Write (off : BitVec 36) (data : List (BitVec 8))
  /-- R384. -/
  | kdActivate (kd : BitVec 8)
  /-- R384. -/
  | kdRotate (kd : BitVec 8)
  /-- R384. -/
  | kdRetire (kd : BitVec 8)
  /-- R384. -/
  | kdFree (kd : BitVec 8)
  /-- R386. -/
  | turnover (ctxMask : BitVec 64) (kdMask : BitVec 256) (nonce : BitVec 256) (fail : Option (BitVec 4))
  /-- R388. -/
  | measureExtend (slot : BitVec 4) (digest : BitVec 256)
  /-- R389. -/
  | quoteSign (nonce : BitVec 256)
  /-- R367. -/
  | remapTableError (stack : BitVec 4) (channel : BitVec 5) (copyOk : Bool)
  /-- R367. -/
  | remapTableReloadDone (stack : BitVec 4) (channel : BitVec 5)
  /-- R368. -/
  | refreshPostponed (stack : BitVec 4)
  /-- R390. -/
  | coldReset
  /-- R390. -/
  | functionLevelReset
  /-- R7. -/
  | registerWrite (reg : RegName) (val : BitVec 128)
  /-- R306. -/
  | qbaseWrite (q : QueueId) (cfg : Bool) (val : BitVec 64)
  /-- R367. -/
  | rowRemapTableWrite (stack : BitVec 4) (channel : BitVec 5) (row : BitVec 16) (spare : BitVec 16)
  deriving DecidableEq, Repr

end Sys2Proof
end

