-- ==== Sys2Proof/WellFormed.lean ====
section
/-! DEFINITION. Which terms of Instr are words of a stream: the header, the stream, and the bits that tell variants of one
    opcode apart. The checks of R131 on operands are in Machine/Check.lean. -/

namespace Sys2Proof

/-- A word with E = 1, G = 0 and N = 1 is malformed (R117). -/
def Hdr.ok (h : Hdr) : Bool := !(h.e && h.g == 0 && h.n)

/-- The majors whose forms take a literal word (R115). -/
def isTwoWord (major : Nat) : Bool := major == 24 || major == 49 || major == 50 || major == 51 || major == 62 || major == 63

/-- The header of a word; an event has none (R116). -/
def Instr.hdr? : Instr → Option Hdr
  | .add h _ _ _ => some h
  | .sub h _ _ _ => some h
  | .and h _ _ _ => some h
  | .or h _ _ _ => some h
  | .xor h _ _ _ => some h
  | .shl h _ _ _ => some h
  | .shr h _ _ _ => some h
  | .sar h _ _ _ => some h
  | .mul h _ _ _ => some h
  | .mulhs h _ _ _ => some h
  | .mulhn h _ _ _ => some h
  | .divs h _ _ _ => some h
  | .divn h _ _ _ => some h
  | .rems h _ _ _ => some h
  | .remn h _ _ _ => some h
  | .min h _ _ _ => some h
  | .max h _ _ _ => some h
  | .sel h _ _ _ => some h
  | .addi h _ _ _ => some h
  | .andi h _ _ _ => some h
  | .ori h _ _ _ => some h
  | .shli h _ _ _ => some h
  | .shri h _ _ _ => some h
  | .sari h _ _ _ => some h
  | .limm h _ _ _ => some h
  | .plog h _ _ _ _ => some h
  | .cmpEq h _ _ _ => some h
  | .cmpNe h _ _ _ => some h
  | .cmpLt h _ _ _ => some h
  | .cmpLe h _ _ _ => some h
  | .cmpLo h _ _ _ => some h
  | .cmpLs h _ _ _ => some h
  | .cmpiEq h _ _ _ => some h
  | .cmpiNe h _ _ _ => some h
  | .cmpiLt h _ _ _ => some h
  | .cmpiLe h _ _ _ => some h
  | .cmpiLo h _ _ _ => some h
  | .cmpiLs h _ _ _ => some h
  | .br h _ => some h
  | .brp h _ _ _ => some h
  | .jmp h _ => some h
  | .call h _ _ => some h
  | .ret h _ => some h
  | .loop h _ _ => some h
  | .lbr h _ => some h
  | .getc h _ _ => some h
  | .setc h _ _ => some h
  | .tkrd h _ _ => some h
  | .tkwr h _ _ => some h
  | .cwait h _ _ _ _ => some h
  | .ld h _ _ _ _ => some h
  | .st h _ _ _ _ => some h
  | .nop h => some h
  | .trap h _ => some h
  | .eret h => some h
  | .bkpt h _ => some h
  | .yield h => some h
  | .tend h => some h
  | .waita h _ _ _ => some h
  | .signal h _ _ _ _ => some h
  | .lmode h _ => some h
  | .phase h _ => some h
  | .mark h => some h
  | .release h _ => some h
  | .acquire h _ => some h
  | .xlat h _ _ _ => some h
  | .rprobe h _ _ _ => some h
  | .amo h _ _ _ _ => some h
  | .red h _ _ _ _ => some h
  | .cpq h _ _ _ => some h
  | .cptail h _ _ _ => some h
  | .gath h _ _ _ => some h
  | .scat h _ _ _ => some h
  | .dgld h _ _ _ _ _ => some h
  | .dgq h _ _ _ _ _ _ _ => some h
  | .dgseal h _ _ _ _ => some h
  | .owng h _ _ _ => some h
  | .ownt h _ _ => some h
  | .ownw h _ _ => some h
  | .cflush h _ _ _ _ _ => some h
  | .cinv h _ _ _ _ _ => some h
  | .cway h _ _ _ _ => some h
  | .lpatch h _ _ _ _ => some h
  | .larm h _ _ => some h
  | .qapp h _ _ _ => some h
  | .binit h _ _ _ _ => some h
  | .barv h _ _ _ => some h
  | .bwait h _ _ _ _ => some h
  | .pmig h _ _ _ => some h
  | .pmigAbort h _ _ => some h
  | .pheat h _ _ => some h
  | .tinv h _ _ => some h
  | .tinvAll h => some h
  | .lstat h _ _ => some h
  | .vadd h _ => some h
  | .vsub h _ => some h
  | .vmul h _ => some h
  | .vmulh h _ => some h
  | .vmin h _ => some h
  | .vmax h _ => some h
  | .vabs h _ => some h
  | .vneg h _ => some h
  | .vand h _ => some h
  | .vor h _ => some h
  | .vxor h _ => some h
  | .vshl h _ => some h
  | .vshr h _ => some h
  | .vsar h _ => some h
  | .vfadd h _ => some h
  | .vfsub h _ => some h
  | .vfmul h _ => some h
  | .vfma h _ => some h
  | .vfmin h _ => some h
  | .vfmax h _ => some h
  | .vfabs h _ => some h
  | .vfneg h _ => some h
  | .vcmpEq h _ => some h
  | .vcmpNe h _ => some h
  | .vcmpLt h _ => some h
  | .vcmpLe h _ => some h
  | .vcmpLo h _ => some h
  | .vcmpLs h _ => some h
  | .vfcmpEq h _ => some h
  | .vfcmpNe h _ => some h
  | .vfcmpLt h _ => some h
  | .vfcmpLe h _ => some h
  | .vsel h _ => some h
  | .vplogAnd h _ => some h
  | .vplogOr h _ => some h
  | .vplogXor h _ => some h
  | .vplogAndn h _ => some h
  | .vcvt h _ => some h
  | .vamax h _ => some h
  | .vqcvt h _ => some h
  | .vexp2 h _ => some h
  | .vlog2 h _ => some h
  | .vrcp h _ => some h
  | .vrsqrt h _ => some h
  | .vredadd h _ => some h
  | .vredmax h _ => some h
  | .vredmin h _ => some h
  | .vperm h _ => some h
  | .vbcast h _ => some h
  | .vbcastScalar h _ => some h
  | .vslide h _ => some h
  | .vbext h _ => some h
  | .vfunnel h _ => some h
  | .vpopc h _ => some h
  | .vclz h _ => some h
  | .vmov h _ => some h
  | .vmovMaskToV h _ => some h
  | .vmovMaskToP h _ => some h
  | .vgets h _ => some h
  | .vsets h _ => some h
  | .vld h _ => some h
  | .vldx h _ => some h
  | .vst h _ => some h
  | .vstx h _ => some h
  | .vldg h _ => some h
  | .vstg h _ => some h
  | .vbadd h _ => some h
  | .vbmul h _ => some h
  | .vbmax h _ => some h
  | .vaccept h _ => some h
  | .mma h _ => some h
  | .mms h _ => some h
  | .mzero h _ => some h
  | .mstore h _ => some h
  | .mload h _ => some h
  | .mwldWindow h _ _ _ _ => some h
  | .mwldRange h _ _ _ _ _ => some h
  | .mwswap h _ => some h
  | .mnset h _ _ _ => some h
  | .mgo h _ _ _ => some h
  | .tdset h _ _ => some h
  | .tdget h _ _ => some h
  | .twin h _ _ _ _ _ => some h
  | .twinGet h _ _ _ => some h
  | .tcut h _ _ _ _ _ => some h
  | .tcocut h _ _ _ _ => some h
  | .tmerge h _ _ _ _ _ => some h
  | .tnext h _ => some h
  | .xprog h _ _ _ _ => some h
  | .xverify h _ _ _ _ => some h
  | .xcal h _ _ => some h
  | .xmvm h _ _ _ _ _ _ _ _ => some h
  | .xstat h _ _ _ _ => some h
  | .xerase h _ _ => some h
  | _ => none
/-- What kind of word a constructor is (R121, R133, R134), or an event of another agent. -/
inductive Kind | scalar | vector | tensor | event
  deriving DecidableEq, Repr

/-- The kind of an instruction. -/
def Instr.kind : Instr → Kind
  | .add _ _ _ _ => .scalar
  | .sub _ _ _ _ => .scalar
  | .and _ _ _ _ => .scalar
  | .or _ _ _ _ => .scalar
  | .xor _ _ _ _ => .scalar
  | .shl _ _ _ _ => .scalar
  | .shr _ _ _ _ => .scalar
  | .sar _ _ _ _ => .scalar
  | .mul _ _ _ _ => .scalar
  | .mulhs _ _ _ _ => .scalar
  | .mulhn _ _ _ _ => .scalar
  | .divs _ _ _ _ => .scalar
  | .divn _ _ _ _ => .scalar
  | .rems _ _ _ _ => .scalar
  | .remn _ _ _ _ => .scalar
  | .min _ _ _ _ => .scalar
  | .max _ _ _ _ => .scalar
  | .sel _ _ _ _ => .scalar
  | .addi _ _ _ _ => .scalar
  | .andi _ _ _ _ => .scalar
  | .ori _ _ _ _ => .scalar
  | .shli _ _ _ _ => .scalar
  | .shri _ _ _ _ => .scalar
  | .sari _ _ _ _ => .scalar
  | .limm _ _ _ _ => .scalar
  | .plog _ _ _ _ _ => .scalar
  | .cmpEq _ _ _ _ => .scalar
  | .cmpNe _ _ _ _ => .scalar
  | .cmpLt _ _ _ _ => .scalar
  | .cmpLe _ _ _ _ => .scalar
  | .cmpLo _ _ _ _ => .scalar
  | .cmpLs _ _ _ _ => .scalar
  | .cmpiEq _ _ _ _ => .scalar
  | .cmpiNe _ _ _ _ => .scalar
  | .cmpiLt _ _ _ _ => .scalar
  | .cmpiLe _ _ _ _ => .scalar
  | .cmpiLo _ _ _ _ => .scalar
  | .cmpiLs _ _ _ _ => .scalar
  | .br _ _ => .scalar
  | .brp _ _ _ _ => .scalar
  | .jmp _ _ => .scalar
  | .call _ _ _ => .scalar
  | .ret _ _ => .scalar
  | .loop _ _ _ => .scalar
  | .lbr _ _ => .scalar
  | .getc _ _ _ => .scalar
  | .setc _ _ _ => .scalar
  | .tkrd _ _ _ => .scalar
  | .tkwr _ _ _ => .scalar
  | .cwait _ _ _ _ _ => .scalar
  | .ld _ _ _ _ _ => .scalar
  | .st _ _ _ _ _ => .scalar
  | .nop _ => .scalar
  | .trap _ _ => .scalar
  | .eret _ => .scalar
  | .bkpt _ _ => .scalar
  | .yield _ => .scalar
  | .tend _ => .scalar
  | .waita _ _ _ _ => .scalar
  | .signal _ _ _ _ _ => .scalar
  | .lmode _ _ => .scalar
  | .phase _ _ => .scalar
  | .mark _ => .scalar
  | .release _ _ => .scalar
  | .acquire _ _ => .scalar
  | .xlat _ _ _ _ => .scalar
  | .rprobe _ _ _ _ => .scalar
  | .amo _ _ _ _ _ => .scalar
  | .red _ _ _ _ _ => .scalar
  | .cpq _ _ _ _ => .scalar
  | .cptail _ _ _ _ => .scalar
  | .gath _ _ _ _ => .scalar
  | .scat _ _ _ _ => .scalar
  | .dgld _ _ _ _ _ _ => .scalar
  | .dgq _ _ _ _ _ _ _ _ => .scalar
  | .dgseal _ _ _ _ _ => .scalar
  | .owng _ _ _ _ => .scalar
  | .ownt _ _ _ => .scalar
  | .ownw _ _ _ => .scalar
  | .cflush _ _ _ _ _ _ => .scalar
  | .cinv _ _ _ _ _ _ => .scalar
  | .cway _ _ _ _ _ => .scalar
  | .lpatch _ _ _ _ _ => .scalar
  | .larm _ _ _ => .scalar
  | .qapp _ _ _ _ => .scalar
  | .binit _ _ _ _ _ => .scalar
  | .barv _ _ _ _ => .scalar
  | .bwait _ _ _ _ _ => .scalar
  | .pmig _ _ _ _ => .scalar
  | .pmigAbort _ _ _ => .scalar
  | .pheat _ _ _ => .scalar
  | .tinv _ _ _ => .scalar
  | .tinvAll _ => .scalar
  | .lstat _ _ _ => .scalar
  | .vadd _ _ => .vector
  | .vsub _ _ => .vector
  | .vmul _ _ => .vector
  | .vmulh _ _ => .vector
  | .vmin _ _ => .vector
  | .vmax _ _ => .vector
  | .vabs _ _ => .vector
  | .vneg _ _ => .vector
  | .vand _ _ => .vector
  | .vor _ _ => .vector
  | .vxor _ _ => .vector
  | .vshl _ _ => .vector
  | .vshr _ _ => .vector
  | .vsar _ _ => .vector
  | .vfadd _ _ => .vector
  | .vfsub _ _ => .vector
  | .vfmul _ _ => .vector
  | .vfma _ _ => .vector
  | .vfmin _ _ => .vector
  | .vfmax _ _ => .vector
  | .vfabs _ _ => .vector
  | .vfneg _ _ => .vector
  | .vcmpEq _ _ => .vector
  | .vcmpNe _ _ => .vector
  | .vcmpLt _ _ => .vector
  | .vcmpLe _ _ => .vector
  | .vcmpLo _ _ => .vector
  | .vcmpLs _ _ => .vector
  | .vfcmpEq _ _ => .vector
  | .vfcmpNe _ _ => .vector
  | .vfcmpLt _ _ => .vector
  | .vfcmpLe _ _ => .vector
  | .vsel _ _ => .vector
  | .vplogAnd _ _ => .vector
  | .vplogOr _ _ => .vector
  | .vplogXor _ _ => .vector
  | .vplogAndn _ _ => .vector
  | .vcvt _ _ => .vector
  | .vamax _ _ => .vector
  | .vqcvt _ _ => .vector
  | .vexp2 _ _ => .vector
  | .vlog2 _ _ => .vector
  | .vrcp _ _ => .vector
  | .vrsqrt _ _ => .vector
  | .vredadd _ _ => .vector
  | .vredmax _ _ => .vector
  | .vredmin _ _ => .vector
  | .vperm _ _ => .vector
  | .vbcast _ _ => .vector
  | .vbcastScalar _ _ => .vector
  | .vslide _ _ => .vector
  | .vbext _ _ => .vector
  | .vfunnel _ _ => .vector
  | .vpopc _ _ => .vector
  | .vclz _ _ => .vector
  | .vmov _ _ => .vector
  | .vmovMaskToV _ _ => .vector
  | .vmovMaskToP _ _ => .vector
  | .vgets _ _ => .vector
  | .vsets _ _ => .vector
  | .vld _ _ => .vector
  | .vldx _ _ => .vector
  | .vst _ _ => .vector
  | .vstx _ _ => .vector
  | .vldg _ _ => .vector
  | .vstg _ _ => .vector
  | .vbadd _ _ => .vector
  | .vbmul _ _ => .vector
  | .vbmax _ _ => .vector
  | .vaccept _ _ => .vector
  | .mma _ _ => .tensor
  | .mms _ _ => .tensor
  | .mzero _ _ => .tensor
  | .mstore _ _ => .tensor
  | .mload _ _ => .tensor
  | .mwldWindow _ _ _ _ _ => .tensor
  | .mwldRange _ _ _ _ _ _ => .tensor
  | .mwswap _ _ => .tensor
  | .mnset _ _ _ _ => .tensor
  | .mgo _ _ _ _ => .tensor
  | .tdset _ _ _ => .tensor
  | .tdget _ _ _ => .tensor
  | .twin _ _ _ _ _ _ => .tensor
  | .twinGet _ _ _ _ => .tensor
  | .tcut _ _ _ _ _ _ => .tensor
  | .tcocut _ _ _ _ _ => .tensor
  | .tmerge _ _ _ _ _ _ => .tensor
  | .tnext _ _ => .tensor
  | .xprog _ _ _ _ _ => .tensor
  | .xverify _ _ _ _ _ => .tensor
  | .xcal _ _ _ => .tensor
  | .xmvm _ _ _ _ _ _ _ _ _ => .tensor
  | .xstat _ _ _ _ _ => .tensor
  | .xerase _ _ _ => .tensor
  | .taskLevelAction _ => .event
  | .waitEvaluate _ _ => .event
  | .continuationSaveDone _ => .event
  | .waitHoldRelease _ => .event
  | .taskStart _ => .event
  | .continuationStart _ => .event
  | .phaseSplitChange _ => .event
  | .lmodeSwitch _ _ => .event
  | .watchdog _ _ => .event
  | .handlerEntry _ => .event
  | .debugHalt _ _ => .event
  | .debugResume _ => .event
  | .debugWindowAccess _ _ _ => .event
  | .loadReturn _ _ => .event
  | .vldgReturn _ => .event
  | .releaseDone _ _ => .event
  | .acquireDone _ _ => .event
  | .homeWrite _ _ => .event
  | .homeRead _ => .event
  | .atomicPerform _ _ => .event
  | .reductionPerform _ _ => .event
  | .dgsealEntry _ _ => .event
  | .backInvalidate _ => .event
  | .patrolVisit _ => .event
  | .signalDeliver _ _ => .event
  | .tileStepExecute _ => .event
  | .tileStepComplete _ => .event
  | .jointStepExecute _ => .event
  | .nestStepPlace _ => .event
  | .weightFillStart _ => .event
  | .weightFillComplete _ => .event
  | .xbarOpStart _ _ => .event
  | .xmvmComplete _ _ => .event
  | .xprogComplete _ _ => .event
  | .xverifyComplete _ _ => .event
  | .xcalComplete _ _ => .event
  | .xeraseComplete _ _ => .event
  | .xstatComplete _ _ => .event
  | .copyEntryStart _ => .event
  | .copyEntryComplete _ _ => .event
  | .owntReturn _ => .event
  | .barrierArrival _ => .event
  | .binitPerform _ _ => .event
  | .superstepRelease _ => .event
  | .dispatchChoice => .event
  | .groupDone _ => .event
  | .groupQuadFree _ => .event
  | .kernelRetire _ => .event
  | .ctxLoad _ _ => .event
  | .ctxPreempt _ => .event
  | .ctxRestore _ => .event
  | .ctxSeal _ => .event
  | .contextLoadDone _ => .event
  | .contextSaveStart _ => .event
  | .contextSaveDone _ => .event
  | .contextRestoreStart _ => .event
  | .contextRestoreDone _ => .event
  | .contextSealDone _ => .event
  | .pageWalk _ _ => .event
  | .walkComplete _ _ => .event
  | .frtailWrite _ _ => .event
  | .fqtailWrite _ _ => .event
  | .tinvRange _ _ => .event
  | .tinvAsidGen _ _ => .event
  | .tinvAsidAllGen _ => .event
  | .tinvcmdReserved => .event
  | .queueEnable _ _ => .event
  | .queueDrain _ => .event
  | .queueTailWrite _ _ => .event
  | .queueHandEntry _ => .event
  | .queueEntryRetire _ _ => .event
  | .recArm _ _ => .event
  | .recBlank _ _ => .event
  | .recQuery _ _ => .event
  | .reccmdReserved => .event
  | .rpoolWrite _ _ => .event
  | .bcfgWrite _ _ _ => .event
  | .dictLoad _ _ => .event
  | .dictLoadDone _ => .event
  | .dictRetire _ => .event
  | .dictPin _ => .event
  | .dictUnpin _ => .event
  | .frameMap _ _ _ => .event
  | .frameUnmap _ => .event
  | .frameMigrate _ _ => .event
  | .frameAbort _ => .event
  | .migrationLineCopy _ => .event
  | .migrationCommit _ => .event
  | .migrationCommitDone _ => .event
  | .migrationParkTimeout _ => .event
  | .hotDecay => .event
  | .fltlimWrite _ => .event
  | .wayFlushDone _ _ => .event
  | .wayZeroDone _ _ => .event
  | .rdemoteWrite _ _ => .event
  | .demotionDone _ => .event
  | .powerSample _ _ => .event
  | .stepChangeDone => .event
  | .powerCapWrite _ => .event
  | .powerOvercapAlarm => .event
  | .thermalTrip => .event
  | .linkTrain _ => .event
  | .linkDown _ => .event
  | .linkRelease _ => .event
  | .linkTrained _ _ _ _ => .event
  | .linkTrainTimeout _ => .event
  | .linkLanesLost _ _ => .event
  | .linkErrorWindow _ _ => .event
  | .salmusFlitReceive _ _ _ => .event
  | .remoteElementServe _ => .event
  | .bar2Read _ _ => .event
  | .bar2Write _ _ => .event
  | .kdActivate _ => .event
  | .kdRotate _ => .event
  | .kdRetire _ => .event
  | .kdFree _ => .event
  | .turnover _ _ _ _ => .event
  | .measureExtend _ _ => .event
  | .quoteSign _ => .event
  | .remapTableError _ _ _ => .event
  | .remapTableReloadDone _ _ => .event
  | .refreshPostponed _ => .event
  | .coldReset => .event
  | .functionLevelReset => .event
  | .registerWrite _ _ => .event
  | .qbaseWrite _ _ _ => .event
  | .rowRemapTableWrite _ _ _ _ => .event

/-- Whether stream `c` holds words of this kind: scalar bodies everywhere, by carrier in V and T (R112, R135). -/
def Kind.inStream : Kind → Cluster → Bool
  | .scalar, _ => true
  | .vector, c => c == .V
  | .tensor, c => c == .T
  | .event, _ => false

/-- The bits that tell the variants of one opcode apart (R182, R184), and a template that an mgo must have (R215). -/
def Instr.formOk : Instr → Bool
  | .vbcast _ o => !o.c.getLsbD 24
  | .vbcastScalar _ o => o.c.getLsbD 24
  | .vmov _ o => o.typ != 10
  | .vmovMaskToV _ o => o.typ == 10 && !o.c.getLsbD 4
  | .vmovMaskToP _ o => o.typ == 10 && o.c.getLsbD 4
  | .mgo _ _ _ t => t.isSome
  | _ => true

/-- The instruction is a word that stream `c` can hold. -/
def Instr.wf (c : Cluster) (i : Instr) : Bool :=
  i.kind.inStream c && i.formOk && (match i.hdr? with | some h => h.ok | none => false)

end Sys2Proof
end

