-- ==== Sys2Proof/Decode.lean ====
section
/-! DEFINITION. The decoder: total on any bits, a malformed word named by the fate R131 gives it; then the encoder, from the
    same tables (R112 to R135, R158, R238, R248 and the encodings of classes 0 to 5 of the T word). -/

namespace Sys2Proof

/-- What becomes of a malformed word (R131): ILLOP with its sub-code, or ILLTYPE. -/
inductive Bad
  | illop (sub : BitVec 8)
  | illtype
  deriving DecidableEq, Repr

/-- What the decoder answers. -/
inductive Dec
  | ok (i : Instr)
  | bad (b : Bad)
  deriving DecidableEq, Repr

/-- The instruction a decoder answered with. -/
def Dec.toOption : Dec → Option Instr
  | .ok i => some i
  | .bad _ => none

/-- An instruction whose reserved bits and unused fields are zero; else ILLOP 0x02 (R131, check 5). -/
def fit (c : Bool) (i : Instr) : Dec := if c then .ok i else .bad (.illop 0x02)

/-- Fields from the least significant end: the number made of (width, value) pairs. -/
def pack : List (Nat × Nat) → Nat
  | [] => 0
  | (n, v) :: r => v % 2 ^ n + 2 ^ n * pack r

/-- Fields of given widths from the least significant end. -/
def unpack : List Nat → Nat → List Nat
  | [], _ => []
  | n :: r, w => w % 2 ^ n :: unpack r (w / 2 ^ n)

/-- The direction bit of tkrd and tkwr (R121). -/
def dirOf (b : Bool) : Dir := if b then .right else .left

/-- The direction as a bit. -/
def dirBit : Dir → Nat
  | .left => 0 | .right => 1

/-- The header from its 11 bits (R116). -/
def Hdr.ofNat (w : Nat) : Hdr :=
  { e := bit w 10, g := .ofNat 4 (w / 2 ^ 6), n := bit w 5, y := bit w 4, k := .ofNat 4 w }

/-- The header's 11 bits (R116). -/
def Hdr.toNat (h : Hdr) : Nat := pack [(4, h.k.toNat), (1, b2n h.y), (1, b2n h.n), (4, h.g.toNat), (1, b2n h.e)]

/-- The literal of ld and st from its bits (R122). -/
def MemLit.ofNat (w : Nat) : MemLit :=
  { sp := bit w 31, wd := .ofNat 2 (w / 2 ^ 29), ac := .ofNat 2 (w / 2 ^ 27), pp := bit w 26, pd := .ofNat 4 (w / 2 ^ 22),
    off := .ofNat 21 w }

/-- The literal of ld and st as a number (R122). -/
def MemLit.toNat (m : MemLit) : Nat :=
  pack [(21, m.off.toNat), (1, 0), (4, m.pd.toNat), (1, b2n m.pp), (2, m.ac.toNat), (2, m.wd.toNat), (1, b2n m.sp)]

/-- The literal of amo and red from its bits [23:0] (R248). -/
def AtomLit.ofNat (w : Nat) : AtomLit :=
  { ac := .ofNat 2 (w / 2 ^ 22), res := bit w 21, o := .ofNat 5 (w / 2 ^ 16), uns := bit w 11, fp := bit w 10,
    wd := .ofNat 2 (w / 2 ^ 8), use := .ofNat 3 (w / 2 ^ 4), op := .ofNat 4 w }

/-- The literal of amo and red as a number (R248). -/
def AtomLit.toNat (m : AtomLit) : Nat :=
  pack [(4, m.op.toNat), (3, m.use.toNat), (1, 0), (2, m.wd.toNat), (1, b2n m.fp), (1, b2n m.uns), (4, 0), (5, m.o.toNat),
    (1, b2n m.res), (2, m.ac.toNat)]

/-- The operand fields of a V word from its bits (R127). -/
def VOps.ofNat (w : Nat) : VOps :=
  { typ := .ofNat 4 (w / 2 ^ 68), rm := .ofNat 2 (w / 2 ^ 66), sat := bit w 65, w2 := bit w 64, d := .ofNat 10 (w / 2 ^ 54),
    ds := .ofNat 3 (w / 2 ^ 51), a := .ofNat 10 (w / 2 ^ 41), as := .ofNat 3 (w / 2 ^ 38), b := .ofNat 10 (w / 2 ^ 28),
    bs := .ofNat 3 (w / 2 ^ 25), c := .ofNat 25 w }

/-- The low 72 bits of a V word (R127). -/
def VOps.toNat (o : VOps) : Nat :=
  pack [(25, o.c.toNat), (3, o.bs.toNat), (10, o.b.toNat), (3, o.as.toNat), (10, o.a.toNat), (3, o.ds.toNat), (10, o.d.toNat),
    (1, b2n o.w2), (1, b2n o.sat), (2, o.rm.toNat), (4, o.typ.toNat)]

/-- The operand fields of a T word of class 0 from its bits (R134). -/
def MOps.ofNat (w : Nat) : MOps :=
  { atd := .ofNat 8 (w / 2 ^ 160), aw := .ofNat 4 (w / 2 ^ 156), btd := .ofNat 8 (w / 2 ^ 148), bw := .ofNat 4 (w / 2 ^ 144),
    acc := .ofNat 3 (w / 2 ^ 141), am := .ofNat 2 (w / 2 ^ 139), sa := .ofNat 8 (w / 2 ^ 131), sb := .ofNat 8 (w / 2 ^ 123),
    aty := .ofNat 4 (w / 2 ^ 119), bty := .ofNat 4 (w / 2 ^ 115), sat := bit w 114, rm := .ofNat 2 (w / 2 ^ 112),
    m := .ofNat 8 (w / 2 ^ 104), n := .ofNat 8 (w / 2 ^ 96), k := .ofNat 8 (w / 2 ^ 88), spm := .ofNat 2 (w / 2 ^ 86),
    wb := bit w 85, qj := bit w 84, oty := .ofNat 4 (w / 2 ^ 80), otd := .ofNat 8 (w / 2 ^ 72), csel := .ofNat 8 (w / 2 ^ 64),
    koff := .ofNat 16 (w / 2 ^ 48), moff := .ofNat 16 (w / 2 ^ 32), noff := .ofNat 16 (w / 2 ^ 16) }

/-- The low 168 bits of a T word of class 0 (R134). -/
def MOps.toNat (o : MOps) : Nat :=
  pack [(16, 0), (16, o.noff.toNat), (16, o.moff.toNat), (16, o.koff.toNat), (8, o.csel.toNat), (8, o.otd.toNat),
    (4, o.oty.toNat), (1, b2n o.qj), (1, b2n o.wb), (2, o.spm.toNat), (8, o.k.toNat), (8, o.n.toNat), (8, o.m.toNat),
    (2, o.rm.toNat), (1, b2n o.sat), (4, o.bty.toNat), (4, o.aty.toNat), (8, o.sb.toNat), (8, o.sa.toNat), (2, o.am.toNat),
    (3, o.acc.toNat), (4, o.bw.toNat), (8, o.btd.toNat), (4, o.aw.toNat), (8, o.atd.toNat)]

/-- A scalar body of major 62 (R123, R158, R238): `d`, `a`, `b` of the first word, `f` the literal's bits [23:0]. -/
def decodeSystem (h : Hdr) (d a b : Reg) (sub f : Nat) : Dec :=
  match sub with
  | 0 => fit (d == 0 && a == 0 && b == 0 && bits f 23 10 == 0) (.trap h (.ofNat 10 f))
  | 1 => fit (d == 0 && a == 0 && b == 0 && f == 0) (.eret h)
  | 2 => fit (d == 0 && a == 0 && b == 0 && bits f 23 10 == 0) (.bkpt h (.ofNat 10 f))
  | 3 => fit (d == 0 && a == 0 && b == 0 && f == 0) (.yield h)
  | 4 => fit (d == 0 && a == 0 && b == 0 && f == 0) (.tend h)
  | 5 => fit (d == 0 && bits f 23 3 == 0) (.waita h a b (.ofNat 3 f))
  | 6 => fit (bits f 23 1 == 0) (.signal h d a b (bit f 0))
  | 7 => fit (d == 0 && a == 0 && b == 0 && bits f 23 1 == 0) (.lmode h (bit f 0))
  | 8 => fit (d == 0 && a == 0 && b == 0 && bits f 23 3 == 0) (.phase h (.ofNat 3 f))
  | 9 => fit (d == 0 && a == 0 && b == 0 && f == 0) (.mark h)
  | 10 => fit (d == 0 && a == 0 && b == 0 && bits f 23 3 == 0) (.release h (.ofNat 3 f))
  | 11 => fit (d == 0 && a == 0 && b == 0 && bits f 23 3 == 0) (.acquire h (.ofNat 3 f))
  | 12 => fit (b == 0 && bits f 23 4 == 0) (.xlat h d a (.ofNat 4 f))
  | 13 => fit (f == 0) (.rprobe h d a b)
  | _ => .bad (.illop 0x01)

/-- A scalar body of major 63 (R123, R238 and the chapters of the objects). -/
def decodeMemory (h : Hdr) (d a b : Reg) (sub f : Nat) : Dec :=
  match sub with
  | 0 => fit (bits f 15 12 == 0 && !bit f 7) (.amo h d a b (AtomLit.ofNat f))
  | 1 => fit (bits f 15 12 == 0 && !bit f 7) (.red h d a b (AtomLit.ofNat f))
  | 2 => fit (f == 0) (.cpq h d a b)
  | 3 => fit (b == 0 && bits f 23 8 == 0) (.cptail h d a (.ofNat 8 f))
  | 4 => fit (f == 0) (.gath h d a b)
  | 5 => fit (f == 0) (.scat h d a b)
  | 6 => fit (bits f 21 21 == 0) (.dgld h d a b (.ofNat 2 (f / 4194304)) (.ofNat 21 f))
  | 7 => fit (bits f 15 4 == 0) (.dgq h d a b (.ofNat 2 (f / 4194304)) (bit f 21) (.ofNat 5 (f / 65536)) (.ofNat 4 f))
  | 8 => fit (d == 0 && bits f 21 12 == 0) (.dgseal h a b (.ofNat 2 (f / 4194304)) (.ofNat 12 f))
  | 9 => fit (d == 0 && bits f 23 3 == 0) (.owng h a b (.ofNat 3 f))
  | 10 => fit (d == 0 && f == 0) (.ownt h a b)
  | 11 => fit (d == 0 && f == 0) (.ownw h a b)
  | 12 => fit (bits f 21 3 == 0) (.cflush h d a b (.ofNat 2 (f / 4194304)) (.ofNat 3 f))
  | 13 => fit (bits f 21 3 == 0) (.cinv h d a b (.ofNat 2 (f / 4194304)) (.ofNat 3 f))
  | 14 => fit (bits f 23 1 == 0) (.cway h d a b (bit f 0))
  | 15 => fit (bits f 23 5 == 0) (.lpatch h d a b (.ofNat 5 f))
  | 16 => fit (b == 0 && f == 0) (.larm h d a)
  | 17 => fit (f == 0) (.qapp h d a b)
  | 18 => fit (b == 0 && bits f 23 10 == 0) (.binit h d a (.ofNat 2 (f / 256)) (.ofNat 8 f))
  | 19 => fit (a == 0 && b == 0 && bits f 23 10 == 0) (.barv h d (.ofNat 2 (f / 256)) (.ofNat 8 f))
  | 20 => fit (b == 0 && bits f 23 10 == 0) (.bwait h d a (.ofNat 2 (f / 256)) (.ofNat 8 f))
  | 21 => fit (b == 0 && f / 8 == 0 && !(bit f 2 && bits f 1 0 != 0))
      (if bit f 2 then .pmigAbort h d a else .pmig h d a (.ofNat 2 f))
  | 22 => fit (b == 0 && f == 0) (.pheat h d a)
  | 23 => fit (d == 0 && f / 2 == 0 && !(bit f 0 && !(a == 0 && b == 0)))
      (if bit f 0 then .tinvAll h else .tinv h a b)
  | 24 => fit (b == 0 && f == 0) (.lstat h d a)
  | _ => .bad (.illop 0x01)

/-- A scalar body (R121): `w` its 21 bits, `lit` the literal word's low 32 bits. -/
def decodeBody (h : Hdr) (w lit : Nat) : Dec :=
  let d : Reg := .ofNat 5 (w / 1024)
  let a : Reg := .ofNat 5 (w / 32)
  let b : Reg := .ofNat 5 w
  let pd : Pred := .ofNat 4 (w / 1024)
  let f : BitVec 10 := .ofNat 10 w
  match w / 32768 % 64 with
  | 0 => .ok (.add h d a b)
  | 1 => .ok (.sub h d a b)
  | 2 => .ok (.and h d a b)
  | 3 => .ok (.or h d a b)
  | 4 => .ok (.xor h d a b)
  | 5 => .ok (.shl h d a b)
  | 6 => .ok (.shr h d a b)
  | 7 => .ok (.sar h d a b)
  | 8 => .ok (.mul h d a b)
  | 9 => .ok (.mulhs h d a b)
  | 10 => .ok (.mulhn h d a b)
  | 11 => .ok (.divs h d a b)
  | 12 => .ok (.divn h d a b)
  | 13 => .ok (.rems h d a b)
  | 14 => .ok (.remn h d a b)
  | 15 => .ok (.min h d a b)
  | 16 => .ok (.max h d a b)
  | 17 => .ok (.sel h d a b)
  | 18 => .ok (.addi h d a b)
  | 19 => .ok (.andi h d a b)
  | 20 => .ok (.ori h d a b)
  | 21 => .ok (.shli h d a b)
  | 22 => .ok (.shri h d a b)
  | 23 => .ok (.sari h d a b)
  | 24 => fit (bits w 9 1 == 0) (.limm h d (bit w 0) (.ofNat 32 lit))
  | 25 => fit (!bit w 4) (.plog h (.ofNat 2 (2 * bits w 14 14 + bits w 9 9)) pd (.ofNat 4 (w / 32)) (.ofNat 4 w))
  | 26 => fit (!bit w 14) (.cmpEq h pd a b)
  | 27 => fit (!bit w 14) (.cmpNe h pd a b)
  | 28 => fit (!bit w 14) (.cmpLt h pd a b)
  | 29 => fit (!bit w 14) (.cmpLe h pd a b)
  | 30 => fit (!bit w 14) (.cmpLo h pd a b)
  | 31 => fit (!bit w 14) (.cmpLs h pd a b)
  | 32 => fit (!bit w 14) (.cmpiEq h pd a b)
  | 33 => fit (!bit w 14) (.cmpiNe h pd a b)
  | 34 => fit (!bit w 14) (.cmpiLt h pd a b)
  | 35 => fit (!bit w 14) (.cmpiLe h pd a b)
  | 36 => fit (!bit w 14) (.cmpiLo h pd a b)
  | 37 => fit (!bit w 14) (.cmpiLs h pd a b)
  | 38 => fit (d == 0) (.br h f)
  | 39 => .ok (.brp h (bit w 14) pd f)
  | 40 => fit (d == 0 && b == 0) (.jmp h a)
  | 41 => .ok (.call h d f)
  | 42 => fit (d == 0 && b == 0) (.ret h a)
  | 43 => .ok (.loop h d f)
  | 44 => fit (d == 0) (.lbr h f)
  | 45 => .ok (.getc h d f)
  | 46 => .ok (.setc h d f)
  | 47 => fit (bits w 9 1 == 0) (.tkrd h d (dirOf (bit w 0)))
  | 48 => fit (d == 0 && bits w 4 1 == 0) (.tkwr h a (dirOf (bit w 0)))
  | 49 => fit (bits w 14 0 == 0 && bits lit 3 0 == 0)
      (.cwait h (.ofNat 7 (lit / 2 ^ 25)) (.ofNat 7 (lit / 2 ^ 18)) (.ofNat 8 (lit / 2 ^ 10)) (.ofNat 6 (lit / 2 ^ 4)))
  | 50 => fit (!bit lit 21) (.ld h d a b (MemLit.ofNat lit))
  | 51 => fit (!bit lit 21) (.st h d a b (MemLit.ofNat lit))
  | 52 => fit (bits w 14 0 == 0) (.nop h)
  | 62 => decodeSystem h d a b (bits lit 31 24) (bits lit 23 0)
  | 63 => decodeMemory h d a b (bits lit 31 24) (bits lit 23 0)
  | _ => .bad (.illop 0x01)

/-- A V word by class and opcode (R133); variants of one opcode are told apart by TYPE and by bits of field C. -/
def decodeV (h : Hdr) (cls op : Nat) (o : VOps) : Dec :=
  match cls, op with
  | 0, 0 => .ok (.vadd h o)
  | 0, 1 => .ok (.vsub h o)
  | 0, 2 => .ok (.vmul h o)
  | 0, 3 => .ok (.vmulh h o)
  | 0, 4 => .ok (.vmin h o)
  | 0, 5 => .ok (.vmax h o)
  | 0, 6 => .ok (.vabs h o)
  | 0, 7 => .ok (.vneg h o)
  | 0, 8 => .ok (.vand h o)
  | 0, 9 => .ok (.vor h o)
  | 0, 10 => .ok (.vxor h o)
  | 0, 11 => .ok (.vshl h o)
  | 0, 12 => .ok (.vshr h o)
  | 0, 13 => .ok (.vsar h o)
  | 1, 0 => .ok (.vfadd h o)
  | 1, 1 => .ok (.vfsub h o)
  | 1, 2 => .ok (.vfmul h o)
  | 1, 3 => .ok (.vfma h o)
  | 1, 4 => .ok (.vfmin h o)
  | 1, 5 => .ok (.vfmax h o)
  | 1, 6 => .ok (.vfabs h o)
  | 1, 7 => .ok (.vfneg h o)
  | 2, 0 => .ok (.vcmpEq h o)
  | 2, 1 => .ok (.vcmpNe h o)
  | 2, 2 => .ok (.vcmpLt h o)
  | 2, 3 => .ok (.vcmpLe h o)
  | 2, 4 => .ok (.vcmpLo h o)
  | 2, 5 => .ok (.vcmpLs h o)
  | 2, 8 => .ok (.vfcmpEq h o)
  | 2, 9 => .ok (.vfcmpNe h o)
  | 2, 10 => .ok (.vfcmpLt h o)
  | 2, 11 => .ok (.vfcmpLe h o)
  | 2, 16 => .ok (.vsel h o)
  | 3, 0 => .ok (.vcvt h o)
  | 3, 1 => .ok (.vamax h o)
  | 3, 2 => .ok (.vqcvt h o)
  | 4, 0 => .ok (.vexp2 h o)
  | 4, 1 => .ok (.vlog2 h o)
  | 4, 2 => .ok (.vrcp h o)
  | 4, 3 => .ok (.vrsqrt h o)
  | 5, 0 => .ok (.vredadd h o)
  | 5, 1 => .ok (.vredmax h o)
  | 5, 2 => .ok (.vredmin h o)
  | 6, 0 => .ok (.vperm h o)
  | 6, 2 => .ok (.vslide h o)
  | 7, 0 => .ok (.vbext h o)
  | 7, 1 => .ok (.vfunnel h o)
  | 7, 2 => .ok (.vpopc h o)
  | 7, 3 => .ok (.vclz h o)
  | 8, 1 => .ok (.vgets h o)
  | 8, 2 => .ok (.vsets h o)
  | 9, 0 => .ok (.vld h o)
  | 9, 1 => .ok (.vldx h o)
  | 9, 2 => .ok (.vst h o)
  | 9, 3 => .ok (.vstx h o)
  | 9, 4 => .ok (.vldg h o)
  | 9, 5 => .ok (.vstg h o)
  | 10, 0 => .ok (.vbadd h o)
  | 10, 1 => .ok (.vbmul h o)
  | 10, 2 => .ok (.vbmax h o)
  | 10, 3 => .ok (.vaccept h o)
  | 11, 0 => .ok (.vplogAnd h o)
  | 11, 1 => .ok (.vplogOr h o)
  | 11, 2 => .ok (.vplogXor h o)
  | 11, 3 => .ok (.vplogAndn h o)
  | 2, 12 => .bad (.illop 0x06)
  | 2, 13 => .bad (.illop 0x06)
  | 6, 1 => .ok (if o.c.getLsbD 24 then .vbcastScalar h o else .vbcast h o)
  | 8, 0 => .ok (if o.typ = 10 then (if o.c.getLsbD 4 then .vmovMaskToP h o else .vmovMaskToV h o) else .vmov h o)
  | _, _ => .bad (.illop 0x01)
/-- Every named range of bits is zero. -/
def zeros (w : Nat) (l : List (Nat × Nat)) : Bool := l.all fun r => bits w r.1 r.2 == 0

/-- A T word by class and opcode (R134): `w` is the word, `next` the template an mgo finds in the next word (R215). -/
def decodeT (h : Hdr) (w : Nat) (next : Option MOps) : Dec :=
  let td : BitVec 8 := .ofNat 8 (w / 2 ^ 160)
  let w4 : BitVec 4 := .ofNat 4 (w / 2 ^ 156)
  let l4 : BitVec 4 := .ofNat 4 (w / 2 ^ 152)
  let a150 : Reg := .ofNat 5 (w / 2 ^ 150)
  let b145 : Reg := .ofNat 5 (w / 2 ^ 145)
  let pair : BitVec 3 := .ofNat 3 (w / 2 ^ 165)
  let xb : BitVec 4 := .ofNat 4 (w / 2 ^ 164)
  let csel : BitVec 8 := .ofNat 8 (w / 2 ^ 64)
  let wb : Bool := bit w 85
  match bits w 180 177, bits w 176 168 with
  | 0, 0 => fit (zeros w [(15, 0)]) (.mma h (MOps.ofNat w))
  | 0, 1 => fit (zeros w [(15, 0)]) (.mms h (MOps.ofNat w))
  | 0, 2 => fit (zeros w [(15, 0)]) (.mzero h (MOps.ofNat w))
  | 0, 3 => fit (zeros w [(15, 0)]) (.mstore h (MOps.ofNat w))
  | 0, 4 => fit (zeros w [(15, 0)]) (.mload h (MOps.ofNat w))
  | 1, 0 =>
    if bit w 155 then
      fit (zeros w [(154, 86), (84, 32), (15, 0)]) (.mwldWindow h td w4 wb (.ofNat 16 (w / 2 ^ 16)))
    else
      fit (zeros w [(159, 156), (143, 86), (84, 64), (47, 32), (15, 0)])
        (.mwldRange h td (.ofNat 11 (w / 2 ^ 144)) wb (.ofNat 16 (w / 2 ^ 48)) (.ofNat 16 (w / 2 ^ 16)))
  | 1, 1 => fit (zeros w [(167, 86), (84, 0)]) (.mwswap h wb)
  | 2, 0 => fit (zeros w [(154, 0)]) (.mnset h pair (.ofNat 5 (w / 2 ^ 160)) (.ofNat 5 (w / 2 ^ 155)))
  | 2, 1 => fit (zeros w [(161, 0)]) (.mgo h pair (.ofNat 3 (w / 2 ^ 162)) next)
  | 3, 0 => fit (zeros w [(154, 0)]) (.tdset h td (.ofNat 5 (w / 2 ^ 155)))
  | 3, 1 => fit (zeros w [(154, 0)]) (.tdget h td (.ofNat 5 (w / 2 ^ 155)))
  | 3, 2 =>
    if bit w 155 then fit (zeros w [(167, 160), (144, 0)]) (.twinGet h w4 a150 b145)
    else fit (zeros w [(142, 0)]) (.twin h td w4 a150 b145 (.ofNat 2 (w / 2 ^ 143)))
  | 4, 0 => fit (zeros w [(141, 141), (130, 0)])
      (.tcut h td w4 (.ofNat 12 (w / 2 ^ 144)) (.ofNat 2 (w / 2 ^ 142)) (.ofNat 10 (w / 2 ^ 131)))
  | 4, 1 => fit (zeros w [(149, 0)]) (.tcocut h td w4 l4 (.ofNat 2 (w / 2 ^ 150)))
  | 4, 2 => fit (zeros w [(167, 160), (146, 144), (135, 0)])
      (.tmerge h w4 l4 (.ofNat 4 (w / 2 ^ 148)) (bit w 147) (.ofNat 8 (w / 2 ^ 136)))
  | 4, 3 => fit (zeros w [(167, 160), (155, 0)]) (.tnext h w4)
  | 5, 0 => fit (zeros w [(164, 155), (144, 72), (63, 0)]) (.xprog h pair a150 b145 csel)
  | 5, 1 => fit (zeros w [(164, 155), (149, 145), (140, 72), (63, 0)]) (.xverify h pair a150 (.ofNat 4 (w / 2 ^ 141)) csel)
  | 5, 2 => fit (zeros w [(163, 72), (63, 0)]) (.xcal h xb csel)
  | 5, 3 => fit (zeros w [(140, 114), (111, 72), (63, 0)])
      (.xmvm h pair (.ofNat 10 (w / 2 ^ 155)) a150 b145 (.ofNat 3 (w / 2 ^ 142)) (bit w 141) (.ofNat 2 (w / 2 ^ 112)) csel)
  | 5, 4 => fit (zeros w [(145, 0)])
      (.xstat h xb (.ofNat 5 (w / 2 ^ 159)) (.ofNat 4 (w / 2 ^ 155)) (.ofNat 9 (w / 2 ^ 146)))
  | 5, 5 => fit (zeros w [(163, 72), (63, 0)]) (.xerase h xb csel)
  | _, _ => .bad (.illop 0x01)

/-- Width of a stream's words in bits (R112). -/
def Cluster.width (c : Cluster) : Nat := 8 * c.wordBytes

/-- The checks of R131 in their order around a scalar body: an unassigned code, then a carrier's stray bits, then a wide
    literal's, then reserved bits; W2 of a carrier is 0x06 (R128). -/
def decodeScalar (h : Hdr) (w lit : Nat) (stray wide w2 : Bool) : Dec :=
  match decodeBody h w (lit % 2 ^ 32) with
  | .bad (.illop 0x01) => .bad (.illop 0x01)
  | r =>
    if stray then .bad (.illop 0x07)
    else if wide && isTwoWord (w / 32768 % 64) then .bad (.illop 0x0C)
    else if w2 then (match r with | .ok _ => .bad (.illop 0x06) | .bad b => .bad b)
    else r

/-- The template an mgo finds in the next word of its stream (R215). -/
def templateOf (w : Nat) : Option MOps :=
  match decodeT (Hdr.ofNat (w / 2 ^ 181)) w none with
  | .ok (.mma _ o) => some o
  | _ => none

/-- The decoder: a word `w` of a stream and the word that follows it (R112 to R135). -/
def decode (c : Cluster) (w next : Nat) : Dec :=
  let h := Hdr.ofNat (w / 2 ^ (c.width - 11))
  if !h.ok then .bad (.illop 0x08)
  else match c with
  | .A | .S => decodeScalar h (w % 2 ^ 21) next false false false
  | .V =>
    if bits w 84 81 == 15 then decodeScalar h (w % 2 ^ 21) next (bits w 80 65 != 0 || bits w 63 21 != 0) (next / 2 ^ 32 != 0) (bit w 64)
    else decodeV h (bits w 84 81) (bits w 80 72) (VOps.ofNat w)
  | .T =>
    if bits w 180 177 == 15 then decodeScalar h (w % 2 ^ 21) next (bits w 176 21 != 0) (next / 2 ^ 32 != 0) false
    else decodeT h w (templateOf next)

/-- The S and I forms: major, d, a and b or k5 (R120). -/
def sform (major d a b : Nat) : Nat := pack [(5, b), (5, a), (5, d), (6, major)]

/-- The B form and the forms with a 10-bit number: major, c, f10 (R120). -/
def bform (major c f : Nat) : Nat := pack [(10, f), (5, c), (6, major)]

/-- The 21 bits of a scalar body and its literal word, if it has one (R120 to R123). -/
def encodeBody : Instr → Option (Nat × Option Nat)
  | .add _ d a b => some (sform 0 d.toNat a.toNat b.toNat, none)
  | .sub _ d a b => some (sform 1 d.toNat a.toNat b.toNat, none)
  | .and _ d a b => some (sform 2 d.toNat a.toNat b.toNat, none)
  | .or _ d a b => some (sform 3 d.toNat a.toNat b.toNat, none)
  | .xor _ d a b => some (sform 4 d.toNat a.toNat b.toNat, none)
  | .shl _ d a b => some (sform 5 d.toNat a.toNat b.toNat, none)
  | .shr _ d a b => some (sform 6 d.toNat a.toNat b.toNat, none)
  | .sar _ d a b => some (sform 7 d.toNat a.toNat b.toNat, none)
  | .mul _ d a b => some (sform 8 d.toNat a.toNat b.toNat, none)
  | .mulhs _ d a b => some (sform 9 d.toNat a.toNat b.toNat, none)
  | .mulhn _ d a b => some (sform 10 d.toNat a.toNat b.toNat, none)
  | .divs _ d a b => some (sform 11 d.toNat a.toNat b.toNat, none)
  | .divn _ d a b => some (sform 12 d.toNat a.toNat b.toNat, none)
  | .rems _ d a b => some (sform 13 d.toNat a.toNat b.toNat, none)
  | .remn _ d a b => some (sform 14 d.toNat a.toNat b.toNat, none)
  | .min _ d a b => some (sform 15 d.toNat a.toNat b.toNat, none)
  | .max _ d a b => some (sform 16 d.toNat a.toNat b.toNat, none)
  | .sel _ d a b => some (sform 17 d.toNat a.toNat b.toNat, none)
  | .addi _ d a k => some (sform 18 d.toNat a.toNat k.toNat, none)
  | .andi _ d a k => some (sform 19 d.toNat a.toNat k.toNat, none)
  | .ori _ d a k => some (sform 20 d.toNat a.toNat k.toNat, none)
  | .shli _ d a k => some (sform 21 d.toNat a.toNat k.toNat, none)
  | .shri _ d a k => some (sform 22 d.toNat a.toNat k.toNat, none)
  | .sari _ d a k => some (sform 23 d.toNat a.toNat k.toNat, none)
  | .limm _ d hi lit => some (sform 24 d.toNat 0 (b2n hi), some lit.toNat)
  | .plog _ op pd pa pb => some (pack [(4, pb.toNat), (1, 0), (4, pa.toNat), (1, op.toNat % 2), (4, pd.toNat), (1, op.toNat / 2), (6, 25)], none)
  | .cmpEq _ pd a b => some (sform 26 pd.toNat a.toNat b.toNat, none)
  | .cmpNe _ pd a b => some (sform 27 pd.toNat a.toNat b.toNat, none)
  | .cmpLt _ pd a b => some (sform 28 pd.toNat a.toNat b.toNat, none)
  | .cmpLe _ pd a b => some (sform 29 pd.toNat a.toNat b.toNat, none)
  | .cmpLo _ pd a b => some (sform 30 pd.toNat a.toNat b.toNat, none)
  | .cmpLs _ pd a b => some (sform 31 pd.toNat a.toNat b.toNat, none)
  | .cmpiEq _ pd a k => some (sform 32 pd.toNat a.toNat k.toNat, none)
  | .cmpiNe _ pd a k => some (sform 33 pd.toNat a.toNat k.toNat, none)
  | .cmpiLt _ pd a k => some (sform 34 pd.toNat a.toNat k.toNat, none)
  | .cmpiLe _ pd a k => some (sform 35 pd.toNat a.toNat k.toNat, none)
  | .cmpiLo _ pd a k => some (sform 36 pd.toNat a.toNat k.toNat, none)
  | .cmpiLs _ pd a k => some (sform 37 pd.toNat a.toNat k.toNat, none)
  | .br _ f => some (bform 38 0 f.toNat, none)
  | .brp _ sense p f => some (bform 39 (p.toNat + 16 * b2n sense) f.toNat, none)
  | .jmp _ a => some (sform 40 0 a.toNat 0, none)
  | .call _ c f => some (bform 41 c.toNat f.toNat, none)
  | .ret _ a => some (sform 42 0 a.toNat 0, none)
  | .loop _ c f => some (bform 43 c.toNat f.toNat, none)
  | .lbr _ f => some (bform 44 0 f.toNat, none)
  | .getc _ d r => some (bform 45 d.toNat r.toNat, none)
  | .setc _ a r => some (bform 46 a.toNat r.toNat, none)
  | .tkrd _ d dir => some (sform 47 d.toNat 0 (dirBit dir), none)
  | .tkwr _ a dir => some (sform 48 0 a.toNat (dirBit dir), none)
  | .cwait _ ld st cp ts => some (sform 49 0 0 0, some (pack [(4, 0), (6, ts.toNat), (8, cp.toNat), (7, st.toNat), (7, ld.toNat)]))
  | .ld _ d a b m => some (sform 50 d.toNat a.toNat b.toNat, some m.toNat)
  | .st _ d a b m => some (sform 51 d.toNat a.toNat b.toNat, some m.toNat)
  | .nop _ => some (sform 52 0 0 0, none)
  | .trap _ code => some (sform 62 0 0 0, some (pack [(10, code.toNat), (14, 0), (8, 0)]))
  | .eret _ => some (sform 62 0 0 0, some (pack [(24, 0), (8, 1)]))
  | .bkpt _ code => some (sform 62 0 0 0, some (pack [(10, code.toNat), (14, 0), (8, 2)]))
  | .yield _ => some (sform 62 0 0 0, some (pack [(24, 0), (8, 3)]))
  | .tend _ => some (sform 62 0 0 0, some (pack [(24, 0), (8, 4)]))
  | .waita _ a b cc => some (sform 62 0 a.toNat b.toNat, some (pack [(3, cc.toNat), (21, 0), (8, 5)]))
  | .signal _ d a b self => some (sform 62 d.toNat a.toNat b.toNat, some (pack [(1, b2n self), (23, 0), (8, 6)]))
  | .lmode _ exposed => some (sform 62 0 0 0, some (pack [(1, b2n exposed), (23, 0), (8, 7)]))
  | .phase _ n => some (sform 62 0 0 0, some (pack [(3, n.toNat), (21, 0), (8, 8)]))
  | .mark _ => some (sform 62 0 0 0, some (pack [(24, 0), (8, 9)]))
  | .release _ scope => some (sform 62 0 0 0, some (pack [(3, scope.toNat), (21, 0), (8, 10)]))
  | .acquire _ scope => some (sform 62 0 0 0, some (pack [(3, scope.toNat), (21, 0), (8, 11)]))
  | .xlat _ d a pd => some (sform 62 d.toNat a.toNat 0, some (pack [(4, pd.toNat), (20, 0), (8, 12)]))
  | .rprobe _ d a b => some (sform 62 d.toNat a.toNat b.toNat, some (pack [(24, 0), (8, 13)]))
  | .amo _ d a b m => some (sform 63 d.toNat a.toNat b.toNat, some (pack [(24, m.toNat), (8, 0)]))
  | .red _ d a b m => some (sform 63 d.toNat a.toNat b.toNat, some (pack [(24, m.toNat), (8, 1)]))
  | .cpq _ d a b => some (sform 63 d.toNat a.toNat b.toNat, some (pack [(24, 0), (8, 2)]))
  | .cptail _ d a n => some (sform 63 d.toNat a.toNat 0, some (pack [(8, n.toNat), (16, 0), (8, 3)]))
  | .gath _ d a b => some (sform 63 d.toNat a.toNat b.toNat, some (pack [(24, 0), (8, 4)]))
  | .scat _ d a b => some (sform 63 d.toNat a.toNat b.toNat, some (pack [(24, 0), (8, 5)]))
  | .dgld _ d a b ac off => some (sform 63 d.toNat a.toNat b.toNat, some (pack [(21, off.toNat), (1, 0), (2, ac.toNat), (8, 6)]))
  | .dgq _ d a b ac cpy l test => some (sform 63 d.toNat a.toNat b.toNat, some (pack [(4, test.toNat), (12, 0), (5, l.toNat), (1, b2n cpy), (2, ac.toNat), (8, 7)]))
  | .dgseal _ a b ac n => some (sform 63 0 a.toNat b.toNat, some (pack [(12, n.toNat), (10, 0), (2, ac.toNat), (8, 8)]))
  | .owng _ a b cls => some (sform 63 0 a.toNat b.toNat, some (pack [(3, cls.toNat), (21, 0), (8, 9)]))
  | .ownt _ a b => some (sform 63 0 a.toNat b.toNat, some (pack [(24, 0), (8, 10)]))
  | .ownw _ a b => some (sform 63 0 a.toNat b.toNat, some (pack [(24, 0), (8, 11)]))
  | .cflush _ d a b ac scope => some (sform 63 d.toNat a.toNat b.toNat, some (pack [(3, scope.toNat), (19, 0), (2, ac.toNat), (8, 12)]))
  | .cinv _ d a b ac scope => some (sform 63 d.toNat a.toNat b.toNat, some (pack [(3, scope.toNat), (19, 0), (2, ac.toNat), (8, 13)]))
  | .cway _ d a b mode => some (sform 63 d.toNat a.toNat b.toNat, some (pack [(1, b2n mode), (23, 0), (8, 14)]))
  | .lpatch _ d a b field => some (sform 63 d.toNat a.toNat b.toNat, some (pack [(5, field.toNat), (19, 0), (8, 15)]))
  | .larm _ d a => some (sform 63 d.toNat a.toNat 0, some (pack [(24, 0), (8, 16)]))
  | .qapp _ d a b => some (sform 63 d.toNat a.toNat b.toNat, some (pack [(24, 0), (8, 17)]))
  | .binit _ d a lv num => some (sform 63 d.toNat a.toNat 0, some (pack [(8, num.toNat), (2, lv.toNat), (14, 0), (8, 18)]))
  | .barv _ d lv num => some (sform 63 d.toNat 0 0, some (pack [(8, num.toNat), (2, lv.toNat), (14, 0), (8, 19)]))
  | .bwait _ d a lv num => some (sform 63 d.toNat a.toNat 0, some (pack [(8, num.toNat), (2, lv.toNat), (14, 0), (8, 20)]))
  | .pmig _ d a tier => some (sform 63 d.toNat a.toNat 0, some (pack [(2, tier.toNat), (1, 0), (21, 0), (8, 21)]))
  | .pmigAbort _ d a => some (sform 63 d.toNat a.toNat 0, some (pack [(2, 0), (1, 1), (21, 0), (8, 21)]))
  | .pheat _ d a => some (sform 63 d.toNat a.toNat 0, some (pack [(24, 0), (8, 22)]))
  | .tinv _ a b => some (sform 63 0 a.toNat b.toNat, some (pack [(24, 0), (8, 23)]))
  | .tinvAll _ => some (sform 63 0 0 0, some (pack [(24, 1), (8, 23)]))
  | .lstat _ d a => some (sform 63 d.toNat a.toNat 0, some (pack [(24, 0), (8, 24)]))
  | _ => none

/-- Class, opcode and operands of a V word (R133). -/
def encodeV : Instr → Option (Nat × Nat × VOps)
  | .vadd _ o => some (0, 0, o)
  | .vsub _ o => some (0, 1, o)
  | .vmul _ o => some (0, 2, o)
  | .vmulh _ o => some (0, 3, o)
  | .vmin _ o => some (0, 4, o)
  | .vmax _ o => some (0, 5, o)
  | .vabs _ o => some (0, 6, o)
  | .vneg _ o => some (0, 7, o)
  | .vand _ o => some (0, 8, o)
  | .vor _ o => some (0, 9, o)
  | .vxor _ o => some (0, 10, o)
  | .vshl _ o => some (0, 11, o)
  | .vshr _ o => some (0, 12, o)
  | .vsar _ o => some (0, 13, o)
  | .vfadd _ o => some (1, 0, o)
  | .vfsub _ o => some (1, 1, o)
  | .vfmul _ o => some (1, 2, o)
  | .vfma _ o => some (1, 3, o)
  | .vfmin _ o => some (1, 4, o)
  | .vfmax _ o => some (1, 5, o)
  | .vfabs _ o => some (1, 6, o)
  | .vfneg _ o => some (1, 7, o)
  | .vcmpEq _ o => some (2, 0, o)
  | .vcmpNe _ o => some (2, 1, o)
  | .vcmpLt _ o => some (2, 2, o)
  | .vcmpLe _ o => some (2, 3, o)
  | .vcmpLo _ o => some (2, 4, o)
  | .vcmpLs _ o => some (2, 5, o)
  | .vfcmpEq _ o => some (2, 8, o)
  | .vfcmpNe _ o => some (2, 9, o)
  | .vfcmpLt _ o => some (2, 10, o)
  | .vfcmpLe _ o => some (2, 11, o)
  | .vsel _ o => some (2, 16, o)
  | .vcvt _ o => some (3, 0, o)
  | .vamax _ o => some (3, 1, o)
  | .vqcvt _ o => some (3, 2, o)
  | .vexp2 _ o => some (4, 0, o)
  | .vlog2 _ o => some (4, 1, o)
  | .vrcp _ o => some (4, 2, o)
  | .vrsqrt _ o => some (4, 3, o)
  | .vredadd _ o => some (5, 0, o)
  | .vredmax _ o => some (5, 1, o)
  | .vredmin _ o => some (5, 2, o)
  | .vperm _ o => some (6, 0, o)
  | .vslide _ o => some (6, 2, o)
  | .vbext _ o => some (7, 0, o)
  | .vfunnel _ o => some (7, 1, o)
  | .vpopc _ o => some (7, 2, o)
  | .vclz _ o => some (7, 3, o)
  | .vgets _ o => some (8, 1, o)
  | .vsets _ o => some (8, 2, o)
  | .vld _ o => some (9, 0, o)
  | .vldx _ o => some (9, 1, o)
  | .vst _ o => some (9, 2, o)
  | .vstx _ o => some (9, 3, o)
  | .vldg _ o => some (9, 4, o)
  | .vstg _ o => some (9, 5, o)
  | .vbadd _ o => some (10, 0, o)
  | .vbmul _ o => some (10, 1, o)
  | .vbmax _ o => some (10, 2, o)
  | .vaccept _ o => some (10, 3, o)
  | .vplogAnd _ o => some (11, 0, o)
  | .vplogOr _ o => some (11, 1, o)
  | .vplogXor _ o => some (11, 2, o)
  | .vplogAndn _ o => some (11, 3, o)
  | .vbcast _ o => some (6, 1, o)
  | .vbcastScalar _ o => some (6, 1, o)
  | .vmov _ o => some (8, 0, o)
  | .vmovMaskToV _ o => some (8, 0, o)
  | .vmovMaskToP _ o => some (8, 0, o)
  | _ => none
/-- Class, opcode and operand bits [167:0] of a T word (R134). -/
def encodeT : Instr → Option (Nat × Nat × Nat)
  | .mma _ o => some (0, 0, o.toNat)
  | .mms _ o => some (0, 1, o.toNat)
  | .mzero _ o => some (0, 2, o.toNat)
  | .mstore _ o => some (0, 3, o.toNat)
  | .mload _ o => some (0, 4, o.toNat)
  | .mwldWindow _ td w wb noff => some (1, 0, pack [(16, 0), (16, noff.toNat), (53, 0), (1, b2n wb), (69, 0), (1, 1), (4, w.toNat), (8, td.toNat)])
  | .mwldRange _ td rows wb koff noff => some (1, 0, pack [(16, 0), (16, noff.toNat), (16, 0), (16, koff.toNat), (21, 0),
      (1, b2n wb), (58, 0), (11, rows.toNat), (1, 0), (4, 0), (8, td.toNat)])
  | .mwswap _ wb => some (1, 1, pack [(85, 0), (1, b2n wb), (82, 0)])
  | .mnset _ level a b => some (2, 0, pack [(155, 0), (5, b.toNat), (5, a.toNat), (3, level.toNat)])
  | .mgo _ levels klevel _ => some (2, 1, pack [(162, 0), (3, klevel.toNat), (3, levels.toNat)])
  | .tdset _ td a => some (3, 0, pack [(155, 0), (5, a.toNat), (8, td.toNat)])
  | .tdget _ td a => some (3, 1, pack [(155, 0), (5, a.toNat), (8, td.toNat)])
  | .twin _ td w a b lv => some (3, 2, pack [(143, 0), (2, lv.toNat), (5, b.toNat), (5, a.toNat), (1, 0), (4, w.toNat), (8, td.toNat)])
  | .twinGet _ w a b => some (3, 2, pack [(145, 0), (5, b.toNat), (5, a.toNat), (1, 1), (4, w.toNat), (8, 0)])
  | .tcut _ td w budget level span => some (4, 0, pack [(131, 0), (10, span.toNat), (1, 0), (2, level.toNat), (12, budget.toNat),
      (4, w.toNat), (8, td.toNat)])
  | .tcocut _ td w l dim => some (4, 1, pack [(150, 0), (2, dim.toNat), (4, l.toNat), (4, w.toNat), (8, td.toNat)])
  | .tmerge _ wd wa wb mode otd => some (4, 2, pack [(136, 0), (8, otd.toNat), (3, 0), (1, b2n mode), (4, wb.toNat), (4, wa.toNat), (4, wd.toNat), (8, 0)])
  | .tnext _ w => some (4, 3, pack [(156, 0), (4, w.toNat), (8, 0)])
  | .xprog _ pair a b csel => some (5, 0, pack [(64, 0), (8, csel.toNat), (73, 0), (5, b.toNat), (5, a.toNat), (10, 0), (3, pair.toNat)])
  | .xverify _ pair a tol csel => some (5, 1, pack [(64, 0), (8, csel.toNat), (69, 0), (4, tol.toNat), (5, 0), (5, a.toNat), (10, 0), (3, pair.toNat)])
  | .xcal _ xb csel => some (5, 2, pack [(64, 0), (8, csel.toNat), (92, 0), (4, xb.toNat)])
  | .xmvm _ pair d a b p sgn rm csel => some (5, 3, pack [(64, 0), (8, csel.toNat), (40, 0), (2, rm.toNat), (27, 0), (1, b2n sgn), (3, p.toNat),
      (5, b.toNat), (5, a.toNat), (10, d.toNat), (3, pair.toNat)])
  | .xstat _ xb d field col => some (5, 4, pack [(146, 0), (9, col.toNat), (4, field.toNat), (5, d.toNat), (4, xb.toNat)])
  | .xerase _ xb csel => some (5, 5, pack [(64, 0), (8, csel.toNat), (92, 0), (4, xb.toNat)])
  | _ => none

/-- A word of stream `c` that carries a scalar body: the body itself in A and S, a carrier in V and T (R120, R135). -/
def carry (c : Cluster) (h : Hdr) (body : Nat) : Nat :=
  match c with
  | .A | .S => pack [(21, body), (11, h.toNat)]
  | .V => pack [(21, body), (60, 0), (4, 15), (11, h.toNat)]
  | .T => pack [(21, body), (156, 0), (4, 15), (11, h.toNat)]

/-- The word an mgo's template is written as: an mma under a header of zeros (R215). -/
def templateWord : Option MOps → Nat
  | some o => pack [(168, o.toNat), (24, 0)]
  | none => 2 ^ 181 - 1

/-- The encoder: the words of an instruction in stream `c`, none for an event or a word the stream does not hold. -/
def encode (c : Cluster) (i : Instr) : List Nat :=
  match i.hdr? with
  | none => []
  | some h =>
    match encodeBody i, c, encodeV i, encodeT i with
    | some (b, lit), c, _, _ => carry c h b :: lit.toList
    | none, .V, some (cls, op, o), _ => [pack [(72, o.toNat), (9, op), (4, cls), (11, h.toNat)]]
    | none, .T, _, some (cls, op, w) =>
      pack [(168, w), (9, op), (4, cls), (11, h.toNat)] ::
        (match i with | .mgo _ _ _ t => [templateWord t] | _ => [])
    | _, _, _, _ => []

/-- Words an instruction takes in its stream: two for the two-word forms and for an mgo with its template (R115, R215). -/
def Instr.words (i : Instr) : Nat :=
  match i with
  | .mgo _ _ _ _ => 2
  | _ => match encodeBody i with
    | some (_, some _) => 2
    | _ => 1

/-- The instruction the decoder reads from the bits of a table row's word: 32 or 64 bits are A-stream words, 96 a V word, 192
    or 384 T words. -/
def decodeTableWord (nbits w : Nat) : Option Instr :=
  if nbits ≤ 64 then (decode .A (w % 2 ^ 32) (w / 2 ^ 32 % 2 ^ 32)).toOption
  else if nbits ≤ 96 then (decode .V (w % 2 ^ 96) 0).toOption
  else if nbits ≤ 192 then (decode .T (w % 2 ^ 192) 0).toOption
  else (decode .T (w % 2 ^ 192) (w / 2 ^ 192 % 2 ^ 192)).toOption

end Sys2Proof
end

