-- ==== Sys2Proof/Machine/Check.lean ====
section
/-! DEFINITION. The checks of R131 that a decoded word can still fail (orders 5 to 12), in their order, and the list of R49
    for order 13. A failing check names the fate; the word does not execute. -/

namespace Sys2Proof

/-- The first failing check decides (R131). -/
def firstBad : List (Bool × Bad) → Option Bad
  | [] => none
  | (true, b) :: _ => some b
  | (false, _) :: r => firstBad r

/-- ILLOP 0x02: reserved bits, unused fields, X, forms that must be unguarded (R131). -/
def bad02 (c : Bool) : Bool × Bad := (c, .illop 0x02)
/-- ILLOP 0x03: register code, control register number, predicate use. -/
def bad03 (c : Bool) : Bool × Bad := (c, .illop 0x03)
/-- ILLOP 0x04: stride. -/
def bad04 (c : Bool) : Bool × Bad := (c, .illop 0x04)
/-- ILLOP 0x05: reserved code of an enumerated field. -/
def bad05 (c : Bool) : Bool × Bad := (c, .illop 0x05)
/-- ILLOP 0x06: field value meaningless for the operation. -/
def bad06 (c : Bool) : Bool × Bad := (c, .illop 0x06)
/-- ILLOP 0x0E: immediate or count beyond its limit. -/
def bad0E (c : Bool) : Bool × Bad := (c, .illop 0x0E)
/-- ILLTYPE: b32 in a field that requires an exact type. -/
def badTy (c : Bool) : Bool × Bad := (c, .illtype)

/-- X = cat(G, N) of an unguarded word; 0 when the word is guarded (R118). -/
def Hdr.x (h : Hdr) : Nat := if h.e then 0 else 2 * h.g.toNat + b2n h.n

/-- X is not zero (R118). -/
def Hdr.hasX (h : Hdr) : Bool := h.x != 0

/-! Element types (R57). -/

/-- i8, n8, i16, i32, i4. -/
def isInt (t : Nat) : Bool := t == 0 || t == 1 || t == 2 || t == 3 || t == 8
/-- bf16, f16, f32. -/
def isFlt (t : Nat) : Bool := t == 5 || t == 6 || t == 7

/-- Element width in bits (R57); a mask counts as 1. -/
def typeWidth (t : Nat) : Nat :=
  if t == 0 || t == 1 || t == 4 then 8 else if t == 2 || t == 5 || t == 6 then 16 else if t == 8 then 4 else if t == 10 then 1 else 32

/-- Smallest value of an integer type. -/
def intMin (t : Nat) : Int := if t == 1 then 0 else -(2 ^ (typeWidth t - 1) : Nat)
/-- Largest value of an integer type. -/
def intMax (t : Nat) : Int := if t == 1 then 255 else (2 ^ (typeWidth t - 1) : Nat) - 1

/-- What a V opcode uses of the word: D, A, B, a third name in C, the bits of C, and the types it takes; whether RM and SAT
    may be nonzero (R128, R133). -/
structure VForm where
  d : Bool
  a : Bool
  b : Bool
  c3 : Bool
  cmask : Nat
  types : Nat → Bool
  b32Exact : Bool
  rnd : Bool
  sat : Bool
  w2 : Bool

/-- A register name that its role does not allow (R129), a latch in a paired word among them (R173). -/
def nameBad (use write w2 : Bool) (n : Nat) : Bool := use && (n ≥ 640 || ((write || w2) && n ≥ 576))

/-- A stride that the name does not allow (R130). -/
def strideBad (use : Bool) (n st : Nat) : Bool :=
  use && (st == 7 || (st != 0 && n ≥ 576) || (st == 5 && !(448 ≤ n && n < 512)))

/-- The checks of a V word in the order of R131; the arguments `x05` to `x12` are an opcode's own checks. RM or SAT on an opcode that does not
    use it, which R128 and R185 refuse without a sub-code, is check 10 (log 34; DEDUCED). -/
def vCheck (h : Hdr) (o : VOps) (f : VForm) (x02 x03 x05 x06 x0E x12 : Bool) : Option Bad :=
  let t := o.typ.toNat
  let c := o.c.toNat
  let pair := f.w2 && o.w2
  firstBad [
    bad02 (h.hasX || (!f.d && (o.d != 0 || o.ds != 0)) || (!f.a && (o.a != 0 || o.as != 0))
      || (!f.b && (o.b != 0 || o.bs != 0)) || (o.c &&& ~~~(BitVec.ofNat 25 f.cmask)) != 0 || x02),
    bad03 (nameBad f.d true pair o.d.toNat || nameBad f.a false pair o.a.toNat || nameBad f.b false pair o.b.toNat
      || nameBad f.c3 false pair (bits c 24 15) || x03),
    bad04 (strideBad f.d o.d.toNat o.ds.toNat || strideBad f.a o.a.toNat o.as.toNat || strideBad f.b o.b.toNat o.bs.toNat
      || strideBad f.c3 (bits c 24 15) (bits c 14 12)),
    bad05 (t > 10 || x05),
    bad06 ((!f.types t && !(t == 9 && f.b32Exact)) || (!f.rnd && o.rm != 0) || (!f.sat && o.sat) || (!f.w2 && o.w2) || x06),
    bad0E x0E,
    badTy ((t == 9 && f.b32Exact && !f.types t) || x12)]

/-- The usual form: exact types, nothing optional. -/
def VForm.base (types : Nat → Bool) : VForm :=
  { d := true, a := true, b := true, c3 := false, cmask := 0, types := types, b32Exact := true, rnd := false, sat := false, w2 := false }

/-- IMM of a class 0 word as a value of its type (R172). -/
def immOf (t c : Nat) : Int := if t == 1 then ((c % 2 ^ 16 : Nat) : Int) else signedOf 16 c

/-- Class 0, binary (R172). -/
def checkVInt (h : Hdr) (o : VOps) (sat : Bool) : Option Bad :=
  let c := o.c.toNat
  let im := bit c 24
  let v := immOf o.typ.toNat c
  vCheck h o { VForm.base isInt with cmask := 0x100FFFF, sat := sat } (if im then o.b != 0 || o.bs != 0 else c != 0) false false false
    (im && !(decide (intMin o.typ.toNat ≤ v) && decide (v ≤ intMax o.typ.toNat))) false

/-- A unary word: B and C zero. -/
def checkVUnary (h : Hdr) (o : VOps) (types : Nat → Bool) (rnd sat : Bool) : Option Bad :=
  vCheck h o { VForm.base types with b := false, rnd := rnd, sat := sat } false false false false false false

/-- Class 4 (R73, R180). Any other element type is ILLOP, b32 too: R73 says so for the class, and R133's ILLTYPE is read as meant for the other
    classes (log 34; DEDUCED). -/
def checkVSpecial (h : Hdr) (o : VOps) : Option Bad :=
  vCheck h o { VForm.base (fun t => t == 7) with b := false, b32Exact := false, rnd := true } false false false false false false

/-- Class 1, ops 0 to 2 (R173). -/
def checkVFlt (h : Hdr) (o : VOps) : Option Bad :=
  vCheck h o { VForm.base isFlt with rnd := true, w2 := true } false false false false false false

/-- vcmp and vfcmp (R174). ANY on a 32-bit type, which R174 forbids without a sub-code, is a field value meaningless for the operation (log 34;
    DEDUCED). -/
def checkVCmp (h : Hdr) (o : VOps) (types : Nat → Bool) : Option Bad :=
  let c := o.c.toNat
  vCheck h o { VForm.base types with d := false, cmask := 0x1F } false (bits c 3 0 == 0) false (bit c 4 && typeWidth o.typ.toNat == 32) false false

/-- vplog (R176). The class is taken as exact, so that b32 is ILLTYPE (R133; log 34; DEDUCED). -/
def checkVPlog (h : Hdr) (o : VOps) : Option Bad :=
  vCheck h o { VForm.base (fun t => t == 10) with d := false, a := false, b := false, cmask := 0xFFF } false
    (bits o.c.toNat 11 8 == 0) false false false false

/-- vcvt (R177). -/
def checkVCvt (h : Hdr) (o : VOps) : Option Bad :=
  let t := o.typ.toNat
  let c := o.c.toNat
  let s := bits c 3 0
  let ints := isInt s && isInt t
  let ws := typeWidth s
  let wd := typeWidth t
  vCheck h o { VForm.base (fun t => t < 9) with b := false, cmask := 0x7F, rnd := true, sat := true } false false (s > 10)
    (s == 10 || (o.rm != 0 && (t == 4 || ints)) || (o.sat && !(ints && ws > wd)))
    (decide (bits c 6 4 ≥ (max ws wd) / (min ws wd))) (s == 9)

/-- vamax (R178). It is taken as an opcode that does not round, so that RM must be 0 (R76, R128; log 34; DEDUCED). -/
def checkVAmax (h : Hdr) (o : VOps) : Option Bad :=
  vCheck h o { VForm.base isFlt with b := false } false (o.typ == 7 && o.a.toNat ≥ 576) false false false false

/-- vqcvt (R179). -/
def checkVQcvt (h : Hdr) (o : VOps) : Option Bad :=
  let s := bits o.c.toNat 3 0
  vCheck h o { VForm.base (fun t => t == 4) with b := false, cmask := 0x1F } false (s == 7 && o.a.toNat ≥ 576) (s > 10)
    (!isFlt s && s != 9) false (s == 9)

/-- Class 5 (R181): RM applies to float types, SAT to integer vredadd. -/
def checkVRed (h : Hdr) (o : VOps) (add : Bool) : Option Bad :=
  let t := o.typ.toNat
  let int := isInt t
  vCheck h o { VForm.base (fun t => (isInt t && t != 8) || isFlt t) with b := false, rnd := true, sat := true } false false false
    ((int && o.rm != 0) || (o.sat && !(int && add))) false false

/-- The types of class 6 (R182). -/
def permType (t : Nat) : Bool := t < 8

/-- The types of class 7 (R183). -/
def bitType (t : Nat) : Bool := t < 4

/-- Elements of a type in a register (R57). -/
def elems (t : Nat) : Nat := 2048 / typeWidth t

/-- vld, vst, vldg, vstg (R185, R186). -/
def checkVMem (h : Hdr) (o : VOps) (load glob : Bool) : Option Bad :=
  vCheck h o { VForm.base (fun t => t != 9) with d := load, a := false, b := !load, cmask := 0x1F00000 + (if glob then 0xFE000 else 0) + (if load then 0x1E00 else 0) + 0x1FF } false false false false false false

/-- vldx, vstx: any type but i32 and f32 is 0x06, b32 too (R187). -/
def checkVIdx (h : Hdr) (o : VOps) (load : Bool) : Option Bad :=
  vCheck h o { VForm.base (fun t => t == 3 || t == 7) with b32Exact := false, d := load, b := !load, cmask := 0x1F00000 + (if load then 0x1E00 else 0) + 0x7F } false false false false false false

/-- Class 10, ops 0 to 2 (R192). -/
def checkVBnd (h : Hdr) (o : VOps) (rnd : Bool) : Option Bad :=
  vCheck h o { VForm.base (fun t => t == 9) with b32Exact := false, rnd := rnd } false false false false false false

/-- CSEL's code 3 is reserved, and its other bits depend on the action (R213). -/
def cselJunk (c : BitVec 8) : Bool :=
  match c.toNat / 64 with
  | 0 => c.toNat % 64 != 0
  | 1 => c.toNat / 16 % 4 != 0
  | 2 => c.toNat / 2 % 32 != 0
  | _ => false

/-- The type pairs of R209. -/
def pairOk (a b : Nat) : Bool := (a == 4 && b == 4) || (a == 0 && b == 0) || (a == 1 && b == 0) || (a == 5 && b == 5) || (a == 6 && b == 6)

/-- mma and mms (R134, R209 to R211, R219). -/
def checkStep (h : Hdr) (o : MOps) (sparse : Bool) : Option Bad :=
  let a := o.aty.toNat
  let fp := a == 4 || a == 5 || a == 6
  firstBad [
    bad02 (h.hasX || o.oty != 0 || o.otd != 0 || o.btd != 0 || cselJunk o.csel
      || (if sparse then o.atd != 0 || o.m != 0 || o.k != 0 || o.koff != 0 || o.moff != 0 else o.aw != 0 || o.bw != 0)
      || (pairOk a o.bty.toNat && a != 4 && (o.sa != 0 || o.sb != 0))),
    bad05 (o.aty.toNat > 10 || o.bty.toNat > 10 || o.am.toNat ≥ 2 || o.spm.toNat ≥ 2 || o.csel.toNat ≥ 192),
    bad06 (!pairOk a o.bty.toNat || (o.spm == 1) != sparse || (!fp && o.rm != 0) || (fp && o.sat)),
    bad0E (o.m.toNat ≥ 128 || o.n.toNat ≥ 128 || o.k.toNat ≥ 128 || (o.qj && (o.m != 0 || o.n != 0)))]

/-- mzero, mstore, mload (R212): fields beyond those of their rows are zero. -/
def checkMove (h : Hdr) (o : MOps) (io store : Bool) : Option Bad :=
  let t := o.oty.toNat
  let flt := t == 4 || isFlt t
  let int := t == 0 || t == 1 || t == 2 || t == 3
  firstBad [
    bad02 (h.hasX || o.atd != 0 || o.aw != 0 || o.btd != 0 || o.bw != 0 || o.am != 0 || o.sa != 0 || o.sb != 0 || o.aty != 0
      || o.bty != 0 || o.k != 0 || o.koff != 0 || o.spm != 0 || o.wb || o.csel != 0 || (!store && (o.sat || o.rm != 0))
      || (!io && (o.otd != 0 || o.oty != 0 || o.m != 0 || o.n != 0 || o.moff != 0 || o.noff != 0))),
    bad05 (t > 10),
    bad06 (o.qj || (store && (!(flt || int) || (flt && o.sat) || (t == 4 && o.rm != 0) || (int && o.rm != 0)))
      || (io && !store && !(t == 3 || t == 7))),
    bad0E (o.m.toNat ≥ 128 || o.n.toNat ≥ 128)]

/-- A T word of classes 1 to 5: X unused, then the checks given. -/
def tCheck (h : Hdr) (x02 x03 x05 x06 x0E : Bool) : Option Bad :=
  firstBad [bad02 (h.hasX || x02), bad03 x03, bad05 x05, bad06 x06, bad0E x0E]

/-- A scalar body that uses no X. -/
def sCheck (h : Hdr) (x02 x03 x05 x06 x0E : Bool) : Option Bad :=
  firstBad [bad02 (h.hasX || x02), bad03 x03, bad05 x05, bad06 x06, bad0E x0E]

/-- An escape: unguarded (R117), no X. -/
def eCheck (h : Hdr) (x02 x03 x05 x06 x0E : Bool) : Option Bad :=
  firstBad [bad02 (h.hasX || x02), bad02 h.e, bad03 x03, bad05 x05, bad06 x06, bad0E x0E]

/-- The unsigned count of shli, shri and sari (R120). -/
def shiftCount (h : Hdr) (k : BitVec 5) : Nat := 32 * h.x + k.toNat

/-- Control register numbers of R126. -/
def ctrlReg (r : BitVec 10) : Bool := r.toNat ≤ 0x0C || (0x10 ≤ r.toNat && r.toNat ≤ 0x12)

/-- amo and red (R124, R248). -/
def checkAtom (h : Hdr) (d : Reg) (m : AtomLit) (red : Bool) : Option Bad :=
  let op := m.op.toNat
  eCheck h (red && (m.res || d != 0)) false (op > 7 || m.use.toNat > 4)
    (m.wd.toNat < 2 || (m.fp && m.wd == 3) || (m.fp && op > 2) || (m.uns && !(op == 1 || op == 2)) || (m.fp && m.uns)
      || (!red && m.use == 3) || (red && op ≥ 6) || (!red && op == 7 && !m.res)) false

/-- The barrier named by a literal (R336): LV 3 and numbers beyond the level. -/
def barBad (lv : BitVec 2) (num : BitVec 8) : Bool :=
  lv == 3 || (lv == 0 && num.toNat > 15) || (lv == 1 && num.toNat > 63)

/-- The checks of R131 with orders 5 to 12. -/
def Instr.check : Instr → Option Bad
  | .add h _ _ _ | .sub h _ _ _ | .and h _ _ _ | .or h _ _ _ | .xor h _ _ _ | .shl h _ _ _ | .shr h _ _ _ | .sar h _ _ _ | .mul h _ _ _ | .mulhs h _ _ _ | .mulhn h _ _ _ | .divs h _ _ _ | .divn h _ _ _ | .rems h _ _ _ | .remn h _ _ _ | .min h _ _ _ | .max h _ _ _ =>
      sCheck h false false false false false
  | .sel h _ _ _ => firstBad [bad02 h.e]
  | .addi _ _ _ _ | .andi _ _ _ _ | .ori _ _ _ _ => none
  | .shli h _ _ k | .shri h _ _ k | .sari h _ _ k => firstBad [bad0E (shiftCount h k > 63)]
  | .limm h _ _ _ => sCheck h false false false false false
  | .plog h _ pd _ _ => sCheck h false (pd == 0) false false false
  | .cmpEq h pd _ _ | .cmpNe h pd _ _ | .cmpLt h pd _ _ | .cmpLe h pd _ _ | .cmpLo h pd _ _ | .cmpLs h pd _ _ => sCheck h false (pd == 0) false false false
  | .cmpiEq _ pd _ _ | .cmpiNe _ pd _ _ | .cmpiLt _ pd _ _ | .cmpiLe _ pd _ _ | .cmpiLo _ pd _ _ | .cmpiLs _ pd _ _ => firstBad [bad03 (pd == 0)]
  | .br _ _ | .brp _ _ _ _ | .call _ _ _ | .lbr _ _ => none
  | .jmp h _ | .ret h _ => sCheck h false false false false false
  | .loop h _ f => firstBad [bad02 (h.x ≥ 8), bad02 h.e, bad0E (f == 0)]
  | .getc h _ r | .setc h _ r => sCheck h false (!ctrlReg r) false false false
  | .tkrd h _ _ | .tkwr h _ _ => sCheck h false false false false false
  | .cwait h nl ns _ ts => sCheck h false false false false (nl.toNat > 64 || ns.toNat > 64 || ts.toNat > 32)
  | .ld h _ _ _ m => sCheck h (!m.pp && m.pd != 0) (m.pp && m.pd == 0) false false false
  | .st h _ _ _ m => sCheck h (m.pd != 0) false false m.pp false
  | .nop h => sCheck h false false false false false
  | .trap h _ | .eret h | .bkpt h _ | .yield h | .tend h | .mark h => eCheck h false false false false false
  | .waita h _ _ cc => eCheck h false false (cc.toNat > 5) false false
  | .signal h d _ _ self => eCheck h (self && d != 0) false false false false
  | .lmode h _ => eCheck h false false false false false
  | .phase h n => eCheck h false false false false (n.toNat > 4)
  | .release h scope | .acquire h scope => eCheck h false false (scope.toNat > 4) false false
  | .xlat h _ _ pd => eCheck h false (pd == 0) false false false
  | .rprobe h _ _ _ => eCheck h false false false false false
  | .amo h d _ _ m => checkAtom h d m false
  | .red h d _ _ m => checkAtom h d m true
  | .cpq h _ _ _ | .gath h _ _ _ | .scat h _ _ _ => eCheck h false false false false false
  | .cptail h _ _ n => eCheck h false false false false (n == 0)
  | .dgld h d _ _ _ _ => eCheck h false (d == 0 || d.getLsbD 0) false false false
  | .dgq h _ _ _ _ _ _ test => eCheck h false false false false (test.toNat > 2)
  | .dgseal h _ _ _ _ => eCheck h false false false false false
  | .owng h _ _ cls => eCheck h false false false false (cls == 0 || cls.toNat > 4)
  | .ownt h _ _ | .ownw h _ _ => eCheck h false false false false false
  | .cflush h _ _ _ _ scope | .cinv h _ _ _ _ scope => eCheck h false false (scope.toNat > 4) false false
  | .cway h _ _ _ _ => eCheck h false false false false false
  | .lpatch h _ _ _ field => eCheck h false false false false (field.toNat > 22)
  | .larm h _ _ | .qapp h _ _ _ => eCheck h false false false false false
  | .binit h _ _ lv num | .barv h _ lv num | .bwait h _ _ lv num => eCheck h false false false false (barBad lv num)
  | .pmig h _ _ tier => eCheck h false false false false (tier == 3)
  | .pmigAbort h _ _ | .pheat h _ _ | .tinv h _ _ | .tinvAll h | .lstat h _ _ => eCheck h false false false false false
  | .vadd h o | .vsub h o | .vmul h o | .vshl h o => checkVInt h o true
  | .vmulh h o | .vmin h o | .vmax h o | .vand h o | .vor h o | .vxor h o | .vshr h o | .vsar h o => checkVInt h o false
  | .vabs h o | .vneg h o => checkVUnary h o isInt false true
  | .vfadd h o | .vfsub h o | .vfmul h o => checkVFlt h o
  | .vfma h o => vCheck h o { VForm.base isFlt with c3 := true, cmask := 0x1FFF000, rnd := true, w2 := true } false false false false false false
  | .vfmin h o | .vfmax h o => vCheck h o (VForm.base isFlt) false false false false false false
  | .vfabs h o | .vfneg h o => checkVUnary h o isFlt false false
  | .vcmpEq h o | .vcmpNe h o | .vcmpLt h o | .vcmpLe h o | .vcmpLo h o | .vcmpLs h o => checkVCmp h o isInt
  | .vfcmpEq h o | .vfcmpNe h o | .vfcmpLt h o | .vfcmpLe h o => checkVCmp h o isFlt
  | .vsel h o => vCheck h o { VForm.base (fun t => t < 9) with cmask := 0x1F } false false false false false false
  | .vplogAnd h o | .vplogOr h o | .vplogXor h o | .vplogAndn h o => checkVPlog h o
  | .vcvt h o => checkVCvt h o
  | .vamax h o => checkVAmax h o
  | .vqcvt h o => checkVQcvt h o
  | .vexp2 h o | .vlog2 h o | .vrcp h o | .vrsqrt h o => checkVSpecial h o
  | .vredadd h o => checkVRed h o true
  | .vredmax h o | .vredmin h o => checkVRed h o false
  | .vperm h o => vCheck h o (VForm.base permType) false false false false false false
  | .vbcast h o => vCheck h o { VForm.base permType with b := false, cmask := 0x1FF } false false false false
      (bits o.c.toNat 8 0 ≥ elems o.typ.toNat) false
  | .vbcastScalar h o => vCheck h o { VForm.base permType with a := false, b := false, cmask := 0x11F0000 } false false false false false false
  | .vslide h o => vCheck h o { VForm.base permType with cmask := 0x3FF } false false false false
      ((signedOf 10 o.c.toNat).natAbs > elems o.typ.toNat - 1) false
  | .vbext h o => vCheck h o { VForm.base bitType with b := false, cmask := 0x3FF } false false false false
      (bits o.c.toNat 9 5 + bits o.c.toNat 4 0 + 1 > typeWidth o.typ.toNat) false
  | .vfunnel h o => vCheck h o { VForm.base bitType with cmask := 0x3F } false false false false (bits o.c.toNat 5 0 > typeWidth o.typ.toNat) false
  | .vpopc h o | .vclz h o => checkVUnary h o bitType false false
  | .vmov h o => vCheck h o { VForm.base (fun t => t < 10) with b := false, b32Exact := false } false false false false false false
  | .vmovMaskToV h o => vCheck h o { VForm.base (fun t => t == 10) with a := false, b := false, cmask := 0x1F } false false false false false false
  | .vmovMaskToP h o => vCheck h o { VForm.base (fun t => t == 10) with d := false, b := false, cmask := 0x1F } false
      (bits o.c.toNat 3 0 == 0) false false false false
  | .vgets h o => vCheck h o { VForm.base (fun t => t == 3 || t == 7) with d := false, b := false, b32Exact := false, cmask := 0x1F003F }
      false false false false false false
  | .vsets h o => vCheck h o { VForm.base (fun t => t == 3 || t == 7) with a := false, b := false, b32Exact := false, cmask := 0x1F003F }
      false false false false false false
  | .vld h o => checkVMem h o true false
  | .vldx h o => checkVIdx h o true
  | .vst h o => checkVMem h o false false
  | .vstx h o => checkVIdx h o false
  | .vldg h o => checkVMem h o true true
  | .vstg h o => checkVMem h o false true
  | .vbadd h o | .vbmul h o => checkVBnd h o true
  | .vbmax h o => checkVBnd h o false
  | .vaccept h o => vCheck h o { VForm.base (fun t => t == 9) with b := false, b32Exact := false, cmask := 0x1F000F } false
      (bits o.c.toNat 3 0 == 0) false false false false
  | .mma h o => checkStep h o false
  | .mms h o => checkStep h o true
  | .mzero h o => checkMove h o false false
  | .mstore h o => checkMove h o true true
  | .mload h o => checkMove h o true false
  | .mwldWindow h _ _ _ _ => tCheck h false false false false false
  | .mwldRange h _ rows _ _ _ => tCheck h false false false false (rows == 0 || rows.toNat > 1024)
  | .mwswap h _ => tCheck h false false false false false
  | .mnset h level _ _ => tCheck h false false false false (level.toNat > 5)
  | .mgo h levels klevel tmpl => tCheck h false false false
      (match tmpl with | some o => (checkStep { e := false, g := 0, n := false, y := false, k := 0 } o false).isSome | none => true)
      (levels.toNat > 5 || klevel.toNat > levels.toNat)
  | .tdset h _ _ | .tdget h _ _ => tCheck h false false false false false
  | .twin h _ _ _ _ _ | .twinGet h _ _ _ => tCheck h false false false false false
  | .tcut h _ _ _ level _ => tCheck h false false false false (level == 0)
  | .tcocut h _ _ _ _ | .tmerge h _ _ _ _ _ | .tnext h _ => tCheck h false false false false false
  | .xprog h _ _ _ csel | .xverify h _ _ _ csel | .xcal h _ csel | .xerase h _ csel =>
      tCheck h (cselJunk csel) false (csel.toNat ≥ 192) false false
  | .xmvm h _ d _ _ _ _ _ csel => tCheck h (cselJunk csel) (d.toNat % 8 != 0 || d.toNat > 504) (csel.toNat ≥ 192) false false
  | .xstat h _ _ field col => tCheck h (field.toNat < 9 && col != 0) false false false (field.toNat > 11 || (field == 11 && col.toNat > 7))
  | _ => none

/-- A check of R131 before its tenth. -/
def Bad.early : Bad → Bool
  | .illop n => n == 0x08 || n.toNat ≤ 5 || n == 0x07 || n == 0x0C
  | .illtype => false

/-- A word that check 10 refuses: an earlier check decides first (R131). -/
def lateBad (r : Dec) : Dec :=
  match (match r with | .ok i => i.check | .bad b => some b) with
  | some b => if b.early then .bad b else .bad (.illop 0x06)
  | none => .bad (.illop 0x06)

/-- The decoder with the order of R131 kept where check 10 refuses a word that is decoded no further: W2 on a carrier (R128), and a float
    compare with the codes lo and ls, which is checked as one with the codes lt and le. -/
def decodeAt (c : Cluster) (w next : Nat) : Dec :=
  if c != .V then decode c w next
  else if bits w 84 81 == 15 && bit w 64 then lateBad (decode c (w - 2 ^ 64) next)
  else if bits w 84 81 == 2 && (bits w 80 72 == 12 || bits w 80 72 == 13) then lateBad (decode c (w - 2 * 2 ^ 72) next)
  else decode c w next

/-- The words whose result reaches a register after a variable time: ILLOP 0x0B in exposed mode (R49; R131, check 13). -/
def Instr.varTime : Instr → Bool
  | .ld _ _ _ _ m => m.sp
  | .amo _ _ _ _ m => m.res
  | .vldg _ _ | .dgld _ _ _ _ _ _ | .dgq _ _ _ _ _ _ _ _ | .rprobe _ _ _ _ | .bwait _ _ _ _ _ | .xstat _ _ _ _ _
  | .twinGet _ _ _ _ | .binit _ _ _ _ _ | .barv _ _ _ _ | .cway _ _ _ _ _ | .qapp _ _ _ _ | .lpatch _ _ _ _ _
  | .larm _ _ _ | .pmig _ _ _ _ | .pmigAbort _ _ _ | .pheat _ _ _ | .lstat _ _ _ => true
  | _ => false

/-- The task-level instructions (R32). -/
def Instr.taskLevel : Instr → Bool
  | .tend _ | .waita _ _ _ _ | .bwait _ _ _ _ _ | .yield _ | .rprobe _ _ _ _ => true
  | _ => false

/-- The V, T and S copies of a task-level instruction name s0 and hold zero in every literal field (R32). -/
def Instr.plainCopy : Instr → Bool
  | .waita _ a b cc => a == 0 && b == 0 && cc == 0
  | .bwait _ d a lv num => d == 0 && a == 0 && lv == 0 && num == 0
  | .rprobe _ d a b => d == 0 && a == 0 && b == 0
  | _ => true

end Sys2Proof
end

