-- ==== Sys2Proof/Machine/Flags.lean ====
section
/-! DEFINITION. The sticky flags of AFLAGS (R61). -/

namespace Sys2Proof

/-- A set of AFLAGS bits. -/
abbrev Fl := BitVec 8

/-- An invalid operation, bit 0. -/
def flIV : Fl := 0x01
/-- A division by zero or a pole, bit 1. -/
def flDZ : Fl := 0x02
/-- Overflow, bit 2. -/
def flOF : Fl := 0x04
/-- Underflow, bit 3; V cluster only. -/
def flUF : Fl := 0x08
/-- Inexact, bit 4; V cluster only. -/
def flNX : Fl := 0x10
/-- A conversion into e4m3 saturated, bit 5. -/
def flES : Fl := 0x20
/-- An integer result was clamped, bit 6. -/
def flIS : Fl := 0x40
/-- Quantisation bypass gap or overflow, bit 7. -/
def flQG : Fl := 0x80

/-- A flag under a condition. -/
def flIf (c : Bool) (f : Fl) : Fl := if c then f else 0

/-- What the T cluster can set: IV, OF, ES and IS, never NX or UF (R61). -/
def flTensor (f : Fl) : Fl := f &&& 0x65

end Sys2Proof
end

