-- ==== Sys2Proof/Machine/Fp.lean ====
section
/-! DEFINITION. Number formats and their arithmetic, computed exactly and rounded once (R57 to R65, R72 to R77, R80). A
    floating-point result is a bit pattern with the flags it raises. -/

namespace Sys2Proof

/-- A floating-point value: NaN (signalling or not), infinity, or plus or minus m times 2^e. -/
inductive FVal
  | nan (sig : Bool)
  | inf (neg : Bool)
  | fin (neg : Bool) (m : Nat) (e : Int)
  deriving DecidableEq, Repr

/-- Exponent and fraction widths of an IEEE format (R57). -/
structure Fmt where
  ew : Nat
  mw : Nat
  deriving DecidableEq, Repr

/-- binary32. -/
def fmtF32 : Fmt := { ew := 8, mw := 23 }
/-- bf16. -/
def fmtBf16 : Fmt := { ew := 8, mw := 7 }
/-- binary16. -/
def fmtF16 : Fmt := { ew := 5, mw := 10 }

/-- The format of bf16 (5), f16 (6) and f32 (7). -/
def fmtOf (t : Nat) : Fmt := if t == 5 then fmtBf16 else if t == 6 then fmtF16 else fmtF32

/-- Exponent bias. -/
def Fmt.bias (f : Fmt) : Nat := 2 ^ (f.ew - 1) - 1
/-- The pattern of +infinity. -/
def Fmt.infBits (f : Fmt) : Nat := (2 ^ f.ew - 1) * 2 ^ f.mw
/-- The sign bit's weight. -/
def Fmt.signBit (f : Fmt) : Nat := 2 ^ (f.ew + f.mw)
/-- The default NaN (R59). -/
def Fmt.dnan (f : Fmt) : Nat := f.infBits + 2 ^ (f.mw - 1)

/-- The value of an IEEE pattern. -/
def Fmt.decode (f : Fmt) (w : Nat) : FVal :=
  let frac := w % 2 ^ f.mw
  let ex := w / 2 ^ f.mw % 2 ^ f.ew
  let neg := bit w (f.ew + f.mw)
  if ex == 2 ^ f.ew - 1 then (if frac == 0 then .inf neg else .nan (!bit frac (f.mw - 1)))
  else if ex == 0 then .fin neg frac (1 - (f.bias : Int) - f.mw)
  else .fin neg (2 ^ f.mw + frac) ((ex : Int) - f.bias - f.mw)

/-- The value of an e4m3 pattern (R58). -/
def e4m3Val (w : Nat) : FVal :=
  let m := w % 8
  let ex := w / 8 % 16
  let neg := bit w 7
  if ex == 15 && m == 7 then .nan false
  else if ex == 0 then .fin neg m (-9)
  else .fin neg (8 + m) ((ex : Int) - 10)

/-- The value of an element of a float type, e4m3 included. -/
def fvalOf (t w : Nat) : FVal := if t == 4 then e4m3Val w else (fmtOf t).decode w

/-- The default NaN of a float type (R59). -/
def dnanOf (t : Nat) : Nat := if t == 4 then 0x7F else (fmtOf t).dnan

/-- Whether rounding moves the magnitude up: `n` floor, `r` over `d` the remainder (R60). -/
def roundUp (rm : Nat) (neg : Bool) (n r d : Nat) : Bool :=
  match rm with
  | 0 => decide (2 * r > d) || (2 * r == d && n % 2 == 1)
  | 1 => false
  | 2 => !neg && r != 0
  | _ => neg && r != 0

/-- The floor of log2 of a positive rational. -/
def ratLog2 (num den : Nat) : Int :=
  let e : Int := (Nat.log2 num : Int) - Nat.log2 den
  if num * 2 ^ (-e).toNat < den * 2 ^ e.toNat then e - 1 else e

/-- A positive rational scaled by 2^(-q), as numerator and denominator. -/
def scaleBy (num den : Nat) (q : Int) : Nat × Nat := (num * 2 ^ (-q).toNat, den * 2 ^ q.toNat)

/-- An overflow (R60). -/
def Fmt.overflow (f : Fmt) (rm : Nat) (neg : Bool) : Nat :=
  let toInf := match rm with | 0 => true | 1 => false | 2 => !neg | _ => neg
  (if toInf then f.infBits else f.infBits - 1) + (if neg then f.signBit else 0)

/-- Round a rational `num / den` of a sign to a format: pattern and OF, UF, NX; tininess before rounding (R60). -/
def Fmt.roundRat (f : Fmt) (rm : Nat) (neg : Bool) (num den : Nat) : Nat × Fl :=
  if num == 0 then (if neg then f.signBit else 0, 0) else
  let e := ratLog2 num den
  let emin : Int := 1 - (f.bias : Int)
  let e' := max e emin
  let (a, d) := scaleBy num den (e' - f.mw)
  let n := a / d
  let r := a % d
  let n' := if roundUp rm neg n r d then n + 1 else n
  let w := ((e' + f.bias).toNat - 1) * 2 ^ f.mw + n'
  if w ≥ f.infBits then (f.overflow rm neg, flOF ||| flNX)
  else (w + (if neg then f.signBit else 0), flIf (r != 0) flNX ||| flIf (r != 0 && decide (e < emin)) flUF)

/-- Round a value to a format. -/
def Fmt.round (f : Fmt) (rm : Nat) : FVal → Nat × Fl
  | .nan sig => (f.dnan, flIf sig flIV)
  | .inf neg => (f.infBits + (if neg then f.signBit else 0), 0)
  | .fin neg m e => f.roundRat rm neg (m * 2 ^ e.toNat) (2 ^ (-e).toNat)

/-- A value's NaN is signalling. -/
def FVal.sig : FVal → Bool
  | .nan s => s
  | _ => false

/-- A value is NaN. -/
def FVal.isNan : FVal → Bool
  | .nan _ => true
  | _ => false

/-- Negation. -/
def FVal.neg : FVal → FVal
  | .nan s => .nan s
  | .inf n => .inf (!n)
  | .fin n m e => .fin (!n) m e

/-- Exact product; the flag is IV (R59, R173). -/
def FVal.mul : FVal → FVal → FVal × Fl
  | .nan s, b => (.nan false, flIf (s || b.sig) flIV)
  | a, .nan s => (.nan false, flIf (a.sig || s) flIV)
  | .inf n, .inf k => (.inf (n != k), 0)
  | .inf n, .fin k m _ => if m == 0 then (.nan false, flIV) else (.inf (n != k), 0)
  | .fin k m _, .inf n => if m == 0 then (.nan false, flIV) else (.inf (n != k), 0)
  | .fin n m e, .fin k j g => (.fin (n != k) (m * j) (e + g), 0)

/-- The signed integer m of a finite value scaled to exponent `g`, which is at most its own. -/
def finAt (neg : Bool) (m : Nat) (e g : Int) : Int :=
  let v : Int := (m * 2 ^ (e - g).toNat : Nat)
  if neg then -v else v

/-- Exact sum; an exact zero takes the sign IEEE 754 gives under mode `rm`. -/
def FVal.add (rm : Nat) : FVal → FVal → FVal × Fl
  | .nan s, b => (.nan false, flIf (s || b.sig) flIV)
  | a, .nan s => (.nan false, flIf (a.sig || s) flIV)
  | .inf n, .inf k => if n == k then (.inf n, 0) else (.nan false, flIV)
  | .inf n, _ => (.inf n, 0)
  | _, .inf n => (.inf n, 0)
  | .fin n m e, .fin k j g =>
    let lo := min e g
    let v := finAt n m e lo + finAt k j g lo
    if v == 0 then (.fin (if m == 0 && j == 0 then (if n == k then n else rm == 3) else rm == 3) 0 lo, 0)
    else (.fin (decide (v < 0)) v.natAbs lo, 0)

/-- a + b rounded once. -/
def Fmt.fadd (f : Fmt) (rm : Nat) (a b : FVal) : Nat × Fl :=
  let (v, x) := FVal.add rm a b
  let (w, y) := f.round rm v
  (w, x ||| y)

/-- a times b rounded once. -/
def Fmt.fmul (f : Fmt) (rm : Nat) (a b : FVal) : Nat × Fl :=
  let (v, x) := FVal.mul a b
  let (w, y) := f.round rm v
  (w, x ||| y)

/-- a times b plus c with one rounding; 0 times infinity sets IV whatever c is (R173). -/
def Fmt.ffma (f : Fmt) (rm : Nat) (a b c : FVal) : Nat × Fl :=
  let (p, x) := FVal.mul a b
  let (v, y) := FVal.add rm p c
  let (w, z) := f.round rm v
  (w, x ||| y ||| z)

/-- a divided by b rounded once: the invalid cases set IV, a finite value over zero sets DZ (R77, R75). -/
def Fmt.fdiv (f : Fmt) (rm : Nat) (a b : FVal) : Nat × Fl :=
  match a, b with
  | .nan s, b => (f.dnan, flIf (s || b.sig) flIV)
  | a, .nan s => (f.dnan, flIf (a.sig || s) flIV)
  | .inf _, .inf _ => (f.dnan, flIV)
  | .inf n, .fin k _ _ => (f.infBits + (if n != k then f.signBit else 0), 0)
  | .fin n _ _, .inf k => (if n != k then f.signBit else 0, 0)
  | .fin n m e, .fin k j g =>
    if j == 0 then (if m == 0 then (f.dnan, flIV) else (f.infBits + (if n != k then f.signBit else 0), flDZ))
    else f.roundRat rm (n != k) (m * 2 ^ (e - g).toNat) (j * 2 ^ (g - e).toNat)

/-- Less-than of two values that are not NaN; -0 and +0 are equal. -/
def FVal.lt : FVal → FVal → Bool
  | .inf n, .inf k => n && !k
  | .inf n, .fin _ _ _ => n
  | .fin _ _ _, .inf k => !k
  | .fin n m e, .fin k j g => let lo := min e g; decide (finAt n m e lo < finAt k j g lo)
  | _, _ => false

/-- Equality of two values that are not NaN; -0 equals +0. -/
def FVal.eq : FVal → FVal → Bool
  | .inf n, .inf k => n == k
  | .fin n m e, .fin k j g => let lo := min e g; decide (finAt n m e lo = finAt k j g lo)
  | _, _ => false

/-- A value's sign. -/
def FVal.isNeg : FVal → Bool
  | .nan _ => false
  | .inf n => n
  | .fin n _ _ => n

/-- The order of vfmin and vfmax: -0 below +0 (R65). -/
def FVal.below (a b : FVal) : Bool := a.lt b || (a.eq b && a.isNeg && !b.isNeg)

/-- vfmin and vfmax of two patterns of one type (R65). -/
def fminmax (t : Nat) (mx : Bool) (a b : Nat) : Nat × Fl :=
  let x := fvalOf t a
  let y := fvalOf t b
  let fl := flIf (x.sig || y.sig) flIV
  if x.isNan then (if y.isNan then (dnanOf t, fl) else (b, fl))
  else if y.isNan then (a, fl)
  else if (if mx then x.below y else y.below x) then (b, fl) else (a, fl)

/-- vfcmp: code 0 eq, 1 ne, 2 lt, 3 le (R65). -/
def fcmp (t cc a b : Nat) : Bool × Fl :=
  let x := fvalOf t a
  let y := fvalOf t b
  let sg := x.sig || y.sig
  if x.isNan || y.isNan then (cc == 1, flIf (sg || cc ≥ 2) flIV)
  else (match cc with | 0 => x.eq y | 1 => !x.eq y | 2 => x.lt y | _ => x.lt y || x.eq y, 0)

/-- The e4m3 pattern of a rational, to nearest even with the exponent unbounded above, then clamped (R62). -/
def e4m3Rat (neg : Bool) (num den : Nat) : Nat × Fl :=
  if num == 0 then (if neg then 0x80 else 0, 0) else
  let e := ratLog2 num den
  let e' := max e (-6)
  let (a, d) := scaleBy num den (e' - 3)
  let n := a / d
  let r := a % d
  let n' := if roundUp 0 neg n r d then n + 1 else n
  let w := ((e' + 7).toNat - 1) * 8 + n'
  let s := if neg then 0x80 else 0
  let ovf := decide (num > 464 * den)
  if ovf || w > 0x7E then (0x7E + s, (if ovf then flES else 0) ||| flNX)
  else (w + s, flIf (r != 0) flNX ||| flIf (r != 0 && decide (e < -6)) flUF)

/-- A conversion into e4m3 (R62). -/
def toE4m3 : FVal → Nat × Fl
  | .nan _ => (0x7F, 0)
  | .inf neg => (if neg then 0xFE else 0x7E, flES ||| flNX)
  | .fin neg m e => e4m3Rat neg (m * 2 ^ e.toNat) (2 ^ (-e).toNat)

/-- A float to an integer of type `t`: out of range gives the nearer end and IV, NaN gives 0 and IV (R63). -/
def floatToInt (t rm : Nat) : FVal → Nat × Fl
  | .nan _ => (0, flIV)
  | .inf neg => (wrapTo (typeWidth t) (if neg then intMin t else intMax t), flIV)
  | .fin neg m e =>
    let d : Nat := 2 ^ (-e).toNat
    let a := m * 2 ^ e.toNat
    let n := a / d
    let r := a % d
    let n' := if roundUp rm neg n r d then n + 1 else n
    let v : Int := if neg then -(n' : Int) else n'
    if v < intMin t then (wrapTo (typeWidth t) (intMin t), flIV)
    else if v > intMax t then (wrapTo (typeWidth t) (intMax t), flIV)
    else (wrapTo (typeWidth t) v, flIf (r != 0) flNX)

/-- The value of an integer element: unsigned for n8, else two's complement (R57). -/
def intVal (t w : Nat) : Int := if t == 1 then ((w % 256 : Nat) : Int) else signedOf (typeWidth t) w

/-- An exact integer as a value. -/
def intFVal (v : Int) : FVal := .fin (decide (v < 0)) v.natAbs 0

/-- Clamp to a type's range, with IS (R64). -/
def satInt (t : Nat) (v : Int) : Nat × Fl :=
  if v < intMin t then (wrapTo (typeWidth t) (intMin t), flIS)
  else if v > intMax t then (wrapTo (typeWidth t) (intMax t), flIS)
  else (wrapTo (typeWidth t) v, 0)

/-- Wrap or clamp an exact integer result (R64). -/
def fitInt (t : Nat) (sat : Bool) (v : Int) : Nat × Fl := if sat then satInt t v else (wrapTo (typeWidth t) v, 0)

/-- One element's conversion from type `s` to type `t` (R62, R63). Between bf16 and f16, of which neither is the wider, it rounds under the
    word's mode and sets OF, UF and NX as to a narrower type (log 56; DESIGN CHOICE). -/
def convert (s t rm : Nat) (sat : Bool) (w : Nat) : Nat × Fl :=
  if isInt s && isInt t then fitInt t sat (intVal s w)
  else if isInt s then
    (if t == 4 then toE4m3 (intFVal (intVal s w)) else (fmtOf t).round rm (intFVal (intVal s w)))
  else
    let v := fvalOf s w
    let iv := flIf v.sig flIV
    if isInt t then floatToInt t rm v
    else if t == 4 then (let (r, fl) := toE4m3 v; (r, fl ||| iv))
    else (fmtOf t).round rm v

/-! Square roots and the special functions (R73 to R75, R106). -/

/-- The integer square root, bit by bit from bit `k - 1` down. -/
def isqrtLoop (n : Nat) : Nat → Nat → Nat
  | 0, acc => acc
  | k + 1, acc => let c := acc + 2 ^ k; isqrtLoop n k (if c * c ≤ n then c else acc)

/-- The integer square root. -/
def isqrt (n : Nat) : Nat := isqrtLoop n (Nat.log2 n / 2 + 1) 0

/-- The square root of m times 2^e rounded to f32, nearest even, with NX: computed with 64 bits to spare and a sticky bit. -/
def sqrtF32 (m : Nat) (e : Int) : Nat :=
  if m == 0 then 0 else
  let sh : Nat := if (e % 2 == 0) then 128 else 129
  let a := m * 2 ^ sh
  let r := isqrt a
  let sticky := if r * r == a then 0 else 1
  let g : Int := (e - sh) / 2
  (fmtF32.round 0 (.fin false (2 * r + sticky) (g - 1))).1

/-- floor(ln 2 times 2^256). -/
def ln2Fix : Nat := 80260960185991308862233904206310070533990667611589946606122867505419956976171

/-- The sum of x^n / n! in fixed point with 256 fraction bits, from term `term` on. -/
def expSeries (x : Nat) : Nat → Nat → Nat → Nat → Nat
  | 0, _, _, acc => acc
  | k + 1, n, term, acc => let t := term * x / 2 ^ 256 / n; expSeries x k (n + 1) t (acc + t)

/-- 2^f in fixed point with 256 fraction bits, for f = x / 2^256 in [0, 1). -/
def exp2Fix (x : Nat) : Nat := let y := x * ln2Fix / 2 ^ 256; expSeries y 70 1 (2 ^ 256) (2 ^ 256)

/-- Bits of log2 of y / 2^320 in [1, 2), most significant first, `k` of them. -/
def log2Loop : Nat → Nat → Nat → Nat
  | 0, _, acc => acc
  | k + 1, y, acc =>
    let z := y * y / 2 ^ 320
    if z ≥ 2 ^ 321 then log2Loop k (z / 2) (2 * acc + 1) else log2Loop k z (2 * acc)

/-- The f32 patterns from `lo` on, `k` of them, whose value lies within `ulps` units in the last place of v = num / den > 0
    (log 12). -/
def nearF32 (num den ulps : Nat) : Nat → Nat → List Nat
  | 0, _ => []
  | k + 1, lo =>
    let rest := nearF32 num den ulps k (lo + 1)
    match fmtF32.decode lo with
    | .fin false m e =>
      let (a, d) := scaleBy num den (max (ratLog2 num den) (-126) - 23)
      let (b, c) := scaleBy m 1 (max (ratLog2 num den) (-126) - 23 - e)
      let dist : Int := (a * c : Nat) - (b * d : Nat)
      if dist.natAbs ≤ ulps * d * c then lo :: rest else rest
    | _ => rest

/-- One of the f32 values within `ulps` of num / den, the free choice `ch` among them (R74, R75; log 12). -/
def pickF32 (num den ulps ch : Nat) : Nat :=
  let f := (fmtF32.roundRat 1 false num den).1
  let l := nearF32 num den ulps 13 (f - 6)
  l.getD (ch % max l.length 1) f

/-- vexp2 of an f32 (R74): `ch` is the free choice of an inexact result. -/
def vexp2F (ch w : Nat) : Nat × Fl :=
  match fmtF32.decode w with
  | .nan sig => (fmtF32.dnan, flIf sig flIV)
  | .inf neg => (if neg then 0 else fmtF32.infBits, 0)
  | .fin neg m e =>
    let d : Nat := 2 ^ (-e).toNat
    let a : Int := if neg then -((m * 2 ^ e.toNat : Nat) : Int) else (m * 2 ^ e.toNat : Nat)
    if m == 0 then (0x3F800000, 0)
    else if a ≥ 128 * d then (fmtF32.infBits, flOF)
    else if a < -126 * d then (0, 0)
    else
      let q : Int := a / (d : Int)
      let r : Nat := (a % (d : Int)).toNat
      if r == 0 then ((fmtF32.round 0 (.fin false 1 q)).1, 0)
      else
        let v := exp2Fix (r * 2 ^ 256 / d)
        (min (pickF32 (v * 2 ^ q.toNat) (2 ^ 256 * 2 ^ (-q).toNat) 2 ch) (fmtF32.infBits - 1), 0)

/-- vlog2 of an f32 (R75). -/
def vlog2F (ch w : Nat) : Nat × Fl :=
  match fmtF32.decode w with
  | .nan sig => (fmtF32.dnan, flIf sig flIV)
  | .inf true => (fmtF32.dnan, flIV)
  | .inf false => (fmtF32.infBits, 0)
  | .fin neg m e =>
    if m == 0 then (fmtF32.infBits + fmtF32.signBit, flDZ)
    else if neg then (fmtF32.dnan, flIV)
    else
      let k := Nat.log2 m
      let n : Int := (k : Int) + e
      if m == 2 ^ k then ((fmtF32.round 0 (intFVal n)).1, 0)
      else
        let fr := log2Loop 160 (m * 2 ^ 320 / 2 ^ k) 0
        let v : Int := n * (2 ^ 160 : Nat) + fr
        let p := pickF32 v.natAbs (2 ^ 160) 2 ch
        (if v < 0 then p + fmtF32.signBit else p, 0)

/-- vrcp of an f32 (R75): correctly rounded. -/
def vrcpF (rm w : Nat) : Nat × Fl := fmtF32.fdiv rm (.fin false 1 0) (fmtF32.decode w)

/-- vrsqrt of an f32 (R75). -/
def vrsqrtF (ch w : Nat) : Nat × Fl :=
  match fmtF32.decode w with
  | .nan sig => (fmtF32.dnan, flIf sig flIV)
  | .inf true => (fmtF32.dnan, flIV)
  | .inf false => (0, 0)
  | .fin neg m e =>
    if m == 0 then (fmtF32.infBits + (if neg then fmtF32.signBit else 0), flDZ)
    else if neg then (fmtF32.dnan, flIV)
    else
      let m' : Nat := if e % 2 == 0 then m else 2 * m
      let e' : Int := if e % 2 == 0 then e else e - 1
      let k := Nat.log2 m'
      if m' == 2 ^ k && k % 2 == 0 then ((fmtF32.round 0 (.fin false 1 (-(((k : Int) + (e' : Int)) / (2 : Int))))).1, 0)
      else
        let r := isqrt (m' * 2 ^ 256)
        let g : Int := (e' : Int) / (2 : Int)
        (pickF32 (2 ^ 128 * 2 ^ (-g).toNat) (r * 2 ^ g.toNat) 1 ch, 0)

/-! f32 helpers. -/

/-- The value of an f32 pattern. -/
def f32Val (w : Nat) : FVal := fmtF32.decode w

/-- up(): round to f32 toward plus infinity (R80). -/
def upF32 (v : FVal) : Nat := (fmtF32.round 2 v).1

/-- ulp(M) of R80 as a value; `m` is the pattern of a nonnegative finite f32. -/
def ulpVal (m : Nat) : FVal :=
  match f32Val m with
  | .fin _ k e => if k == 0 then .fin false 1 (-149) else .fin false 1 (max ((Nat.log2 k : Int) + e) (-126) - 23)
  | _ => .inf false

/-- A sum rounded up to f32. -/
def upAdd (a b : Nat) : Nat := upF32 (FVal.add 0 (f32Val a) (f32Val b)).1

/-- up() of a bound (R80, R230). A bound is a non-negative f32, so that a product that is no number, of an infinite bound and 0, is taken as
    +∞, which bounds everything (log 56; DESIGN CHOICE). -/
def upBound (v : FVal) : Nat :=
  match v with
  | .nan _ => fmtF32.infBits
  | v => upF32 v

/-- up(a × b) of two bounds (R80, R230). -/
def upMul (a b : Nat) : Nat := upBound (FVal.mul (f32Val a) (f32Val b)).1

/-- |w| of an f32 pattern. -/
def absF32 (w : Nat) : Nat := w % 2 ^ 31

/-- NaN or infinite. -/
def notFinite (w : Nat) : Bool := absF32 w ≥ fmtF32.infBits

/-! Exact sums of many terms (R67 to R70, R106). -/

/-- An exact sum: a dyadic n times 2^e, with what infinities and NaNs it has met. -/
structure ExSum where
  n : Int
  e : Int
  nan : Bool
  pinf : Bool
  ninf : Bool
  deriving DecidableEq, Repr

/-- The empty sum. -/
def ExSum.zero : ExSum := { n := 0, e := 0, nan := false, pinf := false, ninf := false }

/-- One more term. -/
def ExSum.add (s : ExSum) : FVal → ExSum
  | .nan _ => { s with nan := true }
  | .inf true => { s with ninf := true }
  | .inf false => { s with pinf := true }
  | .fin neg m e =>
    let lo := min s.e e
    { s with n := s.n * (2 ^ (s.e - lo).toNat : Nat) + finAt neg m e lo, e := lo }

/-- The value of an exact sum, with IV for infinities of both signs; an exact zero is +0 (R67, R68). A NaN among the terms decides first, without
    IV, also where infinities of both signs are among the others (log 56; DESIGN CHOICE). -/
def ExSum.val (s : ExSum) : FVal × Fl :=
  if s.nan then (.nan false, 0)
  else if s.pinf && s.ninf then (.nan false, flIV)
  else if s.pinf then (.inf false, 0)
  else if s.ninf then (.inf true, 0)
  else (.fin (decide (s.n < 0)) s.n.natAbs s.e, 0)

end Sys2Proof
end

