-- ==== Sys2Proof/Config.lean ====
section
/-! DEFINITION. What the manual leaves open and the model leaves free: constants without a body. `seq` counts the steps of
    the machine, so that every use is fresh; `i` tells uses of one step apart. -/

namespace Sys2Proof

/-- Arithmetic cycles that elapse with a step (log 5). -/
opaque Config.elapsedCycles : (seq : Nat) → Nat
/-- Wall time in microseconds that elapses with a step (log 5). -/
opaque Config.elapsedUs : (seq : Nat) → Nat
/-- The choice among the f32 values that R74 and R75 allow for an inexact vexp2, vlog2 or vrsqrt (log 12). -/
opaque Config.ulpChoice : (seq i : Nat) → Nat
/-- Numerator of the analogue error of a crossbar estimate (R229; log 13). -/
opaque Config.xbarErrNum : (seq i : Nat) → Int
/-- Denominator, less one, of the analogue error of a crossbar estimate (R229; log 13). -/
opaque Config.xbarErrDen : (seq i : Nat) → Nat
/-- The reference deviation a product measures for an array (R223, R229; log 13). -/
opaque Config.xbarRefErr : (seq i : Nat) → BitVec 32
/-- What an xcal measures: ECAL, E_ABS, GAIN, OFFSET and REF (R223, R235; log 14). `field` is xstat's number. -/
opaque Config.xcalValue : (seq field col : Nat) → BitVec 32
/-- Whether an xprog leaves a cell out of tolerance (R233; log 14). -/
opaque Config.xprogBad : (seq i : Nat) → Bool
/-- The level a cell that is out of tolerance holds (R233; log 14). -/
opaque Config.xprogCell : (seq i : Nat) → BitVec 8
/-- Bytes another module answers with (R376, R378; log 20). -/
opaque Config.remoteByte : (seq i : Nat) → BitVec 8
/-- A byte of the image that pack writes (R256; log 25). -/
opaque Config.packByte : (seq i : Nat) → BitVec 8
/-- Whether another module refuses a remote element (R378; log 20). -/
opaque Config.remoteFails : (seq i : Nat) → Bool
/-- The modulus of the RSA-3072 attestation key (R389; log 19). -/
opaque Config.rsaModulus : Nat
/-- Its private exponent (R389; log 19). -/
opaque Config.rsaExponent : BitVec 3072
/-- The salt of a signature (R389; log 19). -/
opaque Config.salt : (seq : Nat) → BitVec 256
/-- The certificate that endorses the attestation key (R389; log 19). -/
opaque Config.certificate : List (BitVec 8)
/-- The step of a function-level reset's turnover that fails, 0 for none (R386, R390; log 53). -/
opaque Config.turnFails : (seq : Nat) → BitVec 4
/-- The outcome of the health test (R387): one bit per failing test, and the number of cores with any failure (log 19). -/
opaque Config.healthResult : (seq : Nat) → BitVec 64
/-- The digest of an image that the boot ROM or the controller measures (R388; log 19). -/
opaque Config.imageDigest : (seq i : Nat) → BitVec 256
/-- The key domain that start-up firmware activates for the host's use (R390; log 19). -/
opaque Config.hostDomain : BitVec 8
/-- The module serial in a quote's word of DEVID and serial, and the nonce of the quote that ends a function-level reset (R389, R390; log 19). -/
opaque Config.moduleSerial : BitVec 54
/-- The nonce of a quote that no requester named (R389; log 19). -/
opaque Config.freeNonce : (seq : Nat) → BitVec 256
/-- Bytes of SAVE-area pages whose format the manual does not give (R292; log 24). -/
opaque Config.saveByte : (seq i : Nat) → BitVec 8
/-- The memory attached to a CXL port in GiB (R370; log 42). -/
opaque Config.cxlGib : (port : Nat) → Nat
/-- Whether a copy command's end-to-end CRC-32C failed (R254, R258; log 26). -/
opaque Config.crcFails : (seq i : Nat) → Bool
/-- The levels of an array's reference columns, set at manufacture (R221; log 67). -/
opaque Config.refLevel : (core array row col : Nat) → BitVec 8
/-- The line that leaves a full set of an L1 or L2 (R89, R91; log 7). -/
opaque Config.victim : (seq i : Nat) → Nat
/-- The tag that a copy command's requests to another module carry (R376; log 51). -/
opaque Config.remoteTag : (core number : Nat) → BitVec 16
/-- The place of the error-log ring that start-up firmware sets before it writes the start record (R380, R390; log 43). -/
opaque Config.startElbase : BitVec 64
/-- The size of that ring (R380, R390; log 43). -/
opaque Config.startLogsize : BitVec 4
/-- The eight records of a line of a digest plane that reads as poison (R108, R410; log 9). -/
opaque Config.lostRecords : (seq line : Nat) → BitVec 1024
/-- The lanes with which the PCIe link trains at a start (R369, R390; log 43). -/
opaque Config.pcieLanes : (seq : Nat) → BitVec 5

end Sys2Proof
end

