-- ==== Sys2Proof/Machine/State.lean ====
section
/-! DEFINITION. The state of a KRX-9256 as plain data: every piece of state the manual gives the module, its reset value,
    and the reasons a step can stop. Docstrings name the rule. -/

namespace Sys2Proof.Machine

open Sys2Proof

/-- Why the machine stops. -/
inductive Fault
  /-- Raised by `step` while a thermal trip holds the module in reset (R23): only a cold reset ends that. Safe: nothing runs
      where the hardware runs nothing. -/
  | heldInReset
  deriving DecidableEq, Repr

/-- Why an instruction has no meaning. -/
inductive Refusal
  /-- Raised by an arm of `exec` whose instruction has no meaning yet, named by its mnemonic. Safe: nothing is proved of it. -/
  | notModelled (mnemonic : String)
  deriving DecidableEq, Repr

/-- Byte memory: address and byte, in canonical form; an unlisted address reads `unwritten` (log 2). -/
abbrev Memory := List Host.Cell

/-- What an address that nothing has written reads as (log 2; DESIGN CHOICE). -/
def unwritten : Byte := 0

/-- The causes of R298. -/
inductive Cause
  | illop | illtype | owner | handle | align | poison | merge | window | xdrift | vovf | watchdog | bkpt | trap | priv
  deriving DecidableEq, Repr

/-- The state of a loop-stack entry (R151, R152); an absent entry is EMPTY. -/
inductive LoopSt | run | drain | stopped
  deriving DecidableEq, Repr

/-- A loop-stack entry (R151). -/
structure LoopEnt where
  endA : VAddr
  startA : VAddr
  iter : BitVec 32
  prem : BitVec 32
  rem : BitVec 32
  rb : BitVec 6
  tail : BitVec 3
  stg : BitVec 3
  st : LoopSt
  deriving DecidableEq, Repr

/-- A value and the register it goes to (R49, R170). A vector value carries the bits it writes, its tag and bound, and the
    result port whose latch it enters; `partialW` says that a guard left lanes out (R168). -/
inductive RegVal
  | sreg (r : Reg) (v : Word)
  | pred (p : Pred) (mask val : Mask)
  | vreg (name : Nat) (mask val : VReg) (bounded : Bool) (bound : BitVec 32) (partialW : Bool) (port : Option Nat)
  | handle (r : Reg) (v : BitVec 128)
  | flags (f : BitVec 8)
  | sp (addr : Nat) (bytes : List (Option Byte))
  | own (first n : Nat) (o : BitVec 3)
  | payload (d : Dir) (v : Word)
  | pushes (m : BitVec 2)
  | storePushes (m : BitVec 2)
  deriving DecidableEq, Repr

/-- A result in flight (R49): written from issue cycle `due` on, and not before the FIFOs that its word pushes, those of `need`, have space
    (R45). In scoreboard mode too, scratchpad stores, results of a latency beyond that of an lmode, and results of words that push are in
    flight (R50, R191; log 6). -/
structure InFlight where
  due : Nat
  what : RegVal
  need : BitVec 2
  deriving DecidableEq, Repr

/-- An entry of a load queue (R246). A vldg counts the results that later words of port 7 have written before it (R171). -/
inductive LoadKind
  | ld (h : BitVec 128) (off : Nat) (bytes : Nat) (d : Reg) (pp : Bool) (pd : Pred)
  | vldg (h : BitVec 128) (off len : Nat) (d : Nat) (active : Mask) (pd : Pred) (newer : Nat)
  | dgld (h : BitVec 128) (off : Nat) (d : Reg)
  | dgq (h : BitVec 128) (off : Nat) (test : BitVec 4) (copyTo : Option Nat) (d : Reg)
  | acquire (scope : BitVec 3)
  | mark
  deriving DecidableEq, Repr

/-- A load-queue entry: its place in the cluster's issue order, alias class, pushes at retirement, and the word's PC. -/
structure LoadEnt where
  seq : Nat
  ac : BitVec 2
  push : BitVec 2
  pc : VAddr
  kind : LoadKind
  deriving DecidableEq, Repr

/-- An entry of a store queue (R246). A binit or barv of a quad barrier carries the placement tag of its quad (R328). -/
inductive StoreKind
  | st (h : BitVec 128) (off : Nat) (bytes : List (Option Byte))
  | amo (h : BitVec 128) (off : Nat) (m : AtomLit) (d : Reg) (v cmp : Word)
  | red (h : BitVec 128) (off : Nat) (m : AtomLit) (v : Word)
  | dgseal (h : BitVec 128) (off : Nat) (left : Nat)
  | cflush (h : BitVec 128) (off len : Nat) (scope : BitVec 3)
  | cinv (h : BitVec 128) (off len : Nat) (scope : BitVec 3)
  | release (scope : BitVec 3)
  | mark
  | signal (core : Nat) (addr : Nat) (v : Word)
  | binit (key : Nat) (count : Word) (d : Reg) (tag : Nat)
  | barv (key : Nat) (scope : BitVec 3) (d : Reg) (tag : Nat)
  deriving DecidableEq, Repr

/-- A store-queue entry. -/
structure StoreEnt where
  seq : Nat
  ac : BitVec 2
  push : BitVec 2
  pc : VAddr
  kind : StoreKind
  deriving DecidableEq, Repr

/-- A value on its way to a register of its cluster (R43: it counts under LD until it is written). `ways` holds back a cway's
    result until the named ways of the slice are no longer busy (R265). -/
structure RetEnt where
  d : Reg
  val : Word
  poisoned : Bool
  ways : Option (Nat × BitVec 16 × Bool)
  h : BitVec 128
  off : Nat
  pc : VAddr
  push : BitVec 2
  deriving DecidableEq, Repr

/-- A trap raised in a cluster and not yet entered: cause, TRAP_PC and TRAP_INFO (R296, R298). -/
structure ClTrap where
  cause : Cause
  pc : VAddr
  info : Word
  deriving DecidableEq, Repr

/-- A cluster (R11, R13). -/
structure Cl where
  pc : VAddr
  s : Sparse Word
  p : Sparse Mask
  /-- Innermost entry first. -/
  loops : List LoopEnt
  exposed : Bool
  aflags : BitVec 8
  inL : Word
  inR : Word
  outL : Option Word
  outR : Option Word
  /-- The pushes of the word whose body runs: its results wait for their space (R45). -/
  need : BitVec 2
  icyc : Nat
  flight : List InFlight
  nseq : Nat
  loadQ : List LoadEnt
  storeQ : List StoreEnt
  rets : List RetEnt
  /-- A word that has issued and not yet acted: a task-level or eret copy, a phase, a mode change. -/
  wait : Option Instr
  /-- Token entries that word popped, with the incoming register each replaced: given back if it issues again (R296). -/
  popped : List (Dir × Option Word × Word)
  /-- Stopped at a pre-emption point (R51). -/
  stopped : Bool
  wdogFrom : Nat
  trapped : Option ClTrap
  trapCause : Word
  trapPc : Word
  trapInfo : Word
  dbgbp : Sparse Word
  deriving DecidableEq, Repr

/-- A launch's task (R24 to R27, R30). `tag` is the quad's placement tag. -/
structure Task where
  ctx : CtxId
  launch : Nat
  lser : BitVec 32
  ord : BitVec 32
  wid : Word
  first : Nat
  gsize : Nat
  quad : Nat
  ver : Bool
  steps : BitVec 3
  w : BitVec 32
  ttbase : Word
  pcs : List VAddr
  params : List Word
  deriving DecidableEq, Repr

/-- What a continuation waits for (R35, R38). -/
inductive WaitOn
  | word (addr : Nat) (cc : BitVec 3) (breg : Reg) (b : Word)
  | barrier (key lvnum : Nat) (e : BitVec 16) (d : Reg)
  /-- Pages to walk, pages that wait for the host's reply, pages refused, and pages whose walk failed (R242, R302). -/
  | probe (token : BitVec 32) (d : Reg) (base n : Nat) (toWalk pending refused failed : List Nat)
  deriving DecidableEq, Repr

/-- A continuation (R34 to R39). -/
structure Cont where
  slot : BitVec 6
  tile : BitVec 10
  cmask : Word
  task : Task
  on : WaitOn
  saving : Bool
  ready : Bool
  /-- What a bwait's register receives, as the satisfied wait was evaluated (R340). -/
  result : Word
  /-- Pages that tinvs of the context have named since the save: first page and count (R37). -/
  tinvs : List (Nat × Nat)
  /-- For each page that a valid handle names: frame and permissions that the page had at the save, if it was mapped (R37). -/
  leaves : List (Nat × Option Nat)
  /-- The task's counts of queue entries, joint steps and crossbar words and its descriptor copies, which last until it ends (R196, R197, R220,
      R227). -/
  tsteps : Nat
  jsteps : Nat
  xcount : Nat
  tds : Sparse (BitVec 1024)
  deriving DecidableEq, Repr

/-- An entry of a core's ready queue (R39). -/
inductive ReadyEnt
  | task (t : Task)
  | cont (slot : BitVec 6)
  deriving DecidableEq, Repr

/-- The bytes or the operation an update of a version holds (R40). -/
inductive VUpd
  | bytes (data : List (Option Byte))
  | op (m : AtomLit) (v cmp : Word)
  deriving DecidableEq, Repr

/-- One update of a version, in order (R40). -/
structure VEnt where
  h : BitVec 128
  off : Nat
  upd : VUpd
  deriving DecidableEq, Repr

/-- An operation of the tile-step queue (R194), its register operands read at issue. -/
inductive TileKind
  | mma (o : MOps)
  | mms (o : MOps)
  | mzero (o : MOps)
  | mstore (o : MOps)
  | mload (o : MOps)
  | mwldWindow (td : BitVec 8) (w : BitVec 4) (wb : Bool) (noff : BitVec 16)
  | mwldRange (td : BitVec 8) (rows : BitVec 11) (wb : Bool) (koff noff : BitVec 16)
  | mwswap (wb : Bool)
  | mnset
  | mgo
  | tdset (td : BitVec 8) (addr : Nat)
  | tdget (td : BitVec 8) (addr : Nat)
  | twin (td : BitVec 8) (w : BitVec 4) (lv : BitVec 2) (rblk : BitVec 16) (start : BitVec 32)
  | twinGet (w : BitVec 4) (a b : Reg)
  | tcut (td : BitVec 8) (w : BitVec 4) (budget : Nat) (level : BitVec 2) (span : Nat)
  | tcocut (td : BitVec 8) (w l : BitVec 4) (dim : BitVec 2)
  | tmerge (wd wa wb : BitVec 4) (mode : Bool) (otd : BitVec 8)
  | tnext (w : BitVec 4)
  deriving DecidableEq, Repr

/-- A tile-step queue entry; `done` once it has executed and waits for its completion (R213). -/
structure TileOp where
  step : Nat
  /-- How many joint steps the task had queued before it (R220). -/
  joint : Nat
  kind : TileKind
  push : BitVec 2
  done : Bool
  deriving DecidableEq, Repr

/-- A level of the nest sequencer (R214). -/
structure NestLevel where
  count : BitVec 16
  dk : BitVec 16
  dm : BitVec 16
  dn : BitVec 16
  dacc : BitVec 3
  deriving DecidableEq, Repr

/-- A nest: its levels, k level, template, the index of the step it places next, whether its mgo's own entry has been placed, and the entries of
    mnsets that follow its steps (R194, R215). -/
structure Nest where
  levels : List NestLevel
  klevel : Nat
  tmpl : MOps
  next : Nat
  entered : Bool
  after : Nat
  deriving DecidableEq, Repr

/-- A weight fill handed to the engine (R217): its context, its descriptor, and the handle it read through when it started. -/
structure Fill where
  seq : Nat
  ctx : CtxId
  h : BitVec 128
  desc : BitVec 1024
  wb : Bool
  koff : Nat
  rows : Nat
  noff : Nat
  started : Bool
  aborted : Bool
  deriving DecidableEq, Repr

/-- The metadata of a weight bank (R216). -/
structure BankMeta where
  kbase : Nat
  nbase : Nat
  rows : Nat
  typ : BitVec 4
  poisoned : Bool
  deriving DecidableEq, Repr

/-- The states of a crossbar array (R224). -/
inductive XSt | unknown | erased | programmed | ready | drifted | faulty
  deriving DecidableEq, Repr

/-- A crossbar array (R221 to R224, R305). A cell is the signed level (high array) or the level (low array) at 512 j + i. -/
structure XArr where
  cells : Sparse (BitVec 8)
  gain : Sparse (BitVec 32)
  offset : Sparse (BitVec 32)
  ref : Sparse (BitVec 32)
  ecal : BitVec 32
  epsRel : BitVec 32
  eAbs : BitVec 32
  referr : BitVec 32
  sw : BitVec 32
  l1max : BitVec 32
  tcal : Word
  tdrift : Word
  errc : BitVec 32
  lastop : BitVec 8
  st : XSt
  owner : Option CtxId
  deriving DecidableEq, Repr

/-- A crossbar operation (R225). The maintenance words read their registers when they start (R233, R234); the `Run` forms hold
    what a started operation has read. -/
inductive XKind
  | xprog (a b : Reg)
  | xprogRun (sw : BitVec 32) (weights : List Byte)
  | xverify (a : Reg) (tol : BitVec 4)
  | xverifyRun (tol : BitVec 4) (weights : List Byte)
  | xcal (xb : BitVec 4)
  | xmvm (d : Nat) (addr : Nat) (sx : BitVec 32) (planes : Nat) (sgn : Bool) (rm : BitVec 2)
  | xmvmRun (d : Nat) (sx : BitVec 32) (rm : BitVec 2) (x : List Int)
  | xstat (xb : BitVec 4) (d : Reg) (field : BitVec 4) (col : BitVec 9)
  | xerase (xb : BitVec 4)
  deriving DecidableEq, Repr

/-- An entry of a pair queue; `num` counts the task's class 5 words (R227), `order` the core's in issue order. -/
structure XOp where
  num : Nat
  order : Nat
  csel : BitVec 8
  push : BitVec 2
  kind : XKind
  started : Bool
  deriving DecidableEq, Repr

/-- A copy command (R252): its entry's address and, once started, the 64 bytes read and the status found at its start. -/
structure CopyCmd where
  seq : Nat
  ctx : CtxId
  addr : Nat
  /-- Its chain has been started by a superstep barrier since it came first (R28, R255). -/
  released : Bool
  aborted : Bool
  entry : Option (BitVec 512)
  status : BitVec 8
  /-- The handles it was started with, by register (R255). -/
  handles : Sparse (BitVec 128)
  /-- The index entries of a gath or scat, read at the start, each with the status its peer had then (R255, R276). -/
  elems : List (BitVec 64 × BitVec 8)
  /-- The tiles of its completion record, of its flag word and of its status bitmap were found good at the start (R255, R276). -/
  complOk : Bool
  flagOk : Bool
  bitsOk : Bool
  /-- The placement tag of the quad whose task issued it (R341). -/
  tag : Nat
  deriving DecidableEq, Repr

/-- Tiles an ownt returns once what was issued before it has completed (R251). -/
structure OwntReq where
  ctx : CtxId
  first : Nat
  n : Nat
  tq : Nat
  xq : Nat
  ws : Nat
  cp : Nat
  deriving DecidableEq, Repr

/-- A translation the RTB holds (R240). -/
structure RtbEnt where
  asid : BitVec 16
  gen : BitVec 8
  vpage : BitVec 27
  /-- The handle xlat forms from it (R239, R241). -/
  h : BitVec 128
  deriving DecidableEq, Repr

/-- A vector register, or a latch entry: value, tag and bound (R79, R171). -/
structure VVal where
  val : VReg
  bounded : Bool
  bound : BitVec 32
  deriving DecidableEq, Repr

/-- Command numbers of a core for one context (R259): the next of each engine, the copy chain's tail, SEQ_CP and SEQ_WS. -/
structure SeqSt where
  cpNext : Nat
  cpTail : Option Nat
  seqCp : Word
  wsNext : Nat
  seqWs : Word
  deriving DecidableEq, Repr

/-- A trap being taken (R296): its origin, OCNT of the four clusters at that moment, and the faulting-operand bytes. -/
structure TrapSt where
  origin : Cluster
  vdisc : Bool
  ocnt : List Word
  operand : BitVec 1024
  deriving DecidableEq, Repr

/-- What an access carries of its page to the home: key domain, digest kind and element type (R103, R383). -/
structure PAttr where
  kd : BitVec 8
  kind : BitVec 3
  etype : BitVec 3
  deriving DecidableEq, Repr

/-- A valid L1 byte: its value, whether it is dirty, and its page's attributes (R89). -/
structure L1Byte where
  val : Byte
  dirty : Bool
  attr : PAttr
  deriving DecidableEq, Repr

/-- A valid L2 byte, the cores of the die that wrote it and have not yet released it (one bit each; no bit: not dirty), and its
    page's attributes (R90, R91). -/
structure L2Byte where
  val : Byte
  writers : BitVec 32
  attr : PAttr
  deriving DecidableEq, Repr

/-- What an attached debugger has asked of a core (R304): nothing, a halt at the bkpt of a lock-step bundle once it issues, or that bkpt has
    issued. -/
inductive Debug | off | armed | hit
  deriving DecidableEq, Repr

/-- A core (R11 to R14). -/
structure Core where
  a : Cl
  v : Cl
  t : Cl
  sc : Cl
  /-- A task that was stopped for good and whose outstanding work still completes (R297, R305, R330). -/
  ending : Option Task
  /-- FIFO from each cluster to its right neighbour (key: the pusher's number), oldest first. -/
  toRight : Sparse (List (Option Word))
  toLeft : Sparse (List (Option Word))
  task : Option Task
  ready : List ReadyEnt
  conts : List Cont
  issueCnt : Sparse Nat
  version : List VEnt
  cslot : Word
  cmask : Word
  steps : BitVec 3
  /-- Phases that have issued and not yet acted, oldest first: two words of one bundle can be phases (R165). -/
  phaseReq : List (Cluster × BitVec 3)
  h : Sparse (BitVec 128)
  rtb : List RtbEnt
  sp : Memory
  spPoison : Sparse Bool
  owner : Sparse (BitVec 3)
  l1 : Sparse L1Byte
  vr : Sparse VVal
  q : Sparse VReg
  latch : Sparse VVal
  bypass : List (BitVec 32 × Nat)
  win : Sparse (BitVec 256)
  acc : Sparse (BitVec 32)
  bank : Sparse Byte
  meta0 : BankMeta
  meta1 : BankMeta
  active : Bool
  tailActive : Bool
  shadow : Sparse NestLevel
  nests : List Nest
  tq : List TileOp
  tsteps : Nat
  /-- Joint steps that the task has queued (R220). -/
  jsteps : Nat
  tds : Sparse (BitVec 1024)
  sparseBuf : List (Nat × Nat × BitVec 16)
  cut : BitVec 16
  ws : List Fill
  wsNext : Nat
  seqWs : Word
  cp : List CopyCmd
  cpNext : Nat
  cpTail : Option Nat
  seqCp : Word
  /-- The numbers of the first copy command and fill that count under CP for the running task (R30, R43). -/
  cpFrom : Nat
  wsFrom : Nat
  /-- The context whose numbers `cpNext`, `cpTail`, `seqCp`, `wsNext` and `seqWs` are, and those of the other contexts (R259). -/
  seqCtx : Option Nat
  seqs : Sparse SeqSt
  ownt : List OwntReq
  xq : Sparse (List XOp)
  xcount : Nat
  xorder : Nat
  xb : Sparse XArr
  trap : Option TrapSt
  inh : Bool
  /-- Loop stacks at handler entry, for eret (R300). -/
  hloops : List (List LoopEnt)
  halted : Bool
  /-- The cycle at which it halted (R303). -/
  haltedAt : Nat
  /-- The contexts that ask this core for a pre-emption (R51, R289). -/
  preempt : BitVec 64
  /-- A wait found unsatisfied that the limit of 64 continuations holds (R39). -/
  waitHeld : Bool
  debug : Debug
  deriving DecidableEq, Repr

/-- Context states (R287). -/
inductive CtxSt | free | loading | resident | running | preempting | saved | faulted | sealing
  deriving DecidableEq, Repr

/-- The context descriptor (R284, R285). -/
structure Desc where
  config : Word
  ptroot : Word
  ttbase : Word
  hpc : List Word
  save : Word
  frq : Word
  frp : Word
  rsize : Word
  mbox : Word
  cores : BitVec 256
  deriving DecidableEq, Repr

/-- A group that gave up its quad to a pre-emption (R326, R343). -/
structure SavedQuad where
  quad : Nat
  launch : Nat
  first : Nat
  tag : Nat
  deriving DecidableEq, Repr

/-- A context (R287 to R305). -/
structure Ctx where
  st : CtxSt
  cause : BitVec 8
  lerr : BitVec 8
  desc : Desc
  daddr : BitVec 52
  restoring : Bool
  saving : Bool
  launchCnt : BitVec 32
  rpool : Word
  fqHead : BitVec 32
  fqTail : BitVec 32
  frHead : BitVec 32
  frTail : BitVec 32
  saved : List (Nat × Core)
  savedQuads : List SavedQuad
  savedAt : Nat
  lastPlaced : Nat
  freeze : Bool
  /-- Pages that tinvs of the context have named since the save (R37, R351). -/
  tinvs : List (Nat × Nat)
  /-- For each page that a valid handle names: frame and permissions that the page had at the save (R37). -/
  leaves : List (Nat × Option Nat)
  deriving DecidableEq, Repr

/-- Record states (R315, R318). -/
inductive RecSt | blank | patched | armed | queued | dispatching | running | retired | faulted
  deriving DecidableEq, Repr

/-- A launch record's state and its captured image (R313, R315). -/
structure Rec where
  st : RecSt
  image : BitVec 2048
  deriving DecidableEq, Repr

/-- Queue states (R306). -/
inductive QSt | disabled | idle | active | blocked | draining | error
  deriving DecidableEq, Repr

/-- A queue (R306); `pending` lists its handed and unretired entries, `retired` those that CSEQ does not cover yet, with their INTR. -/
structure Queue where
  qbase : Word
  qcfg : Word
  tail : BitVec 32
  head : BitVec 32
  cseq : BitVec 32
  eidx : BitVec 32
  err : BitVec 8
  st : QSt
  pending : List (BitVec 32)
  retired : List (BitVec 32 × Bool)
  credit : Nat
  deriving DecidableEq, Repr

/-- Group states (R330); FORMING groups are the numbers not yet placed. -/
inductive GrpSt | placed | running | draining | done | faulted
  deriving DecidableEq, Repr

/-- A placed group: first ordinal, quad, state, tasks ended by tend, tasks not yet in a ready queue, and whether its quad has been freed. -/
structure Group where
  first : Nat
  quad : Nat
  st : GrpSt
  ended : Nat
  unqueued : List Task
  freed : Bool
  deriving DecidableEq, Repr

/-- A launch (R315, R321). -/
structure Launch where
  id : Nat
  ctx : CtxId
  recNo : Nat
  lser : BitVec 32
  queue : QueueId
  entry : BitVec 32
  image : BitVec 2048
  cpl : Option (Word × Word)
  intr : Bool
  superstep : Nat
  nextGroup : Nat
  groups : List Group
  dropped : Bool
  queuedAt : Nat
  waitFrom : Nat
  /-- Its place among the launches that have reached RETIRED (R309); 0 before. -/
  retiredNo : Nat
  deriving DecidableEq, Repr

/-- What a quad holds (R323, R341). -/
structure QuadSt where
  launch : Nat
  first : Nat
  tag : Nat
  deriving DecidableEq, Repr

/-- An engine arrival on its way (R341). -/
structure Arrival where
  key : Nat
  ctx : CtxId
  tag : Nat
  tainted : Bool
  deriving DecidableEq, Repr

/-- Way states (R93). -/
inductive WaySt | cache | flushing | zeroS | storage | zeroC
  deriving DecidableEq, Repr

/-- Dictionary slot states (R101). -/
inductive DictSt | empty | loading | armed | retiring
  deriving DecidableEq, Repr

/-- A dictionary slot (R100, R101). -/
structure Dict where
  st : DictSt
  count : BitVec 32
  image : Sparse Byte
  /-- Where the image that is being loaded lies. -/
  addr : BitVec 52
  deriving DecidableEq, Repr

/-- A line in a memory-side slice: its way, whether it is dirty, its residency chain, and when it was last used (R92, R95). -/
structure SLine where
  way : BitVec 4
  dirty : Bool
  chain : BitVec 8
  last : Nat
  deriving DecidableEq, Repr

/-- Frame states (R353). -/
inductive FrameSt | unmapped | resident | inMotion | committing
  deriving DecidableEq, Repr

/-- A frame location entry (R353) and the forwarder's copied-line bitmap (R362). -/
structure Frame where
  hot : BitVec 16
  hoten : Bool
  last : BitVec 3
  wmark : BitVec 15
  dest : BitVec 31
  loc : BitVec 31
  ilv : BitVec 3
  parked : Bool
  slot : BitVec 4
  tier : BitVec 2
  st : FrameSt
  pcnt : BitVec 8
  bitmap : BitVec 16384
  unmapPending : Bool
  /-- Wall time at which the stream parked (R361). -/
  parkedAt : Nat
  /-- A forwarded write found its line at the destination uncorrectable (R361). -/
  destLost : Bool
  deriving DecidableEq, Repr

/-- Link states (R369, R371). -/
inductive LinkSt | down | training | up | degraded | quarantined
  deriving DecidableEq, Repr

/-- A link (R369 to R371). -/
structure Link where
  st : LinkSt
  errc : BitVec 16
  peer : BitVec 10
  lanes : BitVec 5
  cap : BitVec 16
  shared : Bool
  thresh : BitVec 16
  /-- Wall time at which training started (R369). -/
  since : Nat
  deriving DecidableEq, Repr

/-- Key domain states (R384). -/
inductive KdSt | free | active | rotating | retired
  deriving DecidableEq, Repr

/-- A key domain: the serial numbers of its live keys, and which is current (R384). -/
structure Kd where
  st : KdSt
  key0 : Option Nat
  key1 : Option Nat
  cur : Bool
  deriving DecidableEq, Repr

/-- What a line's integrity tag covers (R383): the domain and the serial number of the key it was written under, none when the domain had
    no key left; the frame, where the access named one, and the line's number in its page. -/
structure Tag where
  kd : BitVec 8
  serial : Option Nat
  frame : Option Nat
  index : Nat
  deriving DecidableEq, Repr

/-- A line's side-band (R410, R383): the poison mark, and the tag of its last write. -/
structure LineSt where
  poisoned : Bool
  key : Option Tag
  deriving DecidableEq, Repr

/-- A line of a slice's way 0 (R92, R108): the plane's line by its home cell, its eight records, and whether they differ from the plane. -/
structure DLine where
  line : Nat
  recs : BitVec 1024
  dirty : Bool
  deriving DecidableEq, Repr

/-- A channel's row-remap table (R367). -/
structure Remap where
  rows : Sparse (BitVec 16)
  held : Bool
  fenced : Bool
  deriving DecidableEq, Repr

/-- A free-location ring (R364). -/
structure Flr where
  tail : BitVec 32
  head : BitVec 32
  cfg : Word
  deriving DecidableEq, Repr

/-- The power manager (R20 to R23): FSTEP's fields, the cap, and its sample counts. -/
structure Power where
  changes : BitVec 32
  cause : BitVec 4
  step : BitVec 4
  cap : Nat
  above : Nat
  below : Nat
  stopped : Bool
  capLowered : Bool
  tripped : Bool
  deriving DecidableEq, Repr

/-- A signed quote (R389). -/
structure Quote where
  nonce : BitVec 256
  slots : List (BitVec 256)
  health : Word
  turnstat : Word
  devid : Word
  sig : BitVec 3072
  deriving DecidableEq, Repr

/-- A turnover under way: what it names, the nonce of its quote, and the step that fails for a reason of the hardware, 0 for none (R386). -/
structure Turn where
  ctxMask : BitVec 64
  kdMask : BitVec 256
  nonce : BitVec 256
  fail : BitVec 4
  deriving DecidableEq, Repr

/-- The error log's registers (R380). -/
structure Elog where
  base : Word
  cfg : Word
  head : BitVec 32
  tail : BitVec 32
  lost : BitVec 32
  deriving DecidableEq, Repr

/-- An error-log record to be written: class, severity, unit, context and domain, address, wall time and detail (R381). -/
structure LogRec where
  cls : Nat
  sev : Nat
  unit : Nat
  ck : Option (Nat × Nat)
  addr : Nat
  us : Nat
  detail : List Byte
  deriving DecidableEq, Repr

/-- What the device has still to write for itself: an error-log record (R380), or bytes of the frame location table (R353). -/
inductive Todo
  | record (r : LogRec)
  | bytes (addr : Nat) (bs : List Byte)
  deriving DecidableEq, Repr

/-- What moves next (log 3): a cluster's next word, an event of the table, a plain store or cinv at the head of a store
    queue, an L1 line that is evicted, a cell that fails, a digest record that leaves its cache, an access of the host to BAR 0. -/
inductive Move
  | issue (core : CoreId) (c : Cluster)
  | event (i : Instr)
  | storePerform (core : CoreId) (c : Cluster)
  | evictL1 (core : CoreId) (line : Nat)
  /-- A memory cell's line goes bad: correctable, or not (R382, R410). -/
  | cellError (line : Nat) (lost : Bool)
  /-- A digest record leaves way 0 for its plane in memory (R108). -/
  | evictRecord (cell : Nat)
  /-- The host reads or writes 8 bytes of BAR 0 (R374). -/
  | bar0Read (off : BitVec 24)
  | bar0Write (off : BitVec 24) (v : Word)
  /-- A correctable error in an HBM controller's row-remap table (R367). -/
  | tableError (channel : Nat)
  /-- The next step of a turnover is performed (R386). -/
  | turnover
  deriving DecidableEq, Repr

/-- The module. -/
structure State where
  /-- Counts steps, for free values (log 5). -/
  seq : Nat
  cycle : Nat
  us : Nat
  /-- What moves next, and the core and cluster whose word `exec` performs (log 3). -/
  agenda : List Move
  cur : CoreId
  curCl : Cluster
  /-- `exec` performs a word of a lock-step bundle whose pops and stalls `step` has settled (R46). -/
  joint : Bool
  cores : List (Nat × Core)
  mem : Memory
  hostMem : Memory
  lines : Sparse LineSt
  /-- Lines whose data is uncorrectable and not yet found (R410). -/
  bad : Sparse Bool
  /-- Lines with an error that ECC corrects at each read (R382). -/
  weak : Sparse Bool
  /-- The lines of the slices' way 0, by slice and set (R92, R108). -/
  digests : Sparse DLine
  /-- The lines the slices hold in their cache ways, by line of the home; their bytes are held with memory (R92; log 7). -/
  slices : Sparse SLine
  /-- Accesses of each slice to lines of counted frames since it last added to a HOT (R363). -/
  hotCnt : Sparse Nat
  dpl : Sparse Word
  dseed : Word
  l2 : Sparse (Sparse L2Byte)
  ways : Sparse WaySt
  rtag : Sparse Word
  rdemote : Sparse (BitVec 8)
  dicts : Sparse Dict
  walkCache : List (Nat × BitVec 16 × BitVec 8 × Nat × Word)
  fltbase : Word
  fltlim : Word
  frames : Sparse Frame
  frmstat : BitVec 8
  flr : Sparse Flr
  tinvarg : Word
  tinvDone : Bool
  ctxs : List (Nat × Ctx)
  recs : Sparse Rec
  recstat : Word
  queues : Sparse Queue
  launches : List Launch
  nextLaunch : Nat
  quads : Sparse (Option QuadSt)
  nextTag : Nat
  /-- Launches that found no quad and keep a claim, oldest first (R324). -/
  claims : List Nat
  barriers : Sparse Word
  bcfg : Sparse Word
  arrivals : List Arrival
  links : Sparse Link
  win : Word
  devid : BitVec 10
  routes : Sparse (BitVec 5)
  exports : Sparse (BitVec 128)
  /-- Remote commands with an export entry through which an element of theirs has failed, by device, tag and entry (R379). -/
  remoteFailed : Sparse Bool
  dbgsel : BitVec 8
  irq : BitVec 256
  /-- The MSI-X table's entries (R374). -/
  msix : Sparse (BitVec 128)
  /-- What the host last wrote to the command registers of BAR 0 (R287, R318, R352, R354, R101). -/
  ctxcmd : Word
  reccmd : Word
  tinvcmd : Word
  frmcmd : Word
  dictcmd : Word
  fwSignals : BitVec 32
  elog : Elog
  /-- The device's own writes that have still to go home, oldest first (R353, R380; log 69). -/
  todo : List Todo
  cecnt : Sparse Word
  /-- For a 4 KiB region, the number of the 1 ms window of its last correction record, plus one (R382). -/
  ceSeen : Sparse Nat
  kds : Sparse Kd
  nextKey : Nat
  hostKd : Option (BitVec 8)
  /-- The patrol pass under way: the lines visited, and the domains that were ROTATING when it began (R385). -/
  patrolled : Sparse Bool
  patrolKds : BitVec 256
  /-- Lines that patrol visits of each base die have found failing their tag (R385). -/
  tagFailCnt : Sparse Word
  turnstat : Word
  /-- The turnover under way (R386). -/
  turn : Option Turn
  health : Word
  slots : Sparse (BitVec 256)
  quote : Option Quote
  remap : Sparse Remap
  refpost : Sparse Word
  power : Power
  /-- The start record has been written, so BAR 0 and BAR 2 answer (R390). -/
  started : Bool
  /-- The answer of the last host read, and its poisoned bit (R372). -/
  hostRead : List Byte
  hostReadPoisoned : Bool
  /-- BAR 2 writes posted by the host and not yet performed, oldest first: address, key domain and bytes (R318, R372). -/
  posted : List (Nat × BitVec 8 × List Byte)
  /-- Reply flits of other modules to elements of copy commands, by device, tag, entry and offset: the length each covers, and its bytes, or
      none for one lost to a bad CRC (R376). -/
  replies : Sparse (Nat × Option (List Byte))
  /-- The model's own: an access of this step met a place that holds it, so that nothing of the step takes place (R93, R367; log 66). -/
  heldHit : Bool
  deriving DecidableEq, Repr

/-- A cluster after reset (R48, R61, R151, R298; log 1). -/
def Cl.reset : Cl :=
  { pc := 0, s := [], p := [], loops := [], exposed := false, aflags := 0, inL := 0, inR := 0, outL := none, outR := none,
    need := 0, icyc := 0, flight := [], nseq := 0, loadQ := [], storeQ := [], rets := [], wait := none, popped := [], stopped := false,
    wdogFrom := 0, trapped := none, trapCause := 0, trapPc := 0, trapInfo := 0, dbgbp := [] }

/-- A bank's metadata after reset (R394). -/
def BankMeta.reset : BankMeta := { kbase := 0, nbase := 0, rows := 0, typ := 0, poisoned := false }

/-- An array after reset (R223, R224, R305, R390): UNKNOWN, its calibration state zero, no recorded context; its cells' levels are named by log 1. -/
def XArr.reset : XArr :=
  { cells := [], gain := [], offset := [], ref := [], ecal := 0, epsRel := 0, eAbs := 0, referr := 0, sw := 0, l1max := 0,
    tcal := 0, tdrift := 0, errc := 0, lastop := 0, st := .unknown, owner := none }

/-- A context's command numbers on a core when it is first resident (R259). -/
def SeqSt.reset : SeqSt := { cpNext := 1, cpTail := none, seqCp := 0, wsNext := 1, seqWs := 0 }

/-- What an unlisted vector register or latch holds (log 1, R30). -/
def VVal.zero : VVal := { val := 0, bounded := false, bound := 0 }

/-- A core after reset: scratchpad THREAD with STEPS 0 (R83, R84), wb0 active (R394), cut counter 1 (R204). -/
def Core.reset : Core :=
  { a := Cl.reset, v := Cl.reset, t := Cl.reset, sc := Cl.reset, ending := none, toRight := [], toLeft := [], task := none, ready := [],
    conts := [], issueCnt := [], version := [], cslot := 0, cmask := 0, steps := 0, phaseReq := [], h := [], rtb := [],
    sp := [], spPoison := [], owner := [], l1 := [], vr := [], q := [], latch := [], bypass := [], win := [], acc := [],
    bank := [], meta0 := BankMeta.reset, meta1 := BankMeta.reset, active := false, tailActive := false, shadow := [],
    nests := [], tq := [], tsteps := 0, jsteps := 0, tds := [], sparseBuf := [], cut := 1, ws := [], wsNext := 1, seqWs := 0, cp := [],
    cpNext := 1, cpTail := none, seqCp := 0, cpFrom := 0, wsFrom := 0, seqCtx := none, seqs := [], ownt := [], xq := [], xcount := 0, xorder := 0, xb := [], trap := none,
    inh := false, hloops := [], halted := false, haltedAt := 0, preempt := 0, waitHeld := false, debug := .off }

/-- A descriptor that nothing has loaded (R285). -/
def Desc.reset : Desc :=
  { config := 0, ptroot := 0, ttbase := 0, hpc := [0, 0, 0, 0], save := 0, frq := 0, frp := 0, rsize := 0, mbox := 0, cores := 0 }

/-- A context after reset: FREE (R390). -/
def Ctx.reset : Ctx :=
  { st := .free, cause := 0, lerr := 0, desc := Desc.reset, daddr := 0, restoring := false, saving := false, launchCnt := 0,
    rpool := 0, fqHead := 0, fqTail := 0, frHead := 0, frTail := 0, saved := [], savedQuads := [], savedAt := 0,
    lastPlaced := 0, freeze := false, tinvs := [], leaves := [] }

/-- A record after reset: BLANK (R390). -/
def Rec.reset : Rec := { st := .blank, image := 0 }

/-- A queue after reset: DISABLED (R390). -/
def Queue.reset : Queue :=
  { qbase := 0, qcfg := 0, tail := 0, head := 0, cseq := 0, eidx := 0, err := 0, st := .disabled, pending := [], retired := [], credit := 0 }

/-- A dictionary slot after reset: EMPTY (R101). -/
def Dict.reset : Dict := { st := .empty, count := 0, image := [], addr := 0 }

/-- A frame that nothing has mapped (R353). -/
def Frame.reset : Frame :=
  { hot := 0, hoten := false, last := 0, wmark := 0, dest := 0, loc := 0, ilv := 0, parked := false, slot := 0, tier := 0,
    st := .unmapped, pcnt := 0, bitmap := 0, unmapPending := false, parkedAt := 0, destLost := false }

/-- A link after reset: DOWN (R369, R390), THRESH 0x0010 (R370). -/
def Link.reset : Link := { st := .down, errc := 0, peer := 0, lanes := 0, cap := 0, shared := false, thresh := 0x10, since := 0 }

/-- A key domain after reset: FREE (R390). -/
def Kd.reset : Kd := { st := .free, key0 := none, key1 := none, cur := false }

/-- A line that nothing has written or found poisoned. -/
def LineSt.reset : LineSt := { poisoned := false, key := none }

/-- A row-remap table that firmware has not written (R367). -/
def Remap.reset : Remap := { rows := [], held := false, fenced := false }

/-- A free-location ring after reset (R364). -/
def Flr.reset : Flr := { tail := 0, head := 0, cfg := 0 }

/-- A nest level that nothing has written (R214). -/
def NestLevel.reset : NestLevel := { count := 0, dk := 0, dm := 0, dn := 0, dacc := 0 }

/-- The module right after reset: no core has work, every context FREE, queue DISABLED, record BLANK, link DOWN but PCIe,
    which leaves DOWN for TRAINING at reset (R369, R390). -/
def State.reset : State :=
  { seq := 0, cycle := 0, us := 0, agenda := [], cur := 0, curCl := .A, joint := false, cores := [], mem := [], hostMem := [], lines := [],
    bad := [], weak := [], digests := [], slices := [], hotCnt := [], dpl := [], dseed := 0, l2 := [], ways := [], rtag := [], rdemote := [], dicts := [],
    walkCache := [], fltbase := 0, fltlim := 0, frames := [], frmstat := 0, flr := [], tinvarg := 0, tinvDone := true,
    ctxs := [], recs := [], recstat := 0, queues := [], launches := [], nextLaunch := 0, quads := [], nextTag := 0,
    claims := [], barriers := [], bcfg := [], arrivals := [],
    links := [(28, { Link.reset with st := .training })], win := 0, devid := 0, routes := [], exports := [], remoteFailed := [], dbgsel := 0,
    irq := 0, msix := [], ctxcmd := 0, reccmd := 0, tinvcmd := 0, frmcmd := 0, dictcmd := 0, fwSignals := 0, elog := { base := 0, cfg := 0, head := 0, tail := 0, lost := 0 }, todo := [], cecnt := [], ceSeen := [],
    kds := [], nextKey := 0, hostKd := none, patrolled := [], patrolKds := 0, tagFailCnt := [], turnstat := 0, turn := none, health := 0, slots := [], quote := none, remap := [],
    refpost := [],
    power := { changes := 0, cause := 0, step := 0, cap := 3200, above := 0, below := 0, stopped := false,
               capLowered := false, tripped := false },
    started := false, hostRead := [], hostReadPoisoned := false, posted := [], replies := [], heldHit := false }

end Sys2Proof.Machine
end

