-- ==== Sys2Proof/Machine/Base.lean ====
section
/-! DEFINITION. Named operations over cores, clusters, registers, token FIFOs, program counters and memories. -/

namespace Sys2Proof.Machine

open Sys2Proof

/-- How a word's body ends: a state; a trap of its cluster with TRAP_INFO and the bytes of R299, none of its effect made; or a
    trap that is the word's own effect, with TRAP_PC at the next word (R159). -/
inductive Eff
  | ok (s : State)
  | trap (cause : Cause) (info : Word) (operand : List Byte)
  | trapNext (s : State) (cause : Cause) (info : Word)

/-- An outcome of `exec`. -/
abbrev Out := Host.Outcome State Fault Refusal

/-! Cores and clusters. -/

/-- Core `k`. -/
def State.core (s : State) (k : Nat) : Core := sget Core.reset s.cores k

/-- The state with core `k` replaced. -/
def State.setCore (s : State) (k : Nat) (c : Core) : State := { s with cores := sput s.cores k c }

/-- The state with core `k` updated. -/
def State.upCore (s : State) (k : Nat) (f : Core → Core) : State := s.setCore k (f (s.core k))

/-- A cluster of a core. -/
def Core.cl (k : Core) : Cluster → Cl
  | .A => k.a | .V => k.v | .T => k.t | .S => k.sc

/-- A core with a cluster replaced. -/
def Core.setCl (k : Core) (c : Cluster) (x : Cl) : Core :=
  match c with
  | .A => { k with a := x } | .V => { k with v := x } | .T => { k with t := x } | .S => { k with sc := x }

/-- A core with a cluster updated. -/
def Core.upCl (k : Core) (c : Cluster) (f : Cl → Cl) : Core := k.setCl c (f (k.cl c))

/-- A core with every cluster updated. -/
def Core.upAll (k : Core) (f : Cluster → Cl → Cl) : Core :=
  { k with a := f .A k.a, v := f .V k.v, t := f .T k.t, sc := f .S k.sc }

/-- The issuing core's number. -/
def State.me (s : State) : Nat := s.cur.toNat

/-- The issuing core. -/
def State.mine (s : State) : Core := s.core s.me

/-- The issuing cluster. -/
def State.myCl (s : State) : Cl := s.mine.cl s.curCl

/-- The state with the issuing core updated. -/
def State.upMine (s : State) (f : Core → Core) : State := s.upCore s.me f

/-- The state with the issuing cluster updated. -/
def State.upMyCl (s : State) (f : Cl → Cl) : State := s.upMine fun k => k.upCl s.curCl f

/-- Context `n`. -/
def State.ctx (s : State) (n : Nat) : Ctx := sget Ctx.reset s.ctxs n

/-- The state with context `n` updated. -/
def State.upCtx (s : State) (n : Nat) (f : Ctx → Ctx) : State := { s with ctxs := sput s.ctxs n (f (s.ctx n)) }

/-- The task a core's queued work belongs to: the running one, or one stopped for good whose work still completes (R330). -/
def Core.worker (k : Core) : Option Task := match k.task with | some t => some t | none => k.ending

/-- A pre-emption is asked of the running task's context (R51, R289). -/
def Core.asked (k : Core) : Bool := match k.task with | some t => k.preempt.getLsbD t.ctx.toNat | none => false

/-- The context a core works for: its task's, or that of a task stopped for good, or 0 when it has neither. -/
def Core.ctxNum (k : Core) : Nat :=
  match k.task, k.ending with | some t, _ => t.ctx.toNat | none, some t => t.ctx.toNat | none, none => 0

/-- The context descriptor's key domain (R285). -/
def Ctx.kdom (x : Ctx) : BitVec 8 := .ofNat 8 (bits x.desc.config.toNat 39 32)
/-- The context's ASID (R285). -/
def Ctx.asid (x : Ctx) : BitVec 16 := .ofNat 16 x.desc.config.toNat
/-- The context's generation (R285). -/
def Ctx.gen (x : Ctx) : BitVec 8 := .ofNat 8 (bits x.desc.config.toNat 23 16)

/-- The scheme of every access to the context's save area (R285, R294, R360). -/
def Ctx.saveIlv (x : Ctx) : Option Nat := some (bits x.desc.config.toNat 59 57)

/-- The cores of a context's descriptor (R284). -/
def Ctx.coreList (x : Ctx) : List Nat := (List.range 256).filter fun c => x.desc.cores.getLsbD c

/-! Scalar registers and predicates. -/

/-- A scalar register; s0 reads as zero (R11). -/
def Cl.reg (c : Cl) (r : Reg) : Word := if r = 0 then 0 else sget 0 c.s r.toNat

/-- A scalar register written; a write to s0 is discarded (R11). -/
def Cl.setReg (c : Cl) (r : Reg) (v : Word) : Cl := if r = 0 then c else { c with s := sset 0 c.s r.toNat v }

/-- All lanes. -/
def allLanes : Mask := BitVec.allOnes 64

/-- A predicate, all lanes; p0 is all-true (R13, R30). -/
def Cl.pmask (c : Cl) (p : Pred) : Mask := if p = 0 then allLanes else sget 0 c.p p.toNat

/-- A predicate's single bit: lane 0 in the V cluster. -/
def Cl.pbit (c : Cl) (p : Pred) : Bool := (c.pmask p).getLsbD 0

/-- The lanes `m` of a predicate written with `v`; p0 is never a destination (R121). -/
def Cl.setPred (c : Cl) (p : Pred) (m v : Mask) : Cl :=
  if p = 0 then c else { c with p := sset 0 c.p p.toNat ((c.pmask p &&& ~~~m) ||| (v &&& m)) }

/-- The lanes a scalar result in a predicate is written to: all 64 in V, bit 0 elsewhere (R13, R143). -/
def predLanes (c : Cluster) : Mask := match c with | .V => allLanes | _ => 1

/-- A Bool in every lane. -/
def spread (b : Bool) : Mask := if b then allLanes else 0

/-! Handles (R239). -/

/-- A handle register. -/
def Core.handle (k : Core) (r : Reg) : BitVec 128 := sget 0 k.h r.toNat

/-- A handle register written. -/
def Core.setHandle (k : Core) (r : Reg) (v : BitVec 128) : Core := { k with h := sset 0 k.h r.toNat v }

/-- V of a handle. -/
def hValid (h : BitVec 128) : Bool := h.getLsbD 63
/-- R, W and X of a handle. -/
def hRead (h : BitVec 128) : Bool := h.getLsbD 62
/-- W of a handle. -/
def hWrite (h : BitVec 128) : Bool := h.getLsbD 61
/-- X of a handle. -/
def hExec (h : BitVec 128) : Bool := h.getLsbD 60
/-- FRAME of a handle. -/
def hFrame (h : BitVec 128) : Nat := bits h.toNat 56 29
/-- VPAGE of a handle. -/
def hVpage (h : BitVec 128) : Nat := bits h.toNat 26 0
/-- Read-only-compressed. -/
def hRc (h : BitVec 128) : Bool := h.getLsbD 70
/-- Dictionary slot. -/
def hSlot (h : BitVec 128) : Nat := bits h.toNat 76 71
/-- Digest kind and element type of a handle, with a key domain. -/
def hAttr (h : BitVec 128) (kd : BitVec 8) : PAttr :=
  { kd := kd, kind := .ofNat 3 (bits h.toNat 66 64), etype := .ofNat 3 (bits h.toNat 69 67) }

/-! Program counters (R112, R113). -/

/-- The word number of a virtual address in a stream (R113). -/
def wordNum (c : Cluster) (pc : VAddr) : Nat := pc.toNat / 2 ^ 21 * c.wordsPerPage + pc.toNat % 2 ^ 21 / c.wordBytes

/-- The virtual address of a word number (R113). -/
def addrOf (c : Cluster) (n : Nat) : VAddr := .ofNat 48 (n / c.wordsPerPage * 2 ^ 21 + n % c.wordsPerPage * c.wordBytes)

/-- The address `d` words on (R113, R120). -/
def pcPlus (c : Cluster) (pc : VAddr) (d : Int) : VAddr :=
  addrOf c (((wordNum c pc : Int) + d) % ((2 ^ 27 * c.wordsPerPage : Nat) : Int)).toNat

/-- A target that R114 forbids: not a multiple of the width, or in a page tail, or beyond 48 bits. The multiple is counted from the start
    of the target's page, as the words of R113 are (log 68; DEDUCED). -/
def badTarget (c : Cluster) (a : Word) : Bool :=
  a.toNat % 2 ^ 21 % c.wordBytes != 0 || a.toNat % 2 ^ 21 ≥ 0x1FFFE0 || a.toNat ≥ 2 ^ 48

/-! Scratchpad (R82, R83). -/

/-- The scratchpad's size in bytes (R82). -/
def spSize : Nat := 0x280000

/-- Owner of a tile; at reset THREAD, as STEPS = 0 (R83, R84). -/
def Core.owner' (k : Core) (tile : Nat) : BitVec 3 := sget 0 k.owner tile

/-- A tile's owner set. -/
def Core.setOwner (k : Core) (tile : Nat) (o : BitVec 3) : Core := { k with owner := sset 0 k.owner tile o }

/-- Owner codes (R83). -/
def ownThread : BitVec 3 := 0
/-- The copy engine's. -/
def ownCopy : BitVec 3 := 1
/-- The weight-stream engine's. -/
def ownWstream : BitVec 3 := 2
/-- The tensor units'. -/
def ownTensor : BitVec 3 := 3
/-- The crossbars'. -/
def ownXbar : BitVec 3 := 4
/-- Part of the L1. -/
def ownCache : BitVec 3 := 5

/-- A scratchpad byte. -/
def Core.spByte (k : Core) (a : Nat) : Byte := sget 0 k.sp a

/-- `n` scratchpad bytes. -/
def Core.spRead (k : Core) (a n : Nat) : List Byte := (List.range n).map fun i => k.spByte (a + i)

/-- Whether a scratchpad byte among `n` is poisoned (R189). -/
def Core.spPoisoned (k : Core) (a n : Nat) : Bool := (List.range n).any fun i => sget false k.spPoison (a + i)

/-- Bytes written to a sparse memory with default `d`; `none` leaves a byte alone. -/
def putBytes (d : Byte) (m : Memory) (a : Nat) : List (Option Byte) → Memory
  | [] => m
  | some b :: r => putBytes d (sset d m a b) (a + 1) r
  | none :: r => putBytes d m (a + 1) r

/-- Scratchpad bytes written; a byte written is not poisoned. -/
def Core.spWrite (k : Core) (a : Nat) (bs : List (Option Byte)) : Core :=
  { k with sp := putBytes 0 k.sp a bs,
           spPoison := k.spPoison.filter fun e => !(decide (a ≤ e.1) && (match bs[e.1 - a]? with | some (some _) => true | _ => false)) }

/-- Scratchpad bytes marked poisoned. -/
def Core.spMark (k : Core) (a n : Nat) : Core :=
  { k with spPoison := (List.range n).foldl (fun m i => sset false m (a + i) true) k.spPoison }

/-- Every tile that holds a byte of [a, a + n) has owner `o`. -/
def Core.owned (k : Core) (o : BitVec 3) (a n : Nat) : Bool :=
  (List.range ((a + n + 4095) / 4096 - a / 4096)).all fun i => k.owner' (a / 4096 + i) == o

/-- The owner code of the first tile of [a, a + n) that is not `o` (R299). -/
def Core.wrongOwner (k : Core) (o : BitVec 3) (a n : Nat) : BitVec 3 :=
  (((List.range ((a + n + 4095) / 4096 - a / 4096)).map fun i => k.owner' (a / 4096 + i)).find? (· != o)).getD o

/-! Bytes. -/

/-- `n` bytes of a number, least significant first (R6). -/
def toBytes : Nat → Nat → List Byte
  | 0, _ => []
  | n + 1, v => BitVec.ofNat 8 v :: toBytes n (v / 256)

/-- The number that bytes hold, least significant first (R6). -/
def ofBytes : List Byte → Nat
  | [] => 0
  | b :: r => b.toNat + 256 * ofBytes r

/-- Bytes as a write of every byte. -/
def allOf (l : List Byte) : List (Option Byte) := l.map some

/-! Token FIFOs (R12, R45). -/

/-- The FIFO that a push of cluster `c` in direction `d` enters. -/
def Core.fifoTo (k : Core) (c : Cluster) (d : Dir) : List (Option Word) :=
  match d with
  | .right => sget [] k.toRight c.num
  | .left => sget [] k.toLeft c.num

/-- A FIFO replaced, named by its pusher and the push's direction. -/
def Core.setFifo (k : Core) (c : Cluster) (d : Dir) (l : List (Option Word)) : Core :=
  match d with
  | .right => { k with toRight := sset [] k.toRight c.num l }
  | .left => { k with toLeft := sset [] k.toLeft c.num l }

/-- The pusher of the FIFO that cluster `c` pops in direction `d`, and the direction of its pushes (R12). -/
def popSide (c : Cluster) (d : Dir) : Cluster × Dir :=
  match d with
  | .left => (c.left, .right)
  | .right => (c.right, .left)

/-- The FIFO that a pop of cluster `c` in direction `d` takes from. -/
def Core.fifoFrom (k : Core) (c : Cluster) (d : Dir) : List (Option Word) :=
  k.fifoTo (popSide c d).1 (popSide c d).2

/-- Entries a FIFO holds at most (R12). -/
def fifoDepth : Nat := 8

/-- Every FIFO that the pushes K[1:0] enter has space (R12, R45). -/
def Core.hasRoom (k : Core) (c : Cluster) (m : BitVec 2) : Bool :=
  (!m.getLsbD 1 || decide ((k.fifoTo c .left).length < fifoDepth)) && (!m.getLsbD 0 || decide ((k.fifoTo c .right).length < fifoDepth))

/-- A queued operation's pushes can be made. Those of a task that has stopped for good are pushed into FIFOs that no word will pop (R33). -/
def Core.roomFor (k : Core) (c : Cluster) (m : BitVec 2) : Bool := k.task.isNone || k.hasRoom c m

/-- An entry enters a FIFO: it carries the payload tkwr last wrote for the direction and leaves none (R45). -/
def Core.enter (k : Core) (c : Cluster) (d : Dir) : Core :=
  let x := k.cl c
  let p := match d with | .left => x.outL | .right => x.outR
  let k := k.upCl c fun x => match d with | .left => { x with outL := none } | .right => { x with outR := none }
  k.setFifo c d (k.fifoTo c d ++ [p])

/-- The pushes that K[1:0] asks for, made now. -/
def Core.pushBits (k : Core) (c : Cluster) (m : BitVec 2) : Core :=
  let k := if m.getLsbD 1 then k.enter c .left else k
  if m.getLsbD 0 then k.enter c .right else k

/-- The outgoing register of a direction written (R154). -/
def Cl.setOutgoing (x : Cl) (dir : Dir) (v : Word) : Cl :=
  match dir with
  | .left => { x with outL := some v } | .right => { x with outR := some v }

/-! Results in flight (R49). -/

/-- A result enters its port's latch at an age: the results of that age and older move one place on (R171). -/
def Core.latchAt (k : Core) (port age : Nat) (v : VVal) : Core :=
  if age > 7 then k else
  let old := (List.range (7 - age)).map fun a => sget VVal.zero k.latch (8 * port + age + a)
  let m := ((List.range (7 - age)).zip old).foldl (fun m e => sset VVal.zero m (8 * port + age + e.1 + 1) e.2) k.latch
  { k with latch := sset VVal.zero m (8 * port + age) v }

/-- A vldg that has not returned: one more later result has entered port 7 (R171). -/
def LoadEnt.passed (e : LoadEnt) : LoadEnt :=
  match e.kind with
  | .vldg h off len d active pd n => { e with kind := .vldg h off len d active pd (n + 1) }
  | _ => e

/-- A result enters its port's latch at age 0; on port 7 it is younger than every vldg that has still to return (R171). -/
def Core.latchIn (k : Core) (port : Nat) (v : VVal) : Core :=
  let k := k.latchAt port 0 v
  if port == 7 && !k.v.loadQ.isEmpty then { k with v := { k.v with loadQ := k.v.loadQ.map LoadEnt.passed } } else k

/-- A vector register name's value, tag and bound (R129). -/
def Core.vname (k : Core) (n : Nat) : VVal :=
  if n < 512 then sget VVal.zero k.vr n
  else if n < 576 then { val := sget 0 k.q (n - 512), bounded := false, bound := 0 }
  else sget VVal.zero k.latch (n - 576)

/-- A vector register written. -/
def Core.setVname (k : Core) (n : Nat) (v : VVal) : Core :=
  if n < 512 then { k with vr := sset VVal.zero k.vr n v }
  else if n < 576 then { k with q := sset 0 k.q (n - 512) v.val }
  else k

/-- A result reaches its register: in a vector register the bits of `mask` change, a bounded result under a partial guard
    keeps the larger bound (R168), and the register's new bits enter the latch of the port (R171). -/
def Core.applyVal (k : Core) (c : Cluster) : RegVal → Core
  | .sreg r v => k.upCl c fun x => x.setReg r v
  | .pred p m v => k.upCl c fun x => x.setPred p m v
  | .vreg n m v bd b part port =>
    let o := k.vname n
    let ob : BitVec 32 := if o.bounded then o.bound else 0
    let nb : BitVec 32 := if bd then (if part && ob.toNat > b.toNat then ob else b) else 0
    let w : VVal := { val := (o.val &&& ~~~m) ||| (v &&& m), bounded := bd, bound := nb }
    let k := k.setVname n w
    match port with
    | some p => k.latchIn p w
    | none => k
  | .handle r v => k.setHandle r v
  | .flags f => k.upCl c fun x => { x with aflags := x.aflags ||| f }
  | .sp a bs => k.spWrite a bs
  | .own t n o => (List.range n).foldl (fun k i => k.setOwner (t + i) o) k
  | .payload d v => k.upCl c fun x => x.setOutgoing d v
  | .pushes m | .storePushes m => k.pushBits c m

/-- What stands only after an issue cycle has passed, in either mode: a scratchpad store, what waits for it, and their pushes (R191, R251). -/
def RegVal.frozen : RegVal → Bool
  | .sp _ _ | .own _ _ _ | .storePushes _ => true
  | _ => false

/-- Insert a result by its due cycle, after those due no later. -/
def insertFlight (f : InFlight) : List InFlight → List InFlight
  | [] => [f]
  | g :: r => if g.due ≤ f.due then g :: insertFlight f r else f :: g :: r

/-- Issue cycles from a word's own to the first of the mode that an lmode behind it switches to (R50). -/
def lmodeReach : Nat := 9

/-- A result of latency `lat` on its way, which waits for the space that the pushes `m` need (R45, R49). -/
def Cl.send (x : Cl) (lat : Nat) (m : BitVec 2) (v : RegVal) : Cl :=
  { x with flight := insertFlight { due := x.icyc + lat, what := v, need := m } x.flight }

/-- A result of latency `lat`: in flight in exposed mode, and in scoreboard mode when an lmode behind it could overtake it, or when its word
    pushes and does not retire at once; any other is written now, since a word that names its register waits for it (R45, R48, R49, R50;
    log 6). -/
def Core.deliver (k : Core) (c : Cluster) (lat : Nat) (v : RegVal) : Core :=
  let x := k.cl c
  if x.exposed || decide (lat > lmodeReach) || (x.need != 0 && (decide (lat > 1) || !k.hasRoom c x.need)) then k.upCl c fun y => y.send lat y.need v
  else k.applyVal c v

/-- A result that is in flight in either mode: a scratchpad store, and what follows it (R191, R251). -/
def Core.deliverLate (k : Core) (c : Cluster) (lat : Nat) (v : RegVal) : Core := k.upCl c fun x => x.send lat 0 v

/-- The pushes of a word of latency `lat`, which are made when it retires: now only in scoreboard mode, for a latency of 1 and with space
    (R45). -/
def Core.pushAfter (k : Core) (c : Cluster) (late : Bool) (lat : Nat) (m : BitVec 2) : Core :=
  if m == 0 then k
  else if late then k.upCl c fun x => x.send lat m (.storePushes m)
  else if (k.cl c).exposed || decide (lat > 1) || !k.hasRoom c m then k.upCl c fun x => x.send lat m (.pushes m)
  else k.pushBits c m

/-- Results that are due are written in order; those whose pushes find no space remain (R45). -/
def Core.writeDue (c : Cluster) : List InFlight → Core → Core × List InFlight
  | [], k => (k, [])
  | f :: r, k =>
    if k.hasRoom c f.need then writeDue c r (k.applyVal c f.what)
    else let (k, l) := writeDue c r k; (k, f :: l)

/-- Results due by issue cycle `n` are written, in order (R49). -/
def Core.commitBy (k : Core) (c : Cluster) (n : Nat) : Core :=
  let l := (k.cl c).flight
  let (k, b) := Core.writeDue c (l.filter fun f => f.due ≤ n) (k.upCl c fun x => { x with flight := l.filter fun f => !decide (f.due ≤ n) })
  if b.isEmpty then k else k.upCl c fun x => { x with flight := b ++ x.flight }

/-- The results in flight of a cluster that satisfy `p` are written, in order; those whose pushes find no space are due. -/
def Core.commitWhere (k : Core) (c : Cluster) (p : RegVal → Bool) : Core :=
  let l := (k.cl c).flight
  let (k, b) := Core.writeDue c (l.filter fun f => p f.what) (k.upCl c fun x => { x with flight := l.filter fun f => !p f.what })
  if b.isEmpty then k else k.upCl c fun x => { x with flight := b.map (fun f => { f with due := x.icyc }) ++ x.flight }

/-- Every result in flight of a cluster is written. -/
def Core.commitCl (k : Core) (c : Cluster) : Core := k.commitWhere c fun _ => true

/-- Every result in flight is written: an issued word retires (R296), and a save or a task's end drains. -/
def Core.commitAll (k : Core) : Core := [Cluster.A, .V, .T, .S].foldl Core.commitCl k

/-- A word of a cluster has issued and cannot retire, since a FIFO that it pushes is full (R45). -/
def Cl.blocked (x : Cl) : Bool := x.flight.any fun f => f.need != 0 && decide (f.due ≤ x.icyc)

/-- A word of the core that has issued has still to retire. -/
def Core.retiring (k : Core) : Bool := Cluster.all.any fun c => !(k.cl c).flight.isEmpty

/-- A pop: the entry's payload, or zero, enters the incoming register of the direction (R45, R154), and a word that waited for the space
    retires. -/
def Core.pop (k : Core) (c : Cluster) (d : Dir) : Core :=
  match k.fifoFrom c d with
  | [] => k
  | e :: r =>
    let (p, pd) := popSide c d
    let k := (k.setFifo p pd r).upCl c fun x =>
      match d with
      | .left => { x with inL := e.getD 0 }
      | .right => { x with inR := e.getD 0 }
    if (k.cl p).blocked then k.commitBy p (k.cl p).icyc else k

/-- The pushes of a word that retires now: made, or on their way while a FIFO has no space (R45). -/
def Core.pushSoon (k : Core) (c : Cluster) (m : BitVec 2) : Core :=
  if m == 0 then k else if k.hasRoom c m then k.pushBits c m else k.upCl c fun x => x.send 0 m (.pushes m)

/-- A tile's new owner is still on its way (R251). -/
def Core.ownPending (k : Core) : Bool :=
  Cluster.all.any fun c => (k.cl c).flight.any fun f => match f.what with | .own _ _ _ => true | _ => false

/-! Counters (R43, R44). -/

/-- LD of a cluster: loads in its queue and results on their way. An acquire or a mark in the queue is no load. -/
def Cl.ldCount (x : Cl) : Nat :=
  (x.loadQ.filter fun e => match e.kind with | .acquire _ => false | .mark => false | _ => true).length + x.rets.length
    + (x.storeQ.filter fun e => match e.kind with | .amo _ _ m _ _ _ => m.res | .binit _ _ _ _ => true | .barv _ _ _ _ => true | _ => false).length

/-- ST of a cluster. -/
def Cl.stCount (x : Cl) : Nat :=
  (x.storeQ.filter fun e => match e.kind with | .amo _ _ m _ _ _ => !m.res | .binit _ _ _ _ => false | .barv _ _ _ _ => false | .mark => false | _ => true).length

/-- Steps a nest places in all: none when a level has COUNT 0 (R215). -/
def Nest.total (n : Nest) : Nat := n.levels.foldl (fun p l => p * l.count.toNat) 1

/-- Entries that wait behind the running nest's steps: an mgo's own, and mnsets' (R194, R215). -/
def Nest.waiting (n : Nest) : Nat := (if n.entered then 0 else 1) + n.after

/-- Entries behind the steps of a core's nests. -/
def Core.nestWaiting (k : Core) : Nat := (k.nests.map Nest.waiting).foldl (· + ·) 0

/-- TS of a core: tile-step queue and crossbar operations; mwld leaves it when handed on (R43, R194, R225). -/
def Core.tsCount (k : Core) : Nat := k.tq.length + k.nestWaiting + ((k.xq.map fun e => e.2.length).foldl (· + ·) 0)

/-- Entries that the core's nests, and the words behind them, have still to place. -/
def Core.nestLeft (k : Core) : Nat := (k.nests.map fun n => n.total - n.next).foldl (· + ·) 0 + k.nestWaiting

/-- mwld operations that are still in the tile-step queue. -/
def Core.fillsQueued (k : Core) : Nat :=
  (k.tq.filter fun e => match e.kind with | .mwldWindow _ _ _ _ => true | .mwldRange _ _ _ _ _ => true | _ => false).length

/-- CP of a core: copy commands and weight fills of the running task (R30, R43). -/
def Core.cpCount (k : Core) : Nat :=
  (k.cp.filter fun e => e.ctx.toNat == k.ctxNum && decide (e.seq ≥ k.cpFrom)).length
    + (k.ws.filter fun f => f.ctx.toNat == k.ctxNum && decide (f.seq ≥ k.wsFrom)).length

/-- Commands that the CP limit counts: an mwld in the queue will be one (R43, R194). -/
def Core.cpLoad (k : Core) : Nat := k.cpCount + k.fillsQueued

/-- The drain of R32: LD and ST of every cluster and the core's TS are zero. -/
def Core.drained (k : Core) : Bool :=
  Cluster.all.all (fun c => (k.cl c).loadQ.isEmpty && (k.cl c).storeQ.isEmpty && (k.cl c).rets.isEmpty) && k.tsCount == 0 && k.nests.isEmpty

/-- OCNT as a cluster reads it (R44). -/
def Core.ocnt (k : Core) (c : Cluster) : Word :=
  .ofNat 64 (pack [(8, (k.cl c).ldCount), (8, (k.cl c).stCount), (8, k.cpCount), (8, k.tsCount)])

/-- The quad of a core and the core's index in it (R10). -/
def quadOf (k : Nat) : Nat := k / 4
/-- The die of a core (R10). -/
def dieOf (k : Nat) : Nat := k / 32

/-! Registers of the issuing cluster. -/

/-- A scalar register of the issuing cluster. -/
def State.reg (s : State) (r : Reg) : Word := s.myCl.reg r

/-- A result of the issuing cluster. -/
def State.deliver (s : State) (lat : Nat) (v : RegVal) : State := s.upMine fun k => k.deliver s.curCl lat v

/-- A result of the issuing cluster that is in flight in either mode. -/
def State.deliverLate (s : State) (lat : Nat) (v : RegVal) : State := s.upMine fun k => k.deliverLate s.curCl lat v

end Sys2Proof.Machine
end

