-- ==== Sys2Proof/Machine/Digest.lean ====
section
/-! DEFINITION. Digest records: their fields, what a seal computes and how a write changes them (R103 to R107). -/

namespace Sys2Proof.Machine

open Sys2Proof

/-- A digest record's fields (R104): the kind's own fields are `lo`, bits [95:0]. -/
structure DRec where
  etype : Nat
  kind : Nat
  poison : Bool
  unknown : Bool
  loose : Bool
  valid : Bool
  gen : Nat
  lo : Nat
  deriving DecidableEq, Repr

/-- Bits [95:0] of a record of a kind, reserved ones as zero (R7, R105). -/
def kindBits (kind w : Nat) : Nat :=
  match kind with
  | 1 => w % 2 ^ 80
  | 3 => w % 2 ^ 64
  | _ => w % 2 ^ 96

/-- A record from its 128 bits; reserved bits read as zero (R7, R104). -/
def DRec.ofBits (r : BitVec 128) : DRec :=
  let w := r.toNat
  { etype := bits w 121 119, kind := bits w 118 116, poison := bit w 115, unknown := bit w 114, loose := bit w 113,
    valid := bit w 112, gen := bits w 111 96, lo := kindBits (bits w 118 116) w }

/-- A record's 128 bits (R104). -/
def DRec.toBits (d : DRec) : BitVec 128 :=
  .ofNat 128 (pack [(96, d.lo), (16, d.gen), (1, b2n d.valid), (1, b2n d.loose), (1, b2n d.unknown), (1, b2n d.poison),
    (3, d.kind), (3, d.etype)])

/-- Usable: VALID, and neither UNKNOWN nor POISON (R104). -/
def DRec.usable (d : DRec) : Bool := d.valid && !d.unknown && !d.poison

/-- Bytes of an element of a digest type (codes 0 to 7 of R57). -/
def dBytes (t : Nat) : Nat := typeWidth t / 8

/-- The elements of a block's bytes (R105). -/
def dElems (t : Nat) (bs : List Byte) : List Nat :=
  (List.range (bs.length / dBytes t)).map fun i => ofBytes ((bs.drop (i * dBytes t)).take (dBytes t))

/-- An element's value, integers included. -/
def dVal (t w : Nat) : FVal := if isInt t then intFVal (intVal t w) else fvalOf t w

/-- An element is non-zero unless its value is zero; a NaN is non-zero (R105). -/
def dNonzero (t w : Nat) : Bool :=
  match dVal t w with
  | .fin _ m _ => m != 0
  | _ => true

/-- The number of elements with a property. -/
def countOf (l : List Nat) (p : Nat → Bool) : Nat := (l.filter p).length

/-- An element widened to i32 or f32 (R105). -/
def dWiden (t w : Nat) : Nat := if isInt t then wrapTo 32 (intVal t w) else (fmtF32.round 0 (fvalOf t w)).1

/-- The order of widened values: -0 below +0 (R105). -/
def wBelow (t a b : Nat) : Bool :=
  if isInt t then decide (signedOf 32 a < signedOf 32 b) else (f32Val a).below (f32Val b)

/-- PIPS: one bit per 8 bytes (R105). -/
def pips (t : Nat) (bs : List Byte) : Nat :=
  (List.range 64).foldl (fun acc g => acc + (if (dElems t ((bs.drop (8 * g)).take 8)).any (dNonzero t) then 2 ^ g else 0)) 0

/-- Is an element NaN. -/
def dNan (t w : Nat) : Bool := (dVal t w).isNan

/-- Widen MIN and MAX to cover more elements; `none` when nothing is covered yet. -/
def cover (t : Nat) (mm : Option (Nat × Nat)) (l : List Nat) : Option (Nat × Nat) :=
  l.foldl (fun mm w =>
    if dNan t w then mm else
    let x := dWiden t w
    match mm with
    | none => some (x, x)
    | some (lo, hi) => some (if wBelow t x lo then x else lo, if wBelow t hi x then x else hi)) mm

/-- BOUNDS' fields (R105). -/
def boundsLo (t : Nat) (l : List Nat) (mm : Option (Nat × Nat)) : Nat :=
  let (lo, hi) := mm.getD (0, 0)
  pack [(32, lo), (32, hi), (16, countOf l (dNonzero t)), (16, countOf l (dNan t))]

/-- |x|. -/
def fvAbs : FVal → FVal
  | .nan s => .nan s
  | .inf _ => .inf false
  | .fin _ m e => .fin false m e

/-- The rounded running sum of R106. -/
def runSum (l : List FVal) : Nat := l.foldl (fun a x => (fmtF32.fadd 0 (f32Val a) x).1) 0

/-- The hash of R106: bit 63 of z for projection `h` and element `i`. -/
def sketchNeg (dseed h i : Nat) : Bool :=
  let z := dseed ^^^ (h * 2 ^ 32 + i)
  let z := (z ^^^ (z / 2 ^ 30)) * 0xBF58476D1CE4E5B9 % 2 ^ 64
  let z := (z ^^^ (z / 2 ^ 27)) * 0x94D049BB133111EB % 2 ^ 64
  let z := z ^^^ (z / 2 ^ 31)
  z.testBit 63

/-- SKETCH's fields (R105, R106). -/
def sketchLo (dseed : Nat) (xs : List FVal) : Nat :=
  if xs.any (·.isNan) then fmtF32.dnan * 2 ^ 64
  else if xs.any (fun x => match x with | .inf _ => true | _ => false) then fmtF32.infBits * 2 ^ 64
  else
    let ix := (List.range xs.length).zip xs
    let signs := (List.range 64).foldl (fun acc h =>
      let p := ix.foldl (fun (s : ExSum) e => s.add (if sketchNeg dseed h e.1 then e.2.neg else e.2)) ExSum.zero
      acc + (if p.n < 0 then 2 ^ h else 0)) 0
    let sq := xs.foldl (fun (s : ExSum) x => s.add (FVal.mul x x).1) ExSum.zero
    pack [(64, signs), (32, sqrtF32 sq.n.natAbs sq.e)]

/-- The fields a seal computes from a block's bytes (R105, R106). -/
def sealLo (dseed kind t : Nat) (bs : List Byte) : Nat :=
  let l := dElems t bs
  match kind with
  | 1 => pack [(64, pips t bs), (16, countOf l (dNonzero t))]
  | 2 => boundsLo t l (cover t none l)
  | 3 => pack [(32, runSum (l.map (dVal t))), (32, runSum (l.map fun w => fvAbs (dVal t w)))]
  | 4 => sketchLo dseed (l.map (dVal t))
  | _ => 0

/-- A seal of a block (R106). -/
def DRec.sealWith (d : DRec) (dseed kind t : Nat) (bs : List Byte) (poisoned : Bool) : DRec :=
  if poisoned then { d with kind := kind, etype := t, poison := true }
  else { d with kind := kind, etype := t, valid := true, loose := false, unknown := false, poison := false,
                lo := sealLo dseed kind t bs }

/-- The sum of new values less old values, rounded once (R107). -/
def deltaOf (olds news : List FVal) : Nat :=
  let s := news.foldl ExSum.add ExSum.zero
  let s := olds.foldl (fun s x => s.add x.neg) s
  (fmtF32.round 0 s.val.1).1

/-- A write that is performed at home changes the record of its block (R107): `req` is the request's kind and type, `old` and
    `new` the block's bytes, `touched` which bytes were written. -/
def DRec.written (d : DRec) (req : Option (Nat × Nat)) (old new : List Byte) (touched : Nat → Bool) : DRec :=
  let d1 := { d with gen := (d.gen + 1) % 2 ^ 16 }
  if !(d.valid && req == some (d.kind, d.etype)) then { d1 with valid := false, unknown := true }
  else if d.unknown || d.poison then d1
  else
    let t := d.etype
    let w := dBytes t
    let lo := dElems t old
    let ln := dElems t new
    let hit := (List.range ln.length).filter fun i => (List.range w).any fun j => touched (i * w + j)
    let wo := hit.map fun i => lo.getD i 0
    let wn := hit.map fun i => ln.getD i 0
    match d.kind with
    | 1 => { d1 with lo := sealLo 0 1 t new }
    | 2 =>
      let mn := d.lo % 2 ^ 32
      let mx := d.lo / 2 ^ 32 % 2 ^ 32
      let lost := (wo.zip wn).any fun e => !dNan t e.1 && (dWiden t e.1 == mn || dWiden t e.1 == mx) && (dNan t e.2 || dWiden t e.1 != dWiden t e.2)
      { d1 with lo := boundsLo t ln (cover t (some (mn, mx)) wn), loose := d.loose || lost }
    | 3 =>
      let a := deltaOf (wo.map (dVal t)) (wn.map (dVal t))
      let b := deltaOf (wo.map fun w => fvAbs (dVal t w)) (wn.map fun w => fvAbs (dVal t w))
      { d1 with loose := true,
                lo := pack [(32, (fmtF32.fadd 0 (f32Val (d.lo % 2 ^ 32)) (f32Val a)).1),
                            (32, (fmtF32.fadd 0 (f32Val (d.lo / 2 ^ 32 % 2 ^ 32)) (f32Val b)).1)] }
    | 4 => { d1 with loose := true }
    | _ => d1

/-- A back-invalidate of a shared line (R107). -/
def DRec.backInv (d : DRec) : DRec := { d with gen := (d.gen + 1) % 2 ^ 16, unknown := true }

/-- A line of the block first found uncorrectable (R107, R410). -/
def DRec.found (d : DRec) : DRec := { d with gen := (d.gen + 1) % 2 ^ 16, poison := true }

/-- The record of a block at or beyond COVER: UNKNOWN and every other bit zero (R108). -/
def DRec.beyond : DRec := { etype := 0, kind := 0, poison := false, unknown := true, loose := false, valid := false, gen := 0, lo := 0 }

/-- The summary test of dgq (R262). -/
def DRec.test (d : DRec) (t : Nat) : Bool :=
  match t with
  | 0 => !d.usable || (match d.kind with
      | 1 => bits d.lo 79 64 != 0
      | 2 => bits d.lo 79 64 != 0
      | 3 => absF32 (bits d.lo 63 32) != 0 || d.loose
      | 4 => absF32 (bits d.lo 95 64) != 0 || d.loose
      | _ => false)
  | 1 => d.usable
  | _ => d.usable && d.loose

end Sys2Proof.Machine
end

