-- ==== Sys2Proof/Machine/Place.lean ====
section
/-! DEFINITION. Where the bytes of a page lie: tiers, interleave schemes, channels and home slices (R17, R96, R355 to R360), the fields of
    a channel offset (R358), and remapped rows (R367). A byte of memory is named by its home cell: HBM at 2^31 g + x for channel g and
    channel offset x, LPDDR at 2^40 + 2^35 g + x, CXL at 2^46 + 2^44 c + x for port c, slice storage at its address (log 8). -/

namespace Sys2Proof.Machine

open Sys2Proof

/-- The tier of a device-physical address, and of a home cell: 0 HBM, 1 LPDDR, 2 CXL, 3 SLICE (R96). -/
def tierOf (a : Nat) : Option Nat :=
  if a < 2 ^ 40 then some 0
  else if a < 3 * 2 ^ 40 then some 1
  else if 2 ^ 42 ≤ a ∧ a < 2 ^ 42 + 16 * 2 ^ 29 then (if a % 2 ^ 29 ≥ 0x06000000 then some 3 else none)
  else if 2 ^ 46 ≤ a ∧ a < 2 ^ 46 + 4 * 2 ^ 44 then some 2
  else none

/-- Slice and way of an address in slice storage (R96). -/
def wayOf (a : Nat) : Nat × Nat := ((a - 2 ^ 42) / 2 ^ 29, a % 2 ^ 29 / 2 ^ 25)

/-- The set and frame index u of a location (R355). -/
def setOf (tier base : Nat) : Nat × Nat :=
  match tier with
  | 0 => (base / 2 ^ 21 / 512, base / 2 ^ 21 % 512)
  | 1 => ((base - 2 ^ 40) / 2 ^ 21 / 64, (base - 2 ^ 40) / 2 ^ 21 % 64)
  | _ => ((base - 2 ^ 46) % 2 ^ 44 / 2 ^ 21, (base - 2 ^ 46) / 2 ^ 44)

/-- The stripe of a scheme (R356). -/
def stripeOf (ilv : Nat) : Nat :=
  match ilv with | 0 => 256 | 1 => 1024 | 2 => 4096 | 3 => 16384 | 4 => 256 | 5 => 4096 | 6 => 65536 | _ => 2 ^ 21

/-- Stripe, channel count, first channel and v of a scheme (R356). -/
def schemeOf (tier ilv u : Nat) : Nat × Nat × Nat × Nat :=
  let n := match tier with | 0 => 512 | 1 => 64 | _ => 4
  if ilv < 4 then (stripeOf ilv, n, 0, u)
  else if tier ≥ 2 then (2 ^ 21, 1, u, 0)
  else
    let c := match ilv with | 4 => n / 4 | 5 => n / 16 | 6 => n / 16 | _ => 1
    (stripeOf ilv, c, c * (u % (n / c)), u / (n / c))

/-- Channel and channel offset of byte `o` of a page (R357). -/
def channelOf (tier base ilv o : Nat) : Nat × Nat :=
  let (set, u) := setOf tier base
  let (st, c, f0, v) := schemeOf tier ilv u
  let a := v * 2 ^ 21 + o
  let n := a / st
  let r := n / c
  (f0 + ((n % c) + r) % c, set * 2 ^ 21 + r * st + a % st)

/-- The cell of channel `g` and channel offset `x` (R355, R358). -/
def cellAt (tier g x : Nat) : Nat :=
  match tier with | 0 => g * 2 ^ 31 + x | 1 => 2 ^ 40 + g * 2 ^ 35 + x | _ => 2 ^ 46 + g * 2 ^ 44 + x

/-- Channel and channel offset of a cell. -/
def chanOf (tier cell : Nat) : Nat × Nat :=
  match tier with
  | 0 => (cell / 2 ^ 31, cell % 2 ^ 31)
  | 1 => ((cell - 2 ^ 40) / 2 ^ 35, (cell - 2 ^ 40) % 2 ^ 35)
  | _ => ((cell - 2 ^ 46) / 2 ^ 44, (cell - 2 ^ 46) % 2 ^ 44)

/-- The home cell of byte `o` of a page at `base` under a scheme: two pages of one set under different schemes share cells (R355 to R357,
    R360). -/
def cellOf (base ilv o : Nat) : Nat :=
  match tierOf base with
  | some 3 | none => base + o
  | some t => let (g, x) := channelOf t base ilv o; cellAt t g x

/-- The byte of a page at `base` under a scheme that lies in a cell, if one does. -/
def offsetIn (base ilv cell : Nat) : Option Nat :=
  let o := match tierOf cell with
    | some 3 | none => cell - base
    | some t =>
      let (g, x) := chanOf t cell
      let (st, c, f0, v) := schemeOf t ilv (setOf t base).2
      let r := x % 2 ^ 21 / st
      (r * c + (g + c - f0 + c - r % c) % c) * st + x % st - v * 2 ^ 21
  if o < 2 ^ 21 && cellOf base ilv o == cell then some o else none

/-- The page under scheme 7 in which a cell lies, and the byte of it (R356). -/
def plainPage (cell : Nat) : Nat × Nat :=
  match tierOf cell with
  | some 3 | none => (cell / 2 ^ 21 * 2 ^ 21, cell % 2 ^ 21)
  | some t =>
    let (g, x) := chanOf t cell
    ((match t with
      | 0 => (x / 2 ^ 21 * 512 + g) * 2 ^ 21
      | 1 => 2 ^ 40 + (x / 2 ^ 21 * 64 + g) * 2 ^ 21
      | _ => 2 ^ 46 + g * 2 ^ 44 + x / 2 ^ 21 * 2 ^ 21), x % 2 ^ 21)

/-- Home slice and home-local offset of a cell (R17, R359). -/
def homeOf (cell : Nat) : Nat × Nat :=
  match tierOf cell with
  | some 0 => (cell / 2 ^ 36, cell % 2 ^ 36)
  | some 1 => ((cell - 2 ^ 40) / 2 ^ 37, (cell - 2 ^ 40) % 2 ^ 37)
  | some 2 =>
    let (c, x) := chanOf 2 cell
    ((x / 4096 + 4 * c) % 16, c * 2 ^ 40 + x / 65536 * 4096 + x % 4096)
  | _ => ((cell - 2 ^ 42) / 2 ^ 29, (cell - 2 ^ 42) % 2 ^ 29)

/-! The fields of a channel offset (R358). -/

/-- Where an HBM channel offset lies: row, bank group, bank within the group, pseudo-channel, column and byte. -/
structure HbmPlace where
  row : Nat
  group : Nat
  bank : Nat
  pseudo : Nat
  column : Nat
  byte : Nat
  deriving DecidableEq, Repr

/-- The fields of an HBM channel offset (R358). -/
def hbmPlace (x : Nat) : HbmPlace :=
  { row := bits x 30 15, group := bits x 8 7, bank := bits x 14 13, pseudo := bits x 6 6, column := bits x 12 9, byte := bits x 5 0 }

/-- Where an LPDDR sub-channel offset lies: row, bank, column and byte. -/
structure LpPlace where
  row : Nat
  bank : Nat
  column : Nat
  byte : Nat
  deriving DecidableEq, Repr

/-- The fields of an LPDDR sub-channel offset (R358). -/
def lpPlace (x : Nat) : LpPlace := { row := bits x 34 15, bank := bits x 14 11, column := bits x 10 6, byte := bits x 5 0 }

/-! Remapped rows (R367). -/

/-- An HBM controller's row-remap table. -/
def State.remapOf (s : State) (channel : Nat) : Remap := sget Remap.reset s.remap channel

/-- Where a cell's byte is stored: in its own place, or in the spare row that the controller's table sends its row to. Spare row `n` of
    channel `g` is stored from 2^50 + 2^15 (2^16 g + n) on. -/
def State.stored (s : State) (cell : Nat) : Nat :=
  if s.remap.isEmpty || cell ≥ 2 ^ 40 then cell
  else
    let (g, x) := chanOf 0 cell
    match sfind (s.remapOf g).rows (hbmPlace x).row with
    | some spare => 2 ^ 50 + (g * 2 ^ 16 + spare.toNat) * 2 ^ 15 + x % 2 ^ 15
    | none => cell

/-- The home cell of a stored byte: `State.stored` taken back. -/
def State.unstored (s : State) (p : Nat) : Nat :=
  if p < 2 ^ 50 then p
  else
    let q := (p - 2 ^ 50) / 2 ^ 15
    match (s.remapOf (q / 2 ^ 16)).rows.find? fun e => e.2.toNat == q % 2 ^ 16 with
    | some e => cellAt 0 (q / 2 ^ 16) (e.1 * 2 ^ 15 + p % 2 ^ 15)
    | none => p

end Sys2Proof.Machine
end

