-- ==== Sys2Proof/Machine/Home.lean ====
section
/-! DEFINITION. The home slices: what can be reached, lines and their side-band (R383, R410), interrupts (R373), corrections (R382), digest
    records (R107, R108), the lines a slice holds (R92, R95), reads and writes performed at home, the error log's ring (R380), and the device's
    own accesses. -/

namespace Sys2Proof.Machine

open Sys2Proof

/-- An access at home: where the page lies, its interleave scheme, what it carries of its page, its key domain, and its frame. -/
structure Acc where
  base : Nat
  ilv : Nat
  attr : Option PAttr
  kd : Option (BitVec 8)
  frame : Option Nat
  deriving DecidableEq, Repr

/-- The home cell of byte `o` of an access's page. -/
def Acc.cell (acc : Acc) (o : Nat) : Nat := cellOf acc.base acc.ilv o

/-- Where byte `o` of an access's page is stored (R357, R367). -/
def State.spot (s : State) (acc : Acc) (o : Nat) : Nat := s.stored (acc.cell o)

/-- The number of the line in which byte `o` of an access's page is stored. -/
def State.lineNo (s : State) (acc : Acc) (o : Nat) : Nat := s.spot acc o / 128

/-! Reach (R93, R96, R358, R367, R369). -/

/-- The state of a way (R93); unlisted ways are CACHE. -/
def State.way (s : State) (slice w : Nat) : WaySt := sget .cache s.ways (16 * slice + w)

/-- A link's state allows traffic (R369). -/
def State.linkUp (s : State) (l : Nat) : Bool :=
  let x := (sget Link.reset s.links l).st
  x == .up || x == .degraded

/-- CAP of CXL port `c` in bytes (R370). -/
def State.cxlCap (s : State) (c : Nat) : Nat := (sget Link.reset s.links (24 + c)).cap.toNat * 2 ^ 30

/-- A cell is held: its slice's way is in ZERO_S (R93), or its HBM channel reloads its remap table (R367). -/
def State.cellHeld (s : State) (cell : Nat) : Bool :=
  match tierOf cell with
  | some 0 => (s.remapOf (cell / 2 ^ 31)).held
  | some 3 => let (b, w) := wayOf cell; s.way b w == .zeroS
  | _ => false

/-- A cell can be read and written: it lies in a tier, its way is STORAGE, its port has traffic and capacity, its channel is not fenced (R93,
    R96, R358, R367, R369). -/
def State.cellReach (s : State) (cell : Nat) : Bool :=
  match tierOf cell with
  | some 0 => !(s.remapOf (cell / 2 ^ 31)).fenced
  | some 2 => let (c, x) := chanOf 2 cell; s.linkUp (24 + c) && decide (x < s.cxlCap c)
  | some 3 => let (b, w) := wayOf cell; s.way b w == .storage
  | some _ => true
  | none => false

/-- Byte `o` of an access's page is held. -/
def State.isHeld (s : State) (acc : Acc) (o : Nat) : Bool := s.cellHeld (acc.cell o)

/-- Byte `o` of an access's page can be reached. -/
def State.reach (s : State) (acc : Acc) (o : Nat) : Bool := s.cellReach (acc.cell o)

/-- The step meets a place that holds it (log 66). -/
def State.meetHold (s : State) : State := { s with heldHit := true }

/-! Lines (R383, R410). -/

/-- A line's side-band, by line number. -/
def State.line (s : State) (l : Nat) : LineSt := sget LineSt.reset s.lines l

/-- The serial of a domain's current key. -/
def State.curKey (s : State) (kd : BitVec 8) : Option Nat :=
  let k := sget Kd.reset s.kds kd.toNat
  match k.st with
  | .active | .rotating => if k.cur then k.key1 else k.key0
  | _ => none

/-- A tag does not match an access: the domain no longer holds the key, or the access is of another domain, another frame or another line
    (R383, R384). A frame is compared where both the tag and the access name one, a line's number likewise (log 18). -/
def State.tagBad (s : State) (t : Tag) (acc : Acc) (o : Nat) : Bool :=
  let k := sget Kd.reset s.kds t.kd.toNat
  !((k.st == .active || k.st == .rotating) && t.serial.isSome && (k.key0 == t.serial || k.key1 == t.serial))
    || (match acc.kd with | some r => r != t.kd | none => false)
    || (match t.frame, acc.frame with | some f, some g => f != g || t.index != o / 128 | _, _ => false)

/-- The line of byte `o` of an access's page fails its tag. Lines that no domain wrote pass (log 18). -/
def State.tagFails (s : State) (acc : Acc) (o : Nat) : Bool :=
  match (s.line (s.lineNo acc o)).key with
  | none => false
  | some t => s.tagBad t acc o

/-- The line's data is uncorrectable for an access and not yet found so. -/
def State.unfound (s : State) (acc : Acc) (o : Nat) : Bool :=
  (sget false s.bad (s.lineNo acc o) || s.tagFails acc o) && !(s.line (s.lineNo acc o)).poisoned

/-- A cell's lines are encrypted and tagged: HBM, LPDDR and CXL memory that is not SHARED (R96, R383). -/
def State.tagged (s : State) (cell : Nat) : Bool :=
  match tierOf cell with
  | some 0 | some 1 => true
  | some 2 => !(sget Link.reset s.links (24 + (chanOf 2 cell).1)).shared
  | _ => false

/-- The tag a line is written with: the current key of the access's domain, none of a RETIRED one, so that the line fails; a FREE domain has
    no key and tags nothing, as does an access of no domain, which keeps the line's own tag while it holds (R383, R384; log 18). -/
def State.keyFor (s : State) (acc : Acc) (o : Nat) : Option Tag :=
  if !s.tagged (acc.cell o) then none else
  match acc.kd with
  | some d =>
    let t : Tag := { kd := d, serial := s.curKey d, frame := acc.frame, index := o / 128 }
    if t.serial.isSome || (sget Kd.reset s.kds d.toNat).st == .retired then some t else none
  | none => if s.tagFails acc o then none else (s.line (s.lineNo acc o)).key

/-- Raw bytes of device memory. -/
def State.memByte (s : State) (a : Nat) : Byte := sget unwritten s.mem a

/-- `n` raw bytes. -/
def State.memBytes (s : State) (a n : Nat) : List Byte := (List.range n).map fun i => s.memByte (a + i)

/-! Accesses by frame and by address (R353, R372). -/

/-- Where a frame's lines have their home: the destination from the commit entry on (R282). -/
def Frame.at' (e : Frame) : BitVec 31 := if e.st == .committing then e.dest else e.loc

/-- A frame's entry (R353). -/
def State.frame (s : State) (f : Nat) : Frame := sget Frame.reset s.frames f

/-- The frame whose lines have their home at a device-physical address, for accesses by address (R372): its number and scheme. -/
def State.frameAt (s : State) (a : Nat) : Option (Nat × Nat) :=
  (s.frames.find? fun e => e.2.st != .unmapped && e.2.at'.toNat == a / 2 ^ 21).map fun e => (e.1, e.2.ilv.toNat)

/-- The scheme of a location that is no frame's home: that of the frame that moves to it, else 7, as the manual names none (log 8; DESIGN
    CHOICE). -/
def State.schemeAt (s : State) (a : Nat) : Nat :=
  match s.frames.find? fun e => (e.2.st == .inMotion || e.2.st == .committing) && (e.2.dest.toNat == a / 2 ^ 21 || e.2.loc.toNat == a / 2 ^ 21) with
  | some e => e.2.ilv.toNat
  | none => 7

/-- An access by device-physical address: it carries no digest kind (R107, R372). -/
def State.physAcc (s : State) (a : Nat) : Acc :=
  match s.frameAt a with
  | some (f, ilv) => { base := a / 2 ^ 21 * 2 ^ 21, ilv := ilv, attr := none, kd := none, frame := some f }
  | none => { base := a / 2 ^ 21 * 2 ^ 21, ilv := s.schemeAt a, attr := none, kd := none, frame := none }

/-- An access by device-physical address under a named scheme (R294, R360). -/
def State.physAccAs (s : State) (ilv : Option Nat) (a : Nat) : Acc :=
  match ilv with
  | none => s.physAcc a
  | some i => { s.physAcc a with ilv := i }

/-- The access that reaches a cell, and the byte of its page: through the frame that has its home there, else by a plain page (R17). -/
def State.cellAcc (s : State) (cell : Nat) : Acc × Nat :=
  match s.frames.findSome? fun e =>
      if e.2.st == .unmapped then none else (offsetIn (e.2.at'.toNat * 2 ^ 21) e.2.ilv.toNat cell).map fun o => (e, o) with
  | some (e, o) => ({ base := e.2.at'.toNat * 2 ^ 21, ilv := e.2.ilv.toNat, attr := none, kd := none, frame := some e.1 }, o)
  | none => let (b, o) := plainPage cell; ({ base := b, ilv := 7, attr := none, kd := none, frame := none }, o)

/-- Where an access through a frame goes (R353); an UNMAPPED frame is an access to no tier (R361). -/
def State.frameAcc (s : State) (f : Nat) (attr : PAttr) : Acc :=
  let e := s.frame f
  { base := if e.st == .unmapped then 2 ^ 41 * 2 else e.at'.toNat * 2 ^ 21, ilv := e.ilv.toNat, attr := some attr, kd := some attr.kd, frame := some f }

/-- Frame and line, or address, for a record of the error log (R381). -/
def Acc.where' (acc : Acc) (o : Nat) : Nat :=
  match acc.frame with
  | some f => f + 2 ^ 28 * (o / 128)
  | none => acc.base + o

/-- Context and domain named by an access. -/
def Acc.ck (acc : Acc) : Option (Nat × Nat) := acc.kd.map fun a => (0, a.toNat)

/-- The home slice of an access. -/
def Acc.slice (acc : Acc) (o : Nat) : Nat := (homeOf (acc.cell o)).1

/-! What the device notes, and writes home for itself when the next step begins (R353, R380; log 69). -/

/-- An error-log record: class, severity, unit, context and domain, address, detail (R380, R381). -/
def State.logError (s : State) (cls sev unit : Nat) (ck : Option (Nat × Nat)) (addr : Nat) (detail : List Byte) : State :=
  { s with todo := s.todo ++ [.record { cls := cls, sev := sev, unit := unit, ck := ck, addr := addr, us := s.us, detail := detail }] }

/-- Source unit codes of R381: a core, a base die, a link, the management unit. -/
def unitCore (k : Nat) : Nat := k
/-- A base die. -/
def unitBase (b : Nat) : Nat := 0x2000 + b
/-- A link. -/
def unitLink (l : Nat) : Nat := 0x3000 + l
/-- The management unit. -/
def unitMgmt : Nat := 0x4000

/-- The base die that records an access: that of its home slice; base die 0 for an address of no slice (R93, R96; log 69). -/
def Acc.unit (acc : Acc) (o : Nat) : Nat :=
  let cell := acc.cell o
  unitBase (if (tierOf cell).isSome || (decide (2 ^ 42 ≤ cell) && decide (cell < 2 ^ 42 + 16 * 2 ^ 29)) then (homeOf cell).1 else 0)

/-- A record of an access that cannot be served (R96, R367): data poisoned on a read, dropped on a write. -/
def State.logAccess (s : State) (sev : Nat) (acc : Acc) (o : Nat) : State := s.logError 1 sev (acc.unit o) acc.ck (acc.where' o) []

/-- A step of a turnover has failed: the device answers only with a quote that carries the failure (R386; log 53). -/
def State.turnFailed (s : State) : Bool := bits s.turnstat.toNat 7 4 != 0

/-- A command refused: class 6 (R381). -/
def State.refuse (s : State) (unit : Nat) (ck : Option (Nat × Nat)) (detail : List Byte) : State := s.logError 6 2 unit ck 0 detail

/-- Raise MSI-X vector `n` (R373). -/
def State.raiseIrq (s : State) (n : Nat) : State := { s with irq := s.irq ||| BitVec.ofNat 256 (2 ^ n) }

/-- A frame's entry as the frame location table holds it (R353). -/
def Frame.bits' (e : Frame) : Nat :=
  pack [(8, e.pcnt.toNat), (3, match e.st with | .unmapped => 0 | .resident => 1 | .inMotion => 2 | .committing => 3), (2, e.tier.toNat),
    (3, 0), (4, e.slot.toNat), (3, 0), (1, b2n e.parked), (3, e.ilv.toNat), (31, e.loc.toNat), (31, e.dest.toNat),
    (15, e.wmark.toNat), (3, e.last.toNat), (4, 0), (1, b2n e.hoten), (16, e.hot.toNat)]

/-- A frame's entry replaced, with its image in the frame location table to follow (R353; log 10). -/
def State.setFrame (s : State) (f : Nat) (e : Frame) : State :=
  { s with frames := sset Frame.reset s.frames f e, todo := s.todo ++ [.bytes (s.fltbase.toNat + 16 * f) (toBytes 16 e.bits')] }

/-- A copied line is to be copied again (R283). -/
def State.uncopy (s : State) (f line : Nat) : State :=
  let e := s.frame f
  s.setFrame f { e with bitmap := e.bitmap &&& ~~~(BitVec.ofNat 16384 (2 ^ line)), wmark := e.wmark - 1 }

/-- A correction by a base die: counted, with a record at the first of a 4 KiB region in each window of 1 ms (R382). -/
def State.corrected (s : State) (die region : Nat) (ck : Option (Nat × Nat)) (addr : Nat) : State :=
  let t := { s with cecnt := sset 0 s.cecnt die (sget 0 s.cecnt die + 1) }
  let window := t.us / 1000 + 1
  if sget 0 t.ceSeen region == window then t
  else ({ t with ceSeen := sset 0 t.ceSeen region window }).logError 0 0 (unitBase die) ck addr []

/-- The 4 KiB region that byte `o` of an access's page lies in. -/
def Acc.region (acc : Acc) (o : Nat) : Nat :=
  match acc.frame with
  | some f => 512 * f + o / 4096
  | none => 2 ^ 38 + (acc.base + o) / 4096

/-! Digest records at home (R107, R108). -/

/-- DPL_b_t (R108). -/
def State.dplOf (s : State) (b t : Nat) : Word := sget 0 s.dpl (4 * b + t)

/-- The cell of record `n` of slice `b`'s plane for a tier: at stack-local offset BASE × 2 MiB + 16 n of stack `b` (R108). -/
def State.planeCell (s : State) (b t n : Nat) : Nat := b * 2 ^ 36 + (bits (s.dplOf b t).toNat 35 21 * 2 ^ 21 + 16 * n) % 2 ^ 36

/-- The cell of the record of a block, if the block has one: not of a page of kind NONE, of slice storage or beyond COVER (R96, R108). -/
def State.recKey (s : State) (acc : Acc) (o : Nat) : Option Nat :=
  if (match acc.attr with | some a => a.kind == 0 | none => false) then none else
  let cell := acc.cell o
  match tierOf cell with
  | some 3 | none => none
  | some t =>
    let (b, y) := homeOf cell
    if y / 512 < bits (s.dplOf b t).toNat 63 40 * 4096 then some (s.planeCell b t (y / 512)) else none

/-- The set of a slice in which a line of the home lies (R92; log 7). -/
def sliceSet (cell : Nat) : Nat × Nat := ((homeOf cell).1, (homeOf cell).2 / 128 % 262144)

/-- Where way 0 of its slice holds a line of a plane (R92). -/
def way0Key (cell : Nat) : Nat := 262144 * (sliceSet cell).1 + (sliceSet cell).2

/-- The line of way 0 that holds a cell of a plane. -/
def State.way0 (s : State) (cell : Nat) : Option DLine :=
  match sfind s.digests (way0Key cell) with
  | some d => if d.line == cell / 128 then some d else none
  | none => none

/-- A record by its cell: as way 0 of its slice holds it, else as the plane in memory does (R92, R108). -/
def State.recBits (s : State) (k : Nat) : BitVec 128 :=
  match s.way0 k with
  | some d => (d.recs >>> (k % 128 * 8)).setWidth 128
  | none => .ofNat 128 (ofBytes (s.memBytes (s.stored k) 16))

/-- A record's fields. -/
def State.digestRec (s : State) (k : Nat) : DRec := DRec.ofBits (s.recBits k)

/-- The access by which the home reaches its plane. -/
def State.planeAcc (cell : Nat) : Acc × Nat :=
  let (b, o) := plainPage cell
  ({ base := b, ilv := 7, attr := none, kd := none, frame := none }, o)

/-- A line leaves way 0: when its records have changed it is written whole to the plane, which clears the mark of a lost line; the channel may
    hold the write, or drop it with a record (R108, R367, R410). -/
def State.way0Back (s : State) (key : Nat) : State :=
  match sfind s.digests key with
  | none => s
  | some d =>
    let s := { s with digests := serase s.digests key }
    let cell := 128 * d.line
    let (acc, o) := State.planeAcc cell
    let l := s.lineNo acc o
    if !d.dirty then s
    else if s.cellHeld cell then s.meetHold
    else if !s.cellReach cell then s.logAccess 2 acc o
    else { s with mem := putBytes unwritten s.mem (s.stored cell) (allOf (toBytes 128 d.recs.toNat)),
                  lines := sset LineSt.reset s.lines l { poisoned := false, key := s.keyFor acc o },
                  bad := sset false s.bad l false, weak := sset false s.weak l false }

/-- The plane's line is read: an uncorrectable one is marked with a record, a correction counted. The blocks of a plane are out of use and have
    no record that changes (R108, R382, R410; log 9). -/
def State.findPlane (s : State) (acc : Acc) (o : Nat) : State :=
  let l := s.lineNo acc o
  if s.unfound acc o then
    ({ s with lines := sset LineSt.reset s.lines l { s.line l with poisoned := true }, bad := sset false s.bad l false }).logError
      (if s.tagFails acc o then 8 else 1) 1 (acc.unit o) none (acc.where' o) []
  else if sget false s.weak l then s.corrected (acc.slice o) (acc.region o) none (acc.where' o)
  else s

/-- A record is brought into way 0 with the seven others of its line, and the line that its set held leaves (R92, R108). A line that reads as
    poison, and a line of a fenced channel, gives free values, since the manual names no record for it (log 9; DESIGN CHOICE). -/
def State.loadRec (s : State) (k : Nat) : State :=
  if (s.way0 k).isSome then s else
  let s := s.way0Back (way0Key k)
  let cell := k / 128 * 128
  let (acc, o) := State.planeAcc cell
  if s.cellHeld cell then s.meetHold else
  let s := if s.cellReach cell then s.findPlane acc o else s.logAccess 1 acc o
  let recs : BitVec 1024 :=
    if !s.cellReach cell || (s.line (s.lineNo acc o)).poisoned then Config.lostRecords s.seq (k / 128)
    else .ofNat 1024 (ofBytes (s.memBytes (s.stored cell) 128))
  { s with digests := sput s.digests (way0Key k) { line := k / 128, recs := recs, dirty := false } }

/-- A record replaced, in way 0 of its slice. -/
def State.setRec (s : State) (k : Nat) (d : DRec) : State :=
  let s := s.loadRec k
  match s.way0 k with
  | some l =>
    let i := k % 128 * 8
    let recs := (l.recs &&& ~~~((BitVec.allOnes 128).setWidth 1024 <<< i)) ||| (d.toBits.setWidth 1024 <<< i)
    { s with digests := sput s.digests (way0Key k) { l with recs := recs, dirty := true } }
  | none => s

/-- A record leaves way 0 for its plane, with its line (R108). -/
def State.evictRec (s : State) (k : Nat) : State := if (s.way0 k).isSome then s.way0Back (way0Key k) else s

/-- A line of a plane that is accessed by address leaves way 0 first, so that memory has its newest records (R92; log 9). -/
def State.planeOut (s : State) (acc : Acc) (o : Nat) : State := if s.digests.isEmpty then s else s.evictRec (acc.cell o)

/-- The record's update by an event of the line (R107). -/
def State.upRecAt (s : State) (acc : Acc) (o : Nat) (f : DRec → DRec) : State :=
  match s.recKey acc o with
  | some k => let s := s.loadRec k; s.setRec k (f (s.digestRec k))
  | none => s

/-- The state of the bitmap bit of a line in motion (R362). -/
def Frame.copied (e : Frame) (line : Nat) : Bool := e.bitmap.getLsbD line

/-- A copied line of a frame in motion, whose updates go to both locations: the access at the destination (R109, R281). -/
def State.other (s : State) (acc : Acc) (o : Nat) : Option Acc :=
  match acc.frame with
  | none => none
  | some f =>
    let e := s.frame f
    if e.st == .inMotion && e.copied (o / 128) && acc.base == e.loc.toNat * 2 ^ 21 then some { acc with base := e.dest.toNat * 2 ^ 21 } else none

/-! L2 (R91). -/

/-- The key of a byte of a frame in L1 and L2. -/
def byteKey (f o : Nat) : Nat := f * 2 ^ 21 + o

/-- The line a byte key lies in. -/
def lineOf (k : Nat) : Nat := k / 128

/-- The valid bytes of a die's L2. -/
def State.l2Of (s : State) (die : Nat) : Sparse L2Byte := sget [] s.l2 die

/-- A die's L2 replaced. -/
def State.setL2 (s : State) (die : Nat) (m : Sparse L2Byte) : State := { s with l2 := sset [] s.l2 die m }

/-- A byte is dirty: a core of the die has written it and it is not home. -/
def L2Byte.dirty (b : L2Byte) : Bool := b.writers != 0

/-- The page number under which an L2 holds lines of an access: its frame, or the place itself where no frame has its home there (R348). -/
def Acc.page (acc : Acc) : Nat := match acc.frame with | some f => f | none => 2 ^ 28 + acc.base / 2 ^ 21

/-- No L2 holds a clean byte of a line any more (R91). -/
def State.l2Lose (s : State) (l : Nat) : State :=
  (s.l2.map (·.1)).foldl (fun (s : State) d => s.setL2 d ((s.l2Of d).filter fun e => lineOf e.1 != l || e.2.dirty)) s

/-- No L2 holds a clean byte of an access's line any more (R91). -/
def State.l2Stale (s : State) (acc : Acc) (o : Nat) : State := s.l2Lose (lineOf (byteKey acc.page o))

/-- No L2 holds what walks have read of a place (R91, R348). -/
def State.walkStale (s : State) (acc : Acc) (o : Nat) : State := s.l2Stale { acc with frame := none } o

/-! Findings and corrections (R382, R410). -/

/-- A change made at the source of a copied line is made at the destination too, or, while the stream is parked, the line is to be copied
    again (R109, R281, R283). -/
def State.both (s : State) (acc : Acc) (o : Nat) (f : State → Acc → State) : State :=
  let t := f s acc
  match acc.frame, s.other acc o with
  | some n, some d => if (t.frame n).parked then t.uncopy n (o / 128) else f t d
  | _, _ => t

/-- The record's update by an event of the line, at both locations of a copied line (R107, R109). -/
def State.upRec (s : State) (acc : Acc) (o : Nat) (f : DRec → DRec) : State := s.both acc o fun t a => t.upRecAt a o f

/-- A home reads a line: the first finding of an uncorrectable line marks it poisoned, changes the record once and writes an error-log
    record (R410); an error that ECC corrects is counted (R382). -/
def State.findLine (s : State) (acc : Acc) (o : Nat) : State :=
  let l := s.lineNo acc o
  if s.unfound acc o then
    let cls := if s.tagFails acc o then 8 else 1
    let s := { s with lines := sset LineSt.reset s.lines l { s.line l with poisoned := true }, bad := sset false s.bad l false }
    let s := s.upRec acc o DRec.found
    s.logError cls 1 (acc.unit o) acc.ck (acc.where' o) []
  else if sget false s.weak l then s.corrected (acc.slice o) (acc.region o) acc.ck (acc.where' o)
  else s

/-! What a home slice counts and holds (R92, R95, R363). -/

/-- Count an access of a home slice to a counted frame: at every 64th, one more in the touched frame's HOT (R363). -/
def State.touch (s : State) (acc : Acc) (o : Nat) : State :=
  match acc.frame with
  | none => s
  | some f =>
    let e := s.frame f
    if !e.hoten then s else
    let b := acc.slice o
    let n := sget 0 s.hotCnt b + 1
    if n < 64 then { s with hotCnt := sset 0 s.hotCnt b n }
    else ({ s with hotCnt := sset 0 s.hotCnt b 0 }).setFrame f { e with hot := if e.hot.toNat < 0xFFFF then e.hot + 1 else e.hot }

/-- The chain a frame's line is allocated with in a slice: of the lowest tag register whose range holds the frame (R95). -/
def State.chainOf (s : State) (b : Nat) (frame : Option Nat) : BitVec 8 :=
  match frame with
  | none => 0
  | some f =>
    match (List.range 16).find? fun k =>
        let r := (sget 0 s.rtag (16 * b + k)).toNat
        bits r 63 56 != 0 && decide (bits r 55 28 ≤ f) && decide (f < bits r 55 28 + bits r 27 0) with
    | some k => .ofNat 8 (bits (sget 0 s.rtag (16 * b + k)).toNat 63 56)
    | none => 0

/-- A line enters a slice's cache ways, or is used there: it takes a free general way in CACHE, else that of the least recently used line
    of its set; with no way in CACHE it is not held (R92, R93; log 7). -/
def State.sliceUse (s : State) (acc : Acc) (o : Nat) (dirty : Bool) : State :=
  let cell := acc.cell o
  match tierOf cell with
  | some 3 | none => s
  | some _ =>
    let (b, set) := sliceSet cell
    let l := cell / 128
    match sfind s.slices l with
    | some x => { s with slices := sput s.slices l { x with dirty := x.dirty || dirty, last := s.seq } }
    | none =>
      let mine := s.slices.filter fun e => decide (sliceSet (128 * e.1) = (b, set))
      let ways := ((List.range 16).drop 3).filter fun w => s.way b w == .cache
      let enter (m : Sparse SLine) (w : Nat) : State :=
        { s with slices := sput m l { way := .ofNat 4 w, dirty := dirty, chain := s.chainOf b acc.frame, last := s.seq } }
      match ways.find? fun w => !mine.any fun e => e.2.way.toNat == w with
      | some w => enter s.slices w
      | none =>
        match mine.filter fun e => ways.contains e.2.way.toNat with
        | [] => s
        | e :: r => let v := r.foldl (fun v f => if f.2.last < v.2.last then f else v) e
                    enter (serase s.slices v.1) v.2.way.toNat

/-! Reads at home. -/

/-- A home read of bytes [o, o + n) within one line: the line is found poisoned or not, and the bytes are answered with a
    poison mark; an address that cannot be read gives poison and a record (R96, R410). -/
def State.lineRead (s : State) (acc : Acc) (o n : Nat) : State × List Byte × Bool :=
  if s.isHeld acc o then (s.meetHold, List.replicate n 0, true)
  else if !s.reach acc o then
    (s.logAccess 1 acc o, List.replicate n 0, true)
  else
    let s := (((s.planeOut acc o).findLine acc o).touch acc o).sliceUse acc o false
    (s, s.memBytes (s.spot acc o) n, (s.line (s.lineNo acc o)).poisoned)

/-- A home read of [o, o + n), line by line, `k` lines at most: bytes with their poison marks. -/
def State.homeReadLoop : Nat → State → Acc → Nat → Nat → State × List (Byte × Bool)
  | 0, s, _, _, _ => (s, [])
  | k + 1, s, acc, o, n =>
    if n == 0 then (s, []) else
    let m := min n (128 - o % 128)
    let (s, bs, p) := s.lineRead acc o m
    let (s, r) := homeReadLoop k s acc (o + m) (n - m)
    (s, bs.map (fun b => (b, p)) ++ r)

/-- A home read (R410). -/
def State.homeRead (s : State) (acc : Acc) (o n : Nat) : State × List (Byte × Bool) := s.homeReadLoop (n / 128 + 2) acc o n

/-! Writes at home. -/

/-- An entry's bytes cover the line whole (R410). -/
def wholeLine (o : Nat) (bs : List (Option Byte)) : Bool := o % 128 == 0 && bs.length == 128 && bs.all (·.isSome)

/-- Write the bytes of one entry to memory, with the digest record there (R107): `o` within the page. -/
def State.putAt (s : State) (acc : Acc) (o : Nat) (bs : List (Option Byte)) : State :=
  let l := s.lineNo acc o
  let rk := s.recKey acc o
  let s := s.planeOut acc o
  let s := if wholeLine o bs && rk.isNone then s else s.findLine acc o
  if (s.line l).poisoned && !wholeLine o bs then s.logAccess 2 acc o
  else
    let b0 := s.spot acc (o / 512 * 512)
    let old := if rk.isSome && acc.attr.isSome then s.memBytes b0 512 else []
    let key := s.keyFor acc o
    let s := { s with mem := putBytes unwritten s.mem (s.spot acc o) bs,
                      lines := sset LineSt.reset s.lines l { poisoned := false, key := key },
                      bad := sset false s.bad l false, weak := sset false s.weak l false }
    let i0 := o % 512
    s.upRecAt acc o fun d => d.written (acc.attr.map fun a => (a.kind.toNat, a.etype.toNat)) old (if acc.attr.isSome then s.memBytes b0 512 else [])
      fun i => decide (i0 ≤ i) && (match bs[i - i0]? with | some (some _) => true | _ => false)

/-- One write-queue entry on bytes of one line that can be reached, forwarded to both locations of a frame in motion (R281, R283, R361). A part
    of a line that is lost at the source is dropped at both; a forwarded part that finds its line at the destination lost is noted for the
    abort (R361, R410). -/
def State.entryAt (s : State) (acc : Acc) (o : Nat) (bs : List (Option Byte)) : State :=
  let t := ((s.walkStale acc o).putAt acc o bs).sliceUse acc o true
  match acc.frame, s.other acc o with
  | some f, some d =>
    if (t.frame f).parked then t.uncopy f (o / 128)
    else if (t.line (t.lineNo acc o)).poisoned then t
    else if t.isHeld d o then t.meetHold
    else
      let t := (t.walkStale d o).putAt d o bs
      if (t.line (t.lineNo d o)).poisoned then { t with frames := sset Frame.reset t.frames f { t.frame f with destLost := true } } else t
  | _, _ => t

/-- A die's L2 writes its dirty bytes of a frame's line home and drops the line, ahead of a request (R91). A line of several pages' kinds
    goes home with the kind and type of its first dirty byte (log 7; DESIGN CHOICE). -/
def State.l2Flush (s : State) (acc : Acc) (f o die : Nat) : State :=
  let l := lineOf (byteKey f o)
  let m := s.l2Of die
  let s := s.setL2 die (m.filter fun e => lineOf e.1 != l)
  match m.find? fun e => lineOf e.1 == l && e.2.dirty with
  | none => s
  | some e =>
    if s.isHeld acc o then s.meetHold
    else if !s.reach acc o then s.logAccess 2 { acc with kd := some e.2.attr.kd } o
    else (s.touch acc o).entryAt { acc with attr := some e.2.attr, kd := some e.2.attr.kd } (o / 128 * 128)
      ((List.range 128).map fun i => match sfind m (128 * l + i) with | some b => if b.dirty then some b.val else none | none => none)

/-- Every L2 but one writes its dirty bytes of a frame's line home and drops the line; `none` is every L2 (R91). -/
def State.othersFlush (s : State) (acc : Acc) (f o : Nat) (but : Option Nat) : State :=
  if s.l2.isEmpty then s else
  (List.range 8).foldl (fun (s : State) d => if some d == but then s else s.l2Flush acc f o d) s

/-- One write-queue entry on bytes of one line, for a requester of die `die` or of none: the dirty bytes of every other L2 go first, those L2s drop
    the line, and the die's own L2 drops its clean bytes (R91). -/
def State.homeEntry (s : State) (die : Option Nat) (acc : Acc) (o : Nat) (bs : List (Option Byte)) : State :=
  if s.isHeld acc o then s.meetHold
  else if !s.reach acc o then s.logAccess 2 acc o
  else
    let s := (match acc.frame with | some f => s.othersFlush acc f o die | none => s).l2Stale acc o
    (s.touch acc o).entryAt acc o bs

/-- A home write of bytes from offset `o` on, one entry per line, `k` lines at most; `none` leaves a byte alone. -/
def State.homeWriteLoop (die : Option Nat) : Nat → State → Acc → Nat → List (Option Byte) → State
  | 0, s, _, _, _ => s
  | k + 1, s, acc, o, bs =>
    if bs.isEmpty then s else
    let m := 128 - o % 128
    let s := if (bs.take m).any (·.isSome) then s.homeEntry die acc o (bs.take m) else s
    homeWriteLoop die k s acc (o + m) (bs.drop m)

/-- A home write of a requester of a die, or of none (R107). -/
def State.homeWriteBy (s : State) (die : Option Nat) (acc : Acc) (o : Nat) (bs : List (Option Byte)) : State :=
  s.homeWriteLoop die (bs.length / 128 + 2) acc o bs

/-- A home write (R107). -/
def State.homeWrite (s : State) (acc : Acc) (o : Nat) (bs : List (Option Byte)) : State := s.homeWriteBy none acc o bs

/-! The device's own writes that wait (R353, R380; log 69). -/

/-- The error-log ring's size in entries (R380). -/
def Elog.size (e : Elog) : Nat := 64 * 2 ^ (min (e.cfg.toNat % 16) 12)

/-- The 64 bytes of an error-log record (R381). -/
def LogRec.bytes (r : LogRec) (number : BitVec 32) : List Byte :=
  toBytes 8 number.toNat ++ [BitVec.ofNat 8 r.cls, BitVec.ofNat 8 r.sev] ++ toBytes 2 r.unit
    ++ toBytes 4 (match r.ck with | some (c, k) => c + 256 * k | none => 0xFFFFFFFF) ++ toBytes 8 r.addr ++ toBytes 8 r.us
    ++ (r.detail ++ List.replicate 32 0).take 32

/-- Bytes of one line that the device writes for itself go home as any write does, without a digest kind (R107). -/
def State.pokeMem (s : State) (a : Nat) (bs : List Byte) : State := s.homeEntry none (s.physAcc a) (a % 2 ^ 21) (allOf bs)

/-- Where an error-log record goes (R380). -/
def Elog.slot (e : Elog) : Nat := bits e.base.toNat 51 12 * 4096 + 64 * (e.head.toNat % e.size)

/-- The ring takes no record: it is not enabled, or full (R380). -/
def Elog.closed (e : Elog) : Bool := !e.cfg.getLsbD 63 || (e.head - e.tail).toNat == e.size

/-- One of the device's own writes is made; a record that the ring does not take is counted in LOST (R380). -/
def State.writeTodo (s : State) : Todo → State
  | .bytes a bs => s.pokeMem a bs
  | .record r =>
    let e := s.elog
    if e.closed then { s with elog := { e with lost := if e.lost == BitVec.allOnes 32 then e.lost else e.lost + 1 } }
    else
      let s := s.pokeMem e.slot (r.bytes e.head)
      { s with elog := { s.elog with head := e.head + 1 } }

/-- The device's own writes are made in order, up to the first that its home holds, and at most `n` in one step: a write can give rise to
    another (R93, R367, R410). -/
def State.flushLoop : Nat → State → State
  | 0, s => s
  | n + 1, s =>
    match s.todo with
    | [] => s
    | x :: r =>
      let t := ({ s with todo := r }).writeTodo x
      if t.heldHit then s else flushLoop n t

/-- The device's own writes are made (log 69). -/
def State.flushTodo (s : State) : State := s.flushLoop 256

/-! The device's own accesses by device-physical address: descriptors, tables, rings and images. -/

/-- Bytes read under a scheme, or under that of the place, and whether one was poisoned; an access is not cut at a page. -/
def State.devReadAs (s : State) (ilv : Option Nat) (a n : Nat) : State × List Byte × Bool :=
  let acc := s.physAccAs ilv a
  let m := min n (2 ^ 21 - a % 2 ^ 21)
  let (s, r) := s.homeRead acc (a % 2 ^ 21) m
  if m == n then (s, r.map (·.1), r.any (·.2)) else
  let (s, r') := s.homeRead (s.physAccAs ilv (a + m)) 0 (n - m)
  (s, (r ++ r').map (·.1), (r ++ r').any (·.2))

/-- Bytes read, and whether one was poisoned. -/
def State.devRead (s : State) (a n : Nat) : State × List Byte × Bool := s.devReadAs none a n

/-- A little-endian number read. -/
def State.devNum (s : State) (a n : Nat) : State × Nat × Bool :=
  let (s, bs, p) := s.devRead a n
  (s, ofBytes bs, p)

/-- Bytes written by the device, under a scheme or under that of the place. -/
def State.devWriteAs (s : State) (ilv : Option Nat) (a : Nat) (bs : List Byte) : State :=
  let m := min bs.length (2 ^ 21 - a % 2 ^ 21)
  let s := s.homeWrite (s.physAccAs ilv a) (a % 2 ^ 21) (allOf (bs.take m))
  if m == bs.length then s else s.homeWrite (s.physAccAs ilv (a + m)) 0 (allOf (bs.drop m))

/-- Bytes written by the device. -/
def State.devWrite (s : State) (a : Nat) (bs : List Byte) : State := s.devWriteAs none a bs

/-! Atomics at home (R249). -/

/-- The new value of an atomic or reduction on `n` bytes holding `old`, and whether memory changes (R249). -/
def atomNew (m : AtomLit) (old v cmp : Nat) : Nat :=
  let w := if m.wd == 2 then 32 else 64
  let v := v % 2 ^ w
  let lt (a b : Nat) : Bool := if m.uns then decide (a < b) else decide (signedOf w a < signedOf w b)
  match m.op.toNat with
  | 0 => if m.fp then (fmtF32.fadd 0 (f32Val old) (f32Val v)).1 else (old + v) % 2 ^ w
  | 1 => if m.fp then (fminmax 7 false old v).1 else (if lt v old then v else old)
  | 2 => if m.fp then (fminmax 7 true old v).1 else (if lt old v then v else old)
  | 3 => old &&& v
  | 4 => old ||| v
  | 5 => old ^^^ v
  | 6 => v
  | _ => if old == cmp % 2 ^ w then v else old

/-- Bytes of an atomic's operand (R248). -/
def atomBytes (m : AtomLit) : Nat := if m.wd == 2 then 4 else 8

/-! Dictionaries and the codec (R98 to R102). -/

/-- A code length of a dictionary image (R100). -/
def codeLen (img : Sparse Byte) (sym : Nat) : Nat :=
  let b := (sget 0 img (1024 + sym / 2)).toNat
  if sym % 2 == 0 then b % 16 else b / 16

/-- Symbols of code length `n`, in order. -/
def symsOf (img : Sparse Byte) (n : Nat) : List Nat := (List.range 320).filter fun k => codeLen img k == n

/-- The canonical code table of RFC 1951: for lengths 1 to 15 the first code and the symbols (R99). -/
def codeTable (img : Sparse Byte) : List (Nat × List Nat) :=
  ((List.range 15).foldl (fun (st : Nat × List (Nat × List Nat)) i =>
    let l := symsOf img (i + 1)
    let first := st.1
    ((first + l.length) * 2, st.2 ++ [(first, l)])) (0, [])).2

/-- The code of some length is over-subscribed (R100). -/
def overSubscribed (img : Sparse Byte) : Bool :=
  ((List.range 15).zip (codeTable img)).any fun e => e.2.2.length != 0 && decide (e.2.1 + e.2.2.length > 2 ^ (e.1 + 1))

/-- A bit stream: bit 0 of the first byte first (R99). -/
def streamBit (bs : List Byte) (p : Nat) : Bool := (bs.getD (p / 8) 0).getLsbD (p % 8)

/-- Read one symbol, code bits most significant first: the symbol and the next position (R99). -/
def readSym (bs : List Byte) (limit : Nat) : List (Nat × List Nat) → Nat → Nat → Option (Nat × Nat)
  | [], _, _ => none
  | (first, l) :: r, p, code =>
    if p ≥ limit then none else
    let code := 2 * code + b2n (streamBit bs p)
    if first ≤ code && decide (code < first + l.length) then some (l.getD (code - first) 0, p + 1)
    else readSym bs limit r (p + 1) code

/-- `n` bits, least significant first. -/
def readBits (bs : List Byte) (p : Nat) : Nat → Nat
  | 0 => 0
  | n + 1 => readBits bs p n + (if streamBit bs (p + n) then 2 ^ n else 0)

/-- Copy `n` bytes one at a time from distance `d` back; `out` holds the output so far, newest first (R99). -/
def backCopy (img : Sparse Byte) (d : Nat) : Nat → List Byte → List Byte
  | 0, out => out
  | n + 1, out =>
    let b := if d ≤ out.length then out.getD (d - 1) 0 else sget 0 img (1024 - (d - out.length))
    backCopy img d n (b :: out)

/-- Expand a coded sector: 256 bytes, or none when it is poisoned (R99). -/
def expandLoop (img : Sparse Byte) (tab : List (Nat × List Nat)) (bs : List Byte) (limit : Nat) : Nat → Nat → List Byte → Option (List Byte)
  | 0, _, _ => none
  | k + 1, p, out =>
    match readSym bs limit tab p 0 with
    | none => none
    | some (sym, p) =>
      if sym < 256 then (if out.length ≥ 256 then none else expandLoop img tab bs limit k p (BitVec.ofNat 8 sym :: out))
      else if sym == 256 then (if out.length == 256 then some out.reverse else none)
      else
        let d := readBits bs p 11 + 1
        let n := sym - 254
        if p + 11 > limit || d > out.length + 1024 || out.length + n > 256 then none
        else expandLoop img tab bs limit k (p + 11) (backCopy img d n out)

/-- Sector `n` of a compressed image: the index entry, then the stored bytes; none is DICT_ERROR (R98). A page whose slot is not ARMED has
    no good sector (R101); a sector whose index entry or stored bytes are poisoned is one of DICT_ERROR too (log 70; DESIGN CHOICE). -/
def State.sector (s : State) (acc : Acc) (slot n : Nat) : State × Option (List Byte) :=
  let d := sget Dict.reset s.dicts slot
  if d.st != .armed then (s, none) else
  let (s, ix) := s.homeRead acc (4 * n) 4
  let e := ofBytes (ix.map (·.1))
  let kind := bits e 31 30
  let len := bits e 29 21 + 1
  let off := bits e 20 0
  if ix.any (·.2) then (s, none)
  else match kind with
  | 2 => (s, if len == 1 && off == 0 then some (List.replicate 256 0) else none)
  | 3 => (s, none)
  | _ =>
    if off < 32768 || off + len > 2 ^ 21 || (kind == 1 && len != 256) then (s, none) else
    let (s, r) := s.homeRead acc off len
    let bs := r.map (·.1)
    if r.any (·.2) then (s, none)
    else if kind == 1 then (s, some bs)
    else (s, expandLoop d.image (codeTable d.image) bs (8 * len) 257 0 [])

/-- A read through the codec of a read-only-compressed page, sector by sector; a DICT_ERROR writes a record naming frame and
    sector and reads as poison (R97, R102). -/
def State.codecLoop : Nat → State → Acc → Nat → Nat → Nat → State × List (Byte × Bool)
  | 0, s, _, _, _, _ => (s, [])
  | k + 1, s, acc, slot, o, n =>
    if n == 0 then (s, []) else
    let m := min n (256 - o % 256)
    let (s, r) := s.sector acc slot (o / 256)
    let s := if r.isNone then s.logError 5 1 (acc.unit o) acc.ck (acc.frame.getD 0) (toBytes 4 (o / 256)) else s
    let bs := match r with
      | some b => ((b.drop (o % 256)).take m).map fun x => (x, false)
      | none => List.replicate m (0, true)
    let (s, rest) := codecLoop k s acc slot (o + m) (n - m)
    (s, bs ++ rest)

/-- A global read at home through a handle's page: plain bytes, or expanded ones (R97, R410). -/
def State.pageRead (s : State) (h : BitVec 128) (kd : BitVec 8) (o n : Nat) : State × List (Byte × Bool) :=
  let acc := s.frameAcc (hFrame h) (hAttr h kd)
  if hRc h then s.codecLoop (n / 256 + 2) acc (hSlot h) o n else s.homeRead acc o n

end Sys2Proof.Machine
end

