-- ==== Sys2Proof/Machine/Cache.lean ====
section
/-! DEFINITION. L1, L2 and versions: what a core's global accesses read and write before they reach a home slice (R40 to R42,
    R89 to R91, R246, R266 to R269). -/

namespace Sys2Proof.Machine

open Sys2Proof

/-- STEPS is not 0: the core has an L1 (R84, R89). -/
def Core.hasL1 (k : Core) : Bool := k.steps != 0

/-- The lines of some entries, each once. -/
def linesOf (l : List Nat) : List Nat := (l.map lineOf).eraseDups

/-! Room (R89, R91). A line's set is its number modulo the count of sets; the line that leaves a full set is a free value (log 7). -/

/-- The lines of a cache in the set of line `l`, when the set is full and does not hold `l`. -/
def fullSet {α : Type} (m : Sparse α) (sets ways l : Nat) : Option (List Nat) :=
  if (m.any fun e => lineOf e.1 == l) then none else
  let mine := (linesOf (m.map (·.1))).filter fun i => i % sets == l % sets
  if mine.length < ways then none else some mine

/-- The line that leaves a full set. -/
def State.victimOf (s : State) (l : Nat) (mine : List Nat) : Nat := mine.getD (Config.victim s.seq l % mine.length) 0

/-! L2 (R90, R91). -/

/-- A line's access, as a die's L2 writes it home. -/
def State.lineAt (s : State) (l : Nat) (attr : PAttr) : Acc × Nat := (s.frameAcc (128 * l / 2 ^ 21) attr, 128 * l % 2 ^ 21)

/-- The bytes of one line that satisfy `p` as an entry of 128 bytes. -/
def lineBytes (m : Sparse L2Byte) (l : Nat) (p : L2Byte → Bool) : List (Option Byte) :=
  (List.range 128).map fun i => match sfind m (128 * l + i) with | some b => if p b then some b.val else none | none => none

/-- Another die's L2 holds dirty bytes of a line. -/
def State.othersDirty (s : State) (die l : Nat) : Bool :=
  s.l2.any fun e => e.1 != die && e.2.any fun b => lineOf b.1 == l && b.2.dirty

/-- The bytes of a line that remain in the L2 of the die that writes some of them home: the dirty ones, those written, which are clean now,
    and other clean ones, unless another die's bytes have reached the home (R91). -/
def afterSend (l : Nat) (p : L2Byte → Bool) (others : Bool) (m : Sparse L2Byte) : Sparse L2Byte :=
  m.filterMap fun e =>
    if lineOf e.1 != l then some e
    else if e.2.dirty && p e.2 then some (e.1, { e.2 with writers := 0 })
    else if e.2.dirty || !others then some e
    else none

/-- A die's L2 writes those dirty bytes of a line home that satisfy `p`: the other dies' L2s write theirs first and drop the line (R91). Bytes
    of a place that cannot be reached are dropped with a record (R96). -/
def State.l2Send (s : State) (die l : Nat) (p : L2Byte → Bool) : State :=
  let m := s.l2Of die
  match m.find? fun e => lineOf e.1 == l && e.2.dirty && p e.2 with
  | none => s
  | some e =>
    let (acc, o) := s.lineAt l e.2.attr
    if s.isHeld acc o then s.meetHold else
    let others := s.othersDirty die l
    let s := s.othersFlush acc (128 * l / 2 ^ 21) o (some die)
    let s := s.setL2 die (afterSend l p others (s.l2Of die))
    if s.reach acc o then (s.touch acc o).entryAt acc o (lineBytes m l fun b => b.dirty && p b)
    else s.logAccess 2 acc o

/-- A die's L2 no longer holds a line. -/
def State.l2Drop (s : State) (die l : Nat) : State := s.setL2 die ((s.l2Of die).filter fun e => lineOf e.1 != l)

/-- A die's L2 writes a line's dirty bytes home and drops the line (R91). -/
def State.l2Back (s : State) (die l : Nat) : State := (s.l2Send die l fun _ => true).l2Drop die l

/-- A die's L2 has a place for a line: a line of a full set leaves it. -/
def State.l2Room (s : State) (die l : Nat) : State :=
  match fullSet (s.l2Of die) 262144 16 l with
  | some mine => s.l2Back die (s.victimOf l mine)
  | none => s

/-- Every die's L2 writes its dirty bytes of a line home and drops it (R91, R249). -/
def State.allHome (s : State) (l : Nat) : State :=
  let (acc, o) := s.lineAt l { kd := 0, kind := 0, etype := 0 }
  s.othersFlush acc (128 * l / 2 ^ 21) o none

/-- Bytes of one line that core `k` wrote enter its die's L2. -/
def State.l2Put (s : State) (k l : Nat) (bs : List (Nat × Byte × PAttr)) : State :=
  let s := s.l2Room (dieOf k) l
  s.setL2 (dieOf k) (bs.foldl (fun m e =>
    let old : BitVec 32 := match sfind m e.1 with | some b => b.writers | none => 0
    sput m e.1 { val := e.2.1, writers := old ||| BitVec.ofNat 32 (2 ^ (k % 32)), attr := e.2.2 }) (s.l2Of (dieOf k)))

/-! L1 (R89, R90). -/

/-- A core's dirty L1 bytes that satisfy `p` go to its die's L2; they stay valid in L1 (R89, R90). -/
def State.l1ToL2 (s : State) (k : Nat) (p : Nat → Bool) : State :=
  let d := (s.core k).l1.filter fun e => e.2.dirty && p e.1
  if d.isEmpty then s else
  let s := (linesOf (d.map (·.1))).foldl (fun s l =>
    s.l2Put k l ((d.filter fun e => lineOf e.1 == l).map fun e => (e.1, e.2.val, e.2.attr))) s
  s.upCore k fun c => { c with l1 := c.l1.map fun e => if p e.1 then (e.1, { e.2 with dirty := false }) else e }

/-- An L1 line leaves its cache: the dirty bytes go to L2 (R89). -/
def State.evictL1 (s : State) (k line : Nat) : State :=
  (s.l1ToL2 k fun b => lineOf b == line).upCore k fun c => { c with l1 := c.l1.filter fun e => lineOf e.1 != line }

/-- The lines of the set of a core's L1 that a line would enter, when the set is full: 8 ways, 128 sets a step (R89). -/
def Core.l1Full (c : Core) (l : Nat) : Option (List Nat) := fullSet c.l1 (128 * c.steps.toNat) 8 l

/-- A core's L1 has a place for a line: a line of a full set leaves it. -/
def State.l1Room (s : State) (k l : Nat) : State :=
  match (s.core k).l1Full l with
  | some mine => s.evictL1 k (s.victimOf l mine)
  | none => s

/-- The lines of a die's L2 with a byte that core `k` wrote and has not released go home (R90). -/
def State.l2Release (s : State) (k : Nat) (p : Nat → Bool) : State :=
  (linesOf (((s.l2Of (dieOf k)).filter fun e => e.2.writers.getLsbD (k % 32) && p e.1).map (·.1))).foldl
    (fun s l => s.l2Send (dieOf k) l fun b => b.writers.getLsbD (k % 32)) s

/-- A release of a core at a scope (R90), over the bytes of the lines that hold one that satisfies `p`. -/
def State.releaseOn (s : State) (k scope : Nat) (p : Nat → Bool) : State :=
  if scope == 0 then s
  else if scope ≤ 2 then s.l1ToL2 k p
  else (s.l1ToL2 k p).l2Release k p

/-- A release of a core at a scope (R90). -/
def State.release (s : State) (k scope : Nat) : State := s.releaseOn k scope fun _ => true

/-- An acquire: the L1's bytes that are not dirty are invalidated, but at core scope (R90). -/
def State.acquire (s : State) (k scope : Nat) : State :=
  if scope == 0 then s else s.upCore k fun c => { c with l1 := c.l1.filter fun e => e.2.dirty }

/-- An atomic's preparation: the issuing core's dirty bytes of the line to L2, the line dropped from its L1, and every L2's
    dirty bytes of the line home (R89, R91, R249). -/
def State.lineHome (s : State) (k l : Nat) : State := (s.evictL1 k l).allHome l

/-! Loads. -/

/-- One line's bytes as a die's L2 gives them, with a poison mark each: its valid bytes, or else the line is fetched from home and merged
    under the dirty ones; poisoned bytes do not enter it (R89, R91). -/
def State.l2Get (s : State) (die : Nat) (acc : Acc) (attr : PAttr) (o n : Nat) : State × List (Byte × Bool) :=
  let f := acc.page
  let m := s.l2Of die
  if (List.range n).all fun i => (sfind m (byteKey f (o + i))).isSome then
    (s, (List.range n).map fun i => match sfind m (byteKey f (o + i)) with | some b => (b.val, false) | none => (0, true))
  else
    let lo := o / 128 * 128
    let (s, r) := s.homeRead acc lo 128
    let s := s.l2Room die (lineOf (byteKey f lo))
    let m := ((List.range 128).zip r).foldl (fun m e =>
      match sfind m (byteKey f (lo + e.1)) with
      | some _ => m
      | none => if e.2.2 then m else sput m (byteKey f (lo + e.1)) { val := e.2.1, writers := 0, attr := attr }) (s.l2Of die)
    (s.setL2 die m, (List.range n).map fun i => match sfind m (byteKey f (o + i)) with
      | some b => (b.val, false)
      | none => r.getD (o - lo + i) (0, true))

/-- One line's bytes of a handle's page as a core's L2 gives them. -/
def State.l2Line (s : State) (k : Nat) (h : BitVec 128) (kd : BitVec 8) (o n : Nat) : State × List (Byte × Bool) :=
  s.l2Get (dieOf k) (s.frameAcc (hFrame h) (hAttr h kd)) (hAttr h kd) o n

/-- A number of `n` bytes of one line at a device-physical address, as a die's L2 gives it, and whether a byte was poisoned (R348). -/
def State.l2Num (s : State) (die a n : Nat) : State × Nat × Bool :=
  let (s, r) := s.l2Get die (s.physAcc a) { kd := 0, kind := 0, etype := 0 } (a % 2 ^ 21) n
  (s, ofBytes (r.map (·.1)), r.any (·.2))

/-- Bytes as a core's L2 gives them, line by line. -/
def State.l2ReadLoop : Nat → State → Nat → BitVec 128 → BitVec 8 → Nat → Nat → State × List (Byte × Bool)
  | 0, s, _, _, _, _, _ => (s, [])
  | j + 1, s, k, h, kd, o, n =>
    if n == 0 then (s, []) else
    let m := min n (128 - o % 128)
    let (s, r) := s.l2Line k h kd o m
    let (s, r') := l2ReadLoop j s k h kd (o + m) (n - m)
    (s, r ++ r')

/-- Bytes as a core's L2 gives them; those of a read-only-compressed page come through the codec of their home, past the caches (R97). -/
def State.l2Read (s : State) (k : Nat) (h : BitVec 128) (kd : BitVec 8) (o n : Nat) : State × List (Byte × Bool) :=
  if hRc h then s.pageRead h kd o n else s.l2ReadLoop (n / 128 + 2) k h kd o n

/-- One line's bytes as a core loads them: L1's valid bytes, else the line is fetched and merged under the dirty bytes
    (R89). -/
def State.l1Read (s : State) (k : Nat) (h : BitVec 128) (kd : BitVec 8) (o n : Nat) : State × List (Byte × Bool) :=
  let f := hFrame h
  let c := s.core k
  let got := (List.range n).map fun i => sfind c.l1 (byteKey f (o + i))
  if !c.hasL1 || hRc h then s.l2Read k h kd o n
  else if got.all (·.isSome) then (s, got.map fun b => match b with | some b => (b.val, false) | none => (0, false))
  else
    let lo := o / 128 * 128
    let (s, r) := s.l2Read k h kd lo 128
    let s := s.l1Room k (lineOf (byteKey f lo))
    let c := s.core k
    let m := ((List.range 128).zip r).foldl (fun m e =>
      match sfind m (byteKey f (lo + e.1)) with
      | some _ => m
      | none => if e.2.2 then m else sput m (byteKey f (lo + e.1)) { val := e.2.1, dirty := false, attr := hAttr h kd }) c.l1
    let s := s.setCore k { c with l1 := m }
    (s, (List.range n).map fun i => match sfind m (byteKey f (o + i)) with
      | some b => (b.val, false)
      | none => r.getD (o - lo + i) (0, true))

/-- Bytes as a core loads them, line by line. -/
def State.coreReadLoop : Nat → State → Nat → BitVec 128 → BitVec 8 → Nat → Nat → State × List (Byte × Bool)
  | 0, s, _, _, _, _, _ => (s, [])
  | j + 1, s, k, h, kd, o, n =>
    if n == 0 then (s, []) else
    let m := min n (128 - o % 128)
    let (s, r) := s.l1Read k h kd o m
    let (s, r') := coreReadLoop j s k h kd (o + m) (n - m)
    (s, r ++ r')

/-- The values of a version's updates over bytes read at [o, o + n) of a frame, oldest first; an operation on poisoned bytes writes nothing
    (R40, R249). -/
def overlay (v : List VEnt) (f o : Nat) (r : List (Byte × Bool)) : List (Byte × Bool) :=
  v.foldl (fun r e =>
    if hFrame e.h != f then r else
    match e.upd with
    | .bytes bs => ((List.range r.length).zip r).map fun x =>
        if e.off ≤ o + x.1 then (match bs[o + x.1 - e.off]? with | some (some b) => (b, false) | _ => x.2) else x.2
    | .op m v c =>
      let n := atomBytes m
      if o ≤ e.off && e.off + n ≤ o + r.length then
        if ((r.drop (e.off - o)).take n).any (·.2) then r else
        let old := ofBytes ((r.drop (e.off - o)).take n |>.map (·.1))
        let w := toBytes n (atomNew m old v.toNat c.toNat)
        r.take (e.off - o) ++ (w.map fun b => (b, false)) ++ r.drop (e.off - o + n)
      else r) r

/-- Bytes as a core loads them, its task's version over them (R40, R89). An access within one line reads whole units of 8
    bytes, so that a version's operations apply to their words. -/
def State.coreRead (s : State) (k : Nat) (h : BitVec 128) (kd : BitVec 8) (o n : Nat) : State × List (Byte × Bool) :=
  let v := (s.core k).version
  if v.isEmpty then s.coreReadLoop (n / 128 + 2) k h kd o n
  else
    let lo := o / 8 * 8
    let m := (o + n + 7) / 8 * 8 - lo
    let (s, r) := s.coreReadLoop (m / 128 + 2) k h kd lo m
    (s, ((overlay v (hFrame h) lo r).drop (o - lo)).take n)

/-! Stores and atomics. -/

/-- A core's store to one line: into L1 valid and dirty, or into its die's L2 when STEPS is 0 (R89). -/
def State.lineStore (s : State) (k : Nat) (h : BitVec 128) (kd : BitVec 8) (o : Nat) (bs : List (Option Byte)) : State :=
  let f := hFrame h
  let ix := ((List.range bs.length).zip bs).filterMap fun e => e.2.map fun b => (byteKey f (o + e.1), b)
  if ix.isEmpty then s
  else if (s.core k).hasL1 then
    (s.l1Room k (lineOf (byteKey f o))).upCore k fun c =>
      { c with l1 := ix.foldl (fun m e => sput m e.1 { val := e.2, dirty := true, attr := hAttr h kd }) c.l1 }
  else s.l2Put k (lineOf (byteKey f o)) (ix.map fun e => (e.1, e.2, hAttr h kd))

/-- A store's lines in turn. -/
def State.coreStoreLoop : Nat → State → Nat → BitVec 128 → BitVec 8 → Nat → List (Option Byte) → State
  | 0, s, _, _, _, _, _ => s
  | j + 1, s, k, h, kd, o, bs =>
    if bs.isEmpty then s else
    let m := 128 - o % 128
    coreStoreLoop j (s.lineStore k h kd o (bs.take m)) k h kd (o + m) (bs.drop m)

/-- A core's store (R89). -/
def State.coreStore (s : State) (k : Nat) (h : BitVec 128) (kd : BitVec 8) (o : Nat) (bs : List (Option Byte)) : State :=
  s.coreStoreLoop (bs.length / 128 + 2) k h kd o bs

/-- An atomic or reduction performed at home on `off`: the old value, poisoned or not (R249). Poisoned bytes are left. -/
def State.atomHome (s : State) (k : Nat) (h : BitVec 128) (kd : BitVec 8) (off : Nat) (m : AtomLit) (v cmp : Word) : State × Nat × Bool :=
  let s := s.lineHome k (lineOf (byteKey (hFrame h) off))
  let acc := s.frameAcc (hFrame h) (hAttr h kd)
  let n := atomBytes m
  let (s, r) := s.homeRead acc off n
  let old := ofBytes (r.map (·.1))
  if r.any (·.2) then (s, old, true)
  else (s.entryAt acc off (allOf (toBytes n (atomNew m old v.toNat cmp.toNat))), old, false)

/-- A reduction met poisoned bytes: it is dropped with a record (R249). -/
def State.redDropped (s : State) (k : Nat) (h : BitVec 128) (kd : BitVec 8) (off : Nat) : State :=
  s.logError 1 2 (unitCore k) (some ((s.core k).ctxNum, kd.toNat)) (hFrame h + 2 ^ 28 * (off / 128)) []

/-- A version's updates applied at home, and the release at dev scope that a commit acts as (R41). The core's own L1 no longer
    holds the bytes written. The updates become visible in no set order: the model applies them in program order within one step (log 71;
    DESIGN CHOICE). -/
def State.commitVersion (s : State) (k : Nat) (kd : BitVec 8) : State :=
  let v := (s.core k).version
  let s := s.upCore k fun c => { c with version := [] }
  let s := v.foldl (fun s e =>
    let f := hFrame e.h
    match e.upd with
    | .bytes bs =>
      let ks := ((List.range bs.length).zip bs).filterMap fun x => x.2.map fun _ => byteKey f (e.off + x.1)
      let s := (linesOf ks).foldl (fun s l => s.lineHome k l) s
      s.homeWrite (s.frameAcc f (hAttr e.h kd)) e.off bs
    | .op m w c =>
      let (s, _, bad) := s.atomHome k e.h kd e.off m w c
      if bad then s.redDropped k e.h kd e.off else s) s
  s.release k 3

/-- A commit point of a core: in a versioned kernel the version commits (R40, R41). -/
def State.commit (s : State) (k : Nat) : State :=
  match (s.core k).task with
  | some t => if t.ver then s.commitVersion k (s.ctx t.ctx.toNat).kdom else s
  | none => s

/-- The home slices of a version's lines, one entry per line (R42). -/
def State.versionLines (s : State) (v : List VEnt) : List (Nat × Nat) :=
  (v.flatMap fun e =>
    let n := match e.upd with | .bytes bs => bs.length | .op m _ _ => atomBytes m
    let acc := s.frameAcc (hFrame e.h) (hAttr e.h 0)
    (List.range (n / 128 + 2)).map fun i =>
      let o := min (e.off + 128 * i) (e.off + n - 1)
      (acc.slice o, lineOf (byteKey (hFrame e.h) o))).eraseDups

/-- The slice in which an update would place a 2,049th line (R42). -/
def State.versionFull (s : State) (v : List VEnt) : Option Nat :=
  (List.range 16).find? fun b => decide (((s.versionLines v).filter fun e => e.1 == b).length > 2048)

end Sys2Proof.Machine
end

