-- ==== Sys2Proof/Machine/Ops.lean ====
section
/-! DEFINITION. Taking a trap and entering the handler, errors fatal to a context, and the waits that a scratchpad write
    re-evaluates (R38, R162, R296 to R299). -/

namespace Sys2Proof.Machine

open Sys2Proof

/-! Waits (R38, R162). -/

/-- The comparison code of R125 on 64-bit values. -/
def ccHolds (cc : Nat) (a b : Word) : Bool :=
  match cc with
  | 0 => a == b
  | 1 => a != b
  | 2 => a.slt b
  | 3 => a.sle b
  | 4 => a.ult b
  | _ => a.ule b

/-- The 8-byte scratchpad word at an address. -/
def Core.spWord (k : Core) (a : Nat) : Word := .ofNat 64 (ofBytes (k.spRead a 8))

/-- Waiting continuations whose wait is satisfied with a result are made ready and enter the ready queue (R39). -/
def Core.wake (k : Core) (p : Cont → Option Word) : Core :=
  let go (c : Cont) : Option Word := if c.ready || c.saving then none else p c
  let hit := k.conts.filter fun c => (go c).isSome
  if hit.isEmpty then k else
  { k with conts := k.conts.map (fun c => match go c with | some r => { c with ready := true, result := r } | none => c),
           ready := k.ready ++ hit.map fun c => .cont c.slot }

/-- The waita of a saved continuation, on the register saved in its slot (R35, R162). -/
def Core.waitaHolds (k : Core) (c : Cont) : Option Word :=
  match c.on with
  | .word a cc breg _ => if ccHolds cc.toNat (k.spWord a) (k.spWord (4096 * c.tile.toNat + 0x100 + 8 * breg.toNat)) then some 0 else none
  | _ => none

/-- Every waita of the core is evaluated again after a scratchpad write (R38, R162). -/
def Core.recheck (k : Core) : Core := if k.conts.isEmpty then k else k.wake k.waitaHolds

/-- The core's waits evaluated again. -/
def State.recheck (s : State) (k : Nat) : State := s.upCore k Core.recheck

/-! Loop stacks (R151). -/

/-- STATE of a loop-stack entry (R151). -/
def LoopSt.code : LoopSt → Nat
  | .run => 1 | .drain => 2 | .stopped => 3

/-- A loop-stack entry's 32 bytes (R151). -/
def LoopEnt.image (e : LoopEnt) : List Byte :=
  toBytes 32 (pack [(2, e.st.code), (2, 0), (3, e.stg.toNat), (3, e.tail.toNat), (6, e.rb.toNat), (48, 0), (32, e.rem.toNat),
    (32, e.prem.toNat), (32, e.iter.toNat), (48, e.startA.toNat), (48, e.endA.toNat)])

/-- A loop stack's 128 bytes, level 0 the outermost (R151). -/
def loopImage (l : List LoopEnt) : List Byte := ((l.reverse.flatMap LoopEnt.image) ++ List.replicate 128 0).take 128

/-- Zero p8 to p15 (R149). -/
def Cl.clearStages (c : Cl) : Cl := { c with p := c.p.filter fun e => e.1 < 8 }

/-! Traps (R296 to R299). -/

/-- The code of a cause (R298). -/
def Cause.code : Cause → Nat
  | .illop => 1 | .illtype => 2 | .owner => 3 | .handle => 4 | .align => 5 | .poison => 6 | .merge => 7 | .window => 8
  | .xdrift => 9 | .vovf => 10 | .watchdog => 11 | .bkpt => 12 | .trap => 13 | .priv => 14

/-- HANDLE and WATCHDOG do not enter the handler (R297). -/
def Cause.fatal : Cause → Bool
  | .handle | .watchdog => true
  | _ => false

/-- CTX_ID of a context (R286). -/
def State.ctxId (s : State) (n : Nat) : Word :=
  let x := s.ctx n
  .ofNat 64 (pack [(6, n), (10, 0), (16, x.asid.toNat), (8, x.gen.toNat)])

/-- TASK_ID of a task (R27). -/
def Task.id (t : Task) : Word := .ofNat 64 (t.ord.toNat + 2 ^ 32 * t.lser.toNat)

/-- The cause word of a cluster (R298). -/
def causeWord (code : Nat) (pdrn eng : Bool) (orig : Nat) (vdisc nest fatal inh : Bool) : Word :=
  .ofNat 64 (pack [(8, code), (1, b2n pdrn), (1, b2n eng), (2, orig), (1, b2n vdisc), (1, b2n nest), (1, b2n fatal), (1, b2n inh)])

/-- PDRN of a cluster: it is kept in bit 8 of TRAP_CAUSE while the trap waits (R296). -/
def Cl.pdrn (c : Cl) : Bool := c.trapCause.getLsbD 8

/-- TRAP_PC of a cluster of a trap (R298): the trap's own, or the next unissued word. -/
def Cl.tpc (c : Cl) : Word := .ofNat 64 (match c.trapped with | some t => t.pc.toNat | none => c.pc.toNat)

/-- TRAP_INFO of a cluster of a trap. -/
def Cl.tinfo (c : Cl) : Word := match c.trapped with | some t => t.info | none => 0

/-- A cluster's cause code; 0 when it stopped with the others. -/
def Cl.tcode (c : Cl) : Nat := match c.trapped with | some t => t.cause.code | none => 0

/-- The 1,024-byte trap or fault record (R298). -/
def trapRecord (s : State) (k : Core) (t : TrapSt) (nest fatal inh : Bool) : List Byte :=
  let o := k.cl t.origin
  let words (f : Cl → Word) : List Byte := Cluster.all.flatMap fun c => toBytes 8 (f (k.cl c)).toNat
  toBytes 8 (causeWord o.tcode o.pdrn false t.origin.num t.vdisc nest fatal inh).toNat
    ++ toBytes 8 (match k.task with | some x => x.id.toNat | none => 0)
    ++ toBytes 8 (match k.task with | some x => x.wid.toNat | none => 0)
    ++ toBytes 8 (s.ctxId k.ctxNum).toNat
    ++ words Cl.tpc ++ words Cl.tinfo ++ (t.ocnt.flatMap fun w => toBytes 8 w.toNat)
    ++ toBytes 128 t.operand.toNat
    ++ (Cluster.all.flatMap fun c => loopImage (k.cl c).loops)
    ++ List.replicate 256 0

/-- A cluster that stops for good: nothing issued remains to act. -/
def Cl.halt (c : Cl) : Cl := { c with wait := none, popped := [], flight := [], trapped := none, stopped := false }

/-- A core's task stops for good: its clusters issue nothing more and its version is gone; words that had issued complete
    (R297, R305, R330). -/
def Core.stopClusters (k : Core) : Core :=
  let k := k.commitAll
  { (k.upAll fun _ x => x.halt) with
      ending := k.worker,
      task := none, trap := none, inh := false, hloops := [], version := [], phaseReq := [], halted := false }

/-- A core's task is ended at once by a fatal error or a seal: nothing queued behind it executes, so that the tail of its
    queue has the active bank (R216, R297, R305). -/
def Core.stopTask (k : Core) : Core := { k.stopClusters with tq := [], nests := [], xq := [], tailActive := k.active }

/-- Engine commands of a context in flight will complete ABORTED; those not started are dropped (R258, R297, R305). -/
def Core.abortEngines (k : Core) (n : Nat) : Core :=
  { k with cp := (k.cp.filter fun c => c.ctx.toNat != n || c.entry.isSome).map (fun c => if c.ctx.toNat == n then { c with aborted := true } else c),
           ws := (k.ws.filter fun f => f.ctx.toNat != n || f.started).map fun f => if f.ctx.toNat == n then { f with aborted := true } else f }

/-- A context whose engines may start entries: not saved, saving, faulted or being sealed (R291, R297, R305). -/
def Ctx.enginesRun (x : Ctx) : Bool :=
  !x.saving && (match x.st with | .resident | .running | .preempting => true | _ => false)

/-- An engine of a core may start an entry of a context: FREEZE holds it on a halted core (R304). -/
def State.engineMayStart (s : State) (k ctx : Nat) : Bool := (s.ctx ctx).enginesRun && !((s.core k).halted && (s.ctx ctx).freeze)

/-- A record's number over all contexts. -/
def recKeyOf (ctx rec0 : Nat) : Nat := ctx * 65536 + rec0

/-- A record's state set. -/
def State.setRecSt (s : State) (ctx rec0 : Nat) (st : RecSt) : State :=
  { s with recs := sset Rec.reset s.recs (recKeyOf ctx rec0) { sget Rec.reset s.recs (recKeyOf ctx rec0) with st := st } }

/-- A queue. -/
def State.queue (s : State) (q : Nat) : Queue := sget Queue.reset s.queues q

/-- A queue replaced. -/
def State.setQueue (s : State) (q : Nat) (x : Queue) : State := { s with queues := sset Queue.reset s.queues q x }

/-- The context of a queue (R306). -/
def Queue.ctx (q : Queue) : Nat := bits q.qcfg.toNat 55 50

/-- A draining queue whose handed entries have all ended is DISABLED (R310). -/
def Queue.drainEnd (q : Queue) : Queue := if q.st == .draining && q.pending.isEmpty then { q with st := .disabled } else q

/-- A handed entry ends without retiring: it counts as ended for a drain (R310, R332). -/
def Queue.entryEnds (q : Queue) (j : BitVec 32) : Queue := ({ q with pending := q.pending.filter (· != j) }).drainEnd

/-- A launch that has reached RETIRED, whose entry has still to be completed (R309, R315). -/
def Launch.done (l : Launch) : Bool := l.retiredNo != 0

/-- A launch ends FAULTED: its record, its queue entry and its quads (R310, R315, R330). -/
def State.launchFaults (s : State) (l : Launch) : State :=
  let s := s.setRecSt l.ctx.toNat l.recNo .faulted
  let s := s.setQueue l.queue.toNat ((s.queue l.queue.toNat).entryEnds l.entry)
  { s with quads := s.quads.map fun (e : Nat × Option QuadSt) => match e.2 with
             | some q => if q.launch == l.id then (e.1, none) else e
             | none => e }

/-- A context that faults or is sealed takes its queues to ERROR (R310). -/
def Queue.ctxGone (q : Queue) : Queue :=
  match q.st with
  | .disabled | .draining => q
  | _ => { q with st := .error, err := 6 }

/-- The queues of a context that faults or is sealed (R310). -/
def State.queuesGone (s : State) (n : Nat) : State :=
  { s with queues := s.queues.map fun (e : Nat × Queue) => if e.2.ctx == n then (e.1, e.2.ctxGone) else e }

/-- Launches and queues of a context that faults or is sealed: every group ends FAULTED and nothing more is dispatched; a launch in
    RETIRED still completes (R310, R315, R330). -/
def State.faultLaunches (s : State) (n : Nat) : State :=
  let s := (s.launches.filter fun l => l.ctx.toNat == n && !l.done).foldl State.launchFaults s
  ({ s with launches := s.launches.filter fun l => l.ctx.toNat != n || l.done }).queuesGone n

/-- An entry of a ready queue belongs to a context. -/
def Core.readyOf (k : Core) (n : Nat) : ReadyEnt → Bool
  | .task t => t.ctx.toNat == n
  | .cont slot => k.conts.any fun c => c.slot == slot && c.task.ctx.toNat == n

/-- A context's work leaves a core: its task and what one that has stopped left queued stop, and its ready tasks and continuations
    go (R297, R305). -/
def Core.dropCtx (k : Core) (n : Nat) : Core :=
  let k := if k.worker.any fun t => t.ctx.toNat == n then k.stopTask else k
  { k with ready := k.ready.filter fun e => !k.readyOf n e, conts := k.conts.filter fun c => c.task.ctx.toNat != n,
           preempt := k.preempt &&& ~~~(BitVec.ofNat 64 (2 ^ n)) }

/-- An error fatal to a context (R297): every task of it stops on every core, versions are discarded, the fault record is
    written, CAUSE is set and the context fault interrupt raised; the context becomes FAULTED. -/
def State.ctxFault (s : State) (n : Nat) (cause : Nat) (record : List Byte) : State :=
  let x := s.ctx n
  let s := { s with cores := s.cores.map fun (e : Nat × Core) =>
    (e.1, (if x.coreList.contains e.1 then e.2.dropCtx n else e.2).abortEngines n) }
  let s := s.devWriteAs x.saveIlv (x.desc.save.toNat + 0x400) record
  let s := s.upCtx n fun x => { x with st := .faulted, cause := .ofNat 8 cause, saving := false, restoring := false }
  let s := s.faultLaunches n
  let s := s.logError 11 3 (unitMgmt) (some (n, x.kdom.toNat)) 0 []
  s.raiseIrq (192 + n)

/-- A trap is recorded in its cluster and stops the task's four clusters (R296). The first records OCNT and discards the
    version; words that had issued retire. -/
def State.markTrap (s : State) (k : Nat) (c : Cluster) (cause : Cause) (pc : VAddr) (info : Word) (operand : List Byte) : State :=
  if (s.core k).task.isNone then s else
  s.upCore k fun x =>
    let t : ClTrap := { cause := cause, pc := pc, info := info }
    match x.trap with
    | some _ => x.upCl c fun y => { y with trapped := y.trapped <|> some t }
    | none =>
      let x := x.commitAll
      let x := x.upAll fun _ y => { y with trapCause := 0 }
      let st : TrapSt := { origin := c, vdisc := (match x.task with | some t => t.ver | none => false),
                           ocnt := Cluster.all.map x.ocnt, operand := .ofNat 1024 (ofBytes operand) }
      ({ x with trap := some st, version := [] }).upCl c fun y => { y with trapped := some t }

/-- Tokens a word popped go back to their FIFOs, so that it pops them again when it issues again (R296). -/
def Core.giveBack (k : Core) (c : Cluster) : Core :=
  let k := (k.cl c).popped.reverse.foldl (fun k e =>
    let (p, d) := popSide c e.1
    (k.setFifo p d (e.2.1 :: k.fifoTo p d)).upCl c fun x =>
      match e.1 with | .left => { x with inL := e.2.2 } | .right => { x with inR := e.2.2 }) k
  ({ k with waitHeld := false }).upCl c fun x => { x with popped := [], wait := none }

/-- The local address of the trap record (R285). -/
def Ctx.trloc (x : Ctx) : Nat := bits x.desc.config.toNat 55 44 * 1024

/-- The record can be written: its bytes lie in THREAD tiles (R297). -/
def Core.recordOk (k : Core) (x : Ctx) : Bool := x.trloc + 1024 ≤ spSize && k.owned ownThread x.trloc 1024

/-- The handler is entered (R298): the record is written, each cluster's TRAP registers are set, and every cluster starts at
    its HPC in scoreboard mode with its loop stack kept. A pre-emption pending is acted on here (R296). -/
def State.enterHandler (s : State) (k : Nat) (t : TrapSt) : State :=
  let c0 := s.core k
  let c0 := Cluster.all.foldl (fun c cl => c.giveBack cl) c0
  let x := s.ctx c0.ctxNum
  let c1 := c0.spWrite x.trloc (allOf (trapRecord s c0 t false false true))
  let hloops := Cluster.all.map fun c => (c0.cl c).loops
  let c2 := c1.upAll fun c y =>
    { y with trapCause := causeWord y.tcode y.pdrn false t.origin.num t.vdisc false false true, trapPc := y.tpc, trapInfo := y.tinfo,
             pc := .ofNat 48 (x.desc.hpc.getD c.num 0).toNat, exposed := false, trapped := none, stopped := c0.asked }
  (s.setCore k { c2 with trap := none, version := [], inh := true, hloops := hloops, phaseReq := [] }).recheck k

/-- A trap that does not enter the handler: HANDLE, WATCHDOG, NEST, or a record that cannot be written (R297). The record names the trap's
    origin (R296); CAUSE is the code that makes it fatal (R287). -/
def State.fatalTrap (s : State) (k : Nat) (t : TrapSt) : State :=
  let c := s.core k
  let fatalIn := Cluster.all.find? fun cl => match (c.cl cl).trapped with | some y => y.cause.fatal | none => false
  s.ctxFault c.ctxNum (c.cl (fatalIn.getD t.origin)).tcode (trapRecord s c t c.inh true c.inh)

/-- A trap waits for LD, ST and TS to reach zero and for a phase or lmode that had issued to retire, and then enters the handler;
    a fatal one does neither (R296, R297). Nothing happens while the clock is stopped (R20), or before a halted task resumes (R304). -/
def State.settle (s : State) (k : Nat) : State :=
  let c := s.core k
  match c.trap with
  | none => s
  | some t =>
    if s.power.stopped || c.halted then s
    else if (Cluster.all.any fun cl => match (c.cl cl).trapped with | some y => y.cause.fatal | none => false) || c.inh then s.fatalTrap k t
    else if c.drained && !Cluster.all.any (fun cl => match (c.cl cl).wait with | some (.phase _ _) => true | some (.lmode _ _) => true | _ => false) then
      (if c.recordOk (s.ctx c.ctxNum) then s.enterHandler k t else s.fatalTrap k t)
    else s

/-- Taking a trap (R296): recorded, and entered at once when nothing is outstanding. -/
def State.raise (s : State) (k : Nat) (c : Cluster) (cause : Cause) (pc : VAddr) (info : Word) (operand : List Byte) : State :=
  (s.markTrap k c cause pc info operand).settle k

/-- A HANDLE raised by an engine of a core: 1 copy, 2 weight stream (R297). -/
def State.engineHandle (s : State) (k ctx engine seqNo : Nat) (h : BitVec 128) (off : Nat) : State :=
  let c := s.core k
  let rec0 := toBytes 8 (causeWord 4 false true 0 false false true c.inh).toNat
    ++ toBytes 8 (match c.task with | some x => x.id.toNat | none => 0)
    ++ toBytes 8 (match c.task with | some x => x.wid.toNat | none => 0)
    ++ toBytes 8 (s.ctxId ctx).toNat ++ List.replicate 32 0
    ++ toBytes 8 (engine + 256 * k + 65536 * (seqNo % 2 ^ 32)) ++ List.replicate 24 0
    ++ (Cluster.all.flatMap fun cl => toBytes 8 (c.ocnt cl).toNat)
    ++ toBytes 16 h.toNat ++ toBytes 8 off ++ List.replicate 104 0
    ++ (Cluster.all.flatMap fun cl => loopImage (c.cl cl).loops) ++ List.replicate 256 0
  s.ctxFault ctx 4 rec0

/-! Bytes of the faulting-operand area (R299). -/

/-- A handle image, the page offset and, for POISON, the poisoned lanes. -/
def operandPoison (h : BitVec 128) (off : Nat) (lanes : Mask) : List Byte := toBytes 16 h.toNat ++ toBytes 8 off ++ toBytes 8 lanes.toNat

/-- A local address or page offset, and the owner code found. -/
def operandAddr (a : Nat) (o : BitVec 3) : List Byte := toBytes 8 a ++ [BitVec.ofNat 8 o.toNat]

end Sys2Proof.Machine
end

