-- ==== Sys2Proof/Machine/Operands.lean ====
section
/-! DEFINITION. Operand forms: guards, immediates, branch offsets, effective vector names; the registers a word names; and what
    holds a word at issue (R43, R45, R48, R117 to R120, R130, R155, R169 to R173). -/

namespace Sys2Proof.Machine

open Sys2Proof

/-! Guards (R117, R119, R167). -/

/-- The lanes in which a guarded V word executes (R117). -/
def guardMask (x : Cl) (h : Hdr) : Mask :=
  if h.e then (if h.n then ~~~(x.pmask h.g) else x.pmask h.g) else allLanes

/-- A word of cluster A, T or S, or a carrier in V, executes (R117). -/
def guardBit (x : Cl) (h : Hdr) : Bool := if h.e then (x.pbit h.g != h.n) else true

/-- A word executes: a V word in at least one lane (R119), a vgets in lane 0 (R184). -/
def guardTrue (x : Cl) (i : Instr) : Bool :=
  match i.hdr? with
  | none => true
  | some h => (match i with
    | .vgets _ _ => guardBit x h
    | _ => if i.kind == .vector then guardMask x h != 0 else guardBit x h)

/-! Immediates and offsets (R120). -/

/-- The signed immediate of the I form, sign-extended to 64 bits. -/
def immI (h : Hdr) (k : BitVec 5) : Word := if h.e then k.signExtend 64 else (BitVec.ofNat 10 (32 * h.x + k.toNat)).signExtend 64

/-- The signed word offset of the B form. A guarded word's -512, which R120's ±511 leaves out, is that offset (log 34; DEDUCED). -/
def offB (h : Hdr) (f : BitVec 10) : Int := if h.e then f.toInt else signedOf 15 (1024 * h.x + f.toNat)

/-! Vector names (R129, R130). -/

/-- Stride offset and rotation base of the innermost hardware loop; 0 outside any loop (R130, R151). -/
def Cl.strideBase (x : Cl) : Nat × Nat :=
  match x.loops with
  | e :: _ => (e.iter.toNat, e.rb.toNat)
  | [] => (0, 0)

/-- The effective name of a register (R130). -/
def effName (x : Cl) (n st : Nat) : Nat :=
  let (i, rb) := x.strideBase
  let k : Int := match st with | 1 => 1 | 2 => 2 | 3 => 4 | 6 => 8 | 4 => -1 | _ => 0
  if st == 5 then 448 + (n + 64 * 64 - 448 - rb) % 64
  else if n < 512 then (((n : Int) + k * i) % 512).toNat
  else if n < 576 then 512 + (((n : Int) - 512 + k * i) % 64).toNat
  else n

/-- The partner of a register of a pair (R173). -/
def partner (st e : Nat) : Nat :=
  if st == 5 then 448 + (e - 448 + 1) % 64
  else if e < 512 then (e + 1) % 512
  else 512 + (e - 512 + 1) % 64

/-- The next code in the same file (R178). -/
def nextName (e : Nat) : Nat := if e < 512 then (e + 1) % 512 else 512 + (e - 512 + 1) % 64

end Sys2Proof.Machine

namespace Sys2Proof

open Sys2Proof.Machine

/-- D, A and B of a V word, effective. -/
def VOps.dn (o : VOps) (x : Cl) : Nat := effName x o.d.toNat o.ds.toNat
/-- A. -/
def VOps.an (o : VOps) (x : Cl) : Nat := effName x o.a.toNat o.as.toNat
/-- B. -/
def VOps.bn (o : VOps) (x : Cl) : Nat := effName x o.b.toNat o.bs.toNat
/-- The third name of the C3 form. -/
def VOps.cn (o : VOps) (x : Cl) : Nat := effName x (bits o.c.toNat 24 15) (bits o.c.toNat 14 12)

end Sys2Proof

namespace Sys2Proof.Machine

open Sys2Proof

/-! The registers a word names. -/

end Sys2Proof.Machine

namespace Sys2Proof

open Sys2Proof.Machine

/-- Scalar registers that a word reads or writes. -/
def Instr.sregs : Instr → List Reg
  | .add _ d a b => [d, a, b]
  | .sub _ d a b => [d, a, b]
  | .and _ d a b => [d, a, b]
  | .or _ d a b => [d, a, b]
  | .xor _ d a b => [d, a, b]
  | .shl _ d a b => [d, a, b]
  | .shr _ d a b => [d, a, b]
  | .sar _ d a b => [d, a, b]
  | .mul _ d a b => [d, a, b]
  | .mulhs _ d a b => [d, a, b]
  | .mulhn _ d a b => [d, a, b]
  | .divs _ d a b => [d, a, b]
  | .divn _ d a b => [d, a, b]
  | .rems _ d a b => [d, a, b]
  | .remn _ d a b => [d, a, b]
  | .min _ d a b => [d, a, b]
  | .max _ d a b => [d, a, b]
  | .sel _ d a b => [d, a, b]
  | .addi _ d a _ => [d, a]
  | .andi _ d a _ => [d, a]
  | .ori _ d a _ => [d, a]
  | .shli _ d a _ => [d, a]
  | .shri _ d a _ => [d, a]
  | .sari _ d a _ => [d, a]
  | .limm _ d _ _ => [d]
  | .cmpEq _ _ a b => [a, b]
  | .cmpNe _ _ a b => [a, b]
  | .cmpLt _ _ a b => [a, b]
  | .cmpLe _ _ a b => [a, b]
  | .cmpLo _ _ a b => [a, b]
  | .cmpLs _ _ a b => [a, b]
  | .cmpiEq _ _ a _ => [a]
  | .cmpiNe _ _ a _ => [a]
  | .cmpiLt _ _ a _ => [a]
  | .cmpiLe _ _ a _ => [a]
  | .cmpiLo _ _ a _ => [a]
  | .cmpiLs _ _ a _ => [a]
  | .jmp _ a => [a]
  | .call _ c _ => [c]
  | .ret _ a => [a]
  | .loop _ c _ => [c]
  | .getc _ d _ => [d]
  | .setc _ a _ => [a]
  | .tkrd _ d _ => [d]
  | .tkwr _ a _ => [a]
  | .ld _ d a b m => if m.sp then [d, b] else [d, a, b]
  | .st _ d a b m => if m.sp then [d, b] else [d, a, b]
  | .waita _ a b _ => [a, b]
  | .signal _ d a b _ => [d, a, b]
  | .xlat _ _ a _ => [a]
  | .rprobe _ d a b => [d, a, b]
  | .amo _ d _ b m => [d, b, m.o]
  | .red _ d _ b m => [d, b, m.o]
  | .cpq _ d a b => [d, a, b]
  | .cptail _ d a _ => [d, a]
  | .gath _ d a b => [d, a, b]
  | .scat _ d a b => [d, a, b]
  | .dgld _ d _ b _ _ => [d, d + 1, b]
  | .dgq _ d _ b _ _ l _ => [d, b, l]
  | .dgseal _ _ b _ _ => [b]
  | .owng _ a b _ => [a, b]
  | .ownt _ a b => [a, b]
  | .ownw _ a b => [a, b]
  | .cflush _ d _ b _ _ => [d, b]
  | .cinv _ d _ b _ _ => [d, b]
  | .cway _ d a b _ => [d, a, b]
  | .lpatch _ d a b _ => [d, a, b]
  | .larm _ d a => [d, a]
  | .qapp _ d a b => [d, a, b]
  | .binit _ d a _ _ => [d, a]
  | .barv _ d _ _ => [d]
  | .bwait _ d a _ _ => [d, a]
  | .pmig _ d _ _ => [d]
  | .pmigAbort _ d _ => [d]
  | .pheat _ d _ => [d]
  | .tinv _ a b => [a, b]
  | .lstat _ d a => [d, a]
  | .vbcastScalar _ o => [.ofNat 5 (o.c.toNat / 2 ^ 16)]
  | .vgets _ o => [.ofNat 5 (o.c.toNat / 2 ^ 16)]
  | .vsets _ o => [.ofNat 5 (o.c.toNat / 2 ^ 16)]
  | .vld _ o => [.ofNat 5 (o.c.toNat / 2 ^ 20)]
  | .vldx _ o => [.ofNat 5 (o.c.toNat / 2 ^ 20)]
  | .vst _ o => [.ofNat 5 (o.c.toNat / 2 ^ 20)]
  | .vstx _ o => [.ofNat 5 (o.c.toNat / 2 ^ 20)]
  | .vldg _ o => [.ofNat 5 (o.c.toNat / 2 ^ 20)]
  | .vstg _ o => [.ofNat 5 (o.c.toNat / 2 ^ 20)]
  | .vaccept _ o => [.ofNat 5 (o.c.toNat / 2 ^ 16)]
  | .mnset _ _ a b => [a, b]
  | .tdset _ _ a => [a]
  | .tdget _ _ a => [a]
  | .twin _ _ _ a b _ => [a, b]
  | .twinGet _ _ a b => [a, b]
  | .xprog _ _ a b _ => [a, b]
  | .xverify _ _ a _ _ => [a]
  | .xmvm _ _ _ a b _ _ _ _ => [a, b]
  | .xstat _ _ d _ _ => [d]
  | _ => []

/-- The stage predicates p8 to p15 (R149). -/
def stagePreds : List Pred := [8, 9, 10, 11, 12, 13, 14, 15]

/-- Predicates that a word reads or writes, besides its guard; a loop and an exit branch write the stage predicates too (R139, R150). -/
def Instr.preds : Instr → List Pred
  | .plog _ _ pd pa pb => [pd, pa, pb]
  | .cmpEq _ pd _ _ => [pd]
  | .cmpiEq _ pd _ _ => [pd]
  | .cmpNe _ pd _ _ => [pd]
  | .cmpiNe _ pd _ _ => [pd]
  | .cmpLt _ pd _ _ => [pd]
  | .cmpiLt _ pd _ _ => [pd]
  | .cmpLe _ pd _ _ => [pd]
  | .cmpiLe _ pd _ _ => [pd]
  | .cmpLo _ pd _ _ => [pd]
  | .cmpiLo _ pd _ _ => [pd]
  | .cmpLs _ pd _ _ => [pd]
  | .cmpiLs _ pd _ _ => [pd]
  | .brp _ _ p _ => [p]
  | .sel h _ _ _ => [h.g]
  | .xlat _ _ _ pd => [pd]
  | .ld _ _ _ _ m => if m.pp then [m.pd] else []
  | .vcmpEq _ o => [.ofNat 4 o.c.toNat]
  | .vfcmpEq _ o => [.ofNat 4 o.c.toNat]
  | .vcmpNe _ o => [.ofNat 4 o.c.toNat]
  | .vfcmpNe _ o => [.ofNat 4 o.c.toNat]
  | .vcmpLt _ o => [.ofNat 4 o.c.toNat]
  | .vfcmpLt _ o => [.ofNat 4 o.c.toNat]
  | .vcmpLe _ o => [.ofNat 4 o.c.toNat]
  | .vfcmpLe _ o => [.ofNat 4 o.c.toNat]
  | .vcmpLo _ o => [.ofNat 4 o.c.toNat]
  | .vcmpLs _ o => [.ofNat 4 o.c.toNat]
  | .vsel _ o => [.ofNat 4 o.c.toNat]
  | .vplogAnd _ o => [.ofNat 4 o.c.toNat, .ofNat 4 (o.c.toNat / 16), .ofNat 4 (o.c.toNat / 256)]
  | .vplogOr _ o => [.ofNat 4 o.c.toNat, .ofNat 4 (o.c.toNat / 16), .ofNat 4 (o.c.toNat / 256)]
  | .vplogXor _ o => [.ofNat 4 o.c.toNat, .ofNat 4 (o.c.toNat / 16), .ofNat 4 (o.c.toNat / 256)]
  | .vplogAndn _ o => [.ofNat 4 o.c.toNat, .ofNat 4 (o.c.toNat / 16), .ofNat 4 (o.c.toNat / 256)]
  | .vmovMaskToV _ o => [.ofNat 4 o.c.toNat]
  | .vmovMaskToP _ o => [.ofNat 4 o.c.toNat]
  | .vaccept _ o => [.ofNat 4 o.c.toNat]
  | .lbr _ _ => stagePreds
  | .vld _ o => [.ofNat 4 (o.c.toNat / 2 ^ 9)]
  | .vldx _ o => [.ofNat 4 (o.c.toNat / 2 ^ 9)]
  | .vldg _ o => [.ofNat 4 (o.c.toNat / 2 ^ 9)]
  | _ => []

/-- The operand fields of a V word. -/
def Instr.vops? : Instr → Option VOps
  | .vadd _ o | .vsub _ o | .vmul _ o | .vmulh _ o | .vmin _ o | .vmax _ o | .vabs _ o | .vneg _ o => some o
  | .vand _ o | .vor _ o | .vxor _ o | .vshl _ o | .vshr _ o | .vsar _ o | .vfadd _ o | .vfsub _ o => some o
  | .vfmul _ o | .vfma _ o | .vfmin _ o | .vfmax _ o | .vfabs _ o | .vfneg _ o | .vcmpEq _ o | .vcmpNe _ o => some o
  | .vcmpLt _ o | .vcmpLe _ o | .vcmpLo _ o | .vcmpLs _ o | .vfcmpEq _ o | .vfcmpNe _ o | .vfcmpLt _ o | .vfcmpLe _ o => some o
  | .vsel _ o | .vplogAnd _ o | .vplogOr _ o | .vplogXor _ o | .vplogAndn _ o | .vcvt _ o | .vamax _ o | .vqcvt _ o => some o
  | .vexp2 _ o | .vlog2 _ o | .vrcp _ o | .vrsqrt _ o | .vredadd _ o | .vredmax _ o | .vredmin _ o | .vperm _ o => some o
  | .vbcast _ o | .vbcastScalar _ o | .vslide _ o | .vbext _ o | .vfunnel _ o | .vpopc _ o | .vclz _ o | .vmov _ o => some o
  | .vmovMaskToV _ o | .vmovMaskToP _ o | .vgets _ o | .vsets _ o | .vld _ o | .vldx _ o | .vst _ o | .vstx _ o => some o
  | .vldg _ o | .vstg _ o | .vbadd _ o | .vbmul _ o | .vbmax _ o | .vaccept _ o => some o
  | _ => none

end Sys2Proof

namespace Sys2Proof.Machine

open Sys2Proof

/-- Vector names a V word reads or writes, effective; pairs and two-register blocks in full (R173, R178). -/
def vnamesOf (x : Cl) (i : Instr) : List Nat :=
  match i.vops? with
  | none => []
  | some o =>
    let l := [o.dn x, o.an x, o.bn x] ++ (match i with | .vfma _ _ => [o.cn x] | _ => [])
    if o.w2 then l ++ [partner o.ds.toNat (o.dn x), partner o.as.toNat (o.an x), partner o.bs.toNat (o.bn x)]
      ++ (match i with | .vfma _ _ => [partner (bits o.c.toNat 14 12) (o.cn x)] | _ => [])
    else match i with
      | .vamax _ _ | .vqcvt _ _ => l ++ [nextName (o.an x)]
      | _ => l

/-- Scalar registers of a cluster that a result still on its way will write (R43, R48). -/
def pendSregs (k : Core) (c : Cluster) : List Reg :=
  let x := k.cl c
  (x.loadQ.flatMap fun e => match e.kind with
    | .ld _ _ _ d _ _ => [d] | .dgld _ _ d => [d, d + 1] | .dgq _ _ _ _ d => [d] | _ => [])
  ++ (x.storeQ.flatMap fun e => match e.kind with
    | .amo _ _ m d _ _ => if m.res then [d] else [] | .binit _ _ d _ => [d] | .barv _ _ d _ => [d] | _ => [])
  ++ x.rets.map (·.d)
  ++ (match c with
    | .T => (k.tq.flatMap fun e => match e.kind with | .twinGet _ a b => [a, b] | _ => [])
        ++ (k.xq.flatMap fun q => q.2.flatMap fun e => match e.kind with | .xstat _ d _ _ => [d] | _ => [])
    | _ => [])

/-- Predicates that a load still on its way will write. -/
def pendPreds (x : Cl) : List Pred :=
  x.loadQ.flatMap fun e => match e.kind with
    | .ld _ _ _ _ pp pd => if pp then [pd] else []
    | .vldg _ _ _ _ _ pd _ => if pd == 0 then [] else [pd]
    | _ => []

/-- Vector registers that a vldg or an xmvm still on its way will write (R231). -/
def pendVregs (k : Core) : List Nat :=
  (k.v.loadQ.flatMap fun e => match e.kind with | .vldg _ _ _ d _ _ _ => [d] | _ => [])
  ++ (k.xq.flatMap fun q => q.2.flatMap fun e => match e.kind with
    | .xmvm d _ _ _ _ _ | .xmvmRun d _ _ _ => (List.range 8).map fun j => d + j | _ => [])

/-! Exit branches (R153). -/

/-- The address lies within START to END of an entry. -/
def LoopEnt.holds (e : LoopEnt) (a : VAddr) : Bool := decide (e.startA ≤ a) && decide (a ≤ e.endA)

/-- A branch from `x.pc` to `t` leaves the top entry's range (R153). -/
def Cl.exits (x : Cl) (t : VAddr) : Bool :=
  match x.loops with
  | e :: _ => e.holds x.pc && !e.holds t
  | [] => false

/-- brp is taken when the predicate equals 1 xor the sense (R145). -/
def brpTaken (x : Cl) (sense : Bool) (p : Pred) : Bool := x.pbit p != sense

/-- A word writes the stage predicates: a loop that pushes, and an exit branch (R149, R153). -/
def writesStages (c : Cluster) (x : Cl) (i : Instr) : Bool :=
  match i with
  | .loop _ r _ => (x.reg r).toNat % 2 ^ 32 != 0
  | .br h f => x.exits (pcPlus c x.pc (offB h f))
  | .brp h sense p f => brpTaken x sense p && x.exits (pcPlus c x.pc (offB h f))
  | .jmp _ a | .ret _ a => x.exits ((x.reg a).setWidth 48)
  | _ => false

/-- The predicates a word of a cluster names, its guard among them. -/
def predsOf (c : Cluster) (x : Cl) (i : Instr) : List Pred :=
  (match i.hdr? with | some h => if h.e then [h.g] else [] | none => []) ++ i.preds ++ (if writesStages c x i then stagePreds else [])

/-- The vector names a word of a cluster names. -/
def vnames (c : Cluster) (x : Cl) (i : Instr) : List Nat := if c == .V then vnamesOf x i else []

/-- In scoreboard mode a word waits for the registers it names (R48, R139, R231). A latch of port 7 waits for every vldg. -/
def regsWait (k : Core) (c : Cluster) (i : Instr) : Bool :=
  let x := k.cl c
  !x.exposed &&
    ((i.sregs.any fun r => r != 0 && (pendSregs k c).contains r)
    || ((predsOf c x i).any fun p => p != 0 && (pendPreds x).contains p)
    || ((vnames c x i).any fun n => (pendVregs k).contains n
          || (632 ≤ n && n < 640 && x.loadQ.any fun e => match e.kind with | .vldg _ _ _ _ _ _ _ => true | _ => false)))

/-! Results in flight that a word of scoreboard mode waits for (R48, R139, R171, R191; log 6). -/

/-- The result ports that a word's results may enter, whose latches they enter in issue order (R170, R171). -/
def resultPorts : Instr → List Nat
  | .vadd _ _ | .vsub _ _ | .vmul _ _ | .vmulh _ _ | .vmin _ _ | .vmax _ _ | .vabs _ _ | .vneg _ _ | .vand _ _ | .vor _ _ | .vxor _ _
  | .vshl _ _ | .vshr _ _ | .vsar _ _ | .vsel _ _ | .vbext _ _ | .vfunnel _ _ | .vpopc _ _ | .vclz _ _ | .vmov _ _ | .vmovMaskToV _ _ | .vsets _ _
  | .vbmax _ _ | .vaccept _ _ => [0, 1]
  | .vfadd _ _ | .vfsub _ _ | .vfmul _ _ | .vfma _ _ | .vfmin _ _ | .vfmax _ _ | .vfabs _ _ | .vfneg _ _ | .vbadd _ _ | .vbmul _ _ => [2, 3]
  | .vexp2 _ _ | .vlog2 _ _ | .vrcp _ _ | .vrsqrt _ _ => [4]
  | .vcvt _ _ | .vamax _ _ | .vqcvt _ _ => [5]
  | .vredadd _ _ | .vredmax _ _ | .vredmin _ _ | .vperm _ _ | .vbcast _ _ | .vbcastScalar _ _ | .vslide _ _ => [6]
  | .vld _ _ | .vldx _ _ | .vldg _ _ => [7]
  | _ => []

/-- The handle registers that a word names (R241). -/
def handlesOf : Instr → List Reg
  | .xlat _ d _ _ => [d]
  | .ld _ _ a _ m | .st _ _ a _ m => if m.sp then [a] else []
  | .amo _ _ a _ _ | .red _ _ a _ _ | .dgld _ _ a _ _ _ | .dgq _ _ a _ _ _ _ _ | .dgseal _ a _ _ _ | .cflush _ _ a _ _ _ | .cinv _ _ a _ _ _ => [a]
  | .pmig _ _ a _ | .pmigAbort _ _ a | .pheat _ _ a => [a]
  | .vldg _ o | .vstg _ o => [.ofNat 5 (o.c.toNat / 2 ^ 15)]
  | _ => []

/-- A word waits for a result in flight: it names its register or a latch of its port, it would overtake it in the latch, or it may meet a tile
    whose owner is changing. -/
def meets (c : Cluster) (x : Cl) (i : Instr) : RegVal → Bool
  | .sreg r _ => r != 0 && i.sregs.contains r
  | .pred p _ _ => p != 0 && (predsOf c x i).contains p
  | .vreg n _ _ _ _ _ port => (vnames c x i).contains n || (match port with
    | some p => (vnames c x i).any (fun m => decide (576 + 8 * p ≤ m ∧ m < 584 + 8 * p)) || (resultPorts i).contains p
    | none => false)
  | .own _ _ _ => true
  | .handle r _ => (handlesOf i).contains r
  | .flags _ => (match i with | .getc _ _ _ | .setc _ _ _ => true | _ => false)
  | .payload d _ => (match i with | .tkwr _ _ e => e == d | _ => false)
  | .sp _ _ | .pushes _ | .storePushes _ => false

/-- The address and length of each scratchpad read of a word (R186, R187, R243, R252, R311). -/
def spReads (k : Core) (c : Cluster) (i : Instr) : List (Nat × Nat) :=
  let x := k.cl c
  let base (o : VOps) : Nat := (x.reg (.ofNat 5 (o.c.toNat / 2 ^ 20)) + BitVec.ofNat 64 (32 * bits o.c.toNat 6 0)).toNat
  match i with
  | .ld _ _ a b m => if m.sp then [] else [((x.reg a + x.reg b + m.off.setWidth 64).toNat, 2 ^ m.wd.toNat)]
  | .vld _ o => [(base o, 256 / 2 ^ bits o.c.toNat 8 7)]
  | .cpq _ _ _ b | .gath _ _ _ b | .scat _ _ _ b | .qapp _ _ _ b => [((x.reg b).toNat, 64)]
  | .vldx _ o => (List.range 64).map fun l => ((base o + ((k.vname (o.an x)).val >>> (32 * l)).toNat % 2 ^ 32) % 2 ^ 64, 4)
  | _ => []

/-- A load waits for a store in flight that touches its bytes (R191). -/
def meetsStore (k : Core) (c : Cluster) (i : Instr) : RegVal → Bool
  | .sp a bs => (spReads k c i).any fun r => decide (r.1 < a + bs.length ∧ a < r.1 + r.2)
  | _ => false

/-- The last issue cycle of the results in flight that satisfy `p`, or `n`. -/
def Cl.dueBy (x : Cl) (n : Nat) (p : RegVal → Bool) : Nat := ((x.flight.filter fun f => p f.what).map (·.due)).foldl max n

/-! Counters (R43). -/

end Sys2Proof.Machine

namespace Sys2Proof

open Sys2Proof.Machine

/-- A word that a cluster counts under LD when it issues (R43, R311, R317, R337, R338, R365, R366, R371). -/
def Instr.countsLd : Instr → Bool
  | .ld _ _ _ _ m => m.sp
  | .amo _ _ _ _ m => m.res
  | .vldg _ _ | .dgld _ _ _ _ _ _ | .dgq _ _ _ _ _ _ _ _ | .cway _ _ _ _ _ | .lpatch _ _ _ _ _ | .larm _ _ _ | .qapp _ _ _ _
  | .binit _ _ _ _ _ | .barv _ _ _ _ | .pmig _ _ _ _ | .pmigAbort _ _ _ | .pheat _ _ _ | .lstat _ _ _ => true
  | _ => false

/-- A word that a cluster counts under ST (R43, R163, R247, R263, R264, R351). -/
def Instr.countsSt : Instr → Bool
  | .st _ _ _ _ m => m.sp
  | .amo _ _ _ _ m => !m.res
  | .red _ _ _ _ _ | .vstg _ _ | .dgseal _ _ _ _ _ | .cflush _ _ _ _ _ _ | .cinv _ _ _ _ _ _ | .release _ _ | .signal _ _ _ _ _
  | .tinv _ _ _ | .tinvAll _ => true
  | _ => false

/-- A word that enters the tile-step queue or a pair queue (R194, R225). -/
def Instr.countsTs (i : Instr) : Bool := i.kind == .tensor

/-- Words whose effect is made at issue after a release, and that wait for the cluster's queues to be empty (R247; log 16). -/
def Instr.afterStores : Instr → Bool
  | .qapp _ _ _ _ | .lpatch _ _ _ _ _ | .larm _ _ _ | .tinv _ _ _ | .tinvAll _ => true
  | _ => false

/-- A global access, which a phase in progress holds at issue (R85). -/
def Instr.global (i : Instr) : Bool :=
  match i with
  | .signal _ _ _ _ _ | .release _ _ => false
  | .acquire _ _ => true
  | i => i.countsLd || i.countsSt

/-- Commit points besides the task-level instructions: atomics of uses other than speculative, and the words that R40, R311, R317
    and R338 name. -/
def Instr.commitPoint : Instr → Bool
  | .amo _ _ _ _ m => m.use != 4
  | .barv _ _ _ _ | .lpatch _ _ _ _ _ | .larm _ _ _ | .qapp _ _ _ _ => true
  | _ => false

/-- The push bits of a header as K[1:0] (R116). -/
def Hdr.pushes (h : Hdr) : BitVec 2 := h.k.setWidth 2

end Sys2Proof

namespace Sys2Proof.Machine

open Sys2Proof

/-- A word of the cluster that cannot retire holds every later word in exposed mode, and in scoreboard mode those that wait for its results
    (R45, R48, R49; log 22). -/
def retireHeld (c : Cluster) (x : Cl) (i : Instr) : Bool :=
  x.flight.any fun f => f.need != 0 && decide (f.due ≤ x.icyc) && (x.exposed || meets c x i f.what)

/-- Every FIFO that the word pops holds an entry (R45). -/
def popReady (k : Core) (c : Cluster) (h : Hdr) : Bool :=
  (!h.k.getLsbD 3 || !(k.fifoFrom c .left).isEmpty) && (!h.k.getLsbD 2 || !(k.fifoFrom c .right).isEmpty)

/-- The tiles that ownw names are all THREAD (R251). -/
def tilesThread (k : Core) (first n : Nat) : Bool := (List.range n).all fun i => k.owner' (first + i) == ownThread

/-- A T word whose entry joins the tile-step queue at once; those of mnset and mgo may wait behind a nest (R194, R215). -/
def entersQueue : Instr → Bool
  | .mnset _ _ _ _ | .mgo _ _ _ _ => false
  | .xprog _ _ _ _ _ | .xverify _ _ _ _ _ | .xcal _ _ _ | .xmvm _ _ _ _ _ _ _ _ _ | .xstat _ _ _ _ _ | .xerase _ _ _ => false
  | i => i.countsTs

/-- Words that a versioned kernel holds in its version (R40). -/
def joinsVersion : Instr → Bool
  | .st _ _ _ _ m => m.sp
  | .vstg _ _ | .red _ _ _ _ _ => true
  | .amo _ _ _ _ m => m.use == 4
  | _ => false

/-- Copy commands and fills that a word adds to CP (R43). -/
def cpDemand : Instr → Nat
  | .cpq _ _ _ _ | .gath _ _ _ _ | .scat _ _ _ _ | .mwldWindow _ _ _ _ _ | .mwldRange _ _ _ _ _ _ => 1
  | .cptail _ _ _ n => n.toNat
  | _ => 0

/-- What a word's own body waits for at issue, when its guard is true. An update of a version waits for the cluster's earlier
    loads, so that none of them sees it (R40, R246; log 30). -/
def bodyWaits (s : State) (k : Core) (c : Cluster) (i : Instr) : Bool :=
  let x := k.cl c
  (i.countsLd && decide (x.ldCount ≥ 64)) || (i.countsSt && decide (x.stCount ≥ 64))
    || (i.countsTs && decide (k.tsCount ≥ 32)) || (i.afterStores && !(x.storeQ.isEmpty && x.loadQ.isEmpty))
    || (!k.phaseReq.isEmpty && i.global) || (entersQueue i && !k.nests.isEmpty)
    || (joinsVersion i && !x.loadQ.isEmpty && (match k.task with | some t => t.ver | none => false))
    || (match i with
      | .cwait _ l t cp ts => decide (x.ldCount > l.toNat) || decide (x.stCount > t.toNat) || decide (k.cpCount > cp.toNat) || decide (k.tsCount > ts.toNat)
      | .ownw _ a b =>
        let t := (x.reg a).toNat
        let n := (x.reg b).toNat
        1 ≤ n && t + n ≤ 640 && !tilesThread k t n
      | .cpq _ _ _ _ | .gath _ _ _ _ | .scat _ _ _ _ => decide (k.cpLoad ≥ 255)
      | .cptail _ _ _ n => decide (k.cpLoad + n.toNat > 255)
      | .mgo _ _ _ _ => decide (k.nests.length ≥ 2)
      | .phase _ _ => !k.phaseReq.isEmpty
      | .mwldWindow _ _ _ _ _ | .mwldRange _ _ _ _ _ _ => decide (k.cpLoad ≥ 255)
      | .mark _ => false
      | _ => false)
    || s.power.stopped

end Sys2Proof.Machine
end

