-- ==== Sys2Proof/Machine/Issue.lean ====
section
/-! DEFINITION. Issuing a word: its checks, its stalls, its tokens, its guard, its body, and its retirement (R45 to R49, R119,
    R131, R150, R296). Every word of the four streams issues through `State.issueWord`. -/

namespace Sys2Proof

/-- The issue cycle, counted from a word's own, from which its result or push is seen (R45, R139, R170, R241, R244, R252): a
    scratchpad store acts at the end of its second cycle on, so from the third (R191). -/
def Instr.latency : Instr → Nat
  | .getc _ _ _ => 2
  | .mul _ _ _ _ | .mulhs _ _ _ _ | .mulhn _ _ _ _ => 4
  | .divs _ _ _ _ | .divn _ _ _ _ | .rems _ _ _ _ | .remn _ _ _ _ => 24
  | .ld _ _ _ _ _ => 3
  | .st _ _ _ _ m => if m.sp then 1 else 3
  | .xlat _ _ _ _ => 6
  | .cpq _ _ _ _ | .gath _ _ _ _ | .scat _ _ _ _ | .cptail _ _ _ _ => 4
  | .vmul _ _ | .vmulh _ _ => 3
  | .vfadd _ _ | .vfsub _ _ | .vfmul _ _ | .vfma _ _ => 4
  | .vfmin _ _ | .vfmax _ _ | .vfabs _ _ | .vfneg _ _ => 2
  | .vcvt _ _ => 3
  | .vamax _ _ | .vqcvt _ _ => 4
  | .vexp2 _ _ | .vlog2 _ _ | .vrcp _ _ | .vrsqrt _ _ => 8
  | .vredadd _ _ | .vredmax _ _ | .vredmin _ _ => 6
  | .vperm _ _ => 3
  | .vbcast _ _ | .vbcastScalar _ _ | .vslide _ _ => 2
  | .vbext _ _ | .vfunnel _ _ | .vpopc _ _ | .vclz _ _ => 2
  | .vgets _ _ => 2
  | .vld _ _ => 6
  | .vldx _ _ => 10
  | .vst _ _ | .vstx _ _ => 3
  | .vbadd _ _ | .vbmul _ _ => 4
  | .vaccept _ _ => 2
  | _ => 1

/-- Words that push when a result returns, a queue entry acts, all four copies act or an owner is set, and not at a fixed latency (R45, R160, R247, R275). -/
def Instr.pushesLater : Instr → Bool
  | .ld _ _ _ _ m => m.sp
  | .amo _ _ _ _ m => m.res
  | .vldg _ _ | .dgld _ _ _ _ _ _ | .dgq _ _ _ _ _ _ _ _ | .mark _ | .release _ _ | .acquire _ _ => true
  | .binit _ _ _ _ _ | .barv _ _ _ _ | .cway _ _ _ _ _ | .qapp _ _ _ _ | .lpatch _ _ _ _ _ | .larm _ _ _ => true
  | .eret _ | .owng _ _ _ _ => true
  | .pmig _ _ _ _ | .pmigAbort _ _ _ | .pheat _ _ _ | .lstat _ _ _ | .twinGet _ _ _ _ | .xstat _ _ _ _ _ => true
  | _ => false

/-- Words that retire with a write of scratchpad, which stands at the end of a later cycle in either mode (R191). -/
def Instr.late : Instr → Bool
  | .st _ _ _ _ m => !m.sp
  | .vst _ _ | .vstx _ _ => true
  | _ => false

/-- Words whose body sets the PC: branches and loop words, and the words that stay where they are until an event acts on
    them (task-level copies, eret, phase and lmode: R32, R50, R85, R160). -/
def Instr.stays : Instr → Bool
  | .eret _ | .phase _ _ | .lmode _ _ => true
  | .br _ _ | .brp _ _ _ _ | .jmp _ _ | .call _ _ _ | .ret _ _ | .loop _ _ _ | .lbr _ _ => true
  | i => i.taskLevel

end Sys2Proof

namespace Sys2Proof.Machine

open Sys2Proof

/-- The bytes of a word and its literal as R299 records them. -/
def wordImage (c : Cluster) (i : Instr) : List Byte :=
  let w := encode c i
  toBytes 24 (w.getD 0 0) ++ toBytes 24 (w.getD 1 0)

/-- The issuing cluster can issue: a task runs on its core, nothing has stopped it, and it waits at no word. -/
def State.canIssue (s : State) : Bool :=
  let k := s.mine
  let x := k.cl s.curCl
  k.task.isSome && (s.joint || k.trap.isNone) && !k.halted && x.wait.isNone && !x.stopped && !s.power.stopped

/-- The misuse of the loop engine that is seen at issue, whatever the guard: a word at END that is no lbr, or an lbr elsewhere (R119, R150). -/
def loopMisuse (c : Cluster) (x : Cl) (i : Instr) : Bool :=
  match i with
  | .lbr h f =>
    match x.loops with
    | [] => true
    | e :: _ => x.pc != e.endA || pcPlus c x.pc (offB h f) != e.startA
  | _ =>
    match x.loops with
    | [] => false
    | e :: _ => x.pc == e.endA

/-- The checks of the table of R131 on a word that decodes. -/
def tableBad (x : Cl) (i : Instr) : Option Bad :=
  match i.check with
  | some b => some b
  | none => if x.exposed && i.varTime then some (.illop 0x0B) else none

/-- The checks of R131 at issue: the table, then the copies of R32 and the loop engine. -/
def issueBad (c : Cluster) (x : Cl) (i : Instr) : Option Bad :=
  match tableBad x i with
  | some b => some b
  | none =>
    if i.taskLevel && c != .A && !i.plainCopy then some (.illop 0x0A)
    else if loopMisuse c x i then some (.illop 0x0D)
    else none

/-- A trap of a cluster of the issuing core: recorded, and entered at once if nothing is outstanding; in a bundle `step` enters
    it once every word of the bundle has issued (R296). -/
def State.trapHere (s : State) (c : Cluster) (cause : Cause) (pc : VAddr) (info : Word) (operand : List Byte) : State :=
  let t := s.markTrap s.me c cause pc info operand
  if s.joint then t else t.settle s.me

/-- A malformed word (R131): the PC stays on it and the sub-code goes to TRAP_INFO. -/
def State.trapBad (s : State) (b : Bad) (image : List Byte) : State :=
  match b with
  | .illop n => s.trapHere s.curCl .illop s.myCl.pc (n.setWidth 64) image
  | .illtype => s.trapHere s.curCl .illtype s.myCl.pc 0 image

/-- Issue cycles pass up to the `n`-th: results due are written, and the waits their writes may satisfy are evaluated (R49, R191). -/
def State.tickTo (s : State) (n : Nat) : State :=
  let s := s.upMine fun k => k.upCl s.curCl fun x => { x with icyc := n }
  if s.myCl.flight.isEmpty then s else (s.upMine fun k => k.commitBy s.curCl n).recheck s.me

/-- The issue cycle of a word: the next, or in scoreboard mode the one by which the results in flight that it waits for are written (R48, R49). -/
def State.tick (s : State) (i : Instr) : State :=
  let c := s.curCl
  let x := s.myCl
  if x.exposed || x.flight.isEmpty then s.tickTo (x.icyc + 1) else
  let t := s.tickTo (x.dueBy (x.icyc + 1) (meets c x i))
  t.tickTo (t.myCl.dueBy t.myCl.icyc (meetsStore t.mine c i))

/-- Every result in flight of the issuing cluster is written. -/
def State.drainCl (s : State) : State :=
  if s.myCl.flight.isEmpty then s else (s.upMine fun k => k.commitCl s.curCl).recheck s.me

/-- The cluster stands still: the cycle that `tick` has counted is no issue cycle (R49). -/
def State.stand (s : State) : State := s.upMyCl fun x => { x with icyc := x.icyc - 1 }

/-- A stall: what is in flight advances no further in exposed mode; in scoreboard mode all but what stands after an issue cycle does
    (R48, R49, R191; log 6). -/
def State.stall (s : State) : State :=
  let t := s.stand
  if t.myCl.exposed || t.myCl.flight.isEmpty then t else (t.upMine fun k => k.commitWhere t.curCl fun v => !v.frozen).recheck t.me

/-- What stalls a word whose checks have passed, other than a register (R43, R45, R155, R251). -/
def State.stalls (s : State) (i : Instr) : Bool :=
  let k := s.mine
  let c := s.curCl
  retireHeld c (k.cl c) i
    || (guardTrue (k.cl c) i && ((match i.hdr? with | some h => !popReady k c h | none => false) || bodyWaits s k c i))

/-- What holds a word whose checks have passed (R43, R45, R48, R155, R251). -/
def State.holds (s : State) (i : Instr) : Bool := regsWait s.mine s.curCl i || s.stalls i

/-- A held word: while it waits for a register that a load or a queued operation writes, issue cycles pass, and what is in flight is written;
    any other hold is a stall (R48, R49; log 6). -/
def State.holdBack (s : State) (i : Instr) : State := if regsWait s.mine s.curCl i then s.stand.drainCl else s.stall

/-- The word is a loop that would push onto a full stack: ILLOP 0x0D at issue, once its count is known (R131, R148). -/
def State.fullPush (s : State) (i : Instr) : Bool :=
  let x := s.myCl
  match i with
  | .loop _ c _ => decide (x.loops.length ≥ 4) && (x.reg c).toNat % 2 ^ 32 != 0 && !regsWait s.mine s.curCl i
  | _ => false

/-- A pop in one direction, remembered until the word retires (R45, R296). -/
def Core.popNoted (k : Core) (c : Cluster) (d : Dir) : Core :=
  match k.fifoFrom c d with
  | [] => k
  | e :: _ =>
    let old := match d with | .left => (k.cl c).inL | .right => (k.cl c).inR
    (k.pop c d).upCl c fun x => { x with popped := x.popped ++ [(d, e, old)] }

/-- The pops of a header (R45, R116). -/
def Core.pops (k : Core) (c : Cluster) (h : Hdr) : Core :=
  let k := k.upCl c fun x => { x with popped := [] }
  let k := if h.k.getLsbD 3 then k.popNoted c .left else k
  if h.k.getLsbD 2 then k.popNoted c .right else k

/-- The pops of a word. -/
def State.popsOf (s : State) (i : Instr) : State :=
  match i.hdr? with
  | some h => s.upMine fun k => k.pops s.curCl h
  | none => s

/-- The PC moves past the word (R113, R115). -/
def State.advance (s : State) (i : Instr) : State := s.upMyCl fun x => { x with pc := pcPlus s.curCl x.pc i.words }

/-- The pushes that a word makes when it retires; none of a word that pushes later (R45). -/
def pushesOf (i : Instr) : BitVec 2 := if i.pushesLater then 0 else match i.hdr? with | some h => h.pushes | none => 0

/-- A word that has acted retires: its pops stand, and it pushes unless an entry of a queue holds its pushes (R45). A word that
    waits where it stands does neither yet; a cluster that stops at a point stands still (R51). -/
def State.retire (s : State) (i : Instr) : State :=
  let s := s.upMyCl fun x => { x with need := 0 }
  if s.myCl.wait.isSome then s else
  let s := (s.upMyCl fun x => { x with popped := [] }).upMine fun k => k.pushAfter s.curCl i.late i.latency (pushesOf i)
  if s.myCl.stopped then s.drainCl else s

/-- The body of a word performed: the PC moves on first, unless the body sets it. -/
def State.perform (s : State) (i : Instr) (body : State → Eff) : State :=
  let pc := s.myCl.pc
  let t := if i.stays then s else s.advance i
  match body (t.upMyCl fun x => { x with need := pushesOf i }) with
  | .ok u => u.retire i
  | .trap cause info operand => s.trapHere s.curCl cause pc info operand
  | .trapNext u cause info => (u.retire i).trapHere s.curCl cause (pcPlus s.curCl pc i.words) info []

/-- A word issues: a malformed word traps; a held word stands where it is; a word whose guard is false only passes
    (an lbr still acts on the loop stack, R150); any other pops, acts and retires. -/
def State.issueWord (s : State) (i : Instr) (body : State → Eff) : State :=
  if !s.canIssue then s else
  match issueBad s.curCl s.myCl i with
  | some b => s.trapBad b (wordImage s.curCl i)
  | none =>
    let t := if s.joint then s else s.tick i
    if t.fullPush i then s.trapBad (.illop 0x0D) (wordImage s.curCl i)
    else if !s.joint && t.holds i then t.holdBack i
    else if guardTrue t.myCl i then (if s.joint then t else t.popsOf i).perform i body
    else match i with
      | .lbr _ _ => (match body t with | .ok u => u | _ => t)
      | _ => t.advance i

/-- An arm of `exec` for a word. -/
def issue (s : State) (i : Instr) (body : State → Eff) : Out := .next (s.issueWord i body)

/-! What bodies share. -/

/-- A scalar result (R139). -/
def State.put (s : State) (lat : Nat) (d : Reg) (v : Word) : Eff := .ok (s.deliver lat (.sreg d v))

/-- A predicate result: the single bit, or all lanes in V (R13, R143). -/
def State.putPred (s : State) (lat : Nat) (p : Pred) (b : Bool) : State := s.deliver lat (.pred p (predLanes s.curCl) (spread b))

/-- ILLTYPE raised when the word executes, for a bounded source or destination (R79, R168). -/
def illtypeNow (s : State) (i : Instr) : Eff := .trap .illtype 0 (wordImage s.curCl i)

/-- PRIV for a control register `r`: the literal area names it (R299). -/
def privReg (s : State) (i : Instr) (r : BitVec 10) : Eff :=
  .trap .priv 0 (toBytes 24 ((encode s.curCl i).getD 0 0) ++ toBytes 24 r.toNat)

/-- PRIV of a word that is not allowed here. -/
def privNow (s : State) (i : Instr) : Eff := .trap .priv 0 (wordImage s.curCl i)

/-- ALIGN of a local address or page offset (R299). -/
def alignTrap (a : Nat) : Eff := .trap .align 0 (operandAddr (a % 2 ^ 64) 0)

/-- The word waits where it stands until an event acts on it; meanwhile the results in flight are written, but behind an lmode (R49, R50;
    log 6). -/
def State.waitHere (s : State) (i : Instr) : State :=
  (match i with | .lmode _ _ => s | _ => s.drainCl).upMyCl fun x => { x with wait := some i }

/-- `n` issue cycles pass after a taken branch (R147). -/
def State.bubble (s : State) (n : Nat) : State := s.tickTo (s.myCl.icyc + n)

/-- Bytes stored to the core's scratchpad by the issuing cluster: at the end of the second issue cycle on, so that words from the third on
    see them, in either mode; the waits on them are evaluated when they are written (R162, R191, R244). -/
def State.spStore (s : State) (a : Nat) (bs : List (Option Byte)) : State := s.deliverLate 3 (.sp a bs)

end Sys2Proof.Machine
end

