-- ==== Sys2Proof/Machine/Scalar.lean ====
section
/-! DEFINITION. The scalar bodies: arithmetic, literals, compares, branches, the loop engine, tokens and control registers
    (R138 to R157, R166). -/

namespace Sys2Proof.Machine

open Sys2Proof

/-! Register arithmetic (R138, R139). -/

/-- The signed quotient of R64. -/
def quotS (a b : Word) : Word := if b = 0 then BitVec.allOnes 64 else a.sdiv b
/-- The unsigned quotient. -/
def quotN (a b : Word) : Word := if b = 0 then BitVec.allOnes 64 else a / b
/-- The signed remainder: it takes the dividend's sign. -/
def remS (a b : Word) : Word := if b = 0 then a else a.srem b
/-- The unsigned remainder. -/
def remN (a b : Word) : Word := if b = 0 then a else a % b
/-- Bits [127:64] of the signed product. -/
def mulHighS (a b : Word) : Word := ((a.signExtend 128 * b.signExtend 128) >>> 64).setWidth 64
/-- Bits [127:64] of the unsigned product. -/
def mulHighN (a b : Word) : Word := ((a.setWidth 128 * b.setWidth 128) >>> 64).setWidth 64
/-- A shift count: bits [5:0] of a register. -/
def count6 (b : Word) : Nat := b.toNat % 64

/-- A body that computes d from a and b: its result after `lat` issue cycles (R138, R139). -/
def alu (f : Word → Word → Word) (lat : Nat) (d a b : Reg) (s : State) : Eff := s.put lat d (f (s.reg a) (s.reg b))

/-- add: R138. -/
def execAdd (h : Hdr) (d a b : Reg) (s : State) : Out := issue s (.add h d a b) (alu (fun a b => a + b) 1 d a b)

/-- sub: R138. -/
def execSub (h : Hdr) (d a b : Reg) (s : State) : Out := issue s (.sub h d a b) (alu (fun a b => a - b) 1 d a b)

/-- and: R138. -/
def execAnd (h : Hdr) (d a b : Reg) (s : State) : Out := issue s (.and h d a b) (alu (fun a b => a &&& b) 1 d a b)

/-- or: R138. -/
def execOr (h : Hdr) (d a b : Reg) (s : State) : Out := issue s (.or h d a b) (alu (fun a b => a ||| b) 1 d a b)

/-- xor: R138. -/
def execXor (h : Hdr) (d a b : Reg) (s : State) : Out := issue s (.xor h d a b) (alu (fun a b => a ^^^ b) 1 d a b)

/-- shl: R138. -/
def execShl (h : Hdr) (d a b : Reg) (s : State) : Out := issue s (.shl h d a b) (alu (fun a b => a <<< count6 b) 1 d a b)

/-- shr: R138. -/
def execShr (h : Hdr) (d a b : Reg) (s : State) : Out := issue s (.shr h d a b) (alu (fun a b => a >>> count6 b) 1 d a b)

/-- sar: R138. -/
def execSar (h : Hdr) (d a b : Reg) (s : State) : Out := issue s (.sar h d a b) (alu (fun a b => a.sshiftRight (count6 b)) 1 d a b)

/-- mul: R138. -/
def execMul (h : Hdr) (d a b : Reg) (s : State) : Out := issue s (.mul h d a b) (alu (fun a b => a * b) 4 d a b)

/-- mulhs: R138. -/
def execMulhs (h : Hdr) (d a b : Reg) (s : State) : Out := issue s (.mulhs h d a b) (alu (fun a b => mulHighS a b) 4 d a b)

/-- mulhn: R138. -/
def execMulhn (h : Hdr) (d a b : Reg) (s : State) : Out := issue s (.mulhn h d a b) (alu (fun a b => mulHighN a b) 4 d a b)

/-- divs: R138. -/
def execDivs (h : Hdr) (d a b : Reg) (s : State) : Out := issue s (.divs h d a b) (alu (fun a b => quotS a b) 24 d a b)

/-- divn: R138. -/
def execDivn (h : Hdr) (d a b : Reg) (s : State) : Out := issue s (.divn h d a b) (alu (fun a b => quotN a b) 24 d a b)

/-- rems: R138. -/
def execRems (h : Hdr) (d a b : Reg) (s : State) : Out := issue s (.rems h d a b) (alu (fun a b => remS a b) 24 d a b)

/-- remn: R138. -/
def execRemn (h : Hdr) (d a b : Reg) (s : State) : Out := issue s (.remn h d a b) (alu (fun a b => remN a b) 24 d a b)

/-- min: R138. -/
def execMin (h : Hdr) (d a b : Reg) (s : State) : Out := issue s (.min h d a b) (alu (fun a b => if a.slt b then a else b) 1 d a b)

/-- max: R138. -/
def execMax (h : Hdr) (d a b : Reg) (s : State) : Out := issue s (.max h d a b) (alu (fun a b => if a.slt b then b else a) 1 d a b)

/-! Immediates, literals and select (R140 to R142). -/

/-- A body that computes d from a and an immediate. -/
def aluI (f : Word → Word) (d a : Reg) (s : State) : Eff := s.put 1 d (f (s.reg a))

/-- addi: R140. -/
def execAddi (h : Hdr) (d a : Reg) (k : BitVec 5) (s : State) : Out := issue s (.addi h d a k) (aluI (fun a => a + immI h k) d a)

/-- andi: R140. -/
def execAndi (h : Hdr) (d a : Reg) (k : BitVec 5) (s : State) : Out := issue s (.andi h d a k) (aluI (fun a => a &&& immI h k) d a)

/-- ori: R140. -/
def execOri (h : Hdr) (d a : Reg) (k : BitVec 5) (s : State) : Out := issue s (.ori h d a k) (aluI (fun a => a ||| immI h k) d a)

/-- shli: R140. -/
def execShli (h : Hdr) (d a : Reg) (k : BitVec 5) (s : State) : Out := issue s (.shli h d a k) (aluI (fun a => a <<< shiftCount h k) d a)

/-- shri: R140. -/
def execShri (h : Hdr) (d a : Reg) (k : BitVec 5) (s : State) : Out := issue s (.shri h d a k) (aluI (fun a => a >>> shiftCount h k) d a)

/-- sari: R140. -/
def execSari (h : Hdr) (d a : Reg) (k : BitVec 5) (s : State) : Out := issue s (.sari h d a k) (aluI (fun a => a.sshiftRight (shiftCount h k)) d a)

/-- The value limm writes: the literal sign-extended, or in the upper half over the old lower half (R141). -/
def limmValue (hi : Bool) (old : Word) (lit : BitVec 32) : Word := if hi then lit ++ old.setWidth 32 else lit.signExtend 64

/-- limm: R141. -/
def execLimm (h : Hdr) (d : Reg) (hi : Bool) (lit : BitVec 32) (s : State) : Out :=
  issue s (.limm h d hi lit) fun s => s.put 1 d (limmValue hi (s.reg d) lit)

/-- sel: R142. The predicate and the sense are X[4:1] and X[0], the G and N fields of an unguarded word. -/
def execSel (h : Hdr) (d a b : Reg) (s : State) : Out :=
  issue s (.sel h d a b) fun s => s.put 1 d (if s.myCl.pbit h.g != h.n then s.reg a else s.reg b)

/-! Compares and predicate logic (R143, R144). -/

/-- The four operations of plog and vplog. -/
def plogMask (op : Nat) (a b : Mask) : Mask :=
  match op with
  | 0 => a &&& b
  | 1 => a ||| b
  | 2 => a ^^^ b
  | _ => a &&& ~~~b

/-- plog: R144. -/
def execPlog (h : Hdr) (op : BitVec 2) (pd pa pb : Pred) (s : State) : Out :=
  issue s (.plog h op pd pa pb) fun s =>
    .ok (s.putPred 1 pd ((plogMask op.toNat (spread (s.myCl.pbit pa)) (spread (s.myCl.pbit pb))).getLsbD 0))

/-- cmp.cc (R125, R143). -/
def cmpBody (cc : Nat) (pd : Pred) (a b : Reg) (s : State) : Eff := .ok (s.putPred 1 pd (ccHolds cc (s.reg a) (s.reg b)))

/-- cmpi.cc: the immediate is sign-extended, then compared as cc says (R143). -/
def cmpiBody (cc : Nat) (h : Hdr) (pd : Pred) (a : Reg) (k : BitVec 5) (s : State) : Eff :=
  .ok (s.putPred 1 pd (ccHolds cc (s.reg a) (immI h k)))

/-- cmp.eq: R143. -/
def execCmpEq (h : Hdr) (pd : Pred) (a b : Reg) (s : State) : Out := issue s (.cmpEq h pd a b) (cmpBody 0 pd a b)

/-- cmpi.eq: R143. -/
def execCmpiEq (h : Hdr) (pd : Pred) (a : Reg) (k : BitVec 5) (s : State) : Out := issue s (.cmpiEq h pd a k) (cmpiBody 0 h pd a k)

/-- cmp.ne: R143. -/
def execCmpNe (h : Hdr) (pd : Pred) (a b : Reg) (s : State) : Out := issue s (.cmpNe h pd a b) (cmpBody 1 pd a b)

/-- cmpi.ne: R143. -/
def execCmpiNe (h : Hdr) (pd : Pred) (a : Reg) (k : BitVec 5) (s : State) : Out := issue s (.cmpiNe h pd a k) (cmpiBody 1 h pd a k)

/-- cmp.lt: R143. -/
def execCmpLt (h : Hdr) (pd : Pred) (a b : Reg) (s : State) : Out := issue s (.cmpLt h pd a b) (cmpBody 2 pd a b)

/-- cmpi.lt: R143. -/
def execCmpiLt (h : Hdr) (pd : Pred) (a : Reg) (k : BitVec 5) (s : State) : Out := issue s (.cmpiLt h pd a k) (cmpiBody 2 h pd a k)

/-- cmp.le: R143. -/
def execCmpLe (h : Hdr) (pd : Pred) (a b : Reg) (s : State) : Out := issue s (.cmpLe h pd a b) (cmpBody 3 pd a b)

/-- cmpi.le: R143. -/
def execCmpiLe (h : Hdr) (pd : Pred) (a : Reg) (k : BitVec 5) (s : State) : Out := issue s (.cmpiLe h pd a k) (cmpiBody 3 h pd a k)

/-- cmp.lo: R143. -/
def execCmpLo (h : Hdr) (pd : Pred) (a b : Reg) (s : State) : Out := issue s (.cmpLo h pd a b) (cmpBody 4 pd a b)

/-- cmpi.lo: R143. -/
def execCmpiLo (h : Hdr) (pd : Pred) (a : Reg) (k : BitVec 5) (s : State) : Out := issue s (.cmpiLo h pd a k) (cmpiBody 4 h pd a k)

/-- cmp.ls: R143. -/
def execCmpLs (h : Hdr) (pd : Pred) (a b : Reg) (s : State) : Out := issue s (.cmpLs h pd a b) (cmpBody 5 pd a b)

/-- cmpi.ls: R143. -/
def execCmpiLs (h : Hdr) (pd : Pred) (a : Reg) (k : BitVec 5) (s : State) : Out := issue s (.cmpiLs h pd a k) (cmpiBody 5 h pd a k)

/-! The loop engine (R148 to R153). -/

/-- The start of an iteration: the stage window shifts and p8 takes `b` (R149). -/
def Cl.shiftStages (x : Cl) (c : Cluster) (b : Bool) : Cl :=
  let p := [14, 13, 12, 11, 10, 9, 8].foldl (fun m k => sset 0 m (k + 1) (sget 0 m k)) x.p
  { x with p := sset 0 p 8 (if b then predLanes c else 0) }

/-- The start of an iteration of the top entry `e`, over the entries `r` below it (R149). -/
def Cl.startIter (x : Cl) (c : Cluster) (e : LoopEnt) (r : List LoopEnt) : Cl :=
  if e.rem != 0 then { (x.shiftStages c true) with loops := { e with rem := e.rem - 1 } :: r }
  else { (x.shiftStages c false) with loops := { e with tail := e.tail - 1 } :: r }

/-- The top entry is popped and p8 to p15 are set to 0 (R150, R153). -/
def Cl.popLoop (x : Cl) : Cl := { x.clearStages with loops := x.loops.tail }

/-- A pre-emption point is passed: the watchdog's count restarts (R51, R53). A loop's push and the lbr that ends a loop stand at an iteration
    boundary too, and count as points passed (log 72; DESIGN CHOICE). -/
def State.passPoint (s : State) : State := let n := s.cycle; s.upMyCl fun x => { x with wdogFrom := n }

/-- The entry a loop pushes (R148, R152). -/
def newLoop (startA endA : VAddr) (n : BitVec 32) (stages : Nat) : LoopEnt :=
  { endA := endA, startA := startA, iter := 0, prem := 0, rem := n, rb := 0, tail := .ofNat 3 (stages - 1), stg := .ofNat 3 (stages - 1), st := .run }

/-- loop at its own address: N of 0 continues after END (R148). -/
def loopBody (h : Hdr) (c : Reg) (f : BitVec 10) (s : State) : Eff :=
  let x := s.myCl
  let n : BitVec 32 := (s.reg c).setWidth 32
  let endA := pcPlus s.curCl x.pc f.toNat
  let startA := pcPlus s.curCl x.pc 1
  if n == 0 then .ok (s.upMyCl fun x => { x with pc := pcPlus s.curCl endA 1 })
  else .ok ((s.upMyCl fun x =>
    { (x.clearStages.startIter s.curCl (newLoop startA endA n (h.x % 8 + 1)) x.loops) with pc := startA }).passPoint)

/-- loop: R148. -/
def execLoop (h : Hdr) (c : Reg) (f : BitVec 10) (s : State) : Out := issue s (.loop h c f) (loopBody h c f)

/-- The advance of an lbr (R150). -/
def LoopEnt.advance (e : LoopEnt) : LoopEnt := { e with iter := e.iter + 1, rb := e.rb + 1 }

/-- What a taken-by-guard lbr does with the top entry `e` over `r`, with or without a pre-emption request (R152). A drain that ends with
    no request pending resumes at once (log 38). -/
def Cl.lbrStep (x : Cl) (c : Cluster) (req : Bool) (e : LoopEnt) (r : List LoopEnt) : Cl :=
  let a := e.advance
  let stop (a : LoopEnt) : Cl :=
    let y := { x.clearStages with pc := e.startA }
    if req then { y with loops := { a with st := .stopped } :: r, stopped := true } else y.startIter c { a with st := .run } r
  if e.st == .drain then
    if e.tail != 0 then { (x.startIter c a r) with pc := e.startA }
    else stop { a with iter := a.iter - e.stg.setWidth 32, rb := a.rb - e.stg.setWidth 6, rem := e.prem, prem := 0, tail := e.stg }
  else if e.rem == 0 && e.tail == 0 then { x.clearStages with loops := r, pc := pcPlus c x.pc 1 }
  else if req && e.rem != 0 then
    if e.stg != 0 then { (x.startIter c { a with st := .drain, prem := e.rem, rem := 0 } r) with pc := e.startA }
    else stop { a with prem := 0, tail := 0 }
  else { (x.startIter c a r) with pc := e.startA }

/-- lbr at its own address: a false guard ends the loop (R150); otherwise the table of R152. -/
def lbrBody (h : Hdr) (s : State) : Eff :=
  let x := s.myCl
  let req := s.mine.asked
  let y : Cl := match x.loops with
    | [] => x
    | e :: r => if guardBit x h then x.lbrStep s.curCl req e r else { x.popLoop with pc := pcPlus s.curCl x.pc 1 }
  .ok ((s.upMyCl fun _ => y).passPoint)

/-- lbr: R150. -/
def execLbr (h : Hdr) (f : BitVec 10) (s : State) : Out := issue s (.lbr h f) (lbrBody h)

/-! Branches, calls and returns (R145 to R147, R153). -/

/-- A taken branch: an exit branch pops the top entry, and two issue cycles follow (R147, R153). -/
def State.branch (s : State) (t : VAddr) : State :=
  (s.upMyCl fun x => { (if x.exits t then x.popLoop else x) with pc := t }).bubble 2

/-- br: R145. -/
def execBr (h : Hdr) (f : BitVec 10) (s : State) : Out :=
  issue s (.br h f) fun s => .ok (s.branch (pcPlus s.curCl s.myCl.pc (offB h f)))

/-- brp: R145. -/
def execBrp (h : Hdr) (sense : Bool) (p : Pred) (f : BitVec 10) (s : State) : Out :=
  issue s (.brp h sense p f) fun s =>
    if brpTaken s.myCl sense p then .ok (s.branch (pcPlus s.curCl s.myCl.pc (offB h f))) else .ok (s.advance (.brp h sense p f))

/-- jmp and ret: the address in a register, ALIGN where R114 forbids it (R146; log 27). -/
def jumpTo (a : Word) (s : State) : Eff :=
  if badTarget s.curCl a then alignTrap a.toNat else .ok (s.branch (a.setWidth 48))

/-- jmp: R146. -/
def execJmp (h : Hdr) (a : Reg) (s : State) : Out := issue s (.jmp h a) fun s => jumpTo (s.reg a) s

/-- call: R146; the link is the next word's address, after 1 issue cycle. A call pops no entry (R153). -/
def execCall (h : Hdr) (c : Reg) (f : BitVec 10) (s : State) : Out :=
  issue s (.call h c f) fun s =>
    let x := s.myCl
    let link : Word := (pcPlus s.curCl x.pc 1).setWidth 64
    .ok (((s.deliver 1 (.sreg c link)).upMyCl fun y => { y with pc := pcPlus s.curCl x.pc (offB h f) }).bubble 2)

/-- ret: R146. -/
def execRet (h : Hdr) (a : Reg) (s : State) : Out := issue s (.ret h a) fun s => jumpTo (s.reg a) s

/-! Tokens and counters (R154, R155). -/

/-- The incoming register of a direction. -/
def Cl.incoming (x : Cl) : Dir → Word
  | .left => x.inL | .right => x.inR

/-- tkrd: R154. -/
def execTkrd (h : Hdr) (d : Reg) (dir : Dir) (s : State) : Out := issue s (.tkrd h d dir) fun s => s.put 1 d (s.myCl.incoming dir)

/-- tkwr: R154. -/
def execTkwr (h : Hdr) (a : Reg) (dir : Dir) (s : State) : Out :=
  issue s (.tkwr h a dir) fun s => .ok (s.deliver 1 (.payload dir (s.reg a)))

/-- cwait: R155. Its stall is its whole effect: `bodyWaits` holds it until its limits are met. -/
def execCwait (h : Hdr) (ld st : BitVec 7) (cp : BitVec 8) (ts : BitVec 6) (s : State) : Out := issue s (.cwait h ld st cp ts) .ok

/-- nop: R166. -/
def execNop (h : Hdr) (s : State) : Out := issue s (.nop h) .ok

/-! Control registers (R156, R157). -/

/-- AFLAGS as a cluster reads it: zero in A and S (R61). -/
def Cl.readFlags (x : Cl) (c : Cluster) : Word := match c with | .V | .T => x.aflags.setWidth 64 | _ => 0

/-- FSTEP (R21). -/
def Power.fstep (p : Power) : Word := p.changes ++ (0 : BitVec 24) ++ p.cause ++ p.step

/-- The value getc reads for a control register number (R156); 0 where no register has the number. -/
def State.ctrl (s : State) (r : Nat) : Word :=
  let k := s.mine
  let x := s.myCl
  match r with
  | 0x000 => (match k.task with | some t => t.wid | none => 0)
  | 0x001 => (match k.task with | some t => t.id | none => 0)
  | 0x002 => s.ctxId k.ctxNum
  | 0x003 => .ofNat 64 s.cycle
  | 0x004 => if x.exposed then 1 else 0
  | 0x005 => k.steps.setWidth 64
  | 0x006 => x.readFlags s.curCl
  | 0x007 => k.ocnt s.curCl
  | 0x008 => s.power.fstep
  | 0x009 => k.cslot
  | 0x00A => k.cmask
  | 0x00B => k.seqCp
  | 0x00C => k.seqWs
  | 0x010 => x.trapCause
  | 0x011 => x.trapPc
  | 0x012 => x.trapInfo
  | _ => 0

/-- getc: R156. -/
def execGetc (h : Hdr) (d : Reg) (r : BitVec 10) (s : State) : Out :=
  issue s (.getc h d r) fun s => s.put 2 d (s.ctrl r.toNat)

/-- A register written by setc with its reserved bits left zero, or PRIV (R7, R156). -/
def setcBody (h : Hdr) (a : Reg) (r : BitVec 10) (s : State) : Eff :=
  let v := s.reg a
  let priv := privReg s (.setc h a r) r
  match r.toNat with
  | 0x006 => .ok (match s.curCl with | .V | .T => s.upMyCl fun x => { x with aflags := v.setWidth 8 } | _ => s)
  | 0x009 => .ok (s.upMine fun k => { k with cslot := v &&& 0x3FF000 })
  | 0x00A => .ok (s.upMine fun k => { k with cmask := v &&& 0xFFFFFF8000000000 })
  | 0x010 => if s.mine.inh then .ok (s.upMyCl fun x => { x with trapCause := v &&& 0xFFFF }) else priv
  | 0x011 => if s.mine.inh then .ok (s.upMyCl fun x => { x with trapPc := v &&& 0xFFFFFFFFFFFF }) else priv
  | 0x012 => if s.mine.inh then .ok (s.upMyCl fun x => { x with trapInfo := v }) else priv
  | _ => priv

/-- setc: R156. -/
def execSetc (h : Hdr) (a : Reg) (r : BitVec 10) (s : State) : Out := issue s (.setc h a r) (setcBody h a r)

end Sys2Proof.Machine
end

