-- ==== Sys2Proof/Machine/Page.lean ====
section
/-! DEFINITION. The page table walk, the range translation buffer and the fetch of instruction words (R112 to R115, R240,
    R345 to R350). -/

namespace Sys2Proof.Machine

open Sys2Proof

/-- A walk's end (R347): a fault for the host, a failure that rprobe reports as WE, or a page with its handle and HEN. -/
inductive WalkRes
  | fault
  | fail
  | page (h : BitVec 128) (hen : Bool)
  deriving DecidableEq, Repr

/-- An entry of a walk cache (R348): die, ASID, GEN, the entry's level and index, and the entry. -/
abbrev WalkEnt := Nat × BitVec 16 × BitVec 8 × Nat × Word

/-- At most `n` entries of a die, the most recent first. -/
def capDie (die : Nat) : Nat → List WalkEnt → List WalkEnt
  | _, [] => []
  | n, e :: r => if e.1 == die then (match n with | 0 => capDie die 0 r | n + 1 => e :: capDie die n r) else e :: capDie die n r

/-- A pointer entry enters or is renewed in a die's walk cache, least recently used last (R348). -/
def State.noteWalk (s : State) (e : WalkEnt) : State :=
  { s with walkCache := capDie e.1 1024 (e :: s.walkCache.filter fun f => !(f.1 == e.1 && f.2.1 == e.2.1 && f.2.2.1 == e.2.2.1 && f.2.2.2.1 == e.2.2.2.1)) }

/-- A table entry a walk of the context reads: from the die's walk cache, or through the die's L2, and whether it was poisoned
    (R348). -/
def State.walkRead (s : State) (x : Ctx) (die key a : Nat) : State × Nat × Bool :=
  match s.walkCache.find? fun f => f.1 == die && f.2.1 == x.asid && f.2.2.1 == x.gen && f.2.2.2.1 == key with
  | some f => (s.noteWalk f, f.2.2.2.2.toNat, false)
  | none => s.l2Num die a 8

/-- A pointer entry read (R345): the next table's address, or the walk's end. A pointer that leads on enters the walk cache. -/
def State.pointer (s : State) (x : Ctx) (die key a : Nat) : State × Nat × Option WalkRes :=
  let (s, e, bad) := s.walkRead x die key a
  if bad then (s, 0, some .fail)
  else if !bit e 63 then (s, 0, some .fault)
  else
    let next := bits e 51 12 * 4096
    if bits e 62 52 != 0 || bits e 11 0 != 0 || next ≥ 3 * 2 ^ 40 then (s, 0, some .fail)
    else (s.noteWalk (die, x.asid, x.gen, key, .ofNat 64 e), next, none)

/-- The handle of a leaf (R239, R346). -/
def leafHandle (e vpage : Nat) : BitVec 128 :=
  .ofNat 128 (pack [(27, vpage), (2, 0), (28, bits e 59 32), (3, 0), (1, bits e 60 60), (1, bits e 61 61), (1, bits e 62 62), (1, 1),
    (3, bits e 28 26), (3, bits e 25 23), (1, bits e 16 16), (6, bits e 22 17), (3, bits e 31 29)])

/-- A leaf that maps but fails the walk (R97, R103, R347). -/
def State.leafFails (s : State) (x : Ctx) (e : Nat) : Bool :=
  let f := s.frame (bits e 59 32)
  let kind := bits e 28 26
  let ilv := bits e 31 29
  let rc := bit e 16
  bits e 6 0 != 0 || (rc && (bit e 61 || kind != 0)) || decide (kind > 4) || (kind != 0 && (ilv == 0 || ilv == 4))
    || decide (bits e 59 32 ≥ s.fltlim.toNat) || f.st == .unmapped || f.ilv.toNat != ilv || bits e 14 7 != x.kdom.toNat

/-- A walk of the context's page table for a virtual page, on a die (R345 to R348). -/
def State.walk (s : State) (ctx die vpage : Nat) : State × WalkRes :=
  let x := s.ctx ctx
  let (s, t2, r) := s.pointer x die (vpage / 2 ^ 18) (x.desc.ptroot.toNat + 8 * (vpage / 2 ^ 18))
  match r with
  | some r => (s, r)
  | none =>
    let (s, t3, r) := s.pointer x die (2 ^ 27 + vpage / 2 ^ 9) (t2 + 8 * (vpage / 2 ^ 9 % 512))
    match r with
    | some r => (s, r)
    | none =>
      let (s, e, bad) := s.l2Num die (t3 + 8 * (vpage % 512)) 8
      if bad then (s, .fail)
      else if !bit e 63 then (s, .fault)
      else if s.leafFails x e then (s, .fail)
      else (s, .page (leafHandle e vpage) (bit e 15))

/-! The range translation buffer (R240). -/

/-- The entry that serves a lookup of the context. -/
def Core.rtbFind (k : Core) (x : Ctx) (vpage : Nat) : Option RtbEnt :=
  k.rtb.find? fun e => e.asid == x.asid && e.gen == x.gen && e.vpage.toNat == vpage

/-- An entry becomes the most recently used; 512 are held. -/
def Core.rtbUse (k : Core) (e : RtbEnt) : Core :=
  { k with rtb := (e :: k.rtb.filter fun f => !(f.asid == e.asid && f.gen == e.gen && f.vpage == e.vpage)).take 512 }

/-- HOTEN of a frame set by a walk that installs a leaf with HEN (R363). -/
def State.enableHot (s : State) (f : Nat) : State := s.setFrame f { s.frame f with hoten := true }

/-- A page that walked enters a core's RTB (R347). -/
def State.rtbFill (s : State) (k ctx vpage : Nat) (h : BitVec 128) (hen : Bool) : State :=
  let x := s.ctx ctx
  let s := s.upCore k fun c => c.rtbUse { asid := x.asid, gen := x.gen, vpage := .ofNat 27 vpage, h := h }
  if hen && !(s.frame (hFrame h)).hoten then s.enableHot (hFrame h) else s

/-! Fetch (R112 to R115; log 11). -/

/-- What a fetch gives: the word, or the trap of its address with the bytes of R299, which has none for HANDLE. -/
inductive Fetched
  | word (w : Nat)
  | trap (cause : Cause) (operand : List Byte)

/-- A word fetched for a core's cluster at a virtual address: an unmapped page or one without X is HANDLE (R114); poisoned bytes are POISON,
    the model's choice where the manual names no cause (log 11; DESIGN CHOICE). -/
def State.fetch (s : State) (k : Nat) (c : Cluster) (pc : VAddr) : State × Fetched :=
  let ctx := (s.core k).ctxNum
  let off := pc.toNat % 2 ^ 21
  let (s, r) := s.walk ctx (dieOf k) (pc.toNat / 2 ^ 21)
  match r with
  | .page h _ =>
    if !hExec h then (s, .trap .handle [])
    else
      let (s, bs) := s.l2Read k h (s.ctx ctx).kdom off c.wordBytes
      if bs.any (·.2) then (s, .trap .poison (toBytes 16 h.toNat ++ toBytes 8 off ++ toBytes 8 0))
      else (s, .word (ofBytes (bs.map (·.1))))
  | _ => (s, .trap .handle [])

/-- A word that takes the next one of its stream: a two-word form, or an mgo (R115, R215). -/
def takesNext (c : Cluster) (w : Nat) : Bool :=
  let major := w / 2 ^ 15 % 64
  match c with
  | .A | .S => isTwoWord major
  | .V => bits w 84 81 == 15 && isTwoWord major
  | .T => (bits w 180 177 == 15 && isTwoWord major) || (bits w 180 177 == 2 && bits w 176 168 == 1)

/-- What the issue of a cluster finds at its PC: a word with the next one, or a trap and the address it names. -/
inductive AtPc
  | words (w next : Nat)
  | trap (cause : Cause) (pc : VAddr) (operand : List Byte)

/-- The word at a cluster's PC, with the word after it where it takes one. -/
def State.fetchAt (s : State) (k : Nat) (c : Cluster) : State × AtPc :=
  let pc := ((s.core k).cl c).pc
  let (s, f) := s.fetch k c pc
  match f with
  | .trap x o => (s, .trap x pc o)
  | .word w =>
    if !takesNext c w then (s, .words w 0) else
    let pc2 := pcPlus c pc 1
    let (s, g) := s.fetch k c pc2
    match g with
    | .trap x o => (s, .trap x pc2 o)
    | .word n => (s, .words w n)

end Sys2Proof.Machine
end

