-- ==== Sys2Proof/Machine/Memory.lean ====
section
/-! DEFINITION. The issue of memory words: loads, stores, fences, atomics, digest and cache words, tile ownership, way
    conversion, xlat and signal (R163, R238 to R251, R261 to R265). What they do in their queues is in Perform. -/

namespace Sys2Proof.Machine

open Sys2Proof

/-! What issues share. -/

/-- The address of the word whose body runs: the PC has moved past it. -/
def State.ownPc (s : State) (i : Instr) : VAddr := pcPlus s.curCl s.myCl.pc (-(i.words : Int))

/-- The pushes a word's queue entry makes when it retires, and its address. -/
def Instr.entryPush (i : Instr) : BitVec 2 := match i.hdr? with | some h => h.pushes | none => 0

/-- An entry joins the load queue (R246). -/
def State.enqLoad (s : State) (i : Instr) (ac : BitVec 2) (kind : LoadKind) : State :=
  let pc := s.ownPc i
  let push := if i.pushesLater then Instr.entryPush i else 0
  s.upMyCl fun x => { x with loadQ := x.loadQ ++ [{ seq := x.nseq, ac := ac, push := push, pc := pc, kind := kind }], nseq := x.nseq + 1 }

/-- An entry joins the store queue (R246). -/
def State.enqStore (s : State) (i : Instr) (ac : BitVec 2) (kind : StoreKind) : State :=
  let pc := s.ownPc i
  let push := if i.pushesLater then Instr.entryPush i else 0
  s.upMyCl fun x => { x with storeQ := x.storeQ ++ [{ seq := x.nseq, ac := ac, push := push, pc := pc, kind := kind }], nseq := x.nseq + 1 }

/-- A result on its way to a register, counted under LD until LOAD_RETURN writes it (log 17). -/
def State.enqRet (s : State) (i : Instr) (d : Reg) (v : Word) (ways : Option (Nat × BitVec 16 × Bool)) : State :=
  let pc := s.ownPc i
  s.upMyCl fun x => { x with rets := x.rets ++ [{ d := d, val := v, poisoned := false, ways := ways, h := 0, off := 0, pc := pc, push := Instr.entryPush i }] }

/-- The running task is versioned (R40). -/
def State.versioned (s : State) : Bool := match s.mine.task with | some t => t.ver | none => false

/-- The key domain of the running task's context. -/
def State.myKd (s : State) : BitVec 8 := (s.ctx s.mine.ctxNum).kdom

/-- A global access at page offset `x` of `n` bytes, aligned to `al`: ALIGN, then HANDLE, then the body (R186, R243, R249). -/
def globalCheck (hd : BitVec 128) (x al n : Nat) (load : Bool) (go : Eff) : Eff :=
  if x % al != 0 || x + n > 2 ^ 21 then alignTrap x
  else if !hValid hd || (if load then !hRead hd else !hWrite hd) then .trap .handle 0 []
  else go

/-- A scratchpad access of `n` bytes at `x`, aligned to `al`: ALIGN, then OWNER, then the body (R82, R83, R243). -/
def localCheck (s : State) (x al n : Nat) (go : Eff) : Eff :=
  if x % al != 0 || x + n > spSize then alignTrap x
  else if !s.mine.owned ownThread x n then .trap .owner 0 (operandAddr x (s.mine.wrongOwner ownThread x n))
  else go

/-- An update joins the running task's version, unless it would place a 2,049th line in a slice (R40, R42). -/
def State.intoVersion (s : State) (e : VEnt) (go : State → Eff) : Eff :=
  let v := s.mine.version ++ [e]
  match s.versionFull v with
  | some b => .trap .vovf 0 (BitVec.ofNat 8 b :: (toBytes 8 e.off ++ toBytes 16 e.h.toNat))
  | none => go (s.upMine fun k => { k with version := v })

/-! Loads and stores (R243 to R245). -/

/-- Bytes of a scalar access. -/
def MemLit.bytes (m : MemLit) : Nat := 2 ^ m.wd.toNat

/-- The local address of a scratchpad access. -/
def localAddr (s : State) (a b : Reg) (off : BitVec 21) : Nat := (s.reg a + s.reg b + off.setWidth 64).toNat

/-- The page offset of a global access. -/
def pageOff (s : State) (b : Reg) (off : BitVec 21) : Nat := (s.reg b + off.setWidth 64).toNat

/-- A scratchpad ld: 3 issue cycles; poisoned bytes follow R245 (log 28). -/
def ldLocal (d : Reg) (x n : Nat) (m : MemLit) (s : State) : Eff :=
  if s.mine.spPoisoned x n then
    if m.pp then .ok ((s.deliver 3 (.sreg d 0)).deliver 3 (.pred m.pd (predLanes s.curCl) 0))
    else .trap .poison 0 (operandPoison 0 x 1)
  else s.put 3 d (.ofNat 64 (ofBytes (s.mine.spRead x n)))

/-- ld: R243, R244. -/
def execLd (h : Hdr) (d a b : Reg) (m : MemLit) (s : State) : Out :=
  issue s (.ld h d a b m) fun s =>
    let n := MemLit.bytes m
    if m.sp then
      let hd := s.mine.handle a
      let x := pageOff s b m.off
      globalCheck hd x n n true (.ok (s.enqLoad (.ld h d a b m) m.ac (.ld hd x n d m.pp m.pd)))
    else
      let x := localAddr s a b m.off
      localCheck s x n n (ldLocal d x n m s)

/-- st: R243, R244; in a versioned kernel a global st is held in the version (R40). -/
def execSt (h : Hdr) (d a b : Reg) (m : MemLit) (s : State) : Out :=
  issue s (.st h d a b m) fun s =>
    let n := MemLit.bytes m
    let bs := allOf (toBytes n (s.reg d).toNat)
    if m.sp then
      let hd := s.mine.handle a
      let x := pageOff s b m.off
      globalCheck hd x n n false
        (if s.versioned then s.intoVersion { h := hd, off := x, upd := .bytes bs } .ok
         else .ok (s.enqStore (.st h d a b m) m.ac (.st hd x bs)))
    else
      let x := localAddr s a b m.off
      localCheck s x n n (.ok (s.spStore x bs))

/-! Fences (R247). -/

/-- mark enters both queues, under one number. -/
def execMark (h : Hdr) (s : State) : Out :=
  issue s (.mark h) fun s =>
    let pc := s.ownPc (.mark h)
    .ok (s.upMyCl fun x =>
      { x with loadQ := x.loadQ ++ [{ seq := x.nseq, ac := 0, push := h.pushes, pc := pc, kind := .mark }],
               storeQ := x.storeQ ++ [{ seq := x.nseq, ac := 0, push := 0, pc := pc, kind := .mark }], nseq := x.nseq + 1 })

/-- release: R247. -/
def execRelease (h : Hdr) (scope : BitVec 3) (s : State) : Out :=
  issue s (.release h scope) fun s => .ok (s.enqStore (.release h scope) 0 (.release scope))

/-- acquire: R247. -/
def execAcquire (h : Hdr) (scope : BitVec 3) (s : State) : Out :=
  issue s (.acquire h scope) fun s => .ok (s.enqLoad (.acquire h scope) 0 (.acquire scope))

/-! Translation (R241). -/

/-- xlat: a hit forms the handle, a miss clears it and the predicate, 6 issue cycles on (R241). -/
def xlatBody (d a : Reg) (pd : Pred) (s : State) : Eff :=
  let v := (s.reg a).toNat
  let hit := if v ≥ 2 ^ 48 then none else s.mine.rtbFind (s.ctx s.mine.ctxNum) (v / 2 ^ 21)
  let s := match hit with | some e => s.upMine fun k => k.rtbUse e | none => s
  let s := s.deliver 6 (.handle d (match hit with | some e => e.h | none => 0))
  .ok (s.deliver 6 (.pred pd (predLanes s.curCl) (spread hit.isSome)))

/-- xlat: R241. -/
def execXlat (h : Hdr) (d a : Reg) (pd : Pred) (s : State) : Out := issue s (.xlat h d a pd) (xlatBody d a pd)

/-! Atomics and reductions (R248 to R250, R40). -/

/-- A speculative atomic of a versioned kernel: its line goes home, it returns the value that home and the version hold, and it joins the version
    (R40, R89, R91). -/
def amoSpeculative (i : Instr) (d : Reg) (hd : BitVec 128) (x : Nat) (m : AtomLit) (v cmp : Word) (s : State) : Eff :=
  let n := atomBytes m
  let lo := x / 8 * 8
  let s := s.lineHome s.me (lineOf (byteKey (hFrame hd) x))
  let (s, r) := s.homeRead (s.frameAcc (hFrame hd) (hAttr hd s.myKd)) lo 8
  let r := ((overlay s.mine.version (hFrame hd) lo r).drop (x - lo)).take n
  if r.any (·.2) then .trap .poison 0 (operandPoison hd x 1)
  else s.intoVersion { h := hd, off := x, upd := .op m v cmp } fun s =>
    .ok (if m.res then s.enqRet i d (.ofNat 64 (ofBytes (r.map (·.1)))) none else s)

/-- amo: R249. One that is not speculative is a commit point of a versioned kernel (R40). -/
def execAmo (h : Hdr) (d a b : Reg) (m : AtomLit) (s : State) : Out :=
  issue s (.amo h d a b m) fun s =>
    let n := atomBytes m
    let x := (s.reg m.o).toNat
    let hd := s.mine.handle a
    let v := s.reg b
    let cmp := s.reg d
    globalCheck hd x n n false
      (if s.versioned && m.use == 4 then amoSpeculative (.amo h d a b m) d hd x m v cmp s
       else .ok ((s.commit s.me).enqStore (.amo h d a b m) m.ac (.amo hd x m d v cmp)))

/-- red: R249, R250; in a versioned kernel it is held in the version (R40). -/
def execRed (h : Hdr) (d a b : Reg) (m : AtomLit) (s : State) : Out :=
  issue s (.red h d a b m) fun s =>
    let n := atomBytes m
    let x := (s.reg m.o).toNat
    let hd := s.mine.handle a
    let v := s.reg b
    globalCheck hd x n n false
      (if s.versioned then s.intoVersion { h := hd, off := x, upd := .op m v 0 } .ok
       else .ok (s.enqStore (.red h d a b m) m.ac (.red hd x m v)))

/-! Tile ownership (R251). -/

/-- The tiles named are 1 to 640 of the scratchpad's (R251). -/
def tilesBad (t n : Nat) : Bool := n == 0 || t + n > 640

/-- The first tile of a range that is not THREAD. -/
def firstHeld (k : Core) (t n : Nat) : Option Nat := ((List.range n).map (t + ·)).find? fun i => k.owner' i != ownThread

/-- The owner is set once the cluster's earlier scratchpad stores have written, and the pushes `m` are made then (R251, R275). -/
def State.giveTiles (s : State) (t n : Nat) (o : BitVec 3) (m : BitVec 2) : State :=
  let late := (s.myCl.flight.filter fun f => match f.what with | .sp _ _ => true | _ => false).map (·.due)
  if late.isEmpty then s.upMine fun k => (k.applyVal s.curCl (.own t n o)).pushSoon s.curCl m
  else
    let n' := late.foldl max 0 - s.myCl.icyc
    (s.deliverLate n' (.own t n o)).upMine fun k => k.pushAfter s.curCl true n' m

/-- owng: R251. -/
def execOwng (h : Hdr) (a b : Reg) (cls : BitVec 3) (s : State) : Out :=
  issue s (.owng h a b cls) fun s =>
    let t := (s.reg a).toNat
    let n := (s.reg b).toNat
    if tilesBad t n then alignTrap (4096 * t)
    else match firstHeld s.mine t n with
      | some i => .trap .owner 0 (operandAddr (4096 * i) (s.mine.owner' i))
      | none => .ok (s.giveTiles t n cls (Instr.entryPush (.owng h a b cls)))

/-- ownt asks for the tiles back; the word itself does not wait (R251). -/
def execOwnt (h : Hdr) (a b : Reg) (s : State) : Out :=
  issue s (.ownt h a b) fun s =>
    let t := (s.reg a).toNat
    let n := (s.reg b).toNat
    if tilesBad t n then alignTrap (4096 * t)
    else .ok (s.upMine fun k =>
      let r : OwntReq := { ctx := .ofNat 6 k.ctxNum, first := t, n := n, tq := k.tsteps + k.nestLeft, xq := k.xorder,
                           ws := k.wsNext + k.fillsQueued, cp := k.cpNext }
      { k with ownt := k.ownt ++ [r] })

/-- ownw: its stall, held by `bodyWaits`, is its effect (R251). -/
def execOwnw (h : Hdr) (a b : Reg) (s : State) : Out :=
  issue s (.ownw h a b) fun s =>
    let t := (s.reg a).toNat
    let n := (s.reg b).toNat
    if tilesBad t n then alignTrap (4096 * t) else .ok s

/-! Digest words (R261 to R263). -/

/-- dgld: R261. -/
def execDgld (h : Hdr) (d a b : Reg) (ac : BitVec 2) (off : BitVec 21) (s : State) : Out :=
  issue s (.dgld h d a b ac off) fun s =>
    let hd := s.mine.handle a
    let x := pageOff s b off
    globalCheck hd x 1 1 true (.ok (s.enqLoad (.dgld h d a b ac off) ac (.dgld hd x d)))

/-- dgq: R262. -/
def execDgq (h : Hdr) (d a b : Reg) (ac : BitVec 2) (cpy : Bool) (l : Reg) (test : BitVec 4) (s : State) : Out :=
  issue s (.dgq h d a b ac cpy l test) fun s =>
    let hd := s.mine.handle a
    let x := (s.reg b).toNat
    let at' := (s.reg l).toNat
    let go := fun (c : Option Nat) => Eff.ok (s.enqLoad (.dgq h d a b ac cpy l test) ac (.dgq hd x test c d))
    if x % 512 != 0 || x > 0x1F8000 then alignTrap x
    else globalCheck hd x 512 0x8000 true (if cpy then localCheck s at' 1024 1024 (go (some at')) else go none)

/-- dgseal: R263. -/
def execDgseal (h : Hdr) (a b : Reg) (ac : BitVec 2) (n : BitVec 12) (s : State) : Out :=
  issue s (.dgseal h a b ac n) fun s =>
    let hd := s.mine.handle a
    let x := (s.reg b).toNat
    globalCheck hd x 512 (512 * (n.toNat + 1)) false (.ok (s.enqStore (.dgseal h a b ac n) ac (.dgseal hd x (n.toNat + 1))))

/-! Caches and ways (R264, R265). -/

/-- The range of a cflush or cinv: ALIGN where it is empty or leaves the page, HANDLE where the handle is invalid (log 29). -/
def rangeCheck (hd : BitVec 128) (x n : Nat) (go : Eff) : Eff :=
  if n == 0 || x + n > 2 ^ 21 then alignTrap x else if !hValid hd then .trap .handle 0 [] else go

/-- cflush: R264. -/
def execCflush (h : Hdr) (d a b : Reg) (ac : BitVec 2) (scope : BitVec 3) (s : State) : Out :=
  issue s (.cflush h d a b ac scope) fun s =>
    let hd := s.mine.handle a
    let x := (s.reg b).toNat
    let n := (s.reg d).toNat
    rangeCheck hd x n (.ok (s.enqStore (.cflush h d a b ac scope) ac (.cflush hd x n scope)))

/-- cinv: R264. -/
def execCinv (h : Hdr) (d a b : Reg) (ac : BitVec 2) (scope : BitVec 3) (s : State) : Out :=
  issue s (.cinv h d a b ac scope) fun s =>
    let hd := s.mine.handle a
    let x := (s.reg b).toNat
    let n := (s.reg d).toNat
    rangeCheck hd x n (.ok (s.enqStore (.cinv h d a b ac scope) ac (.cinv hd x n scope)))

/-- One way's conversion starts (R93): the state, and whether cway reports it (R265). -/
def wayStart (storage : Bool) : WaySt → WaySt × Bool
  | .cache => if storage then (.flushing, true) else (.cache, true)
  | .storage => if storage then (.storage, true) else (.zeroC, true)
  | w => (w, false)

/-- The conversions of a mask of ways of a slice start; the mask of the ways reported (R93, R265). -/
def State.convertWays (s : State) (b : Nat) (mask : BitVec 16) (storage : Bool) : State × BitVec 16 :=
  (List.range 16).foldl (fun (st : State × BitVec 16) w =>
    if !mask.getLsbD w then st else
    let (x, r) := wayStart storage (st.1.way b w)
    ({ st.1 with ways := sset .cache st.1.ways (16 * b + w) x }, if r then st.2 ||| BitVec.ofNat 16 (2 ^ w) else st.2)) (s, 0)

/-- cway: R265. -/
def execCway (h : Hdr) (d a b : Reg) (mode : Bool) (s : State) : Out :=
  issue s (.cway h d a b mode) fun s =>
    let i : Instr := .cway h d a b mode
    let sl := (s.reg a).toNat
    let mask : BitVec 16 := (s.reg b).setWidth 16
    if mask.toNat % 8 != 0 || sl > 15 then .trap .illop 0x0E (wordImage s.curCl i)
    else if !(s.ctx s.mine.ctxNum).desc.config.getLsbD 56 then privNow s i
    else
      let (s, rep) := s.convertWays sl mask mode
      .ok (s.enqRet i d 0 (some (sl, rep, mode)))

/-! Signals (R163). -/

/-- signal: R163. -/
def execSignal (h : Hdr) (d a b : Reg) (self : Bool) (s : State) : Out :=
  issue s (.signal h d a b self) fun s =>
    let k := if self then s.me else (s.reg d).toNat
    let v := s.reg b
    .ok (s.enqStore (.signal h d a b self) 0 (.signal k (s.reg a).toNat v))

end Sys2Proof.Machine
end

