-- ==== Sys2Proof/Machine/Perform.lean ====
section
/-! DEFINITION. The load and store queues at work: what performs when, and the events that perform it (R90, R106, R163, R245 to
    R250, R261 to R265, R296). An event whose condition does not hold changes nothing. -/

namespace Sys2Proof.Machine

open Sys2Proof

/-! Order (R246, R247). -/

/-- Frame, offset and length of the bytes a load-queue entry reads; those of a digest load are the blocks of its records. -/
def LoadKind.range : LoadKind → Option (Nat × Nat × Nat)
  | .ld h off n _ _ _ => some (hFrame h, off, n)
  | .vldg h off n _ _ _ _ => some (hFrame h, off, n)
  | .dgld h off _ => some (hFrame h, off / 512 * 512, 512)
  | .dgq h off _ _ _ => some (hFrame h, off, 0x8000)
  | _ => none

/-- Frame, offset and length of the bytes a store-queue entry writes, seals or moves. -/
def StoreKind.range : StoreKind → Option (Nat × Nat × Nat)
  | .st h off bs => some (hFrame h, off, bs.length)
  | .dgseal h off left => some (hFrame h, off, 512 * left)
  | .cflush h off n _ | .cinv h off n _ => some (hFrame h, off, n)
  | .amo h off m _ _ _ => some (hFrame h, off, atomBytes m)
  | .red h off m _ => some (hFrame h, off, atomBytes m)
  | _ => none

/-- Two ranges share a byte. -/
def overlaps (a b : Option (Nat × Nat × Nat)) : Bool :=
  match a, b with
  | some (f, o, n), some (g, p, m) => f == g && decide (o < p + m) && decide (p < o + n)
  | _, _ => false

/-- The alias classes of two accesses keep their issue order (R246). -/
def ordered (a b : BitVec 2) : Bool := a == 0 || b == 0 || a == b

/-- A load waits for the cluster's earlier stores to its bytes (R246). -/
def Cl.loadFree (x : Cl) (e : LoadEnt) : Bool :=
  !x.storeQ.any fun t => decide (t.seq < e.seq) && ordered t.ac e.ac && overlaps e.kind.range t.kind.range

/-- An entry that acts as a release: the entries behind it stand behind the cluster's earlier loads too (R247, R339). -/
def StoreKind.releases : StoreKind → Bool
  | .release _ | .barv _ _ _ _ => true
  | _ => false

/-- A store waits for the cluster's earlier loads of its bytes, and for an earlier acquire; a release waits for every earlier load (R246,
    R247). -/
def Cl.storeFree (x : Cl) (e : StoreEnt) : Bool :=
  !x.loadQ.any fun l => decide (l.seq < e.seq) &&
    (e.kind.releases || (match l.kind with | .acquire _ => true | _ => false) || (ordered l.ac e.ac && overlaps l.kind.range e.kind.range))

/-- The access of an entry is held at its home (R93, R367). -/
def State.holdsAt (s : State) (h : BitVec 128) (off : Nat) : Bool :=
  s.isHeld (s.frameAcc (hFrame h) (hAttr h 0)) off

/-- Marks at the heads of both queues of a cluster retire together (R247). -/
def Core.retireMarks (c : Cluster) : Nat → Core → Core
  | 0, k => k
  | n + 1, k =>
    match (k.cl c).loadQ, (k.cl c).storeQ with
    | l :: lr, t :: tr =>
      if l.seq == t.seq && l.kind == .mark && t.kind == .mark && k.roomFor c l.push then
        retireMarks c n ((k.upCl c fun x => { x with loadQ := lr, storeQ := tr }).pushBits c l.push)
      else k
    | _, _ => k

/-- The head of the load queue leaves, and marks that can retire do. -/
def State.popLoad (s : State) (k : Nat) (c : Cluster) : State :=
  s.upCore k fun x => (x.upCl c fun y => { y with loadQ := y.loadQ.tail }).retireMarks c 64

/-- The head of the store queue leaves, and marks that can retire do. -/
def State.popStore (s : State) (k : Nat) (c : Cluster) : State :=
  s.upCore k fun x => (x.upCl c fun y => { y with storeQ := y.storeQ.tail }).retireMarks c 64

/-- Pushes made at a core now. -/
def State.pushAt (s : State) (k : Nat) (c : Cluster) (m : BitVec 2) : State := s.upCore k fun x => x.pushBits c m

/-! Results (R245, R296). -/

/-- A scalar register of a core's cluster written. -/
def State.setRegAt (s : State) (k : Nat) (c : Cluster) (d : Reg) (v : Word) : State := s.upCore k fun x => x.upCl c fun y => y.setReg d v

/-- Poisoned data returns without poison-to-predicate: a trap, or PDRN and a record when a trap or a halt has already stopped the task
    (R245, R296, R304). -/
def State.poisonReturn (s : State) (k : Nat) (c : Cluster) (pc : VAddr) (push : BitVec 2) (h : BitVec 128) (off : Nat) (lanes : Mask) : State :=
  let x := s.core k
  if x.task.isSome && x.trap.isNone && !x.halted then s.raise k c .poison pc 0 (operandPoison h off lanes)
  else
    let s := if x.task.isSome then s.upCore k fun x => x.upCl c fun y => { y with trapCause := y.trapCause ||| 0x100 } else s
    (s.logError 1 1 (unitCore k) (some (x.ctxNum, (s.ctx x.ctxNum).kdom.toNat)) (hFrame h) (toBytes 8 off)).pushAt k c push

/-- A scalar load's bytes return (R245). -/
def State.ldReturn (s : State) (k : Nat) (c : Cluster) (e : LoadEnt) (h : BitVec 128) (off n : Nat) (d : Reg) (pp : Bool) (pd : Pred) : State :=
  let (s, r) := s.coreRead k h (s.ctx (s.core k).ctxNum).kdom off n
  let s := s.popLoad k c
  if !r.any (·.2) then (s.setRegAt k c d (.ofNat 64 (ofBytes (r.map (·.1))))).pushAt k c e.push
  else if pp then
    ((s.setRegAt k c d 0).upCore k fun x => x.upCl c fun y => y.setPred pd (predLanes c) 0).pushAt k c e.push
  else s.poisonReturn k c e.pc e.push h off 1

/-- A digest record as dgld and dgq read it; reserved bits read as zero (R7, R108, R261). -/
def State.readRec (s : State) (h : BitVec 128) (off : Nat) : BitVec 128 :=
  if (hAttr h 0).kind == 0 then 0 else
  match s.recKey (s.frameAcc (hFrame h) (hAttr h 0)) off with
  | some k => (s.digestRec k).toBits
  | none => DRec.beyond.toBits

/-- The record that a read finds is brought into way 0 (R92, R108). -/
def State.loadRecAt (s : State) (h : BitVec 128) (off : Nat) : State :=
  match s.recKey (s.frameAcc (hFrame h) (hAttr h 0)) off with
  | some k => if (hAttr h 0).kind == 0 then s else s.loadRec k
  | none => s

/-- The records of 64 blocks, each read at its own home (R262). -/
def State.readRecs (s : State) (h : BitVec 128) (off : Nat) : State × List (BitVec 128) :=
  (List.range 64).foldl (fun (p : State × List (BitVec 128)) i =>
    let s := p.1.loadRecAt h (off + 512 * i)
    (s, p.2 ++ [s.readRec h (off + 512 * i)])) (s, [])

/-- dgq's mask (R262). -/
def dgqMask (recs : List (BitVec 128)) (test : Nat) : Nat := pack (recs.map fun r => (1, b2n ((DRec.ofBits r).test test)))

/-- The scalar load at the head of the load queue is performed and returns (R245, R246, R261, R262). -/
def State.headReturn (s : State) (k : Nat) (c : Cluster) (e : LoadEnt) : State :=
  match e.kind with
  | .ld h off n d pp pd => if s.holdsAt h off then s else s.ldReturn k c e h off n d pp pd
  | .dgld h off d =>
    let s := s.loadRecAt h off
    let r := s.readRec h off
    let s := (s.popLoad k c).setRegAt k c d (r.setWidth 64)
    (s.setRegAt k c (d + 1) ((r >>> 64).setWidth 64)).pushAt k c e.push
  | .dgq h off test cp d =>
    let (s, recs) := s.readRecs h off
    let s := s.popLoad k c
    let s := match cp with | some a => (s.upCore k fun x => x.spWrite a (allOf (recs.flatMap fun (r : BitVec 128) => toBytes 16 r.toNat))).recheck k | none => s
    (s.setRegAt k c d (.ofNat 64 (dgqMask recs test.toNat))).pushAt k c e.push
  | _ => s

/-- The ways a cway waits for are no longer busy (R265). -/
def State.waysDone (s : State) (w : Option (Nat × BitVec 16 × Bool)) : Bool :=
  match w with
  | none => true
  | some (b, m, _) => (List.range 16).all fun i => !m.getLsbD i || (s.way b i == .cache || s.way b i == .storage)

/-- The value a result returns with: for a cway the reported ways that are in the requested state (R265). -/
def State.retValue (s : State) (r : RetEnt) : Word :=
  match r.ways with
  | none => r.val
  | some (b, m, st) => .ofNat 64 (pack ((List.range 16).map fun i => (1, b2n (m.getLsbD i && s.way b i == (if st then .storage else .cache)))))

/-- A result reaches its register (R43, R245, R249). -/
def State.retReturn (s : State) (k : Nat) (c : Cluster) (r : RetEnt) (rest : List RetEnt) : State :=
  let v := s.retValue r
  let s := s.upCore k fun x => x.upCl c fun y => { y with rets := rest }
  if r.poisoned then s.poisonReturn k c r.pc r.push r.h r.off 1
  else (s.setRegAt k c r.d v).pushAt k c r.push

/-- The first result that satisfies `p` and can be delivered, with the others. -/
def State.readyRet (s : State) (p : RetEnt → Bool) : List RetEnt → Option (RetEnt × List RetEnt)
  | [] => none
  | r :: l => if s.waysDone r.ways && p r then some (r, l) else (readyRet s p l).map fun x => (x.1, r :: x.2)

/-- LOAD_RETURN of a cluster: a result on its way is delivered, or else the scalar load at the head of the load queue is
    performed and returns (R245), once its pushes have space (R45). -/
def State.loadReturn (s : State) (k : Nat) (c : Cluster) : State :=
  let x := (s.core k).cl c
  match s.readyRet (fun r => (s.core k).roomFor c r.push) x.rets with
  | some (r, rest) => s.retReturn k c r rest
  | none =>
    match x.loadQ with
    | e :: _ => if x.loadFree e && (s.core k).roomFor c e.push then s.headReturn k c e else s
    | [] => s

/-- LOAD_RETURN: R245. -/
def execLoadReturn (core : CoreId) (c : Cluster) (s : State) : Out := .next (s.loadReturn core.toNat c)

/-! Vector loads (R186 to R189). -/

/-- The lanes of a mask as a mask of the 2,048 bits they hold. -/
def laneBits (m : Mask) : VReg := .ofNat 2048 (pack ((List.range 64).map fun l => (32, if m.getLsbD l then 2 ^ 32 - 1 else 0)))

/-- Bytes as a vector register: byte 0 lowest. -/
def vecOf (bs : List Byte) : VReg := .ofNat 2048 (ofBytes bs)

/-- The active lanes among those of `n` loaded bytes that received a poisoned byte. -/
def poisonLanes (active : Mask) (r : List (Byte × Bool)) : Mask :=
  .ofNat 64 (pack ((List.range 64).map fun l => (1, b2n (active.getLsbD l && ((r.drop (4 * l)).take 4).any (·.2)))))

/-- What a vector load writes (R186, R189): the lanes' bits, the poisoned lanes zeroed; bytes past L are zero. -/
def loadedVec (active bad : Mask) (r : List (Byte × Bool)) : VReg := vecOf (r.map (·.1)) &&& laneBits (active &&& ~~~bad)

/-- A vldg returns its data through port 7; it enters the latch behind the later results that have come before it (R170, R171, R189). -/
def State.vldgReturn (s : State) (k : Nat) : State :=
  let x := (s.core k).v
  match x.loadQ with
  | e :: _ =>
    match e.kind with
    | .vldg h off n d active pd newer =>
      if !x.loadFree e || s.holdsAt h off || !(s.core k).roomFor .V e.push then s else
      let (s, r) := s.coreRead k h (s.ctx (s.core k).ctxNum).kdom off n
      let s := s.popLoad k .V
      let bad := poisonLanes active r
      if bad != 0 && pd == 0 then s.poisonReturn k .V e.pc e.push h off bad
      else
        let w : RegVal := .vreg d (laneBits active) (loadedVec active bad r) false 0 false none
        (s.upCore k fun y =>
          let y := y.applyVal .V w
          (y.latchAt 7 newer (y.vname d)).upCl .V fun z => if bad == 0 then z else z.setPred pd bad 0).pushAt k .V e.push
    | _ => s
  | [] => s

/-- VLDG_RETURN: R189. -/
def execVldgReturn (core : CoreId) (s : State) : Out := .next (s.vldgReturn core.toNat)

/-! Acquires and releases (R90, R247). -/

/-- An acquire at the head of the load queue completes once every earlier load and atomic with a result has returned (R247). -/
def State.acquireDone (s : State) (k : Nat) (c : Cluster) : State :=
  let x := (s.core k).cl c
  match x.loadQ with
  | e :: _ =>
    match e.kind with
    | .acquire scope =>
      if !(s.core k).roomFor c e.push || !x.rets.isEmpty || (x.storeQ.any fun t => decide (t.seq < e.seq) && (match t.kind with | .amo _ _ m _ _ _ => m.res | _ => false)) then s
      else ((s.acquire k scope.toNat).popLoad k c).pushAt k c e.push
    | _ => s
  | [] => s

/-- ACQUIRE_DONE: R90. -/
def execAcquireDone (core : CoreId) (c : Cluster) (s : State) : Out := .next (s.acquireDone core.toNat c)

/-- A byte of the range of a cflush or cinv. -/
def inRange (h : BitVec 128) (off n : Nat) (b : Nat) : Bool := decide (byteKey (hFrame h) off ≤ b) && decide (b < byteKey (hFrame h) off + n)

/-- A release or a cflush at the head of the store queue completes (R90, R264). -/
def State.releaseDone (s : State) (k : Nat) (c : Cluster) : State :=
  let x := (s.core k).cl c
  match x.storeQ with
  | e :: _ =>
    if !x.storeFree e || !(s.core k).roomFor c e.push then s else
    match e.kind with
    | .release scope => ((s.release k scope.toNat).popStore k c).pushAt k c e.push
    | .cflush h off n scope => ((s.releaseOn k scope.toNat (inRange h off n)).popStore k c).pushAt k c e.push
    | _ => s
  | [] => s

/-- RELEASE_DONE: R90. -/
def execReleaseDone (core : CoreId) (c : Cluster) (s : State) : Out := .next (s.releaseDone core.toNat c)

/-- A line holds a byte of the range of a cflush or cinv. -/
def lineInRange (h : BitVec 128) (off n l : Nat) : Bool :=
  decide (byteKey (hFrame h) off < 128 * l + 128) && decide (128 * l < byteKey (hFrame h) off + n)

/-- What a cinv does (R264): L1's bytes of the range that are not dirty are dropped; beyond core scope the die's dirty L2 lines
    of the range go home and leave the L2. -/
def State.cinv (s : State) (k : Nat) (h : BitVec 128) (off n scope : Nat) : State :=
  let s := s.upCore k fun c => { c with l1 := c.l1.filter fun e => e.2.dirty || !inRange h off n e.1 }
  if scope == 0 then s
  else ((linesOf (((s.l2Of (dieOf k)).filter fun e => e.2.dirty).map (·.1))).filter (lineInRange h off n)).foldl (fun s l => s.l2Back (dieOf k) l) s

/-- A plain store or a cinv at the head of the store queue is performed (R244, R246, R264); a mark retires with its partner. -/
def State.storePerform (s : State) (k : Nat) (c : Cluster) : State :=
  let x := (s.core k).cl c
  match x.storeQ with
  | e :: _ =>
    if !x.storeFree e then s else
    match e.kind with
    | .st h off bs => (s.coreStore k h (s.ctx (s.core k).ctxNum).kdom off bs).popStore k c
    | .cinv h off n scope => (s.cinv k h off n scope.toNat).popStore k c
    | .mark => s.upCore k fun y => y.retireMarks c 64
    | _ => s
  | [] => s

/-! Atomics, reductions and seals at home (R106, R249, R250, R263). -/

/-- An amo at the head of the store queue is performed at home; its old value, or poison, is on its way (R249). -/
def State.atomicPerform (s : State) (k : Nat) (c : Cluster) : State :=
  let x := (s.core k).cl c
  match x.storeQ with
  | e :: _ =>
    match e.kind with
    | .amo h off m d v cmp =>
      if !x.storeFree e || s.holdsAt h off then s else
      let (s, old, bad) := s.atomHome k h (s.ctx (s.core k).ctxNum).kdom off m v cmp
      let s := s.popStore k c
      if m.res then
        let r : RetEnt := { d := d, val := .ofNat 64 old, poisoned := bad, ways := none, h := h, off := off, pc := e.pc, push := e.push }
        s.upCore k fun y => y.upCl c fun z => { z with rets := z.rets ++ [r] }
      else if bad then s.poisonReturn k c e.pc e.push h off 1
      else s
    | _ => s
  | [] => s

/-- ATOMIC_PERFORM: R249. -/
def execAtomicPerform (core : CoreId) (c : Cluster) (s : State) : Out := .next (s.atomicPerform core.toNat c)

/-- A red at the head of the store queue is performed at home; on poisoned bytes it is dropped with a record (R249). -/
def State.reductionPerform (s : State) (k : Nat) (c : Cluster) : State :=
  let x := (s.core k).cl c
  match x.storeQ with
  | e :: _ =>
    match e.kind with
    | .red h off m v =>
      if !x.storeFree e || s.holdsAt h off then s else
      let n := (s.core k).ctxNum
      let kd := (s.ctx n).kdom
      let (s, _, bad) := s.atomHome k h kd off m v 0
      let s := s.popStore k c
      if bad then s.redDropped k h kd off else s
    | _ => s
  | [] => s

/-- REDUCTION_PERFORM: R250. -/
def execReductionPerform (core : CoreId) (c : Cluster) (s : State) : Out := .next (s.reductionPerform core.toNat c)

/-- A seal of the block at `o` at its home, and where the block's record has moved with one of its lines at the other location too: the state, and
    whether a line of the block was poisoned (R106, R109, R281, R283). -/
def State.sealBlock (s : State) (acc : Acc) (o : Nat) : State × Bool :=
  match acc.attr with
  | none => (s, false)
  | some a =>
    if (s.recKey acc o).isNone then (s, false) else
    let (s, r) := s.homeRead acc o 512
    let bad := r.any (·.2)
    let p := o + 128 * (((List.range 4).find? fun j => (s.other acc (o + 128 * j)).isSome).getD 0)
    (s.upRec acc p fun d => d.sealWith s.dseed.toNat a.kind.toNat a.etype.toNat (r.map (·.1)) bad, bad)

/-- The next block of a dgseal at the head of the store queue is sealed (R263). -/
def State.dgsealEntry (s : State) (k : Nat) (c : Cluster) : State :=
  let x := (s.core k).cl c
  match x.storeQ with
  | e :: _ =>
    match e.kind with
    | .dgseal h off left =>
      if !x.storeFree e || s.holdsAt h off then s else
      let s := (s.sealBlock (s.frameAcc (hFrame h) (hAttr h (s.ctx (s.core k).ctxNum).kdom)) off).1
      if left ≤ 1 then s.popStore k c
      else s.upCore k fun y => y.upCl c fun z =>
        { z with storeQ := match z.storeQ with | t :: r => { t with kind := .dgseal h (off + 512) (left - 1) } :: r | [] => [] }
    | _ => s
  | [] => s

/-- DGSEAL_ENTRY: R106. -/
def execDgsealEntry (core : CoreId) (c : Cluster) (s : State) : Out := .next (s.dgsealEntry core.toNat c)

/-! Signals (R163). -/

/-- The cases in which a signal is dropped (R163). -/
def State.signalBad (s : State) (from' : Nat) (target addr : Nat) : Bool :=
  addr % 8 != 0 || addr ≥ spSize || target > 255 || !((s.ctx (s.core from').ctxNum).coreList.contains target)
    || (s.core target).owner' (addr / 4096) != ownThread

/-- A signal at the head of the store queue writes its word and the waits on it are evaluated (R163). -/
def State.signalDeliver (s : State) (k : Nat) (c : Cluster) : State :=
  let x := (s.core k).cl c
  match x.storeQ with
  | e :: _ =>
    match e.kind with
    | .signal target addr v =>
      let n := (s.core k).ctxNum
      if !x.storeFree e then s
      else if s.signalBad k target addr then
        (s.popStore k c).refuse (unitCore k) (some (n, (s.ctx n).kdom.toNat)) (toBytes 8 target ++ toBytes 8 addr)
      else ((s.upCore target fun y => y.spWrite addr (allOf (toBytes 8 v.toNat))).recheck target).popStore k c
    | _ => s
  | [] => s

/-- SIGNAL_DELIVER: R163. -/
def execSignalDeliver (core : CoreId) (c : Cluster) (s : State) : Out := .next (s.signalDeliver core.toNat c)

/-! Lines of L2 and home (R91, R107, R375, R385, R410). -/

/-- HOME_WRITE: a die's L2 writes its dirty bytes of a line home (R91, R107). -/
def execHomeWrite (die : BitVec 3) (line : Nat) (s : State) : Out := .next (s.l2Back die.toNat line)

/-- The access of a line of memory by the number of its home cell. -/
def State.lineAcc (s : State) (line : Nat) : Acc × Nat := s.cellAcc (128 * line)

/-- HOME_READ: a line is read at home and found uncorrectable or not (R410). -/
def execHomeRead (line : Nat) (s : State) : Out := let (a, o) := s.lineAcc line; .next (s.findLine a o)

end Sys2Proof.Machine
end

