-- ==== Sys2Proof/Machine/Tensor.lean ====
section
/-! DEFINITION. The T cluster's tile-step queue: descriptors, windows, the cutter and merge unit, matrix steps, the nest
    sequencer and the weight banks (R66 to R71, R194 to R220). Words enter the queue at issue; the TILE_STEP, NEST_STEP,
    JOINT_STEP and WEIGHT_FILL events act on it. -/

namespace Sys2Proof.Machine

open Sys2Proof

/-! What a queued operation can meet (R196). -/

/-- A fault of a queued operation: WINDOW with its sub-code and the window or bank concerned, OWNER, POISON, HANDLE of a
    descriptor (R197), or MERGE with the stream and position (R208). -/
inductive QErr
  | window (sub which : Nat)
  | owner (a : Nat) (o : BitVec 3)
  | poison (operand : List Byte)
  | handle (td : Nat)
  | merge (stream pos : Nat)

/-- An operation at work: it reads and writes the state and may meet a fault. -/
abbrev TM := ExceptT QErr (StateM State)

/-- A condition, or the fault that its failing raises. -/
def need (c : Bool) (e : QErr) : TM Unit := if c then pure () else throw e

/-- The core as it stands. -/
def coreM (k : Nat) : TM Core := do return (← get).core k

/-- The core updated. -/
def upM (k : Nat) (f : Core → Core) : TM Unit := modify fun s => s.upCore k f

/-- Scratchpad read by the tensor units: below its end, in TENSOR tiles, and not poisoned (R83, R196, R198). -/
def spRd (k a n : Nat) : TM (List Byte) := do
  let c ← coreM k
  need (n == 0 || decide (a + n ≤ spSize)) (.window 6 0)
  need (n == 0 || c.owned ownTensor a n) (.owner a (c.wrongOwner ownTensor a n))
  need (!c.spPoisoned a n) (.poison (operandPoison 0 a 0))
  return c.spRead a n

/-- A little-endian number read from scratchpad. -/
def numRd (k a n : Nat) : TM Nat := do return ofBytes (← spRd k a n)

/-- Scratchpad that an operation will write (R83, R196, R198). -/
def spMay (k a n : Nat) : TM Unit := do
  let c ← coreM k
  need (n == 0 || decide (a + n ≤ spSize)) (.window 6 0)
  need (n == 0 || c.owned ownTensor a n) (.owner a (c.wrongOwner ownTensor a n))

/-- A WINDOW fault met for a window names it (R196). -/
def forWindow {α : Type} (w : Nat) (m : TM α) : TM α :=
  tryCatch m fun e => throw (match e with | .window sub _ => .window sub w | _ => e)

/-! Descriptors (R197, R198). A descriptor is the number its 1,024 bits hold. -/

/-- ETYPE. -/
def tdType (d : Nat) : Nat := bits d 3 0
/-- Element width in bytes. -/
def tdWidth (d : Nat) : Nat := max 1 (typeWidth (tdType d) / 8)
/-- LOC. -/
def tdLoc (d : Nat) : Nat := bits d 17 16
/-- SCALE_G. -/
def tdScale (d : Nat) : Nat := bits d 22 20
/-- SPARSE. -/
def tdSparse (d : Nat) : Bool := bit d 23
/-- H. -/
def tdH (d : Nat) : Reg := .ofNat 5 (bits d 39 35)
/-- BASE. -/
def tdBase (d : Nat) : Nat := bits d 127 64
/-- DIMl. -/
def tdDim (d l : Nat) : Nat := bits d (159 + 32 * l) (128 + 32 * l)
/-- STRl. -/
def tdStr (d l : Nat) : Nat := bits d (287 + 32 * l) (256 + 32 * l)
/-- POS of level l. -/
def tdPos (d l : Nat) : Nat := bits d (415 + 96 * l) (384 + 96 * l)
/-- CRD of level l. -/
def tdCrd (d l : Nat) : Nat := bits d (447 + 96 * l) (416 + 96 * l)
/-- BOUND of level l. -/
def tdBound (d l : Nat) : Nat := bits d (479 + 96 * l) (448 + 96 * l)
/-- Format of level l. -/
def tdFmt (d l : Nat) : Nat := bits d (25 + 2 * l) (24 + 2 * l)

/-- WINDOW 0x03 of a descriptor: LOC 0 or 3, a reserved field, a stride or BASE off the element width (R196, R198). -/
def tdInvalid (d : Nat) : Bool :=
  tdLoc d == 0 || tdLoc d == 3 || bits d 15 4 != 0 || bits d 63 40 != 0 || bits d 1023 768 != 0
    || tdBase d % tdWidth d != 0 || (List.range 4).any fun l => tdStr d l % tdWidth d != 0

/-- The levels of a sparse A (R199). -/
def tdLevels (d : Nat) : Bool :=
  tdSparse d && tdFmt d 0 == 0 && tdFmt d 1 == 1 && tdFmt d 2 != 0 && tdFmt d 3 == 0 && bits d 767 672 == 0

/-- The virtual address of a descriptor, in the table of the task whose operations the queue holds. -/
def tdVa (c : Core) (td : Nat) : Nat := (match c.worker with | some t => t.ttbase.toNat | none => 0) + 128 * td

/-- The page of a descriptor, by a walk of its own; HANDLE when it does not map, or lacks R, or W for a tdset (R197). -/
def tdPage (k td : Nat) (write : Bool) : TM (BitVec 128 × Nat) := do
  let c ← coreM k
  let va := tdVa c td
  need (decide (va < 2 ^ 48)) (.handle td)
  let (s, r) := (← get).walk c.ctxNum (dieOf k) (va / 2 ^ 21)
  set s
  match r with
  | .page h _ => need (hRead h && (!write || hWrite h)) (.handle td); return (h, va % 2 ^ 21)
  | _ => throw (.handle td)

/-- The task's copy of a descriptor, read from memory when it is first named (R197). -/
def tdCopy (k td : Nat) : TM Nat := do
  let c ← coreM k
  match sfind c.tds td with
  | some d => return d.toNat
  | none =>
    let (h, off) ← tdPage k td false
    let (s, r) := (← get).pageRead h ((← get).ctx c.ctxNum).kdom off 128
    set s
    need (!r.any (·.2)) (.poison (operandPoison h off 0))
    let d := ofBytes (r.map (·.1))
    upM k fun c => { c with tds := sput c.tds td (.ofNat 1024 d) }
    return d

/-- A descriptor that an operation uses: WINDOW 0x03 when it is invalid. -/
def tdUse (k td which : Nat) : TM Nat := do
  let d ← tdCopy k td
  need (!tdInvalid d) (.window 3 which)
  return d

/-- A dense scratchpad descriptor of a type: WINDOW 0x04 when it is not (R198, R209). -/
def tdDense (k td typ : Nat) : TM Nat := do
  let d ← tdUse k td 0
  need (!tdSparse d && tdLoc d == 1 && tdType d == typ) (.window 4 0)
  return d

/-- A sparse A of R199. -/
def tdSparseA (k td which : Nat) : TM Nat := do
  let d ← tdUse k td which
  need (tdLoc d == 1 && tdLevels d) (.window 4 which)
  return d

/-- Bytes an engine or the T cluster of core `k` writes at home (R91, R260). -/
def State.engineWrite (s : State) (k : Nat) (h : BitVec 128) (kd : BitVec 8) (off : Nat) (bs : List (Option Byte)) : State :=
  s.homeWriteBy (some (dieOf k)) (s.frameAcc (hFrame h) (hAttr h kd)) off bs

/-! Windows (R201). -/

/-- A window as a number. -/
def Core.window (c : Core) (w : Nat) : Nat := (sget 0 c.win w).toNat

/-- PPOS. -/
def wPpos (w : Nat) : Nat := bits w 255 224
/-- QEND. -/
def wQend (w : Nat) : Nat := bits w 223 192
/-- QPOS. -/
def wQpos (w : Nat) : Nat := bits w 191 160
/-- RBLK. -/
def wRblk (w : Nat) : Nat := bits w 143 128
/-- COUNT. -/
def wCount (w : Nat) : Nat := bits w 108 96
/-- END. -/
def wEnd (w : Nat) : Nat := bits w 95 64
/-- START. -/
def wStart (w : Nat) : Nat := bits w 63 32
/-- SERIAL. -/
def wSerial (w : Nat) : Nat := bits w 31 16
/-- CV. -/
def wCv (w : Nat) : Bool := bit w 13
/-- SPLIT. -/
def wSplit (w : Nat) : Bool := bit w 11
/-- EMPTY. -/
def wEmpty (w : Nat) : Bool := bit w 10
/-- LEVEL. -/
def wLevel (w : Nat) : Nat := bits w 9 8
/-- TD. -/
def wTd (w : Nat) : Nat := bits w 7 0

/-- The fields of a window put together; reserved bits zero (R201). -/
def winOf (ppos qend qpos rblk count endC start serial : Nat) (cv err split empty : Bool) (level td : Nat) : BitVec 256 :=
  .ofNat 256 (pack [(8, td), (2, level), (1, b2n empty), (1, b2n split), (1, b2n err), (1, b2n cv), (2, 0), (16, serial), (32, start),
    (32, endC), (13, count), (19, 0), (16, rblk), (16, 0), (32, qpos), (32, qend), (32, ppos)])

/-- A window written. -/
def setWin (k w : Nat) (v : BitVec 256) : TM Unit := upM k fun c => { c with win := sset 0 c.win w v }

/-- The windows a queued operation names, in field order (R299). -/
def TileKind.windows : TileKind → List (BitVec 4)
  | .mms o => [o.aw, o.bw]
  | .mwldWindow _ w _ _ => [w]
  | .twin _ w _ _ _ => [w]
  | .twinGet w _ _ => [w]
  | .tcut _ w _ _ _ => [w]
  | .tcocut _ w l _ => [w, l]
  | .tmerge wd wa wb _ _ => [wd, wa, wb]
  | .tnext w => [w]
  | _ => []

/-- The faulting-operand bytes of WINDOW and MERGE. -/
def windowBytes (c : Core) (ws : List (BitVec 4)) : List Byte := ws.flatMap fun w => toBytes 32 (c.window w.toNat)

/-! Sparse structure (R199). -/

/-- The column positions of a row block. -/
def spBlock (k d b which : Nat) : TM (Nat × Nat) := do
  let lo ← numRd k (tdPos d 1 + 4 * b) 4
  let hi ← numRd k (tdPos d 1 + 4 * b + 4) 4
  need (decide (lo ≤ hi)) (.window 8 which)
  return (lo, hi)

/-- The column number at position `q` of a block that starts at `lo`. -/
def spCol (k d lo which q : Nat) : TM Nat := do
  let c ← numRd k (tdCrd d 1 + 4 * q) 4
  need (decide (c < tdBound d 1)) (.window 8 which)
  if q > lo then
    let p ← numRd k (tdCrd d 1 + 4 * (q - 1)) 4
    need (decide (p < c)) (.window 8 which)
  return c

/-- Set bits of a 128-bit mask, ascending. -/
def setBits (m : Nat) : List Nat := (List.range 128).filter fun i => bit m i

/-- First entry position of column position `q`, and how many entries it has. -/
def spSpan (k d which q : Nat) : TM (Nat × Nat) := do
  if tdFmt d 2 == 2 then return (q, 1) else
  let a ← numRd k (tdPos d 2 + 4 * q) 4
  let z ← numRd k (tdPos d 2 + 4 * q + 4) 4
  need (decide (a ≤ z)) (.window 8 which)
  if tdFmt d 2 == 3 then
    let m ← numRd k (tdCrd d 2 + 16 * q) 16
    need ((setBits m).length == z - a) (.window 8 which)
  return (a, z - a)

/-- Strictly rising. -/
def rising : List Nat → Bool
  | a :: b :: r => decide (a < b) && rising (b :: r)
  | _ => true

/-- Row coordinates of `n` entries of column position `q`, from the one at entry position `a` on, which is the column's `i`-th: only these are
    read, but for a bitmap (R211). -/
def spRows (k d which q a i n : Nat) : TM (List Nat) := do
  let rows ← (match tdFmt d 2 with
    | 1 => do return (← spRd k (tdCrd d 2 + a) n).map (·.toNat)
    | 2 => do return (← spRd k (tdCrd d 2 + q) n).map (·.toNat)
    | _ => do return ((setBits (← numRd k (tdCrd d 2 + 16 * q) 16)).drop i).take n)
  need (rows.all (fun r => decide (r < 128)) && rising rows) (.window 8 which)
  return rows

/-! The cutter (R202 to R207). -/

/-- The first column position at or after coordinate `start`, `fuel` columns on at most. -/
def cutSeek (k d lo which start : Nat) : Nat → Nat → TM Nat
  | 0, q => pure q
  | n + 1, q => do if (← spCol k d lo which q) ≥ start then pure q else cutSeek k d lo which start n (q + 1)

/-- The loop of R203: column position, count and SPLIT. -/
def cutLoop (k d lo which lim budget p : Nat) : Nat → Nat → Int → TM (Nat × Int × Bool)
  | 0, q, cnt => pure (q, cnt, false)
  | n + 1, q, cnt => do
    if (← spCol k d lo which q) ≥ lim then return (q, cnt, false)
    let (a, m) ← spSpan k d which q
    let left : Int := ((a + m : Nat) : Int) - (max p a : Nat)
    if cnt + left ≤ budget then cutLoop k d lo which lim budget p n (q + 1) (cnt + left)
    else if cnt == 0 then return (q + 1, (budget : Int), true)
    else return (q, cnt, false)

/-- Where the window ends (R203). -/
def cutEnd (k d lo hi which lim q : Nat) (split : Bool) : TM Nat := do
  if split then return (← spCol k d lo which (q - 1)) + 1
  if q ≥ hi then return lim
  let c ← spCol k d lo which q
  return if c < lim then c else lim

/-- The next cut serial (R204). -/
def nextSerial (c : BitVec 16) : BitVec 16 := if c == 0xFFFF then 1 else c + 1

/-- tcut at execution (R203, R204). -/
def tcutAt (k td w budget level span : Nat) : TM Unit := do
  let d ← tdSparseA k td w
  need (level == 1) (.window 4 w)
  let v := (← coreM k).window w
  need (decide (wRblk v < tdBound d 0)) (.window 5 w)
  let (lo, hi) ← spBlock k d (wRblk v) w
  let (q, p) ← (if wCv v && wTd v == td && wLevel v == level then pure (wQpos v, wPpos v) else do
    let q ← cutSeek k d lo w (wStart v) (hi - lo) lo
    let p ← (if tdFmt d 2 == 2 then pure q else numRd k (tdPos d 2 + 4 * q) 4)
    return (q, p))
  let lim := min (tdBound d 1) (wStart v + span)
  let (e, cnt, split) ← cutLoop k d lo w lim budget p (hi - q) q 0
  let endC ← cutEnd k d lo hi w lim e split
  let serial := (← coreM k).cut
  setWin k w (winOf p e q (wRblk v) (wrapTo 13 cnt) endC (wStart v) serial.toNat true false split (cnt == 0) level td)
  upM k fun c => { c with cut := nextSerial c.cut }

/-- ERROR set in a window (R203, R208). -/
def markError (k w : Nat) : TM Unit := upM k fun c => { c with win := sset 0 c.win w (sget 0 c.win w ||| BitVec.ofNat 256 (2 ^ 12)) }

/-- tcut: malformed structure sets ERROR alone (R203). -/
def tcutRun (k td w budget level span : Nat) : TM Unit :=
  tryCatch (forWindow w (tcutAt k td w budget level span)) fun e => do
    match e with
    | .window 8 _ => markError k w
    | _ => pure ()
    throw e

/-- tcocut at execution (R205). -/
def tcocutRun (k td w l dim : Nat) : TM Unit := do
  let d ← tdCopy k td
  need (!tdSparse d && (tdLoc d == 1 || tdLoc d == 2)) (.window 4 w)
  need (!tdInvalid d) (.window 3 w)
  let v := (← coreM k).window l
  need (wSerial v != 0) (.window 2 l)
  setWin k w (winOf 0 (wEnd v) (wStart v) 0 (wrapTo 13 ((wEnd v : Int) - wStart v)) (wEnd v) (wStart v) (wSerial v) false false false (wEmpty v) dim td)

/-- What tnext makes of a window (R206). -/
def nextWin (v : Nat) : BitVec 256 :=
  let start := if wSplit v then (wEnd v + 2 ^ 32 - 1) % 2 ^ 32 else wEnd v
  let qpos := if wSplit v then (wQend v + 2 ^ 32 - 1) % 2 ^ 32 else wQend v
  winOf (wPpos v + wCount v) (wQend v) qpos (wRblk v) 0 start start 0 (wCv v) false false false (wLevel v) (wTd v)

/-- What twin sets (R202). -/
def twinWin (td : BitVec 8) (lv : BitVec 2) (rblk : BitVec 16) (start : BitVec 32) : BitVec 256 :=
  winOf 0 0 0 rblk.toNat 0 start.toNat start.toNat 0 false false false false lv.toNat td.toNat

/-! The merge unit (R208). -/

/-- A merge at work: what each stream holds next, the last coordinate of each, and the records so far, newest first. -/
structure MergeSt where
  pa : Nat
  pb : Nat
  ha : Option Nat
  hb : Option Nat
  la : Int
  lb : Int
  recs : List (Nat × Nat × Nat)

/-- How a merge ends. -/
inductive MergeEnd | complete | full | bad (stream : Nat)

/-- One step of a merge: fetch the next coordinate of a stream that holds none, then emit or skip the smallest. The position in a record is that
    in the stream's array, not one counted from QPOS (R208; log 78; DESIGN CHOICE). -/
def mergeLoop (fa fb : Nat → TM Nat) (ea eb lim : Nat) (both : Bool) : Nat → MergeSt → TM (MergeSt × MergeEnd)
  | 0, m => pure (m, .complete)
  | n + 1, m => do
    let moreA := decide (m.pa < ea)
    let moreB := decide (m.pb < eb)
    if (both && !(moreA && moreB)) || !(moreA || moreB) then return (m, .complete)
    if m.recs.length ≥ lim then return (m, .full)
    let ha ← (if moreA && m.ha.isNone then do return some (← fa m.pa) else pure m.ha)
    if m.ha.isNone && (match ha with | some x => decide ((x : Int) ≤ m.la) | none => false) then return (m, .bad 0)
    let m := { m with ha := ha, la := match ha with | some x => (x : Int) | none => m.la }
    let hb ← (if moreB && m.hb.isNone then do return some (← fb m.pb) else pure m.hb)
    if m.hb.isNone && (match hb with | some x => decide ((x : Int) ≤ m.lb) | none => false) then return (m, .bad 1)
    let m := { m with hb := hb, lb := match hb with | some x => (x : Int) | none => m.lb }
    let c := match m.ha, m.hb with
      | some x, some y => min x y
      | some x, none => x
      | none, some y => y
      | none, none => 0
    let inA := m.ha == some c
    let inB := m.hb == some c
    let absent := 2 ^ 32 - 1
    let recs := if both && !(inA && inB) then m.recs else (c, if inA then m.pa else absent, if inB then m.pb else absent) :: m.recs
    mergeLoop fa fb ea eb lim both n
      { m with recs := recs, pa := if inA then m.pa + 1 else m.pa, ha := if inA then none else m.ha,
               pb := if inB then m.pb + 1 else m.pb, hb := if inB then none else m.hb }

/-- The row coordinate of entry `p` of a BITMAP level: the set bit of the mask of the column whose span holds it, over `n` columns from `q` on. -/
def bitmapCoord (k d p : Nat) : Nat → Nat → TM Nat
  | 0, _ => throw (.window 5 0)
  | n + 1, q => do
    let a ← numRd k (tdPos d 2 + 4 * q) 4
    let z ← numRd k (tdPos d 2 + 4 * q + 4) 4
    if a ≤ p && decide (p < z) then return (setBits (← numRd k (tdCrd d 2 + 16 * q) 16)).getD (p - a) 128
    bitmapCoord k d p n (q + 1)

/-- The coordinate at a position of a level: of a DENSE one the position itself, of level 1 a word, of level 2 a byte or a set bit (R199). -/
def levelCoord (k d level p : Nat) : TM Nat := do
  if !tdSparse d || tdFmt d level == 0 then return p
  if level == 1 then return ← numRd k (tdCrd d 1 + 4 * p) 4
  if tdFmt d 2 != 3 then return ← numRd k (tdCrd d 2 + p) 1
  let n ← numRd k (tdPos d 1 + 4 * tdBound d 0) 4
  bitmapCoord k d p n 0

/-- A window whose coordinates the merge unit reads, at its level of a scratchpad descriptor (R198, R199, R208). -/
def mergeIn (k w : Nat) : TM (Nat × (Nat → TM Nat)) := do
  let v := (← coreM k).window w
  let d ← tdUse k (wTd v) w
  need (tdLoc d == 1 && (!tdSparse d || tdLevels d)) (.window 4 w)
  return (v, fun p => forWindow w (levelCoord k d (wLevel v) p))

/-- A window with QPOS replaced. -/
def withQpos (v : BitVec 256) (q : Nat) : BitVec 256 := (v &&& ~~~(BitVec.ofNat 256 ((2 ^ 32 - 1) * 2 ^ 160))) ||| BitVec.ofNat 256 (q % 2 ^ 32 * 2 ^ 160)

/-- tmerge at execution (R208). `both` is MODE and. -/
def tmergeRun (k wd wa wb : Nat) (both : Bool) (otd : Nat) : TM Unit := do
  let (va, fa) ← mergeIn k wa
  let (vb, fb) ← mergeIn k wb
  let o ← tdUse k otd wd
  need (tdLoc o == 1) (.window 4 wd)
  let lim := min 4096 (tdDim o 0)
  let (m, fin) ← mergeLoop fa fb (wQend va) (wQend vb) lim both (wQend va + wQend vb + 1)
    { pa := wQpos va, pb := wQpos vb, ha := none, hb := none, la := -1, lb := -1, recs := [] }
  let recs := m.recs.reverse
  forWindow wd (spMay k (tdBase o) (16 * recs.length))
  let bytes := recs.flatMap fun r => toBytes 4 r.1 ++ toBytes 4 r.2.1 ++ toBytes 4 r.2.2 ++ toBytes 4 0
  upM k fun c => c.spWrite (tdBase o) (allOf bytes)
  let full := match fin with | .full => true | _ => false
  if full then
    setWin k wa (withQpos (.ofNat 256 ((← coreM k).window wa)) m.pa)
    setWin k wb (withQpos (.ofNat 256 ((← coreM k).window wb)) m.pb)
  match fin with
  | .bad 0 => markError k wa
  | .bad _ => markError k wb
  | _ => pure ()
  let v := (← coreM k).window wd
  let start := match recs with | r :: _ => r.1 | [] => 0
  let endC := match m.recs with | r :: _ => r.1 + 1 | [] => 0
  let err := match fin with | .bad _ => true | _ => false
  setWin k wd (winOf (wPpos v) (wQend v) (wQpos v) (wRblk v) recs.length endC start (wSerial v) (wCv v) err full (recs.length == 0) (wLevel v) otd)
  match fin with
  | .bad 0 => throw (.merge 0 m.pa)
  | .bad _ => throw (.merge 1 m.pb)
  | _ => pure ()

/-! Matrix arithmetic (R66 to R70). -/

/-- An extent: 0 means 128 (R134). -/
def extent (n : BitVec 8) : Nat := if n == 0 then 128 else n.toNat

/-- A row of A: its accumulator row and its chunks, each with its scale and its terms (k, value) in order. -/
structure RowS where
  i : Nat
  chunks : List (Nat × Nat × List (Nat × Nat))

/-- A column of B: its accumulator column, the bank's value at an absolute k, and the scale of a chunk. -/
structure ColS where
  j : Nat
  b : Nat → Nat
  sb : Nat → Nat

/-- Terms cut into the chunks of R66; `k` rises along the list. -/
def chunksOf : List (Nat × Nat) → List (Nat × List (Nat × Nat))
  | [] => []
  | (kk, a) :: r =>
    match chunksOf r with
    | (c, l) :: g => if c == kk / 128 then (c, (kk, a) :: l) :: g else (kk / 128, [(kk, a)]) :: (c, l) :: g
    | [] => [(kk / 128, [(kk, a)])]

/-- The exact sum of a chunk's products and the flags of the products (R67, R68). -/
def chunkSum (aty bty : Nat) (b : Nat → Nat) (terms : List (Nat × Nat)) : ExSum × Fl :=
  terms.foldl (fun st t => let (p, f) := FVal.mul (fvalOf aty t.2) (fvalOf bty (b t.1)); (st.1.add p, st.2 ||| f)) (ExSum.zero, 0)

/-- One chunk of a floating-point step into a cell (R67, R68): `first` overwrites. -/
def fpChunk (aty bty rm sa sb : Nat) (b : Nat → Nat) (terms : List (Nat × Nat)) (first : Bool) (old : Nat) : Nat × Fl :=
  let (s, f0) := chunkSum aty bty b terms
  let (v, f1) := s.val
  let (t, f2) := fmtF32.round 0 v
  let (u, f3) := if aty == 4 then
      (let (g, f4) := fmtF32.fmul 0 (f32Val sa) (f32Val sb)
       let (u, f5) := fmtF32.fmul rm (f32Val t) (f32Val g)
       (u, f4 ||| f5))
    else (t, 0)
  let fl := f0 ||| f1 ||| f2 ||| f3
  if first then (u, flTensor fl)
  else let (r, f6) := fmtF32.fadd rm (f32Val old) (f32Val u); (r, flTensor (fl ||| f6))

/-- One chunk of an integer step into a cell (R70). -/
def intChunk (aty bty : Nat) (sat : Bool) (b : Nat → Nat) (terms : List (Nat × Nat)) (first : Bool) (old : Nat) : Nat × Fl :=
  let s := terms.foldl (fun (x : Int) t => x + intVal aty t.2 * intVal bty (b t.1)) 0
  fitInt 3 sat (s + (if first then 0 else signedOf 32 old))

/-- A cell's new value: the chunks of a row against a column, in ascending k (R66, R69). -/
def accCell (o : MOps) (r : RowS) (c : ColS) (old : Nat) : Nat × Fl :=
  let aty := o.aty.toNat
  let bty := o.bty.toNat
  let out := r.chunks.foldl (fun (st : Nat × Bool × Fl) ch =>
    let (v, f) := if isInt aty then intChunk aty bty o.sat c.b ch.2.2 st.2.1 st.1
      else fpChunk aty bty o.rm.toNat ch.2.1 (c.sb ch.1) c.b ch.2.2 st.2.1 st.1
    (v, false, st.2.2 ||| f)) (old, o.am == 0, 0)
  (out.1, out.2.2)

/-- Every cell of rows and columns updated. -/
def macAll (o : MOps) (rows : List RowS) (cols : List ColS) (acc : Sparse (BitVec 32)) : Sparse (BitVec 32) × Fl :=
  rows.foldl (fun st r => cols.foldl (fun (st : Sparse (BitVec 32) × Fl) c =>
    let key := 16384 * o.acc.toNat + 128 * r.i + c.j
    let (v, f) := accCell o r c (sget 0 st.1 key).toNat
    (sset 0 st.1 key (.ofNat 32 v), st.2 ||| f)) st) (acc, 0)

/-- An operation's flags join the T cluster's AFLAGS (R61). -/
def flagM (k : Nat) (f : Fl) : TM Unit := upM k fun c => c.upCl .T fun x => { x with aflags := x.aflags ||| flTensor f }

/-- A matrix step's cells written. -/
def macRun (k : Nat) (o : MOps) (rows : List RowS) (cols : List ColS) : TM Unit := do
  let (acc, f) := macAll o rows cols (← coreM k).acc
  upM k fun c => { c with acc := acc }
  flagM k f

/-! Banks (R209, R216). -/

/-- A bank's metadata. -/
def Core.meta' (c : Core) (wb : Bool) : BankMeta := if wb then c.meta1 else c.meta0

/-- A byte of a bank: 128 bytes a row for 8-bit types, 256 for 16-bit types. -/
def bankKey (wb : Bool) (w r j : Nat) : Nat := 131072 * b2n wb + (128 * r + j) * w

/-- The bank of a step holds its B type and is not poisoned (R209, R217). -/
def bankUse (k : Nat) (wb : Bool) (bty : BitVec 4) : TM BankMeta := do
  let m := (← coreM k).meta' wb
  need (!m.poisoned) (.poison [])
  need (m.typ == bty) (.window 4 (b2n wb))
  return m

/-- A scale: an f32 of a dense scratchpad tensor (R67, R198, R209). -/
def scaleRd (k d i1 i0 : Nat) : TM Nat := do
  need (decide (i1 < tdDim d 1) && decide (i0 < tdDim d 0)) (.window 5 0)
  numRd k (tdBase d + i1 * tdStr d 1 + i0 * tdStr d 0) 4

/-- A row with the scales of its chunks, at scale row `r`; `sc` is the scale-A tensor of an e4m3 step. -/
def rowOf (k : Nat) (sc : Option Nat) (i r : Nat) (terms : List (Nat × Nat)) : TM RowS := do
  let ch ← (chunksOf terms).mapM fun c => do
    let sa ← (match sc with | some d => scaleRd k d (r / 2 ^ tdScale d) c.1 | none => pure 0)
    return (c.1, sa, c.2)
  return { i := i, chunks := ch }

/-- The columns noff to noff + n - 1 of a core's bank as columns `j0` on, for absolute ks in `kks`. -/
def colsOf (k : Nat) (o : MOps) (n j0 : Nat) (kks : List Nat) (sc : Option Nat) : TM (List ColS) := do
  let c ← coreM k
  let m ← bankUse k o.wb o.bty
  need (kks.all (fun kk => decide (m.kbase ≤ kk) && decide (kk < m.kbase + m.rows)) && decide (o.noff.toNat + n ≤ 128)) (.window 5 (b2n o.wb))
  let w := typeWidth o.bty.toNat / 8
  let chs := (kks.map (· / 128)).eraseDups
  (List.range n).mapM fun j => do
    let col := o.noff.toNat + j
    let sbs ← (match sc with
      | some d => chs.mapM fun c => do return (c, ← scaleRd k d (c / 2 ^ tdScale d) ((m.nbase + col) / 128))
      | none => pure [])
    let val (kk : Nat) : Nat := ofBytes ((List.range w).map fun i => sget 0 c.bank (bankKey o.wb w (kk - m.kbase) col + i))
    return { j := j0 + j, b := val, sb := fun c => sget 0 sbs c }

/-- The scale tensors of an e4m3 step; other steps have none (R209). -/
def scalesOf (k : Nat) (o : MOps) : TM (Option Nat × Option Nat) := do
  if o.aty == 4 then return (some (← tdDense k o.sa.toNat 7), some (← tdDense k o.sb.toNat 7))
  return (none, none)

/-- WB names the bank that is active when the step executes (R210, R215). -/
def bankActive (k : Nat) (o : MOps) : TM Unit := do need (o.wb == (← coreM k).active) (.window 7 (b2n o.wb))

/-- The k indices of a dense step. -/
def denseKs (o : MOps) : List Nat := (List.range (extent o.k)).map (o.koff.toNat + ·)

/-- The A rows moff to moff + m - 1 of a dense step as rows `i0` on (R198, R210). -/
def denseRows (k : Nat) (o : MOps) (m i0 : Nat) (sc : Option Nat) : TM (List RowS) := do
  let d ← tdDense k o.atd.toNat o.aty.toNat
  need (decide (o.moff.toNat + m ≤ tdDim d 1) && decide (o.koff.toNat + extent o.k ≤ tdDim d 0)) (.window 5 0)
  (List.range m).mapM fun i => do
    let r := o.moff.toNat + i
    let terms ← (denseKs o).mapM fun kk => do return (kk, ← numRd k (tdBase d + r * tdStr d 1 + kk * tdStr d 0) (tdWidth d))
    rowOf k sc (i0 + i) r terms

/-- mma at execution (R210). -/
def mmaRun (k : Nat) (o : MOps) : TM Unit := do
  bankActive k o
  let (sa, sb) ← scalesOf k o
  let rows ← denseRows k o (extent o.m) 0 sa
  let cols ← colsOf k o (extent o.n) 0 (denseKs o) sb
  macRun k o rows cols

/-- The entries a window names, from entry `p` of column position `q` on: row, column and entry position (R211). -/
def entryLoop (k d lo hi which p : Nat) : Nat → Nat → Nat → Bool → TM (List (Nat × Nat × Nat))
  | 0, _, left, _ => do need (left == 0) (.window 5 which); return []
  | n + 1, q, left, first => do
    if left == 0 then return []
    need (decide (lo ≤ q) && decide (q < hi)) (.window 5 which)
    let c ← spCol k d (if first then q else lo) which q
    let (a, m) ← spSpan k d which q
    -- a column stored without entries holds PPOS at its place (log 32)
    need (!first || decide (a ≤ p) && (decide (p < a + m) || (m == 0 && p == a))) (.window 5 which)
    let from' := if first then p - a else 0
    let rows ← spRows k d which q (a + from') from' (min left (m - from'))
    let here := ((List.range rows.length).zip rows).map fun e => (e.2, c, a + from' + e.1)
    let rest ← entryLoop k d lo hi which p n (q + 1) (left - here.length) false
    return here ++ rest

/-- Rows that hold entries, each with its terms (k, value): rows rise, and k rises within a row. -/
def byRow (l : List (Nat × Nat × Nat)) : List (Nat × List (Nat × Nat)) :=
  (List.range 128).filterMap fun i =>
    let t := (l.filter fun e => e.1 == i).map fun e => e.2
    if t.isEmpty then none else some (i, t)

/-- The serial checks of R207 and the window of an mms. -/
def leaderWin (k : Nat) (o : MOps) : TM Nat := do
  let c ← coreM k
  let a := c.window o.aw.toNat
  need (wSerial a != 0) (.window 2 o.aw.toNat)
  need (wSerial a == wSerial (c.window o.bw.toNat)) (.window 1 o.aw.toNat)
  return a

/-- The rows of a sparse step as (row in the block, terms) (R211). The sparse buffer holds the entries. -/
def sparseRows (k : Nat) (o : MOps) (a : Nat) : TM (List (Nat × List (Nat × Nat))) := do
  let w := o.aw.toNat
  let d ← tdSparseA k (wTd a) w
  need (tdType d == o.aty.toNat) (.window 4 w)
  let (lo, hi) ← spBlock k d (wRblk a) w
  let ents ← entryLoop k d lo hi w (wPpos a) (hi - wQpos a + 1) (wQpos a) (wCount a) true
  let vals ← ents.mapM fun e => do return (e.1, e.2.1, ← numRd k (tdBase d + e.2.2 * tdWidth d) (tdWidth d))
  upM k fun c => { c with sparseBuf := vals.map fun e => (e.1, e.2.1, BitVec.ofNat 16 e.2.2) }
  return byRow vals

/-- The k indices of rows, each once. -/
def ksOf (l : List (Nat × List (Nat × Nat))) : List Nat := (l.flatMap fun r => r.2.map (·.1)).eraseDups

/-- mms at execution (R211). -/
def mmsRun (k : Nat) (o : MOps) : TM Unit := do
  let a ← leaderWin k o
  bankActive k o
  if wEmpty a then return ()
  let (sa, sb) ← scalesOf k o
  let l ← forWindow o.aw.toNat (sparseRows k o a)
  let rows ← l.mapM fun r => rowOf k sa r.1 (128 * wRblk a + r.1) r.2
  let cols ← colsOf k o (extent o.n) 0 (ksOf l) sb
  macRun k o rows cols

/-- mzero at execution (R212). -/
def mzeroRun (k : Nat) (o : MOps) : TM Unit :=
  upM k fun c => { c with acc := seraseRange c.acc (16384 * o.acc.toNat) (16384 * o.acc.toNat + 16384) }

/-- The output tensor of an mstore or mload: the address of element (i, j) (R198, R212). -/
def outTensor (k : Nat) (o : MOps) : TM (Nat → Nat → Nat) := do
  let d ← tdDense k o.otd.toNat o.oty.toNat
  need (decide (o.moff.toNat + extent o.m ≤ tdDim d 1) && decide (o.noff.toNat + extent o.n ≤ tdDim d 0)) (.window 5 0)
  return fun i j => tdBase d + (o.moff.toNat + i) * tdStr d 1 + (o.noff.toNat + j) * tdStr d 0

/-- The cells of rows 0 to m - 1 and columns 0 to n - 1. -/
def cellsOf (m n : Nat) : List (Nat × Nat) := (List.range m).flatMap fun i => (List.range n).map fun j => (i, j)

/-- mstore at execution (R212). -/
def mstoreRun (k : Nat) (o : MOps) : TM Unit := do
  let at' ← outTensor k o
  let t := o.oty.toNat
  let w := typeWidth t / 8
  let c ← coreM k
  let src := if isInt t then 3 else 7
  let outs := (cellsOf (extent o.m) (extent o.n)).map fun e =>
    (at' e.1 e.2, convert src t o.rm.toNat o.sat (sget 0 c.acc (16384 * o.acc.toNat + 128 * e.1 + e.2)).toNat)
  for e in outs do spMay k e.1 w
  upM k fun c => outs.foldl (fun c e => c.spWrite e.1 (allOf (toBytes w e.2.1))) c
  flagM k (outs.foldl (fun f e => f ||| e.2.2) 0)

/-- mload at execution (R212). -/
def mloadRun (k : Nat) (o : MOps) : TM Unit := do
  let at' ← outTensor k o
  let vals ← (cellsOf (extent o.m) (extent o.n)).mapM fun e => do return (16384 * o.acc.toNat + 128 * e.1 + e.2, ← numRd k (at' e.1 e.2) 4)
  upM k fun c => { c with acc := vals.foldl (fun m e => sset 0 m e.1 (.ofNat 32 e.2)) c.acc }

/-! Descriptors moved (R200). -/

/-- tdset at execution: the copy, and the table in memory. -/
def tdsetRun (k : Nat) (td : BitVec 8) (a : Nat) : TM Unit := do
  let bs ← spRd k a 128
  let (h, off) ← tdPage k td.toNat true
  let n := (← coreM k).ctxNum
  modify fun s => s.engineWrite k h (s.ctx n).kdom off (allOf bs)
  upM k fun c => { c with tds := sput c.tds td.toNat (.ofNat 1024 (ofBytes bs)) }

/-- tdget at execution. -/
def tdgetRun (k : Nat) (td : BitVec 8) (a : Nat) : TM Unit := do
  let d ← tdCopy k td.toNat
  spMay k a 128
  upM k fun c => c.spWrite a (allOf (toBytes 128 d))

/-! Fills (R217). -/

/-- A fill's range lies within one page (R198). -/
def fillFits (d koff rows noff : Nat) : Bool :=
  let nr := min rows (tdDim d 1 - koff)
  let nc := min 128 (tdDim d 0 - noff)
  nr == 0 || nc == 0 || decide (tdBase d + (koff + nr - 1) * tdStr d 1 + (noff + nc - 1) * tdStr d 0 + tdWidth d ≤ 2 ^ 21)

/-- mwld in queue order: checked, numbered and handed to the weight-stream engine (R194, R217). -/
def mwldRun (k : Nat) (td : BitVec 8) (wb : Bool) (koff : Nat) (rows : Int) (noff : BitVec 16) (which : Nat) : TM Unit := do
  let d ← tdUse k td.toNat which
  let t := tdType d
  need (!tdSparse d && tdLoc d == 2 && (t == 4 || t == 0 || t == 5 || t == 6)) (.window 4 which)
  need (decide (0 ≤ rows) && decide (rows ≤ 1024 / tdWidth d)) (.window 5 which)
  need (fillFits d koff rows.toNat noff.toNat) (.window 4 which)
  upM k fun c =>
    let f : Fill := { seq := c.wsNext, ctx := .ofNat 6 c.ctxNum, h := 0, desc := .ofNat 1024 d, wb := wb, koff := koff, rows := rows.toNat,
                      noff := noff.toNat, started := false, aborted := false }
    { c with ws := c.ws ++ [f], wsNext := c.wsNext + 1 }

/-- mwld of a window: it names the window's descriptor (R217). -/
def mwldWinRun (k : Nat) (td : BitVec 8) (w : BitVec 4) (wb : Bool) (noff : BitVec 16) : TM Unit := do
  let v := (← coreM k).window w.toNat
  need (wTd v == td.toNat) (.window 4 w.toNat)
  mwldRun k td wb (wStart v) ((wEnd v : Int) - wStart v) noff w.toNat

/-! The queue (R194 to R196, R213). -/

/-- What the head of the queue does; joint steps act by JOINT_STEP_EXECUTE. -/
def TileKind.run (k : Nat) : TileKind → TM Unit
  | .mma o => mmaRun k o
  | .mms o => mmsRun k o
  | .mzero o => mzeroRun k o
  | .mstore o => mstoreRun k o
  | .mload o => mloadRun k o
  | .mwldWindow td w wb noff => mwldWinRun k td w wb noff
  | .mwldRange td rows wb koff noff => mwldRun k td wb koff.toNat rows.toNat noff 0
  | .mwswap wb => upM k fun c => { c with active := wb }
  | .mnset | .mgo => pure ()
  | .tdset td a => tdsetRun k td a
  | .tdget td a => tdgetRun k td a
  | .twin td w lv rblk start => setWin k w.toNat (twinWin td lv rblk start)
  | .twinGet w a b => upM k fun c =>
      let v := c.window w.toNat
      c.upCl .T fun x => (x.setReg a (.ofNat 64 v)).setReg b (.ofNat 64 (v / 2 ^ 64))
  | .tcut td w budget level span => tcutRun k td.toNat w.toNat budget level.toNat span
  | .tcocut td w l dim => tcocutRun k td.toNat w.toNat l.toNat dim.toNat
  | .tmerge wd wa wb mode otd => tmergeRun k wd.toNat wa.toNat wb.toNat (!mode) otd.toNat
  | .tnext w => do setWin k w.toNat (nextWin ((← coreM k).window w.toNat))

/-- Cause, TRAP_INFO and operand bytes of a queue fault (R196, R197, R208, R299). -/
def QErr.trap (e : QErr) (c : Core) (op : TileOp) : Cause × Word × List Byte :=
  let ix := op.step % 2 ^ 16 * 2 ^ 48
  match e with
  | .window sub which => (.window, .ofNat 64 (sub + 256 * which + ix), windowBytes c op.kind.windows)
  | .owner a o => (.owner, .ofNat 64 ix, operandAddr a o)
  | .poison b => (.poison, .ofNat 64 ix, b)
  | .handle td => (.handle, .ofNat 64 td, [])
  | .merge st pos => (.merge, .ofNat 64 (st + 256 * (pos % 2 ^ 32) + ix), windowBytes c op.kind.windows)

/-- A queue fault (R196): every queued operation and nest is discarded, the bank at the tail is the active one again, and the
    trap is raised in T at its next word. -/
def State.queueFault (s : State) (k : Nat) (op : TileOp) (e : QErr) : State :=
  let (cause, info, operand) := e.trap (s.core k) op
  let s := s.upCore k fun c => { c with tq := [], nests := [], tailActive := c.active }
  s.raise k .T cause (s.core k).t.pc info operand

/-- A step that waits for its quad's partners (R220). -/
def TileKind.joint : TileKind → Bool
  | .mma o => o.qj
  | .mms o => o.qj
  | _ => false

/-- mwswap waits for the fills into its bank (R218); they complete in order. -/
def TileKind.waits (c : Core) : TileKind → Bool
  | .mwswap wb => c.ws.any fun f => f.wb == wb
  | _ => false

/-- mwld leaves the queue when it is handed on (R194). -/
def TileKind.handsOn : TileKind → Bool
  | .mwldWindow _ _ _ _ | .mwldRange _ _ _ _ _ => true
  | _ => false

/-- The head of the queue executes (R194): an mwld leaves it, another operation waits for its completion. -/
def State.tileExecute (s : State) (k : Nat) : State :=
  match (s.core k).tq with
  | op :: rest =>
    if op.done || op.kind.joint || op.kind.waits (s.core k) || (s.core k).ownPending || s.power.stopped then s
    else
      let (r, t) := (op.kind.run k).run.run s
      match r with
      | .error e => t.queueFault k op e
      | .ok _ =>
        if op.kind.handsOn then t.upCore k fun c => { c with tq := rest }
        else t.upCore k fun c => { c with tq := { op with done := true } :: rest }
  | [] => s

/-- TILE_STEP_EXECUTE: R194. -/
def execTileStepExecute (core : CoreId) (s : State) : Out := .next (s.tileExecute core.toNat)

/-- CSEL of an operation; 0 where it has none. -/
def TileKind.csel : TileKind → BitVec 8
  | .mma o => o.csel
  | .mms o => o.csel
  | _ => 0

/-- CSEL acts for the T cluster of core `k` (R213, R228): an engine arrival at a quad barrier, or a token with payload `index`
    toward V or S; none where the token's FIFO has no space. -/
def State.cselAct (s : State) (k : Nat) (csel : BitVec 8) (index : Nat) : Option State :=
  match csel.toNat / 64 with
  | 1 =>
    let c := s.core k
    let tag := match sget none s.quads (quadOf k) with | some q => q.tag | none => 0
    some { s with arrivals := s.arrivals ++ [{ key := 16 * quadOf k + csel.toNat % 16, ctx := .ofNat 6 c.ctxNum, tag := tag, tainted := false }] }
  | 2 =>
    let d : Dir := if csel.getLsbD 0 then .right else .left
    let c := s.core k
    if !c.roomFor .T (match d with | .right => 1 | .left => 2) then none
    else some (s.setCore k (c.setFifo .T d (c.fifoTo .T d ++ [some (.ofNat 64 (index % 2 ^ 16))])))
  | _ => some s

/-- The head operation, executed, completes (R213): CSEL acts, the operation leaves the queue and makes its word's pushes, once
    they have space (R45). -/
def State.tileComplete (s : State) (k : Nat) : State :=
  match (s.core k).tq with
  | op :: rest =>
    if !op.done || s.power.stopped then s else
    match s.cselAct k op.kind.csel op.step with
    | some t => if (t.core k).roomFor .T op.push then (t.upCore k fun c => { c with tq := rest }).pushAt k .T op.push else s
    | none => s
  | [] => s

/-- TILE_STEP_COMPLETE: R213. -/
def execTileStepComplete (core : CoreId) (s : State) : Out := .next (s.tileComplete core.toNat)

/-! Quad-joint steps (R219, R220). -/

/-- The operand fields of a joint step at the head of a core's queue. -/
def Core.jointHead (c : Core) : Option (TileOp × MOps × Bool) :=
  match c.tq with
  | op :: _ =>
    if op.done then none else
    match op.kind with
    | .mma o => if o.qj then some (op, o, false) else none
    | .mms o => if o.qj then some (op, o, true) else none
    | _ => none
  | [] => none

/-- The quartet of a task: its group and its four consecutive tasks (R329). -/
def Task.quartet (t : Task) : Nat × Nat × Nat := (t.launch, t.first, (t.ord - BitVec.ofNat 32 t.first).toNat / 4)

/-- The tasks whose steps a quad's four cores hold form one quartet (R220, R329). -/
def State.oneQuartet (s : State) (q : Nat) : Bool :=
  let t := (List.range 4).map fun i => (s.core (4 * q + i)).worker.map Task.quartet
  t.all fun x => x.isSome && x == t.headD none

/-- The fields that members must agree on (R220). -/
def jointFields (o : MOps) (sparse : Bool) : Bool × BitVec 4 × BitVec 4 × BitVec 8 × BitVec 16 × BitVec 2 × Bool × BitVec 2 :=
  (sparse, o.aty, o.bty, o.k, o.koff, o.rm, o.sat, o.am)

/-- Rows of member `q` of a joint step: joint rows 64 q on, with the k indices used (R219). -/
def jointRows (k q : Nat) (o : MOps) (sparse : Bool) : TM (List RowS × List Nat) := do
  if sparse then
    let a ← leaderWin k o
    bankActive k o
    if wEmpty a then return ([], [])
    let (sa, _) ← scalesOf k o
    let l ← forWindow o.aw.toNat (sparseRows k o a)
    need (l.all fun r => decide (r.1 < 64)) (.window 5 o.aw.toNat)
    let rows ← l.mapM fun r => rowOf k sa (64 * q + r.1) (128 * wRblk a + r.1) r.2
    return (rows, ksOf l)
  else
    bankActive k o
    let (sa, _) ← scalesOf k o
    let rows ← denseRows k o 64 (64 * q) sa
    return (rows, denseKs o)

/-- Columns of member `q`: joint columns 64 q on, for every k index that a member's rows use. -/
def jointCols (k q : Nat) (o : MOps) (kks : List Nat) : TM (List ColS) := do
  if kks.isEmpty then return []
  let (_, sb) ← scalesOf k o
  colsOf k o 64 (64 * q) kks sb

/-- The parts of the four members, or the faults of those that met one. -/
def gather {α : Type} (f : Nat → TM α) (s : State) : State × List α × List (Nat × QErr) :=
  (List.range 4).foldl (fun st q =>
    let (r, t) := (f q).run.run st.1
    match r with
    | .ok v => (t, st.2.1 ++ [v], st.2.2)
    | .error e => (t, st.2.1, st.2.2 ++ [(q, e)])) (s, [], [])

/-- Faults of members of a quad's joint step. -/
def State.jointFaults (s : State) (quad : Nat) (heads : List (TileOp × MOps × Bool)) (es : List (Nat × QErr)) : State :=
  es.foldl (fun s e => match heads[e.1]? with | some h => s.queueFault (4 * quad + e.1) h.1 e.2 | none => s) s

/-- Every member's WINDOW 0x09 (R219, R220). -/
def allNine : List (Nat × QErr) := (List.range 4).map fun q => (q, QErr.window 9 0)

/-- Each member's quadrant of the joint block written (R219). -/
def jointWrite (quad : Nat) (heads : List (TileOp × MOps × Bool)) (rows : List RowS) (cols : List ColS) (s : State) : State :=
  (List.range 4).foldl (fun s q =>
    match heads[q]? with
    | none => s
    | some (_, o, _) =>
      let k := 4 * quad + q
      let mine := rows.filterMap fun r => if r.i / 128 == q / 2 then some { r with i := r.i % 128 } else none
      let cs := cols.filterMap fun c => if c.j / 128 == q % 2 then some { c with j := c.j % 128 } else none
      let (_, t) := (macRun k o mine cs).run.run s
      t.upCore k fun c => { c with tq := match c.tq with | op :: r => { op with done := true } :: r | [] => [] }) s

/-- A joint step executes once the four members' heads are their tasks' joint steps of one number (R219, R220). -/
def State.jointExecute (s : State) (quad : Nat) : State :=
  let heads := (List.range 4).filterMap fun q => (s.core (4 * quad + q)).jointHead
  if heads.length != 4 || !s.oneQuartet quad || !(heads.all fun h => some h.1.joint == heads.head?.map (·.1.joint)) || s.power.stopped then s else
  let fields := heads.map fun h => jointFields h.2.1 h.2.2
  let wins := (List.range 4).map fun q =>
    match heads[q]? with
    | some (_, o, true) => let w := (s.core (4 * quad + q)).window o.aw.toNat; (wStart w, wEnd w)
    | _ => (0, 0)
  if !(fields.all fun f => some f == fields.head?) || !(wins.all fun w => some w == wins.head?) then s.jointFaults quad heads allNine else
  let (s, rows, bad) := gather (fun q => match heads[q]? with
    | some (_, o, sp) => jointRows (4 * quad + q) q o sp
    | none => pure ([], [])) s
  if !bad.isEmpty then s.jointFaults quad heads bad else
  let kks := (rows.flatMap (·.2)).eraseDups
  let (s, cols, bad) := gather (fun q => match heads[q]? with
    | some (_, o, _) => jointCols (4 * quad + q) q o kks
    | none => pure []) s
  if !bad.isEmpty then s.jointFaults quad heads bad
  else jointWrite quad heads (rows.flatMap (·.1)) cols.flatten s

/-- JOINT_STEP_EXECUTE: R220. -/
def execJointStepExecute (quad : BitVec 6) (s : State) : Out := .next (s.jointExecute quad.toNat)

/-! The nest sequencer (R214, R215). -/

/-- The index vector of step `n` of a nest, level 0 varying fastest. -/
def nestIndex : List NestLevel → Nat → List Nat
  | [], _ => []
  | l :: r, n => n % l.count.toNat :: nestIndex r (n / l.count.toNat)

/-- A sum of indices times signed steps, as a 16-bit offset. -/
def nestSum (t : BitVec 16) (f : NestLevel → BitVec 16) (ls : List NestLevel) (xs : List Nat) : BitVec 16 :=
  (ls.zip xs).foldl (fun v e => v + f e.1 * BitVec.ofNat 16 e.2) t

/-- The template with the fields of step `n` (R215). -/
def Nest.stepAt (t : Nest) (n : Nat) : MOps :=
  let xs := nestIndex t.levels n
  { t.tmpl with
      koff := nestSum t.tmpl.koff (·.dk) t.levels xs, moff := nestSum t.tmpl.moff (·.dm) t.levels xs,
      noff := nestSum t.tmpl.noff (·.dn) t.levels xs,
      acc := (t.levels.zip xs).foldl (fun v e => v + e.1.dacc * BitVec.ofNat 3 e.2) t.tmpl.acc,
      am := if xs.getD t.klevel 0 == 0 then t.tmpl.am else 1 }

/-- An operation joins the tile-step queue; a joint step takes its number among the task's (R194, R196, R220). -/
def Core.enqTile (c : Core) (kind : TileKind) (push : BitVec 2) : Core :=
  { c with tq := c.tq ++ [{ step := c.tsteps, joint := c.jsteps, kind := kind, push := push, done := false }],
           tsteps := c.tsteps + 1, jsteps := c.jsteps + b2n kind.joint }

/-- The running nest has placed its steps: the entries that wait behind it follow, and the next nest's mgo (R194, R215). -/
def Core.nestEnd (c : Core) (n : Nest) (r : List Nest) : Core :=
  let c := (List.range n.after).foldl (fun c _ => c.enqTile .mnset 0) c
  match r with
  | [] => { c with nests := [] }
  | m :: r => { (if m.entered then c else c.enqTile .mgo 0) with nests := { m with entered := true } :: r }

/-- The running nest places its next step, while TS leaves room (R194, R215). -/
def Core.nestPlace (c : Core) : Core :=
  match c.nests with
  | n :: r =>
    if n.next ≥ n.total then c.nestEnd n r
    else if c.tsCount ≥ 32 then c
    else
      let c := c.enqTile (.mma (n.stepAt n.next)) 0
      if n.next + 1 ≥ n.total then c.nestEnd n r else { c with nests := { n with next := n.next + 1 } :: r }
  | [] => c

/-- NEST_STEP_PLACE: R215. -/
def execNestStepPlace (core : CoreId) (s : State) : Out := .next (if s.power.stopped then s else s.upCore core.toNat Core.nestPlace)

/-! The weight-stream engine (R217, R259). -/

/-- The oldest fill starts: HANDLE when its handle is invalid or lacks R (R198, R217, R297). -/
def State.fillStart (s : State) (k : Nat) : State :=
  let c := s.core k
  match c.ws with
  | f :: r =>
    if f.started || !s.engineMayStart k f.ctx.toNat then s else
    let h := c.handle (tdH f.desc.toNat)
    let s := s.setCore k { c with ws := { f with started := true, h := h } :: r }
    if f.aborted || (hValid h && hRead h) then s
    else s.engineHandle k f.ctx.toNat 2 f.seq h (tdBase f.desc.toNat + f.koff * tdStr f.desc.toNat 1 + f.noff * tdStr f.desc.toNat 0)
  | [] => s

/-- WEIGHT_FILL_START: R217. -/
def execWeightFillStart (core : CoreId) (s : State) : Out := .next (s.fillStart core.toNat)

/-- One row of a fill: bytes with their poison marks, zero outside the tensor (R217). -/
def State.fillRow (s : State) (f : Fill) (r : Nat) : State × List (Byte × Bool) :=
  let d := f.desc.toNat
  let w := tdWidth d
  let kd := (s.ctx f.ctx.toNat).kdom
  (List.range 128).foldl (fun (st : State × List (Byte × Bool)) j =>
    if f.koff + r ≥ tdDim d 1 || f.noff + j ≥ tdDim d 0 then (st.1, st.2 ++ List.replicate w (0, false))
    else
      let (t, b) := st.1.pageRead f.h kd (tdBase d + (f.koff + r) * tdStr d 1 + (f.noff + j) * tdStr d 0) w
      (t, st.2 ++ b)) (s, [])

/-- Every row of a fill. -/
def State.fillRows (s : State) (f : Fill) : State × List (Byte × Bool) :=
  (List.range f.rows).foldl (fun (st : State × List (Byte × Bool)) r => let (t, b) := st.1.fillRow f r; (t, st.2 ++ b)) (s, [])

/-- The oldest fill, started, completes: the bank, its metadata and POISONED, then SEQ_WS (R217, R259). -/
def State.fillComplete (s : State) (k : Nat) : State :=
  match (s.core k).ws with
  | f :: r =>
    if !f.started then s else
    let d := f.desc.toNat
    let (s, bs) := if f.aborted then (s, []) else s.fillRows f
    -- the first status in the order of R258: 8 ABORTED, 7 DICT_ERROR, 2 POISON_READ
    let status := if f.aborted then 8 else if bs.any (·.2) then (if hRc f.h then 7 else 2) else 0
    let m : BankMeta := { kbase := f.koff, nbase := f.noff, rows := f.rows, typ := .ofNat 4 (tdType d), poisoned := status != 0 }
    let s := s.upCore k fun c =>
      let c := if f.aborted then (if f.wb then { c with meta1 := { c.meta1 with poisoned := true } } else { c with meta0 := { c.meta0 with poisoned := true } })
        else
          let bank := ((List.range bs.length).zip bs).foldl (fun b e => sset 0 b (131072 * b2n f.wb + e.1) e.2.1) c.bank
          if f.wb then { c with bank := bank, meta1 := m } else { c with bank := bank, meta0 := m }
      if c.seqCtx == some f.ctx.toNat then { c with ws := r, seqWs := .ofNat 64 f.seq }
      else { c with ws := r, seqs := sset SeqSt.reset c.seqs f.ctx.toNat { sget SeqSt.reset c.seqs f.ctx.toNat with seqWs := .ofNat 64 f.seq } }
    if status == 0 then s
    else s.logError 1 1 (unitCore k) (some (f.ctx.toNat, (s.ctx f.ctx.toNat).kdom.toNat)) 0 [BitVec.ofNat 8 status, BitVec.ofNat 8 (b2n f.wb)]
  | [] => s

/-- WEIGHT_FILL_COMPLETE: R217. -/
def execWeightFillComplete (core : CoreId) (s : State) : Out := .next (s.fillComplete core.toNat)

/-! The words at issue (R194, R200, R210, R214 to R220). -/

/-- WINDOW found at issue: precise at the word, with the windows it names (R196). -/
def windowNow (s : State) (sub which : Nat) (ws : List (BitVec 4)) : Eff :=
  .trap .window (.ofNat 64 (sub + 256 * which + s.mine.tsteps % 2 ^ 16 * 2 ^ 48)) (windowBytes s.mine ws)

/-- A word's operation joins the queue. -/
def State.enq (s : State) (i : Instr) (kind : TileKind) : Eff :=
  let push := if i.pushesLater then Instr.entryPush i else 0
  .ok (s.upMine fun c => c.enqTile kind push)

/-- The running task's quartet has fewer than four tasks (R220, R329). -/
def smallQuartet (s : State) : Bool :=
  match s.mine.task with
  | some t => decide (4 * t.quartet.2.2 + 4 > t.gsize)
  | none => true

/-- mma and mms at issue: the bank at the queue's tail, and a quartet of four for .q (R210, R211, R220, R329). -/
def stepIssue (i : Instr) (o : MOps) (kind : TileKind) (s : State) : Eff :=
  if o.qj && smallQuartet s then windowNow s 9 0 kind.windows
  else if o.wb != s.mine.tailActive then windowNow s 7 (b2n o.wb) kind.windows
  else s.enq i kind

/-- mma: R210. -/
def execMma (h : Hdr) (o : MOps) (s : State) : Out := issue s (.mma h o) (stepIssue (.mma h o) o (.mma o))

/-- mms: R211. -/
def execMms (h : Hdr) (o : MOps) (s : State) : Out := issue s (.mms h o) (stepIssue (.mms h o) o (.mms o))

/-- mzero: R212. -/
def execMzero (h : Hdr) (o : MOps) (s : State) : Out := issue s (.mzero h o) fun s => s.enq (.mzero h o) (.mzero o)

/-- mstore: R212. -/
def execMstore (h : Hdr) (o : MOps) (s : State) : Out := issue s (.mstore h o) fun s => s.enq (.mstore h o) (.mstore o)

/-- mload: R212. -/
def execMload (h : Hdr) (o : MOps) (s : State) : Out := issue s (.mload h o) fun s => s.enq (.mload h o) (.mload o)

/-- mwld of a window: WB names the standby bank at the queue's tail (R217). -/
def execMwldWindow (h : Hdr) (td : BitVec 8) (w : BitVec 4) (wb : Bool) (noff : BitVec 16) (s : State) : Out :=
  issue s (.mwldWindow h td w wb noff) fun s =>
    if wb == s.mine.tailActive then windowNow s 7 (b2n wb) [w]
    else s.enq (.mwldWindow h td w wb noff) (.mwldWindow td w wb noff)

/-- mwld of a range (R217). -/
def execMwldRange (h : Hdr) (td : BitVec 8) (rows : BitVec 11) (wb : Bool) (koff noff : BitVec 16) (s : State) : Out :=
  issue s (.mwldRange h td rows wb koff noff) fun s =>
    if wb == s.mine.tailActive then windowNow s 7 (b2n wb) []
    else s.enq (.mwldRange h td rows wb koff noff) (.mwldRange td rows wb koff noff)

/-- mwswap: the tail's active bank changes at issue, the bank itself in queue order (R218). -/
def execMwswap (h : Hdr) (wb : Bool) (s : State) : Out :=
  issue s (.mwswap h wb) fun s =>
    if wb == s.mine.tailActive then windowNow s 7 (b2n wb) []
    else (s.upMine fun c => { c with tailActive := wb }).enq (.mwswap h wb) (.mwswap wb)

/-- The shadow entry mnset writes (R214). -/
def nestLevelOf (a b : Word) : NestLevel :=
  { count := a.setWidth 16, dk := b.setWidth 16, dm := (b >>> 16).setWidth 16, dn := (b >>> 32).setWidth 16, dacc := (b >>> 48).setWidth 3 }

/-- An mnset's entry joins the queue, behind the steps of the nests that still place theirs (R194). -/
def Core.enqMnset (c : Core) (push : BitVec 2) : Core :=
  match c.nests.reverse with
  | [] => c.enqTile .mnset push
  | n :: r => { c with nests := ({ n with after := n.after + 1 } :: r).reverse }

/-- mnset: the shadow is written at issue, so that an mgo behind it reads it; its entry does nothing (R194, R214; log 33). -/
def execMnset (h : Hdr) (level : BitVec 3) (a b : Reg) (s : State) : Out :=
  issue s (.mnset h level a b) fun s =>
    let e := nestLevelOf (s.reg a) (s.reg b)
    .ok (s.upMine fun c => { c with shadow := sset NestLevel.reset c.shadow level.toNat e }.enqMnset 0)

/-- A nest joins a core's nests; its mgo's entry joins the queue at once when no other nest has steps to place (R194, R215). -/
def Core.addNest (c : Core) (n : Nest) : Core :=
  if !c.nests.isEmpty then { c with nests := c.nests ++ [n] }
  else
    let c := c.enqTile .mgo 0
    if n.total == 0 then c else { c with nests := [{ n with entered := true }] }

/-- mgo: the nest takes the shadow's levels and the template; the steps are placed by NEST_STEP_PLACE (R215). -/
def execMgo (h : Hdr) (levels klevel : BitVec 3) (tmpl : Option MOps) (s : State) : Out :=
  issue s (.mgo h levels klevel tmpl) fun s =>
    match tmpl with
    | none => .ok s
    | some o =>
      if o.qj && smallQuartet s then windowNow s 9 0 []
      else
        let ls := (List.range (levels.toNat + 1)).map fun l => sget NestLevel.reset s.mine.shadow l
        .ok (s.upMine fun c => c.addNest { levels := ls, klevel := klevel.toNat, tmpl := o, next := 0, entered := false, after := 0 })

/-- tdset and tdget: the address is 128-aligned (R200). -/
def tdMove (i : Instr) (a : Reg) (kind : Nat → TileKind) (s : State) : Eff :=
  let x := (s.reg a).toNat
  if x % 128 != 0 then alignTrap x else s.enq i (kind x)

/-- tdset: R200. -/
def execTdset (h : Hdr) (td : BitVec 8) (a : Reg) (s : State) : Out := issue s (.tdset h td a) (tdMove (.tdset h td a) a (.tdset td))

/-- tdget: R200. -/
def execTdget (h : Hdr) (td : BitVec 8) (a : Reg) (s : State) : Out := issue s (.tdget h td a) (tdMove (.tdget h td a) a (.tdget td))

/-- twin: R202. -/
def execTwin (h : Hdr) (td : BitVec 8) (w : BitVec 4) (a b : Reg) (lv : BitVec 2) (s : State) : Out :=
  issue s (.twin h td w a b lv) fun s => s.enq (.twin h td w a b lv) (.twin td w lv ((s.reg a).setWidth 16) ((s.reg b).setWidth 32))

/-- twin.get: R202. -/
def execTwinGet (h : Hdr) (w : BitVec 4) (a b : Reg) (s : State) : Out :=
  issue s (.twinGet h w a b) fun s => s.enq (.twinGet h w a b) (.twinGet w a b)

/-- tcut: R203. -/
def execTcut (h : Hdr) (td : BitVec 8) (w : BitVec 4) (budget : BitVec 12) (level : BitVec 2) (span : BitVec 10) (s : State) : Out :=
  issue s (.tcut h td w budget level span) fun s =>
    s.enq (.tcut h td w budget level span) (.tcut td w (budget.toNat + 1) level (span.toNat + 1))

/-- tcocut: R205. -/
def execTcocut (h : Hdr) (td : BitVec 8) (w l : BitVec 4) (dim : BitVec 2) (s : State) : Out :=
  issue s (.tcocut h td w l dim) fun s => s.enq (.tcocut h td w l dim) (.tcocut td w l dim)

/-- tmerge: R208. -/
def execTmerge (h : Hdr) (wd wa wb : BitVec 4) (mode : Bool) (otd : BitVec 8) (s : State) : Out :=
  issue s (.tmerge h wd wa wb mode otd) fun s => s.enq (.tmerge h wd wa wb mode otd) (.tmerge wd wa wb mode otd)

/-- tnext: R206. -/
def execTnext (h : Hdr) (w : BitVec 4) (s : State) : Out := issue s (.tnext h w) fun s => s.enq (.tnext h w) (.tnext w)

end Sys2Proof.Machine
end

