-- ==== Sys2Proof/Machine/Xbar.lean ====
section
/-! DEFINITION. The resistive crossbar arrays: class 5 words at issue, the pair queues, and the events that start and complete
    their operations (R221 to R237, R305). -/

namespace Sys2Proof.Machine

open Sys2Proof

/-! Arrays (R221 to R224). -/

/-- Array `n` of a core. -/
def Core.array (c : Core) (n : Nat) : XArr := sget XArr.reset c.xb n

/-- An array replaced. -/
def Core.setArray (c : Core) (n : Nat) (a : XArr) : Core := { c with xb := sset XArr.reset c.xb n a }

/-- The state codes of xstat (R237). -/
def XSt.code : XSt → Nat
  | .unknown => 0 | .erased => 1 | .programmed => 2 | .ready => 3 | .drifted => 4 | .faulty => 5

/-- The status word (R237). -/
def XArr.status (a : XArr) : Nat := pack [(3, a.st.code), (5, 0), (8, a.lastop.toNat), (16, 0), (32, a.errc.toNat)]

/-- The weight that a pair's cells encode: 16 h + l (R221). -/
def weightAt (hi lo : XArr) (n : Nat) : Int := 16 * (sget 0 hi.cells n).toInt + (sget 0 lo.cells n).toNat

/-- The level of a cell of array `n` of core `k`: of columns 512 to 519, fixed at manufacture (R221; log 67). -/
def Core.cellLevel (c : Core) (k n row col : Nat) : BitVec 8 :=
  if col < 512 then sget 0 (c.array n).cells (512 * col + row) else Config.refLevel k n row col

/-- The queue of a pair. -/
def Core.pairQ (c : Core) (p : Nat) : List XOp := sget [] c.xq p

/-- A pair queue replaced. -/
def Core.setPairQ (c : Core) (p : Nat) (l : List XOp) : Core := { c with xq := sset [] c.xq p l }

/-! Faults (R227). -/

/-- What a crossbar operation can meet: a sub-code of XDRIFT with its array, ALIGN, OWNER or POISON. -/
inductive XErr
  | drift (sub array : Nat)
  | align (a : Nat)
  | owner (a : Nat) (o : BitVec 3)
  | poison (a : Nat)

/-- Cause, TRAP_INFO and operand bytes of a crossbar fault on pair `p`: a fault of scratchpad concerns both arrays, so the even one is named
    (R227, R299). -/
def XErr.trap (e : XErr) (c : Core) (p : Nat) (op : XOp) : Cause × Word × List Byte :=
  let info (sub array : Nat) : Word := .ofNat 64 (sub + 256 * array + op.num % 2 ^ 16 * 2 ^ 48)
  match e with
  | .drift sub a => (.xdrift, info sub a, toBytes 8 (c.array (2 * p)).status ++ toBytes 8 (c.array (2 * p + 1)).status)
  | .align a => (.align, info 0 (2 * p), operandAddr a 0)
  | .owner a o => (.owner, info 0 (2 * p), operandAddr a o)
  | .poison a => (.poison, info 0 (2 * p), operandPoison 0 a 0)

/-- A crossbar fault (R227): the operation, what was issued after it and has not started, and a product under way behind it on its
    pair are discarded; the trap is raised in T at its next word. -/
def State.xbarFault (s : State) (k p : Nat) (op : XOp) (e : XErr) : State :=
  let (cause, info, operand) := e.trap (s.core k) p op
  let keep (q : Nat) (x : XOp) : Bool := decide (x.order < op.order) || (decide (x.order > op.order) && x.started && q != p)
  let s := s.upCore k fun c => { c with xq := (c.xq.map fun (e : Nat × List XOp) => (e.1, e.2.filter (keep e.1))).filter fun e => !e.2.isEmpty }
  s.raise k .T cause (s.core k).t.pc info operand

/-! Starting (R225, R226, R229, R233 to R235). -/

/-- Scratchpad read by a crossbar operation (R227): aligned, in range, in XBAR tiles, not poisoned. -/
def Core.xbarRead (c : Core) (a al n : Nat) : Except XErr (List Byte) :=
  if a % al != 0 || a + n > spSize then .error (.align (a % 2 ^ 64))
  else if !c.owned ownXbar a n then .error (.owner a (c.wrongOwner ownXbar a n))
  else if c.spPoisoned a n then .error (.poison a)
  else .ok (c.spRead a n)

/-- An f32 scale factor that R222 allows: positive, finite and nonzero. -/
def goodScale (w : Nat) : Bool := decide (0 < w) && decide (w < fmtF32.infBits)

/-- x[i] of R229 from the bytes of `p` planes. -/
def planeVal (bs : List Byte) (p : Nat) (sgn : Bool) (i : Nat) : Int :=
  let b (k : Nat) : Int := if (bs.getD (64 * k + i / 8) 0).getLsbD (i % 8) then ((2 ^ k : Nat) : Int) else 0
  ((List.range (p - 1)).map b).foldl (· + ·) 0 + (if sgn then -(b (p - 1)) else b (p - 1))

/-- What an operation becomes when it starts. -/
def XKind.start (c : Core) (p : Nat) : XKind → Except XErr XKind
  | .xprog a b => do
    let sw := (c.t.reg b).setWidth 32
    let bs ← c.xbarRead (c.t.reg a).toNat 4096 0x40000
    if !goodScale sw.toNat then throw (.drift 6 (2 * p))
    if (c.array (2 * p)).st != .erased then throw (.drift 5 (2 * p))
    if (c.array (2 * p + 1)).st != .erased then throw (.drift 5 (2 * p + 1))
    return .xprogRun sw bs
  | .xverify a tol => do return .xverifyRun tol (← c.xbarRead (c.t.reg a).toNat 4096 0x40000)
  | .xcal xb =>
    match (c.array xb.toNat).st with
    | .unknown | .erased | .faulty => .error (.drift 7 xb.toNat)
    | _ => .ok (.xcal xb)
  | .xmvm d addr sx planes sgn rm => do
    let bs ← c.xbarRead addr 512 (64 * planes)
    return .xmvmRun d sx rm ((List.range 512).map (planeVal bs planes sgn))
  | k => .ok k

/-- A product, at work or to come. -/
def XKind.product : XKind → Bool
  | .xmvm _ _ _ _ _ _ | .xmvmRun _ _ _ _ => true
  | _ => false

/-- The operation of a pair queue that can start: the head, or a product behind one product at work (R225, R226). -/
def toStart : List XOp → Option (XOp × List XOp × List XOp)
  | x :: r =>
    if !x.started then some (x, [], r)
    else match r with
      | y :: l => if x.kind.product && y.kind.product && !y.started then some (y, [x], l) else none
      | [] => none
  | [] => none

/-- The next operation of a pair queue starts. -/
def State.xbarStart (s : State) (k p : Nat) : State :=
  let c := s.core k
  if c.ownPending || s.power.stopped then s else
  match toStart (c.pairQ p) with
  | none => s
  | some (op, before, after) =>
    match op.kind.start c p with
    | .error e => s.xbarFault k p op e
    | .ok kind => s.setCore k (c.setPairQ p (before ++ { op with kind := kind, started := true } :: after))

/-- XBAR_OP_START: R225. -/
def execXbarOpStart (core : CoreId) (pair : BitVec 3) (s : State) : Out := .next (s.xbarStart core.toNat pair.toNat)

/-! Completing (R213, R225, R228). -/

/-- The started head of a pair queue completes with effect `f`: CSEL acts, it leaves TS and makes its word's pushes; it waits
    where its token or a push finds no space, and while the clock is stopped (R20). `f` gives the state with the effect, or a fault. -/
def State.xbarFinish (s : State) (k p : Nat) (f : XOp → Except XErr State) : State :=
  match (s.core k).pairQ p with
  | op :: rest =>
    if !op.started || s.power.stopped then s else
    match f op with
    | .error e => s.xbarFault k p op e
    | .ok t =>
      match t.cselAct k op.csel op.num with
      | some u => if (u.core k).roomFor .T op.push then (u.upCore k fun c => c.setPairQ p rest).pushAt k .T op.push else s
      | none => s
  | [] => s

/-! xmvm (R229 to R231). -/

/-- The row of R224 for a product: what it raises, and whether the array drifts. -/
def productRow (a : XArr) (referr : BitVec 32) : Option Nat × Bool :=
  match a.st with
  | .unknown | .erased | .programmed => (some 3, false)
  | .faulty => (some 4, false)
  | .drifted => (some 1, false)
  | .ready =>
    let r := f32Val referr.toNat
    let m := f32Val a.ecal.toNat
    let half := (FVal.mul m (.fin false 1 (-1))).1
    if r.isNan || m.lt r then (some 2, true) else (none, half.lt r)

/-- A product's estimate z + err scaled and rounded, infinite where it overflows (R229): `lim` is the largest error the bound of R230 allows,
    and an error beyond it is not taken (log 13). -/
def estimate (sx sw rm lim : Nat) (z : Int) (num : Int) (den : Nat) : Nat :=
  match f32Val sx, f32Val sw with
  | .nan _, _ => fmtF32.dnan
  | .inf neg, _ => if z == 0 then fmtF32.dnan else fmtF32.infBits + (if neg != decide (z < 0) then fmtF32.signBit else 0)
  | .fin ns ms es, .fin _ mw ew =>
    let up := 2 ^ (es + ew).toNat
    let dn := 2 ^ (-(es + ew)).toNat
    let m := ms * mw * up
    let fits := match f32Val lim with
      | .fin _ ml el => decide (m * num.natAbs * 2 ^ (-el).toNat ≤ ml * 2 ^ el.toNat * dn * den)
      | _ => true
    let e : Int := z * den + (if fits then num else 0)
    let neg := ns != decide (e < 0)
    let (y, f) := fmtF32.roundRat rm neg (m * e.natAbs) (dn * den)
    if f &&& flOF != 0 then fmtF32.infBits + (if neg then fmtF32.signBit else 0) else y
  | .fin _ _ _, _ => fmtF32.dnan

/-- w1, xmax, eabs and the sum of R230 before the ulp term. -/
def betaBase (hi lo : XArr) (sx : Nat) (xs : List Int) : Nat :=
  let asx := absF32 sx
  let sw := hi.sw.toNat
  let eps := max hi.epsRel.toNat lo.epsRel.toNat
  let e := upF32 (FVal.add 0 (FVal.mul (intFVal 16) (f32Val hi.eAbs.toNat)).1 (f32Val lo.eAbs.toNat)).1
  let xm := (xs.map Int.natAbs).foldl max 0
  let w1 := upF32 (FVal.mul (f32Val sw) (intFVal hi.l1max.toNat)).1
  let xmax := upF32 (FVal.mul (f32Val asx) (intFVal xm)).1
  let eabs := upBound (FVal.mul (FVal.mul (f32Val asx) (f32Val sw)).1 (f32Val e)).1
  upAdd (upMul (upMul eps w1) xmax) eabs

/-- The bound of a product (R230). -/
def betaOf (base sx : Nat) (ys : List Nat) : Nat :=
  if notFinite sx || ys.any notFinite then fmtF32.infBits
  else upF32 (FVal.add 0 (f32Val base) (ulpVal ((ys.map absF32).foldl max 0))).1

/-- The eight registers of a product written (R229). -/
def Core.putProduct (c : Core) (d : Nat) (ys : List Nat) (beta : Nat) : Core :=
  (List.range 8).foldl (fun c r =>
    let v : VReg := .ofNat 2048 (pack (((ys.drop (64 * r)).take 64).map fun y => (32, y)))
    c.setVname (d + r) { val := v, bounded := true, bound := .ofNat 32 beta }) c

/-- A product completes: written and judged, or XDRIFT (R224, R229). -/
def State.xmvmDone (s : State) (k p : Nat) (d : Nat) (sx : BitVec 32) (rm : BitVec 2) (xs : List Int) : Except XErr State :=
  let c := s.core k
  let hi := c.array (2 * p)
  let lo := c.array (2 * p + 1)
  let rh := (Config.xbarRefErr s.seq (2 * p)) &&& 0x7FFFFFFF
  let rl := (Config.xbarRefErr s.seq (2 * p + 1)) &&& 0x7FFFFFFF
  let (bh, dh) := productRow hi rh
  let (bl, dl) := productRow lo rl
  let drift (a : XArr) (r : BitVec 32) : XArr := { a with st := .drifted, tdrift := .ofNat 64 s.us, referr := r }
  if bh.isSome || bl.isSome then
    .error (.drift ((bh <|> bl).getD 0) (if bh.isSome then 2 * p else 2 * p + 1))
  else
    let zs := (List.range 512).map fun j => ((List.range 512).zip xs).foldl (fun (z : Int) e => z + weightAt hi lo (512 * j + e.1) * e.2) 0
    let base := betaBase hi lo sx.toNat xs
    let ys := ((List.range 512).zip zs).map fun e =>
      estimate sx.toNat hi.sw.toNat rm.toNat base e.2 (Config.xbarErrNum s.seq e.1) (Config.xbarErrDen s.seq e.1 + 1)
    let c := c.putProduct d ys (betaOf base sx.toNat ys)
    let c := c.setArray (2 * p) (if dh then drift hi rh else { hi with referr := rh })
    .ok (s.setCore k (c.setArray (2 * p + 1) (if dl then drift lo rl else { lo with referr := rl })))

/-- The arrays of a pair after a product that raised XDRIFT: one whose row raises 0x02 drifts (R229). -/
def State.driftPair (s : State) (k p : Nat) : State :=
  [2 * p, 2 * p + 1].foldl (fun s n =>
    let a := (s.core k).array n
    let r := (Config.xbarRefErr s.seq n) &&& 0x7FFFFFFF
    if (productRow a r).1 == some 2 then s.upCore k fun c => c.setArray n { a with st := .drifted, tdrift := .ofNat 64 s.us, referr := r } else s) s

/-- A product at the head of a pair queue completes. -/
def State.xmvmComplete (s : State) (k p : Nat) : State :=
  if s.power.stopped then s else
  match (s.core k).pairQ p with
  | op :: _ =>
    match op.kind with
    | .xmvmRun d sx rm xs =>
      match s.xmvmDone k p d sx rm xs with
      | .error e => (s.driftPair k p).xbarFault k p op e
      | .ok t => s.xbarFinish k p fun _ => .ok t
    | _ => s
  | [] => s

/-- XMVM_COMPLETE: R229. -/
def execXmvmComplete (core : CoreId) (pair : BitVec 3) (s : State) : Out := .next (s.xmvmComplete core.toNat pair.toNat)

/-! xprog, xverify, xcal, xerase (R233 to R236). -/

/-- L1MAX of weights (R222). -/
def l1Max (bs : List Byte) : Nat :=
  ((List.range 512).map fun j => (((bs.drop (512 * j)).take 512).map fun b => b.toInt.natAbs).foldl (· + ·) 0).foldl max 0

/-- The cells an xprog leaves in an array: `lvl` of each weight, but a free level where a cell is out of tolerance; and how many
    are (R233; log 14). -/
def progCells (seq base : Nat) (bs : List Byte) (lvl free : Byte → BitVec 8) : Sparse (BitVec 8) × Nat :=
  ((List.range bs.length).zip bs).foldl (fun st e =>
    if Config.xprogBad seq (base + e.1) then (sset 0 st.1 e.1 (free (Config.xprogCell seq (base + e.1))), st.2 + 1)
    else (sset 0 st.1 e.1 (lvl e.2), st.2)) ([], 0)

/-- The signed level of the high cell (R221). -/
def highLevel (b : Byte) : BitVec 8 := b.sshiftRight 4
/-- The level of the low cell. -/
def lowLevel (b : Byte) : BitVec 8 := b &&& 0x0F

/-- A crossbar error-log record (R224). -/
def State.xbarRecord (s : State) (k array : Nat) : State :=
  let n := (s.core k).ctxNum
  s.logError 7 2 (unitCore k) (some (n, (s.ctx n).kdom.toNat)) 0 [BitVec.ofNat 8 array]

/-- xprog completes (R224, R233). -/
def State.xprogDone (s : State) (k p : Nat) (sw : BitVec 32) (bs : List Byte) : State :=
  let (ch, nh) := progCells s.seq 0 bs highLevel highLevel
  let (cl, nl) := progCells s.seq 0x40000 bs lowLevel lowLevel
  let ok := nh == 0 && nl == 0
  let up (a : XArr) (cells : Sparse (BitVec 8)) (n : Nat) : XArr :=
    let a := { a with cells := cells, errc := .ofNat 32 n, lastop := 1 }
    if ok then { a with st := .programmed, sw := sw, l1max := .ofNat 32 (l1Max bs) } else { a with st := .faulty }
  let s := s.upCore k fun c => (c.setArray (2 * p) (up (c.array (2 * p)) ch nh)).setArray (2 * p + 1) (up (c.array (2 * p + 1)) cl nl)
  if ok then s else s.xbarRecord k (2 * p)

/-- XPROG_COMPLETE: R233. -/
def execXprogComplete (core : CoreId) (pair : BitVec 3) (s : State) : Out :=
  .next (match (s.core core.toNat).pairQ pair.toNat with
    | { kind := .xprogRun sw bs, .. } :: _ => s.xbarFinish core.toNat pair.toNat fun _ => .ok (s.xprogDone core.toNat pair.toNat sw bs)
    | _ => s)

/-- Weights that differ from those expected by more than TOL (R234). -/
def misread (hi lo : XArr) (tol : Nat) (bs : List Byte) : Nat :=
  (((List.range bs.length).zip bs).filter fun e => decide ((weightAt hi lo e.1 - e.2.toInt).natAbs > tol)).length

/-- xverify completes (R234). -/
def State.xverifyDone (s : State) (k p : Nat) (tol : BitVec 4) (bs : List Byte) : State :=
  s.upCore k fun c =>
    let n : BitVec 32 := .ofNat 32 (misread (c.array (2 * p)) (c.array (2 * p + 1)) tol.toNat bs)
    (c.setArray (2 * p) { c.array (2 * p) with errc := n, lastop := 4 }).setArray (2 * p + 1) { c.array (2 * p + 1) with errc := n, lastop := 4 }

/-- XVERIFY_COMPLETE: R234. -/
def execXverifyComplete (core : CoreId) (pair : BitVec 3) (s : State) : Out :=
  .next (match (s.core core.toNat).pairQ pair.toNat with
    | { kind := .xverifyRun tol bs, .. } :: _ => s.xbarFinish core.toNat pair.toNat fun _ => .ok (s.xverifyDone core.toNat pair.toNat tol bs)
    | _ => s)

/-- A measured correction of every column, canonical. -/
def measured (seq field n : Nat) : Sparse (BitVec 32) := (List.range n).foldl (fun m c => sset 0 m c (Config.xcalValue seq field c)) []

/-- A positive, finite f32 with the bits of a measured value (R230). -/
def finiteBits (v : BitVec 32) : BitVec 32 := v &&& (if (v >>> 23) &&& 0xFF == 0xFF then 0x7F7FFFFF else 0x7FFFFFFF)

/-- xcal completes (R224, R235): ECAL, E_ABS and the corrections are what the part measures (log 14). -/
def State.xcalDone (s : State) (k n : Nat) : State :=
  let ecal := (Config.xcalValue s.seq 2 0) &&& 0x7FFFFFFF
  let a := { (s.core k).array n with lastop := 2 }
  if ecal.toNat ≤ 0x3C000000 then
    s.upCore k fun c => c.setArray n { a with
      st := .ready, gain := measured s.seq 9 512, offset := measured s.seq 10 512, ref := measured s.seq 11 8, ecal := ecal,
      epsRel := .ofNat 32 (upF32 (FVal.mul (f32Val ecal.toNat) (intFVal 2)).1), eAbs := finiteBits (Config.xcalValue s.seq 3 0),
      tcal := .ofNat 64 s.us, referr := 0 }
  else (s.upCore k fun c => c.setArray n { a with st := .faulty }).xbarRecord k n

/-- XCAL_COMPLETE: R235. -/
def execXcalComplete (core : CoreId) (pair : BitVec 3) (s : State) : Out :=
  .next (match (s.core core.toNat).pairQ pair.toNat with
    | { kind := .xcal xb, .. } :: _ => s.xbarFinish core.toNat pair.toNat fun _ => .ok (s.xcalDone core.toNat xb.toNat)
    | _ => s)

/-- An erased array (R223, R224, R236). -/
def XArr.erase (a : XArr) : XArr := { XArr.reset with st := .erased, lastop := 3, owner := a.owner }

/-- XERASE_COMPLETE: R236. -/
def execXeraseComplete (core : CoreId) (pair : BitVec 3) (s : State) : Out :=
  .next (match (s.core core.toNat).pairQ pair.toNat with
    | { kind := .xerase xb, .. } :: _ =>
      s.xbarFinish core.toNat pair.toNat fun _ => .ok (s.upCore core.toNat fun c => c.setArray xb.toNat (c.array xb.toNat).erase)
    | _ => s)

/-! xstat (R237). -/

/-- A field of an array. -/
def XArr.field (a : XArr) (f col : Nat) : Word :=
  match f with
  | 0 => .ofNat 64 a.status
  | 1 => a.epsRel.setWidth 64
  | 2 => a.ecal.setWidth 64
  | 3 => a.eAbs.setWidth 64
  | 4 => a.l1max.setWidth 64
  | 5 => a.sw.setWidth 64
  | 6 => a.referr.setWidth 64
  | 7 => a.tcal
  | 8 => a.tdrift
  | 9 => (sget 0 a.gain col).setWidth 64
  | 10 => (sget 0 a.offset col).setWidth 64
  | _ => (sget 0 a.ref col).setWidth 64

/-- XSTAT_COMPLETE: R237. -/
def execXstatComplete (core : CoreId) (pair : BitVec 3) (s : State) : Out :=
  .next (match (s.core core.toNat).pairQ pair.toNat with
    | { kind := .xstat xb d field col, .. } :: _ =>
      s.xbarFinish core.toNat pair.toNat fun _ =>
        .ok (s.setRegAt core.toNat .T d (((s.core core.toNat).array xb.toNat).field field.toNat col.toNat))
    | _ => s)

/-! The words at issue (R225, R228, R305). -/

/-- An operation joins its pair's queue. -/
def Core.enqX (c : Core) (p : Nat) (csel : BitVec 8) (push : BitVec 2) (kind : XKind) : Core :=
  { c.setPairQ p (c.pairQ p ++ [{ num := c.xcount, order := c.xorder, csel := csel, push := push, kind := kind, started := false }]) with
      xcount := c.xcount + 1, xorder := c.xorder + 1 }

/-- A class 5 word at issue: PRIV when an array it acts on does not record the context (R305). -/
def xIssue (i : Instr) (arrays : List Nat) (p : Nat) (csel : BitVec 8) (kind : State → XKind) (s : State) : Eff :=
  let c := s.mine
  let ctx : CtxId := .ofNat 6 c.ctxNum
  if arrays.any fun n => (c.array n).owner != some ctx then privNow s i
  else
    let push := if i.pushesLater then Instr.entryPush i else 0
    let k := kind s
    .ok (s.upMine fun c => c.enqX p csel push k)

/-- The arrays of a pair. -/
def pairOf (p : BitVec 3) : List Nat := [2 * p.toNat, 2 * p.toNat + 1]

/-- xprog: R233. -/
def execXprog (h : Hdr) (pair : BitVec 3) (a b : Reg) (csel : BitVec 8) (s : State) : Out :=
  issue s (.xprog h pair a b csel) (xIssue (.xprog h pair a b csel) (pairOf pair) pair.toNat csel fun _ => .xprog a b)

/-- xverify: R234. -/
def execXverify (h : Hdr) (pair : BitVec 3) (a : Reg) (tol : BitVec 4) (csel : BitVec 8) (s : State) : Out :=
  issue s (.xverify h pair a tol csel) (xIssue (.xverify h pair a tol csel) (pairOf pair) pair.toNat csel fun _ => .xverify a tol)

/-- xcal: R235. -/
def execXcal (h : Hdr) (xb : BitVec 4) (csel : BitVec 8) (s : State) : Out :=
  issue s (.xcal h xb csel) (xIssue (.xcal h xb csel) [xb.toNat] (xb.toNat / 2) csel fun _ => .xcal xb)

/-- xmvm: R229. -/
def execXmvm (h : Hdr) (pair : BitVec 3) (d : BitVec 10) (a b : Reg) (p : BitVec 3) (sgn : Bool) (rm : BitVec 2) (csel : BitVec 8) (s : State) : Out :=
  issue s (.xmvm h pair d a b p sgn rm csel)
    (xIssue (.xmvm h pair d a b p sgn rm csel) (pairOf pair) pair.toNat csel
      fun s => .xmvm d.toNat (s.reg a).toNat ((s.reg b).setWidth 32) (p.toNat + 1) sgn rm)

/-- xstat: R237. -/
def execXstat (h : Hdr) (xb : BitVec 4) (d : Reg) (field : BitVec 4) (col : BitVec 9) (s : State) : Out :=
  issue s (.xstat h xb d field col) (xIssue (.xstat h xb d field col) [xb.toNat] (xb.toNat / 2) 0 fun _ => .xstat xb d field col)

/-- xerase: the array records the context at issue (R236, R305). -/
def execXerase (h : Hdr) (xb : BitVec 4) (csel : BitVec 8) (s : State) : Out :=
  issue s (.xerase h xb csel) fun s =>
    let ctx : CtxId := .ofNat 6 s.mine.ctxNum
    .ok (s.upMine fun c =>
      (c.setArray xb.toNat { c.array xb.toNat with owner := some ctx }).enqX (xb.toNat / 2) csel 0 (.xerase xb))

end Sys2Proof.Machine
end

