-- ==== Sys2Proof/Machine/Copy.lean ====
section
/-! DEFINITION. The copy engine of a core: appended entries, their start and completion, and tiles that ownt returns (R251 to
    R260, R278, R376 to R379). -/

namespace Sys2Proof.Machine

open Sys2Proof

/-! Entries (R253, R254). An entry is the number its 512 bits hold. -/

/-- OP. -/
def ceOp (e : Nat) : Nat := bits e 7 0
/-- CRC. -/
def ceCrc (e : Nat) : Bool := bit e 8
/-- ARR. -/
def ceArr (e : Nat) : Bool := bit e 9
/-- SSTART. -/
def ceSstart (e : Nat) : Bool := bit e 10
/-- RET. -/
def ceRet (e : Nat) : Bool := bit e 11
/-- GEN. -/
def ceGen (e : Nat) : Bool := bit e 12
/-- FLAG. -/
def ceFlag (e : Nat) : Bool := bit e 13
/-- FENCE. -/
def ceFence (e : Nat) : Bool := bit e 14
/-- BLV. -/
def ceBlv (e : Nat) : Nat := bits e 17 16
/-- BAR. -/
def ceBar (e : Nat) : Nat := bits e 25 18
/-- OPX. -/
def ceOpx (e : Nat) : Nat := bits e 31 26
/-- SRC. -/
def ceSrc (e : Nat) : Nat := bits e 127 64
/-- DST. -/
def ceDst (e : Nat) : Nat := bits e 191 128
/-- LEN0. -/
def ceLen (e : Nat) : Nat := bits e 223 192
/-- N1; 0 reads as 1. -/
def ceN1 (e : Nat) : Nat := max 1 (bits e 239 224)
/-- N2; 0 reads as 1. -/
def ceN2 (e : Nat) : Nat := max 1 (bits e 255 240)
/-- SSTR1. -/
def ceSs1 (e : Nat) : Nat := bits e 287 256
/-- DSTR1. -/
def ceDs1 (e : Nat) : Nat := bits e 319 288
/-- SSTR2. -/
def ceSs2 (e : Nat) : Nat := bits e 351 320
/-- DSTR2. -/
def ceDs2 (e : Nat) : Nat := bits e 383 352
/-- FLAGAT. -/
def ceFlagAt (e : Nat) : Nat := bits e 415 384
/-- COMPL. -/
def ceCompl (e : Nat) : Nat := bits e 447 416
/-- FLAGVAL. -/
def ceFlagVal (e : Nat) : Nat := bits e 511 448

/-- SPACE, H, CORE and ADDR of an endpoint (R253). -/
def epSpace (v : Nat) : Nat := bits v 63 62
/-- H. -/
def epH (v : Nat) : Reg := .ofNat 5 (bits v 61 57)
/-- CORE. -/
def epCore (v : Nat) : Nat := bits v 56 49
/-- ADDR. -/
def epAddr (v : Nat) : Nat := bits v 21 0

/-- A copy or a raw copy. -/
def isCopy (e : Nat) : Bool := ceOp e == 0 || ceOp e == 5

/-- Bytes of the source's and the destination's extent; 0 where the command does not use the endpoint (R256). -/
def srcExtent (e : Nat) : Nat :=
  if isCopy e then (ceN2 e - 1) * (if ceGen e then 0 else ceSs2 e) + (ceN1 e - 1) * ceSs1 e + ceLen e
  else match ceOp e with
  | 2 => ceN1 e * ceLen e
  | 3 => ceLen e
  | 4 => 2 ^ 21
  | _ => 0

/-- The destination's. -/
def dstExtent (e : Nat) : Nat :=
  if isCopy e then (ceN2 e - 1) * ceDs2 e + (ceN1 e - 1) * ceDs1 e + ceLen e
  else match ceOp e with
  | 1 => ceN1 e * ceLen e
  | 4 => 2 ^ 21
  | _ => 0

/-- Rows as (offset in the source, offset in the destination) (R256). -/
def rowOffs (e : Nat) : List (Nat × Nat) :=
  (List.range (ceN2 e)).flatMap fun p => (List.range (ceN1 e)).map fun r =>
    (p * (if ceGen e then 0 else ceSs2 e) + r * ceSs1 e, p * ceDs2 e + r * ceDs1 e)

/-- A power of two from 4 to 4,096. -/
def elementSize (n : Nat) : Bool := (List.range 11).any fun i => n == 2 ^ (i + 2)

/-- A malformed entry (R255). -/
def ceMalformed (e : Nat) : Bool :=
  let src := ceSrc e
  let dst := ceDst e
  let off := epAddr src
  let useS := srcExtent e != 0
  let useD := dstExtent e != 0
  decide (ceOp e > 5) || ceBlv e == 3 || ceLen e == 0 || (useS && epSpace src == 3) || (useD && epSpace dst == 3)
    || (ceOp e == 2 && decide (bits (ceOpx e) 3 2 ≥ 2))
    || (useS && epSpace src == 1 && decide (off % 2 ^ 21 != off ∨ off + srcExtent e > 2 ^ 21))
    || (useD && epSpace dst == 1 && decide (epAddr dst + dstExtent e > 2 ^ 21))
    || ((ceOp e == 1 || ceOp e == 2) && !elementSize (ceLen e))
    || (ceGen e && !((ceOp e == 0 && ceN1 e == 1 && ceN2 e == 1 && epSpace src == 1 && off % 512 == 0 && ceLen e % 512 == 0)
        || (ceOp e == 1 && decide (ceLen e ≤ 512))))
    || (ceOp e == 3 && (epSpace src != 1 || off % 512 != 0 || ceLen e % 512 != 0))
    || (ceOp e == 4 && (epSpace src != 1 || epSpace dst != 1))
    || (ceArr e && ((ceBlv e == 0 && decide (ceBar e > 15)) || (ceBlv e == 1 && decide (ceBar e > 63))))

/-- Units that FIRST and COUNT count (R258). -/
def ceUnits (e : Nat) : Nat :=
  match ceOp e with
  | 1 | 2 => ceN1 e
  | 3 => (ceLen e + 511) / 512
  | 4 => 1
  | _ => if ceGen e && ceOp e == 0 then (ceLen e + 511) / 512 else ceN1 e * ceN2 e

/-- Local bytes of payload, index, generations and status (R255, R257). -/
def localRanges (e : Nat) : List (Nat × Nat) :=
  let rows (base : Nat) (sel : Nat × Nat → Nat) : List (Nat × Nat) := (rowOffs e).map fun r => (base + sel r, ceLen e)
  (if srcExtent e != 0 && epSpace (ceSrc e) == 0 then
      (if isCopy e then rows (epAddr (ceSrc e)) (·.1) else [(epAddr (ceSrc e), srcExtent e)]) else [])
  ++ (if dstExtent e != 0 && epSpace (ceDst e) == 0 then
      (if isCopy e then rows (epAddr (ceDst e)) (·.2) else [(epAddr (ceDst e), dstExtent e)]) else [])
  ++ (if ceOp e == 1 || ceOp e == 2 then [(ceSs1 e, 8 * ceN1 e)] else [])
  ++ (if ceOp e == 1 then [(ceDs2 e, (ceN1 e + 7) / 8)] else [])
  ++ (if ceGen e then [(ceSs2 e, 2 * (if ceOp e == 1 then ceN1 e else ceLen e / 512))] else [])

/-- Peer bytes that the endpoints name: core, address, length. -/
def peerSide (e ep ext : Nat) (sel : Nat × Nat → Nat) : List (Nat × Nat × Nat) :=
  if ext == 0 || epSpace ep != 2 then []
  else if isCopy e then (rowOffs e).map fun r => (epCore ep, epAddr ep + sel r, ceLen e)
  else [(epCore ep, epAddr ep, ext)]

/-- The flag word's core and address; the core is the command's own unless FLAGAT names another (R253). -/
def flagPlace (k e : Nat) : Nat × Nat := (if bit (ceFlagAt e) 30 then bits (ceFlagAt e) 29 22 else k, bits (ceFlagAt e) 21 0)

/-- Index entry `j` of a gath or scat. -/
def indexAt (c : Core) (e j : Nat) : Nat := ofBytes (c.spRead (ceSs1 e + 8 * j) 8)

/-- Peer bytes that a command in flight will write: endpoints and scatter targets (R251, R278). -/
def peerDests (cmd : CopyCmd) (e : Nat) : List (Nat × Nat × Nat) :=
  peerSide e (ceDst e) (dstExtent e) (·.2)
  ++ (if ceOp e == 2 then cmd.elems.filterMap fun x =>
        if bit x.1.toNat 63 then some (bits x.1.toNat 55 48, bits x.1.toNat 21 0, ceLen e) else none
      else [])

/-! Where a command reports (R255, R257, R276). -/

/-- A core belongs to a context. -/
def State.inCtx (s : State) (ctx core : Nat) : Bool := (s.ctx ctx).coreList.contains core

/-- Bytes of a core's scratchpad lie within it, in tiles of an owner. -/
def State.inTiles (s : State) (core : Nat) (o : BitVec 3) (a n : Nat) : Bool := decide (a + n ≤ spSize) && (s.core core).owned o a n

/-- The tiles that a command's completion record, flag word and status bitmap lie in, as its start finds them (R255, R276). -/
def State.withMarks (s : State) (k : Nat) (cmd : CopyCmd) (e : Nat) : CopyCmd :=
  let (fc, fa) := flagPlace k e
  { cmd with
    complOk := decide (cmd.addr < spSize) && s.inTiles k ownThread (ceCompl e) 16,
    flagOk := ceFlag e && s.inCtx cmd.ctx.toNat fc && s.inTiles fc ownThread fa 8,
    bitsOk := ceOp e == 1 && s.inTiles k ownCopy (ceDs2 e) ((ceN1 e + 7) / 8) }

/-! Appending (R252). -/

/-- A command as it joins the chain, with the placement tag of its core's quad. -/
def CopyCmd.fresh (seq : Nat) (ctx : CtxId) (addr tag : Nat) : CopyCmd :=
  { seq := seq, ctx := ctx, addr := addr, released := false, aborted := false, entry := none, status := 0, handles := [], elems := [], complOk := false, flagOk := false,
    bitsOk := false, tag := tag }

/-- The placement tag of a quad: 0 where no group holds it (R341). -/
def State.quadTag (s : State) (q : Nat) : Nat := match sget none s.quads q with | some x => x.tag | none => 0

/-- An entry written into the chain: its bytes, the old tail's LINK, the tail and the number. -/
def Core.appendEntry (c : Core) (tag a : Nat) (block : List Byte) : Core :=
  let c := c.spWrite a (allOf (block.take 4 ++ toBytes 4 0xFFFFFFFF ++ block.drop 8))
  let c := match c.cpTail with
    | some t => if t == a then c else c.spWrite (t + 4) (allOf (toBytes 4 a))
    | none => c
  { c with
      cpTail := some a, cpNext := c.cpNext + 1,
      cp := c.cp ++ [CopyCmd.fresh c.cpNext (.ofNat 6 c.ctxNum) a tag] }

/-- cpq, gath and scat: `op` replaces the block's OP byte (R252). -/
def cpqBody (d a b : Reg) (op : Option Byte) (s : State) : Eff :=
  let x := (s.reg a).toNat
  let y := (s.reg b).toNat
  if x % 64 != 0 || x + 64 > spSize then alignTrap x
  else if y % 64 != 0 || y + 64 > spSize then alignTrap y
  else if !s.mine.owned ownThread y 64 then .trap .owner 0 (operandAddr y (s.mine.wrongOwner ownThread y 64))
  else if !s.mine.owned ownCopy x 64 then .trap .owner 0 (operandAddr x (s.mine.wrongOwner ownCopy x 64))
  else
    let block := s.mine.spRead y 64
    let block := match op with | some o => o :: block.drop 1 | none => block
    let n := s.mine.cpNext
    (s.upMine fun c => c.appendEntry (s.quadTag (quadOf s.cur.toNat)) x block).put 4 d (.ofNat 64 n)

/-- cpq: R252. -/
def execCpq (h : Hdr) (d a b : Reg) (s : State) : Out := issue s (.cpq h d a b) (cpqBody d a b none)

/-- gath: R252. -/
def execGath (h : Hdr) (d a b : Reg) (s : State) : Out := issue s (.gath h d a b) (cpqBody d a b (some 1))

/-- scat: R252. -/
def execScat (h : Hdr) (d a b : Reg) (s : State) : Out := issue s (.scat h d a b) (cpqBody d a b (some 2))

/-- The addresses reached by following LINK `n` times. -/
def followLinks (c : Core) : Nat → Option Nat → List (Option Nat)
  | 0, _ => []
  | n + 1, a =>
    let next := match a with
      | some x => if x + 64 > spSize then none else
          let l := ofBytes (c.spRead (x + 4) 4)
          if l == 2 ^ 32 - 1 || l + 64 > spSize then none else some l
      | none => none
    next :: followLinks c n next

/-- cptail: n entries already linked join the chain, or complete ABORTED when the last is not at s(a) (R252). -/
def cptailBody (d a : Reg) (n : Nat) (s : State) : Eff :=
  let x := (s.reg a).toNat
  let c := s.mine
  let l := followLinks c n c.cpTail
  let ok := l.getLast? == some (some x)
  let cmds : List CopyCmd := ((List.range n).zip l).map fun e =>
    let cmd := CopyCmd.fresh (c.cpNext + e.1) (.ofNat 6 c.ctxNum) (e.2.getD spSize) (s.quadTag (quadOf s.cur.toNat))
    let img := match e.2 with | some y => ofBytes (c.spRead y 64) | none => 0
    if ok then { cmd with status := 8 } else { s.withMarks s.cur.toNat cmd img with aborted := true, status := 8, entry := some (.ofNat 512 img) }
  (s.upMine fun c => { c with cp := c.cp ++ cmds, cpNext := c.cpNext + n, cpTail := some x }).put 4 d (.ofNat 64 (c.cpNext + n - 1))

/-- cptail: R252. -/
def execCptail (h : Hdr) (d a : Reg) (n : BitVec 8) (s : State) : Out := issue s (.cptail h d a n) (cptailBody d a n.toNat)

/-! Starting (R255). -/

/-- What an index entry names. -/
inductive Elem
  | peer (core addr : Nat)
  | glob (h : Reg) (off : Nat)
  | remote (dev entry off : Nat)

/-- An index entry read (R256, R378). -/
def elemOf (x : Nat) : Elem :=
  if bit x 63 then .peer (bits x 55 48) (bits x 21 0)
  else if bit x 62 then .remote (bits x 61 52) (bits x 51 40) (bits x 20 0)
  else .glob (.ofNat 5 (bits x 60 56)) (bits x 20 0)

/-- A command's handle, as its core's register held it at the start (R255). -/
def CopyCmd.handle (cmd : CopyCmd) (r : Reg) : BitVec 128 := sget 0 cmd.handles r.toNat

/-- Element `j` of a started gath or scat, and the status its peer had at the start. -/
def CopyCmd.elem (cmd : CopyCmd) (j : Nat) : Elem × Nat := let x := cmd.elems.getD j (0, 0); (elemOf x.1.toNat, x.2.toNat)

/-- The status of a peer element: its core is of the context, and its tiles hold COPY (R255, R276); 0 for other elements. -/
def State.peerStatus (s : State) (ctx n : Nat) : Elem → Nat
  | .peer c a =>
    if !s.inCtx ctx c then 6 else if a % n != 0 then 5
    else if !s.inTiles c ownCopy a n then 4 else 0
  | _ => 0

/-- The index entries of a gath or scat with the status each peer has now. -/
def State.elemsNow (s : State) (k ctx e : Nat) : List (BitVec 64 × BitVec 8) :=
  if ceOp e == 1 || ceOp e == 2 then
    (List.range (ceN1 e)).map fun j => let x := indexAt (s.core k) e j; (.ofNat 64 x, .ofNat 8 (s.peerStatus ctx (ceLen e) (elemOf x)))
  else []

/-- The element's handle raises HANDLE (R255). An element that is not fetched, being misaligned, uses no handle (R256). -/
def elemHandle (cmd : CopyCmd) (e : Nat) : Elem → Option (BitVec 128 × Nat)
  | .glob h off =>
    let x := cmd.handle h
    if off % ceLen e == 0 && (!hValid x || (if ceOp e == 2 then !hWrite x else !hRead x)) then some (x, off) else none
  | _ => none

/-- The first handle that raises HANDLE, with its offset: an endpoint's, or an element's (R255). -/
def badHandle (c : CopyCmd) (e : Nat) : Option (BitVec 128 × Nat) :=
  let hs := c.handle (epH (ceSrc e))
  let hd := c.handle (epH (ceDst e))
  if srcExtent e != 0 && epSpace (ceSrc e) == 1 && (!hValid hs || (if ceOp e == 3 then !hWrite hs else !hRead hs)) then some (hs, epAddr (ceSrc e))
  else if dstExtent e != 0 && epSpace (ceDst e) == 1 && (!hValid hd || !hWrite hd) then some (hd, epAddr (ceDst e))
  else (List.range c.elems.length).findSome? fun j => elemHandle c e (c.elem j).1

/-- The status a command has at its start, its own tile checked too: 8 ABORTED, 4 OWNER_FAULT, 6 REMOTE_UNREACHABLE, else 0 (R255, R258). -/
def State.startStatus (s : State) (k : Nat) (cmd : CopyCmd) (e : Nat) : Nat :=
  let ctx := cmd.ctx.toNat
  let peers := peerSide e (ceSrc e) (srcExtent e) (·.1) ++ peerSide e (ceDst e) (dstExtent e) (·.2)
  let (fc, fa) := flagPlace k e
  if ceMalformed e then 8
  else if !s.inTiles k ownCopy cmd.addr 64 || !(localRanges e).all (fun r => s.inTiles k ownCopy r.1 r.2)
    || (peers.any fun p => s.inCtx ctx p.1 && !s.inTiles p.1 ownCopy p.2.1 p.2.2)
    || !s.inTiles k ownThread (ceCompl e) 16
    || (ceFlag e && s.inCtx ctx fc && !s.inTiles fc ownThread fa 8) then 4
  else if (peers.any fun p => !s.inCtx ctx p.1) || (ceFlag e && !s.inCtx ctx fc) then 6
  else 0

/-- The first command not started, with those before and after it. -/
def splitCp : List CopyCmd → Option (List CopyCmd × CopyCmd × List CopyCmd)
  | [] => none
  | c :: r => if c.entry.isNone then some ([], c, r) else (splitCp r).map fun x => (c :: x.1, x.2)

/-- The next entry of a core's chain starts (R255): it is read with its handles and its index entries, and checked. A tile whose new owner
    is still on its way holds the start back (R276). -/
def State.copyStart (s : State) (k : Nat) : State :=
  let c := s.core k
  match splitCp c.cp with
  | none => s
  | some (before, cmd, after) =>
    let e := ofBytes (c.spRead cmd.addr 64)
    if before.length ≥ 16 || c.ownPending || !s.engineMayStart k cmd.ctx.toNat || (ceSstart e && !cmd.released) || (ceFence e && !before.isEmpty) then s
    else
      let st := s.startStatus k cmd e
      let run : CopyCmd := { s.withMarks k cmd e with entry := some (.ofNat 512 e), handles := c.h, elems := if st == 0 then s.elemsNow k cmd.ctx.toNat e else [] }
      let go (st : Nat) : State := s.setCore k { c with cp := before ++ { run with status := .ofNat 8 st } :: after }
      match if st == 8 then none else badHandle run e with
      | some (h, off) => (go 8).engineHandle k cmd.ctx.toNat 1 cmd.seq h off
      | none => go st

/-- COPY_ENTRY_START: R255. -/
def execCopyEntryStart (core : CoreId) (s : State) : Out := .next (s.copyStart core.toNat)

/-! Payload (R256). -/

/-- A place that payload is read from or written to. -/
inductive CPlace
  | sp (core addr : Nat)
  | mem (h : BitVec 128) (off : Nat)

/-- An endpoint's place at an offset. -/
def placeOf (k : Nat) (c : CopyCmd) (ep off : Nat) : CPlace :=
  match epSpace ep with
  | 0 => .sp k (epAddr ep + off)
  | 1 => .mem (c.handle (epH ep)) (epAddr ep + off)
  | _ => .sp (epCore ep) (epAddr ep + off)

/-- Bytes read with their poison marks: global ones at home, stored bytes when `raw` (R97, R260). -/
def State.cRead (s : State) (kd : BitVec 8) (raw : Bool) (p : CPlace) (n : Nat) : State × List (Byte × Bool) :=
  match p with
  | .sp c a => (s, (List.range n).map fun i => ((s.core c).spByte (a + i), sget false (s.core c).spPoison (a + i)))
  | .mem h off => if raw then s.homeRead (s.frameAcc (hFrame h) (hAttr h kd)) off n else s.pageRead h kd off n

/-- The status of a failing read through a place: DICT_ERROR through the codec, else POISON_READ (R102, R258). -/
def readFail (raw : Bool) : CPlace → Nat
  | .mem h _ => if hRc h && !raw then 7 else 2
  | _ => 2

/-- A line that holds byte `o` of an access's page is marked poisoned. -/
def State.poisonAt (s : State) (acc : Acc) (o : Nat) : State :=
  let l := s.lineNo acc o
  if (s.line l).poisoned || !s.reach acc o then s
  else ({ s with lines := sset LineSt.reset s.lines l { s.line l with poisoned := true } }).upRecAt acc o DRec.found

/-- Lines of bytes written poisoned are marked poisoned, at both locations of a copied line (R256, R281, R410). -/
def State.poisonLines (s : State) (acc : Acc) (off : Nat) (marks : List Bool) : State :=
  let bad := (((List.range marks.length).zip marks).filter (·.2)).map fun e => (off + e.1) / 128
  bad.eraseDups.foldl (fun s l => s.both acc (128 * l) fun t a => t.poisonAt a (128 * l)) s

/-- Bytes written with their poison marks: global ones at home (R256, R260). -/
def State.cWrite (s : State) (k : Nat) (kd : BitVec 8) (p : CPlace) (bs : List (Byte × Bool)) : State :=
  match p with
  | .sp c a =>
    let s := s.upCore c fun x =>
      let x := x.spWrite a (allOf (bs.map (·.1)))
      ((List.range bs.length).zip bs).foldl (fun x e => if e.2.2 then x.spMark (a + e.1) 1 else x) x
    s.recheck c
  | .mem h off =>
    let s := s.engineWrite k h kd off (allOf (bs.map (·.1)))
    s.poisonLines (s.frameAcc (hFrame h) (hAttr h kd)) off (bs.map (·.2))

/-- A command at work: the state, the statuses met with their units in order, the payload bytes written, and the elements that
    failed. -/
structure CRun where
  s : State
  sts : List (Nat × Nat)
  bytes : Nat

/-- A status noted. -/
def CRun.fail (r : CRun) (st unit : Nat) : CRun := { r with sts := r.sts ++ [(st, unit)] }

/-- GEN of the record of the block at `off` of a handle's page (R110). -/
def State.genAt (s : State) (h : BitVec 128) (off : Nat) : State × Nat :=
  let s := s.loadRecAt h off
  (s, (DRec.ofBits (s.readRec h off)).gen)

/-- The generation expected of unit `i`. -/
def genWant (c : Core) (e i : Nat) : Nat := ofBytes (c.spRead (ceSs2 e + 2 * i) 2)

/-- A copy without generations: row by row (R256). -/
def copyRows (k : Nat) (c : CopyCmd) (kd : BitVec 8) (e : Nat) (r : CRun) : CRun :=
  let raw := ceOp e == 5
  let rows := rowOffs e
  ((List.range rows.length).zip rows).foldl (fun r x =>
    let src := placeOf k c (ceSrc e) x.2.1
    let (s, bs) := r.s.cRead kd raw src (ceLen e)
    let r := { r with s := s.cWrite k kd (placeOf k c (ceDst e) x.2.2) bs, bytes := r.bytes + bs.length }
    if bs.any (·.2) then r.fail (readFail raw src) x.1 else r) r

/-- A copy with generations: block by block, data and GEN of one moment (R110). -/
def copyGen (k : Nat) (c : CopyCmd) (kd : BitVec 8) (e : Nat) (r : CRun) : CRun :=
  (List.range (ceLen e / 512)).foldl (fun r i =>
    let h := c.handle (epH (ceSrc e))
    let off := epAddr (ceSrc e) + 512 * i
    let want := genWant (r.s.core k) e i
    let (s, bs) := r.s.cRead kd false (.mem h off) 512
    let (s, gen) := s.genAt h off
    let changed := gen != want
    let r := { r with s := s.cWrite k kd (placeOf k c (ceDst e) (512 * i)) bs, bytes := r.bytes + 512 }
    let r := if bs.any (·.2) then r.fail (readFail false (.mem h off)) i else r
    if changed then r.fail 3 i else r) r

/-! Exported pages (R377, R378). -/

/-- An export entry that a request may use: valid, allowed, and of a context that stands (R377, R378). -/
def State.exportOk (s : State) (n : Nat) (write : Bool) : Bool :=
  let e := (sget 0 s.exports n).toNat
  bit e 127 && (if write then bit e 125 else bit e 126)
    && !(bit e 124 && (bits e 123 122 == 0 || bits e 123 122 == 3))
    && (match (s.ctx (bits e 69 64)).st with | .free | .faulted | .sealing => false | _ => true)

/-- The access an export entry names (R377). -/
def State.exportAcc (s : State) (n : Nat) : Acc :=
  let f := bits (sget 0 s.exports n).toNat 27 0
  { s.frameAcc f { kd := (s.ctx (bits (sget 0 s.exports n).toNat 69 64)).kdom, kind := 0, etype := 0 } with attr := none }

/-- The arrival of an export entry with ARR (R377, R379). -/
def State.exportArrive (s : State) (n : Nat) (tainted : Bool) : State :=
  let e := (sget 0 s.exports n).toNat
  if !bit e 127 || !bit e 124 || bits e 123 122 == 0 || bits e 123 122 == 3 then s else
  let key := if bits e 123 122 == 1 then 1024 + 64 * bits e 113 111 + bits e 121 114 else 2048 + bits e 121 114
  { s with arrivals := s.arrivals ++ [{ key := key, ctx := .ofNat 6 (bits e 69 64), tag := 0, tainted := tainted }] }

/-- A link routes to a device (R378). -/
def State.routeUp (s : State) (dev : Nat) : Bool :=
  let l := (sget 31 s.routes dev).toNat
  l != 31 && s.linkUp l

/-! Elements (R250, R256, R378). -/

/-- The literal of a scatter reduction (R254). -/
def scatLit (op : Nat) (fp : Bool) : AtomLit :=
  { ac := 0, res := false, o := 0, uns := false, fp := fp, wd := 2, use := 1, op := .ofNat 4 (op - 1) }

/-- Reductions of 4-byte elements at home; on poisoned bytes one is dropped with a record that names its source unit (R249, R250). -/
def State.homeReds (s : State) (unit : Nat) (acc : Acc) (off : Nat) (m : AtomLit) (bs : List Byte) : State :=
  (List.range (bs.length / 4)).foldl (fun s i =>
    let o := off + 4 * i
    let s := match acc.frame with | some f => s.allHome (lineOf (byteKey f o)) | none => s
    let (s, r) := s.homeRead acc o 4
    if r.any (·.2) then s.logError 1 2 unit acc.ck (acc.where' o) []
    else s.entryAt acc o (allOf (toBytes 4 (atomNew m (ofBytes (r.map (·.1))) (ofBytes ((bs.drop (4 * i)).take 4)) 0)))) s

/-- Reductions of 4-byte elements in core `c`'s scratchpad, of a command of core `k`; on poisoned bytes one is dropped with a record (R249,
    R256). -/
def State.spReds (s : State) (k c a : Nat) (m : AtomLit) (bs : List Byte) : State :=
  ((List.range (bs.length / 4)).foldl (fun s i =>
    let x := s.core c
    let at' := a + 4 * i
    if x.spPoisoned at' 4 then s.logError 1 2 (unitCore k) none at' []
    else s.setCore c (x.spWrite at' (allOf (toBytes 4 (atomNew m (ofBytes (x.spRead at' 4)) (ofBytes ((bs.drop (4 * i)).take 4)) 0))))) s).recheck c

/-- The bytes of a misaligned element (R256). -/
def fillFF (n : Nat) : List (Byte × Bool) := List.replicate n (0xFF, false)

/-- The device, tag, entry and offset by which a reply is known (R376). -/
def replyKey (dev tag entry off : Nat) : Nat := ((dev * 2 ^ 16 + tag) * 2 ^ 12 + entry) * 2 ^ 21 + off

/-- The reply flits that have come for bytes of a command's element of another module, each with the place of its first byte (R376). -/
def State.repliesTo (s : State) (k : Nat) (cmd : CopyCmd) (dev e off n : Nat) : List (Nat × Nat × Option (List Byte)) :=
  s.replies.filterMap fun x =>
    let o := x.1 % 2 ^ 21
    if x.1 / 2 ^ 21 == replyKey dev (Config.remoteTag k cmd.seq).toNat e 0 / 2 ^ 21 && decide (o < off + n) && decide (off < o + x.2.1)
    then some (o, x.2.1, x.2.2) else none

/-- Byte `o` of an element, as the reply flits brought it. -/
def replyByte (l : List (Nat × Nat × Option (List Byte))) (o : Nat) : Option Byte :=
  l.findSome? fun f => if f.1 ≤ o then f.2.2.bind fun bs => bs[o - f.1]? else none

/-- The status of element `i` before it moves: its peer's, its alignment, its route and export, and a reply flit with bytes of it lost
    (R256, R376, R378). -/
def State.elemStatus (s : State) (k : Nat) (cmd : CopyCmd) (n i : Nat) (write : Bool) : Nat :=
  match cmd.elem i with
  | (.peer _ _, st) => st
  | (.glob _ off, _) => if off % n != 0 then 5 else 0
  | (.remote dev e off, _) =>
    if dev == s.devid.toNat then (if !s.exportOk e write then 6 else if off % n != 0 then 5 else 0)
    else if !s.routeUp dev || (s.repliesTo k cmd dev e off n).any (·.2.2.isNone) then 6 else if off % n != 0 then 5
    else if Config.remoteFails s.seq i then 6 else 0

/-- An element's bytes fetched, with the status of poison. -/
def State.elemRead (s : State) (k : Nat) (cmd : CopyCmd) (kd : BitVec 8) (n i : Nat) : State × List (Byte × Bool) × Nat :=
  match (cmd.elem i).1 with
  | .peer c a => let (s, b) := s.cRead kd false (.sp c a) n; (s, b, 2)
  | .glob h off => let hd := cmd.handle h; let (s, b) := s.cRead kd false (.mem hd off) n; (s, b, readFail false (.mem hd off))
  | .remote dev e off =>
    if dev == s.devid.toNat then let (s, b) := s.homeRead (s.exportAcc e) off n; (s, b, 2)
    else
      let l := s.repliesTo k cmd dev e off n
      (s, (List.range n).map fun j => ((replyByte l (off + j)).getD (Config.remoteByte s.seq (4096 * i + j)), false), 2)

/-- An element written to its target, or reduced into it: `red` is the reduction's literal (R256). -/
def State.elemWrite (s : State) (k : Nat) (cmd : CopyCmd) (kd : BitVec 8) (red : Option AtomLit) (bs : List (Byte × Bool)) : Elem → State
  | .peer c a =>
    match red with
    | some m => s.spReds k c a m (bs.map (·.1))
    | none => s.cWrite k kd (.sp c a) bs
  | .glob h off =>
    let hd := cmd.handle h
    match red with
    | some m => s.homeReds (unitCore k) (s.frameAcc (hFrame hd) (hAttr hd kd)) off m (bs.map (·.1))
    | none => s.cWrite k kd (.mem hd off) bs
  | .remote dev e off =>
    if dev != s.devid.toNat then s else
    let acc := s.exportAcc e
    match red with
    | some m => s.homeReds (unitCore k) acc off m (bs.map (·.1))
    | none => (s.homeWrite acc off (allOf (bs.map (·.1)))).poisonLines acc off (bs.map (·.2))

/-- The elements of a gath (R256). -/
def gathAll (k : Nat) (cmd : CopyCmd) (kd : BitVec 8) (e : Nat) (r : CRun) : CRun :=
  let n := ceLen e
  (List.range (ceN1 e)).foldl (fun r j =>
    let st := r.s.elemStatus k cmd n j false
    let dst := placeOf k cmd (ceDst e) (j * n)
    if st == 5 then ({ r with s := r.s.cWrite k kd dst (fillFF n), bytes := r.bytes + n }).fail 5 j
    else if st != 0 then r.fail st j
    else
      let want := genWant (r.s.core k) e j
      let (s, bs, why) := r.s.elemRead k cmd kd n j
      let (s, changed) := match (cmd.elem j).1 with
        | .glob h off => if ceGen e then (let (s, gen) := s.genAt (cmd.handle h) off; (s, gen != want)) else (s, false)
        | _ => (s, false)
      let bad := bs.any (·.2)
      let bs := bs.map fun b => (b.1, bad)
      let r := { r with s := s.cWrite k kd dst bs, bytes := r.bytes + n }
      let r := if bad then r.fail why j else r
      if changed then r.fail 3 j else r) r

/-- The elements of a scat, in index order (R256). -/
def scatAll (k : Nat) (cmd : CopyCmd) (kd : BitVec 8) (e : Nat) (r : CRun) : CRun :=
  let n := ceLen e
  let op := bits (ceOpx e) 1 0
  let red := if op == 0 then none else some (scatLit op (bits (ceOpx e) 3 2 == 1))
  (List.range (ceN1 e)).foldl (fun r j =>
    let st := r.s.elemStatus k cmd n j true
    if st != 0 then r.fail st j
    else
      let src := placeOf k cmd (ceSrc e) (j * n)
      let (s, bs) := r.s.cRead kd false src n
      let bad := bs.any (·.2)
      let bs := bs.map fun b => (b.1, bad)
      -- a poisoned element is not reduced: its target is written poisoned
      let r := { r with s := s.elemWrite k cmd kd (if bad then none else red) bs (cmd.elem j).1, bytes := r.bytes + n }
      if bad then r.fail (readFail false src) j else r) r

/-- Local export entries that a command's elements used, and whether an element through each failed (R379). -/
def exportsUsed (s : State) (cmd : CopyCmd) (sts : List (Nat × Nat)) : List (Nat × Bool) :=
  let l := (List.range cmd.elems.length).filterMap fun j => match (cmd.elem j).1 with
    | .remote dev x _ => if dev == s.devid.toNat then some (x, sts.any fun f => f.2 == j) else none
    | _ => none
  ((l.map (·.1)).eraseDups).map fun x => (x, l.any fun y => y.1 == x && y.2)

/-- Blocks sealed by the engine (R106, R256). -/
def sealAll (cmd : CopyCmd) (kd : BitVec 8) (e : Nat) (r : CRun) : CRun :=
  let h := cmd.handle (epH (ceSrc e))
  (List.range (ceLen e / 512)).foldl (fun r i =>
    let (s, bad) := r.s.sealBlock (r.s.frameAcc (hFrame h) (hAttr h kd)) (epAddr (ceSrc e) + 512 * i)
    let r := { r with s := s }
    if bad then r.fail 2 i else r) r

/-! pack (R98 to R100, R256; log 25). -/

/-- The code of a symbol under a table: its bits, most significant first. -/
def codeBits (tab : List (Nat × List Nat)) (sym : Nat) : Option (List Bool) :=
  ((List.range tab.length).zip tab).findSome? fun e =>
    match e.2.2.findIdx? (· == sym) with
    | some i => some ((List.range (e.1 + 1)).reverse.map fun b => (e.2.1 + i).testBit b)
    | none => none

/-- A sector coded with literals alone, when every symbol has a code. -/
def literalCode (tab : List (Nat × List Nat)) (bs : List Byte) : Option (List Byte) :=
  match (bs.map (fun (b : Byte) => b.toNat) ++ [256]).mapM (codeBits tab) with
  | none => none
  | some l =>
    let b := l.flatten
    some (toBytes ((b.length + 7) / 8) (pack (b.map fun x => (1, b2n x))))

/-- An image built sector by sector: index entries and stored bytes; a sector that is poisoned or finds no room gets KIND 3. -/
def plainImage (tab : List (Nat × List Nat)) (secs : List (List (Byte × Bool))) : List Byte :=
  let out := secs.foldl (fun (st : List Nat × List (List Byte) × Nat) sec =>
    let (ix, data, off) := st
    let bs := sec.map (·.1)
    if sec.any (·.2) then (3 * 2 ^ 30 :: ix, data, off)
    else if bs.all (· == 0) then (2 * 2 ^ 30 :: ix, data, off)
    else
      let coded := match literalCode tab bs with | some c => if c.length < 256 then some c else none | none => none
      let (kind, st) := match coded with | some c => (0, c) | none => (1, bs)
      if off + st.length > 2 ^ 21 then (3 * 2 ^ 30 :: ix, data, off)
      else ((kind * 2 ^ 30 + (st.length - 1) * 2 ^ 21 + off) :: ix, st :: data, off + st.length)) ([], [], 32768)
  (out.1.reverse.flatMap fun e => toBytes 4 e) ++ out.2.1.reverse.flatten

/-- Every sector of the image at an access expands to the source's (R99). -/
def State.imageGood (s : State) (acc : Acc) (slot : Nat) (secs : List (List (Byte × Bool))) : Bool :=
  ((List.range secs.length).zip secs).all fun e =>
    match (s.sector acc slot e.1).2 with
    | some b => !e.2.any (·.2) && b == e.2.map (·.1)
    | none => e.2.any (·.2)

/-- pack: the image is any that expands to the source; where the free bytes are none, one built from literals (R256; log 25). -/
def packAll (k : Nat) (c : CopyCmd) (kd : BitVec 8) (e : Nat) (r : CRun) : CRun :=
  let hs := c.handle (epH (ceSrc e))
  let hd := c.handle (epH (ceDst e))
  let slot := ceOpx e
  let (s, bs) := r.s.cRead kd false (.mem hs 0) (2 ^ 21)
  let secs := (List.range 8192).map fun n => (bs.drop (256 * n)).take 256
  let acc := s.frameAcc (hFrame hd) (hAttr hd kd)
  let free := s.engineWrite k hd kd 0 ((List.range (2 ^ 21)).map fun i => some (Config.packByte s.seq i))
  let d := sget Dict.reset s.dicts slot
  let tab := if d.st == .armed then codeTable d.image else []
  let s := if free.imageGood acc slot secs then free else s.engineWrite k hd kd 0 (allOf (plainImage tab secs))
  let r := { r with s := s, bytes := r.bytes + 2 ^ 21 }
  if bs.any (·.2) then r.fail (readFail false (.mem hs 0)) 0 else r

/-! Completion (R257 to R259). -/

/-- The status reported of those met (R258). -/
def worst (sts : List (Nat × Nat)) : Nat := ([8, 4, 6, 7, 2, 5, 1, 3].find? fun c => sts.any fun x => x.1 == c).getD 0

/-- A status bitmap, one bit per element (R258). -/
def bitmapOf (n : Nat) (p : Nat → Bool) : List Byte := toBytes ((n + 7) / 8) (pack ((List.range n).map fun j => (1, b2n (p j))))

/-- A gath or scat with GEN whose index names a remote element completes ABORTED (R378). -/
def genRemote (c : CopyCmd) (e : Nat) : Bool :=
  ceGen e && (List.range c.elems.length).any fun j => match (c.elem j).1 with | .remote _ _ _ => true | _ => false

/-- The payload of a command that started well (R256). -/
def payload (k : Nat) (c : CopyCmd) (kd : BitVec 8) (e : Nat) (s : State) : CRun :=
  let r : CRun := { s := s, sts := [], bytes := 0 }
  match ceOp e with
  | 1 =>
    let r := gathAll k c kd e r
    { r with s := r.s.upCore k fun x => x.spWrite (ceDs2 e) (allOf (bitmapOf (ceN1 e) fun j => r.sts.any fun x => x.2 == j)) }
  | 2 => scatAll k c kd e r
  | 3 => sealAll c kd e r
  | 4 => packAll k c kd e r
  | _ => if ceGen e && ceOp e == 0 then copyGen k c kd e r else copyRows k c kd e r

/-- RET: the local tiles that held the command's bytes return to THREAD (R257). -/
def Core.returnTiles (c : Core) (rs : List (Nat × Nat)) : Core :=
  rs.foldl (fun c r => (List.range ((r.1 + r.2 + 4095) / 4096 - r.1 / 4096)).foldl (fun c i =>
    if c.owner' (r.1 / 4096 + i) == ownCopy then c.setOwner (r.1 / 4096 + i) ownThread else c) c) c

/-- The completion record (R258). -/
def complRecord (status seq bytes count first : Nat) : List Byte :=
  toBytes 16 (pack [(8, status), (16, seq), (40, bytes), (32, count), (32, first)])

/-- A value written to a core's scratchpad, and the waits on it evaluated (R162, R257). -/
def State.tell (s : State) (c a : Nat) (bs : List Byte) : State := (s.upCore c fun x => x.spWrite a (allOf bs)).recheck c

/-- The steps of R257 after the payload, with the status and its FIRST and COUNT. The record and the flag word go where the start found them
    good (R276). -/
def State.copyFinish (s : State) (k : Nat) (cmd : CopyCmd) (e st first count bytes : Nat) : State :=
  let good := st == 0 || st == 3
  let s := if ceRet e then s.upCore k fun c => c.returnTiles (localRanges e) else s
  let s := if cmd.complOk then s.tell k (ceCompl e) (complRecord st cmd.seq bytes count first) else s
  let (fc, fa) := flagPlace k e
  let s := if cmd.flagOk then s.tell fc fa (toBytes 8 (if good then ceFlagVal e else 0xFFFFFFFFFFFFFF00 + st)) else s
  let barOk := match ceBlv e with | 0 => decide (ceBar e ≤ 15) | 1 => decide (ceBar e ≤ 63) | 2 => true | _ => false
  let key := match ceBlv e with | 0 => 16 * quadOf k + ceBar e | 1 => 1024 + 64 * dieOf k + ceBar e | _ => 2048 + ceBar e
  let s := if ceArr e && barOk then { s with arrivals := s.arrivals ++ [{ key := key, ctx := cmd.ctx, tag := cmd.tag, tainted := !good }] } else s
  s.upCore k fun c =>
    let cp := c.cp.filter fun x => !(x.seq == cmd.seq && x.ctx == cmd.ctx)
    let least (next : Nat) : Word := .ofNat 64 ((cp.filter fun x => x.ctx == cmd.ctx).foldl (fun m x => min m x.seq) next - 1)
    if c.seqCtx == some cmd.ctx.toNat then { c with cp := cp, seqCp := least c.cpNext }
    else
      let q := sget SeqSt.reset c.seqs cmd.ctx.toNat
      { c with cp := cp, seqs := sset SeqSt.reset c.seqs cmd.ctx.toNat { q with seqCp := least q.cpNext } }

/-- A command that completes without having acted: every unit has its status (R258). -/
def State.copyFail (s : State) (k : Nat) (cmd : CopyCmd) (e st : Nat) : State :=
  let n := ceN1 e
  let s := if cmd.bitsOk then s.upCore k fun c => c.spWrite (ceDs2 e) (allOf (bitmapOf n fun _ => true)) else s
  s.copyFinish k cmd e st 0 (ceUnits e) 0

/-- The reply flits of a command's elements are taken (R376). -/
def State.dropReplies (s : State) (k : Nat) (cmd : CopyCmd) : State :=
  let keys := (List.range cmd.elems.length).filterMap fun j => match (cmd.elem j).1 with
    | .remote dev e _ => some (replyKey dev (Config.remoteTag k cmd.seq).toNat e 0 / 2 ^ 21)
    | _ => none
  { s with replies := s.replies.filter fun x => !keys.contains (x.1 / 2 ^ 21) }

/-- A started command of a core's chain ends (R257). -/
def State.copyEnd (s : State) (k : Nat) (cmd : CopyCmd) : State :=
  match cmd.entry with
  | none => s
  | some img =>
    let e := img.toNat
    let ctx := cmd.ctx.toNat
    let kd := (s.ctx ctx).kdom
    let st := if cmd.aborted || genRemote cmd e then 8 else cmd.status.toNat
    if st != 0 then (s.copyFail k cmd e st).dropReplies k cmd
    else
      let r := payload k cmd kd e s
      let sts := if ceCrc e && Config.crcFails s.seq cmd.seq then r.sts ++ [(1, 0)] else r.sts
      let code := worst sts
      let us := (sts.filter fun x => x.1 == code).map (·.2)
      let t := r.s.copyFinish k cmd e code (if code == 0 then 0 else us.headD 0) (if code == 0 then 0 else us.length) r.bytes
      ((exportsUsed s cmd sts).foldl (fun t x => t.exportArrive x.1 x.2) t).dropReplies k cmd

/-- The oldest started command of a number in a core's chain completes (R257). -/
def State.copyComplete (s : State) (k seq : Nat) : State :=
  match (s.core k).cp.find? fun x => x.seq == seq && x.entry.isSome with
  | none => s
  | some cmd => s.copyEnd k cmd

/-- COPY_ENTRY_COMPLETE: R257. -/
def execCopyEntryComplete (core : CoreId) (seq : Nat) (s : State) : Out := .next (s.copyComplete core.toNat seq)

/-! Tiles returned (R251, R278). -/

/-- What a tile's class had issued before an ownt has completed (R251). -/
def State.classDone (s : State) (k : Nat) (r : OwntReq) (tile : Nat) : Bool :=
  let c := s.core k
  let o := c.owner' tile
  if o == ownTensor then (c.tq.all fun x => decide (x.step ≥ r.tq)) && (c.nests.isEmpty || decide (c.tsteps ≥ r.tq))
  else if o == ownXbar then c.xq.all fun q => q.2.all fun x => decide (x.order ≥ r.xq)
  else if o == ownWstream then (c.tq.all fun x => decide (x.step ≥ r.tq) || !x.kind.handsOn) && c.ws.all fun x => x.ctx != r.ctx || decide (x.seq ≥ r.ws)
  else if o == ownCopy then
    (c.cp.all fun x => x.ctx != r.ctx || decide (x.seq ≥ r.cp))
      && s.cores.all fun (e : Nat × Core) => e.1 == k || e.2.cp.all fun (x : CopyCmd) =>
        match x.entry with
        | some img => !s.inCtx x.ctx.toNat k || !(peerDests x img.toNat).any fun d => d.1 == k && decide (d.2.1 < 4096 * (tile + 1)) && decide (4096 * tile < d.2.1 + d.2.2)
        | none => true
  else false

/-- Tiles of a core's ownt requests return to THREAD as their classes' work is done; a CACHE tile stays (R84, R251). A tile that an owng
    still has on its way waits for it. -/
def State.owntReturn (s : State) (k : Nat) : State :=
  let c := s.core k
  if c.ownPending then s else
  let c' := c.ownt.foldl (fun c' r => (List.range r.n).foldl (fun c' i =>
    if s.classDone k r (r.first + i) then c'.setOwner (r.first + i) ownThread else c') c') c
  s.setCore k { c' with ownt := c'.ownt.filter fun r => (List.range r.n).any fun i => c'.owner' (r.first + i) != ownThread && c'.owner' (r.first + i) != ownCache }

/-- OWNT_RETURN: R251. -/
def execOwntReturn (core : CoreId) (s : State) : Out := .next (s.owntReturn core.toNat)

end Sys2Proof.Machine
end

