-- ==== Sys2Proof/Machine/Barrier.lean ====
section
/-! DEFINITION. Barriers: their words and states, arrivals of threads and engines, waits, the mailbox, binit and barv (R328,
    R333 to R344). Barriers are numbered 16 q + k for qb k of quad q, 1024 + 64 d + k for db k of die d, 2048 + k for gb k. -/

namespace Sys2Proof.Machine

open Sys2Proof

/-! The barrier word (R333). -/

/-- A barrier word's fields (R333). -/
structure Bar where
  episode : Nat
  tlast : Bool
  taint : Bool
  st : Nat
  expect : Nat
  arrived : Nat
  deriving DecidableEq, Repr

/-- The fields of a word. -/
def Bar.ofWord (w : Word) : Bar :=
  let v := w.toNat
  { episode := bits v 63 48, tlast := bit v 37, taint := bit v 36, st := bits v 34 32, expect := bits v 31 16, arrived := bits v 15 0 }

/-- The word of some fields; reserved bits are zero. -/
def Bar.toWord (b : Bar) : Word :=
  .ofNat 64 (pack [(16, b.arrived), (16, b.expect), (3, b.st), (1, 0), (1, b2n b.taint), (1, b2n b.tlast), (10, 0), (16, b.episode)])

/-- The states IDLE, ARMED, COUNTING, RELEASED and TAINTED (R333). -/
def barIdle : Nat := 0
/-- ARMED. -/
def barArmed : Nat := 1
/-- COUNTING. -/
def barCounting : Nat := 2
/-- RELEASED. -/
def barReleased : Nat := 3
/-- TAINTED. -/
def barTainted : Nat := 4

/-- The barrier a level and number name on a core (R10, R341). -/
def barKey (core lv num : Nat) : Nat :=
  match lv with
  | 0 => 16 * quadOf core + num
  | 1 => 1024 + 64 * dieOf core + num
  | _ => 2048 + num

/-- The level of a barrier number. -/
def barLevel (key : Nat) : Nat := if key < 1024 then 0 else if key < 2048 then 1 else 2

/-- The scope of a barrier's release and acquire: quad, die or dev (R339). -/
def barScope (key : Nat) : Nat := barLevel key + 1

/-- A barrier's word. -/
def State.bar (s : State) (key : Nat) : Bar := Bar.ofWord (sget 0 s.barriers key)

/-- A barrier's word replaced. -/
def State.setBar (s : State) (key : Nat) (b : Bar) : State := { s with barriers := sset 0 s.barriers key b.toWord }

/-- A die or device barrier is assigned to a context (R334). -/
def State.barOwned (s : State) (ctx key : Nat) : Bool :=
  let v := (sget 0 s.bcfg key).toNat
  bit v 7 && bits v 5 0 == ctx

/-- The barrier may be named by the task of a core: a quad barrier of the quad that holds its group, or a barrier assigned to
    its context (R334). -/
def State.barAllowed (s : State) (core key : Nat) : Bool :=
  match (s.core core).task with
  | none => false
  | some t =>
    if key < 1024 then (match sget none s.quads (quadOf core) with | some q => q.launch == t.launch && q.first == t.first | none => false)
    else s.barOwned t.ctx.toNat key

/-! Waits (R340). -/

/-- The wait for an episode after `e`, as it is evaluated: the result when it is satisfied (R340). -/
def Bar.answers (b : Bar) (e : Nat) : Option Word :=
  let idle := b.st == barIdle
  let gone := (b.episode + 2 ^ 16 - e) % 2 ^ 16
  if idle || (decide (1 ≤ gone) && decide (gone ≤ 32767)) then
    some (.ofNat 64 (pack [(16, b.episode), (46, 0), (1, b2n idle), (1, b2n b.tlast)]))
  else none

/-- The wait on a barrier that a continuation holds, if it is satisfied. -/
def State.barAnswer (s : State) (c : Cont) : Option Word :=
  match c.on with
  | .barrier key _ e _ => (s.bar key).answers e.toNat
  | _ => none

/-- Every wait on a barrier is evaluated (R38, R335). -/
def State.wakeBar (s : State) (key : Nat) : State :=
  { s with cores := s.cores.map fun (e : Nat × Core) =>
      (e.1, e.2.wake fun c => match c.on with | .barrier k _ _ _ => if k == key then s.barAnswer c else none | _ => none) }

/-! Arrivals (R335). -/

/-- An arrival at a barrier that is not IDLE; the second part says whether it releases an episode. -/
def Bar.arrive (b : Bar) (tainted : Bool) : Bar × Bool :=
  let b := { b with taint := b.taint || tainted }
  let n := if b.st == barCounting then b.arrived + 1 else 1
  if n == b.expect then
    ({ b with episode := (b.episode + 1) % 2 ^ 16, tlast := b.taint, taint := false, arrived := 0,
              st := if b.taint then barTainted else barReleased }, true)
  else ({ b with st := barCounting, arrived := n }, false)

/-- A dropped arrival's record. -/
def State.arrivalLost (s : State) (ctx : Option Nat) (key : Nat) : State :=
  s.refuse unitMgmt (ctx.map fun n => (n, (s.ctx n).kdom.toNat)) (toBytes 8 key)

/-- An arrival counted by the barrier unit, with no wait evaluated: whether it released an episode, and DROP and EPISODE before it as R338
    reports them (R335). -/
def State.countArrival (s : State) (ctx : Option Nat) (key : Nat) (tainted : Bool) : State × Bool × Word :=
  let b := s.bar key
  if b.st == barIdle then (s.arrivalLost ctx key, false, .ofNat 64 (2 ^ 63 + b.episode))
  else (s.setBar key (b.arrive tainted).1, (b.arrive tainted).2, .ofNat 64 b.episode)

/-- An arrival performed by the barrier unit (R335): DROP and EPISODE before it, as R338 reports them. -/
def State.arriveAt (s : State) (ctx : Option Nat) (key : Nat) (tainted : Bool) : State × Word :=
  let (s, released, w) := s.countArrival ctx key tainted
  (if released then s.wakeBar key else s, w)

/-- The placement tag that a barrier word in a store queue carries: that of a quad barrier's quad (R328, R341). -/
def State.barTag (s : State) (key : Nat) : Nat := if key < 1024 then s.quadTag (key / 16) else 0

/-- A barrier word in a store queue belongs to an earlier placement of its quad, so that it does not reach the barrier (R328). -/
def State.barOld (s : State) (key tag : Nat) : Bool := s.barTag key != tag

/-! The mailbox (R342, R343). -/

/-- MBOX of a context, its low 12 bits ignored (R342). -/
def Ctx.mailbox (x : Ctx) : Nat := x.desc.mbox.toNat / 4096 * 4096

/-- An arrival logged in a context's mailbox (R343). -/
def State.logArrival (s : State) (ctx key : Nat) (tainted : Bool) : State :=
  let a := (s.ctx ctx).mailbox + 256 * (key / 16) + 16 * (key % 16) + 8
  let (s, v, _) := s.devNum a 8
  let n := if tainted then bits v 63 48 else bits v 15 0
  if n == 0xFFFF then s.arrivalLost (some ctx) key
  else s.devWrite a (toBytes 8 (if tainted then v + 2 ^ 48 else v + 1))

/-- An engine arrival reaches its unit (R341, R343). -/
def State.engineArrive (s : State) (a : Arrival) : State :=
  let n := a.ctx.toNat
  let x := s.ctx n
  if a.key < 1024 then
    let q := a.key / 16
    if (x.st == .preempting || x.st == .saved) && x.savedQuads.any (fun g => g.quad == q && g.tag == a.tag) then s.logArrival n a.key a.tainted
    else match sget none s.quads q with
      | some g => if g.tag == a.tag then (s.arriveAt (some n) a.key a.tainted).1 else s.arrivalLost (some n) a.key
      | none => s.arrivalLost (some n) a.key
  else if s.barOwned n a.key then (s.arriveAt (some n) a.key a.tainted).1
  else s.arrivalLost (some n) a.key

/-- The oldest engine arrival on its way arrives. -/
def State.engineArrival (s : State) : State :=
  match s.arrivals with
  | a :: r => ({ s with arrivals := r }).engineArrive a
  | [] => s

/-- The barv at the head of a store queue: its release completes and its arrival is performed (R338, R339); a halted core's is
    held (R304). -/
def State.threadArrive (s : State) (k : Nat) (c : Cluster) : State :=
  let x := (s.core k).cl c
  match x.storeQ with
  | e :: _ =>
    match e.kind with
    | .barv key scope d tag =>
      if !x.storeFree e || (s.core k).halted then s else
      let s := s.release k scope.toNat
      let (s, w) := if s.barOld key tag then (s.arrivalLost none key, .ofNat 64 (2 ^ 63)) else s.arriveAt (some (s.core k).ctxNum) key false
      let r : RetEnt := { d := d, val := w, poisoned := false, ways := none, h := 0, off := 0, pc := e.pc, push := e.push }
      (s.popStore k c).upCore k fun y => y.upCl c fun z => { z with rets := z.rets ++ [r] }
    | _ => s
  | [] => s

/-- BARRIER_ARRIVAL: R335, R336. -/
def execBarrierArrival (src : ArrivalSrc) (s : State) : Out :=
  .next (match src with
    | .thread core c => s.threadArrive core.toNat c
    | .engine => s.engineArrival)

/-! binit and barv (R337, R338). -/

/-- What binit does to a barrier: its code, and the barrier when it is armed (R335, R337). -/
def Bar.init (b : Bar) (count : Word) : Nat × Bar :=
  if count.toNat == 0 || count.toNat > 65535 then (2, b)
  else if b.st == barCounting then (1, b)
  else if b.st == barIdle then (0, { b with st := barArmed, expect := count.toNat, arrived := 0, taint := false, tlast := false })
  else (0, { b with st := barArmed, expect := count.toNat })

/-- The binit at the head of a store queue is performed (R337). -/
def State.binitPerform (s : State) (k : Nat) (c : Cluster) : State :=
  let x := (s.core k).cl c
  match x.storeQ with
  | e :: _ =>
    match e.kind with
    | .binit key count d tag =>
      if !x.storeFree e then s else
      let (code, b) := (s.bar key).init count
      let s := if code == 0 && !s.barOld key tag then s.setBar key b else s
      let r : RetEnt := { d := d, val := .ofNat 64 code, poisoned := false, ways := none, h := 0, off := 0, pc := e.pc, push := e.push }
      (s.popStore k c).upCore k fun y => y.upCl c fun z => { z with rets := z.rets ++ [r] }
    | _ => s
  | [] => s

/-- BINIT_PERFORM: R337. -/
def execBinitPerform (core : CoreId) (c : Cluster) (s : State) : Out := .next (s.binitPerform core.toNat c)

/-- binit: R337. -/
def execBinit (h : Hdr) (d a : Reg) (lv : BitVec 2) (num : BitVec 8) (s : State) : Out :=
  issue s (.binit h d a lv num) fun s =>
    let key := barKey s.me lv.toNat num.toNat
    if !s.barAllowed s.me key then privNow s (.binit h d a lv num)
    else .ok (s.enqStore (.binit h d a lv num) 0 (.binit key (s.reg a) d (s.barTag key)))

/-- barv: R338; a commit point of a versioned kernel (R40). -/
def execBarv (h : Hdr) (d : Reg) (lv : BitVec 2) (num : BitVec 8) (s : State) : Out :=
  issue s (.barv h d lv num) fun s =>
    let key := barKey s.me lv.toNat num.toNat
    if !s.barAllowed s.me key then privNow s (.barv h d lv num)
    else .ok ((s.commit s.me).enqStore (.barv h d lv num) 0 (.barv key (.ofNat 3 (barScope key)) d (s.barTag key)))

/-! BCFG (R334). -/

/-- BCFG_WRITE: R334; `num` counts the die barriers of all dies (64 a die), or the device barriers. -/
def execBcfgWrite (dev : Bool) (num : BitVec 9) (val : BitVec 64) (s : State) : Out :=
  let key := if dev then 2048 + num.toNat % 256 else 1024 + num.toNat
  .next (if (s.bar key).st != barIdle then s.refuse unitMgmt none (toBytes 8 key)
    else { s with bcfg := sset 0 s.bcfg key (val &&& 0xBF) })

/-! Placement and seal (R328, R335). -/

/-- Barriers return to IDLE with reset values. -/
def State.resetBars (s : State) (p : Nat → Bool) : State := { s with barriers := s.barriers.filter fun e => !p e.1 }

/-- A group placed on a quad finds its sixteen barriers IDLE (R328). -/
def State.clearQuadBars (s : State) (q : Nat) : State := s.resetBars fun k => k / 16 == q && decide (k < 1024)

end Sys2Proof.Machine
end

