-- ==== Sys2Proof/Machine/Slot.lean ====
section
/-! DEFINITION. The images of a core's state: a continuation slot (R34 to R37), and the register image of a core record (R292). -/

namespace Sys2Proof.Machine

open Sys2Proof

/-! The slot (R34, R35). -/

/-- First tile of the slot that CSLOT places. -/
def slotTile (cslot : Word) : Nat := bits cslot.toNat 21 12

/-- Vector groups that CMASK saves, in ascending order. -/
def maskGroups (cmask : Word) : List Nat := (List.range 16).filter fun g => cmask.getLsbD (40 + g)

/-- Accumulators that CMASK saves, in ascending order. -/
def maskAccs (cmask : Word) : List Nat := (List.range 8).filter fun a => cmask.getLsbD (56 + a)

/-- The operand file is saved. -/
def maskQ (cmask : Word) : Bool := cmask.getLsbD 39

/-- The slot's size in bytes (R35). -/
def slotSize (cmask : Word) : Nat :=
  4096 + 8448 * (maskGroups cmask).length + (if maskQ cmask then 16384 else 0) + 65536 * (maskAccs cmask).length

/-- The tiles of the slot are all THREAD (R35). -/
def Core.slotOk (k : Core) (tile size : Nat) : Bool := 4096 * tile + size ≤ spSize && k.owned ownThread (4096 * tile) size

/-- The wait word at offset 0x28 of a slot (R35, R162, R242, R340). -/
def waitWord : WaitOn → Nat
  | .word a cc breg _ => pack [(8, 1), (22, a), (3, cc.toNat), (5, breg.toNat)]
  | .barrier _ lvnum e d => pack [(8, 2), (10, lvnum), (16, e.toNat), (5, d.toNat)]
  | .probe token _ _ _ _ _ _ _ => pack [(8, 3), (32, token.toNat)]

/-- Bytes padded with zeros to `n`. -/
def padTo (n : Nat) (l : List Byte) : List Byte := (l ++ List.replicate n 0).take n

/-- p0 to p15 of cluster A, T or S as 16 bits (R13). -/
def predBits (x : Cl) : List Byte := toBytes 2 (pack ((List.range 16).map fun p => (1, b2n (x.pbit (.ofNat 4 p)))))

/-- A token FIFO's eight entries of 16 bytes: the payload, and at byte 8 bit 0 an entry and bit 1 its payload bit (log 24). -/
def fifoImage (l : List (Option Word)) : List Byte :=
  padTo 128 (l.flatMap fun e => toBytes 8 (e.getD 0).toNat ++ toBytes 8 (1 + 2 * b2n e.isSome))

/-- The FIFOs in slot order: to the right of A, V, T and S, then to the left (log 24). -/
def fifoOrder : List (Cluster × Dir) := Cluster.all.map (fun c => (c, Dir.right)) ++ Cluster.all.map fun c => (c, Dir.left)

/-- Incoming and outgoing payload registers of a cluster, in this order, left before right; an outgoing register whose payload has been pushed
    is saved as 0 (log 24; DESIGN CHOICE). -/
def payloadImage (x : Cl) : List Byte :=
  toBytes 8 x.inL.toNat ++ toBytes 8 x.inR.toNat ++ toBytes 8 (x.outL.getD 0).toNat ++ toBytes 8 (x.outR.getD 0).toNat

/-- The 4,096 bytes of the fixed part (R35). -/
def fixedImage (k : Core) (cmask : Word) (wait : Nat) (taskId : Word) : List Byte :=
  padTo 64 ((Cluster.all.flatMap fun c => toBytes 8 (k.cl c).pc.toNat) ++ toBytes 8 cmask.toNat ++ toBytes 8 wait ++ toBytes 8 taskId.toNat
    ++ toBytes 8 (pack (Cluster.all.map fun c => (1, b2n (k.cl c).exposed))))
  ++ padTo 64 (predBits k.a ++ predBits k.t ++ predBits k.sc)
  ++ ((List.range 16).flatMap fun p => toBytes 8 (k.v.pmask (.ofNat 4 p)).toNat)
  ++ (Cluster.all.flatMap fun c => (List.range 32).flatMap fun r => toBytes 8 ((k.cl c).reg (.ofNat 5 r)).toNat)
  ++ (Cluster.all.flatMap fun c => loopImage (k.cl c).loops)
  ++ (fifoOrder.flatMap fun f => fifoImage (k.fifoTo f.1 f.2))
  ++ ((List.range 16).flatMap fun w => toBytes 32 (sget 0 k.win w).toNat)
  ++ ((List.range 32).flatMap fun h => toBytes 16 (sget 0 k.h h).toNat)
  ++ padTo 256 (Cluster.all.flatMap fun c => payloadImage (k.cl c))

/-- `n` vector registers from `a` on: their data. -/
def vregImage (k : Core) (a n : Nat) : List Byte := (List.range n).flatMap fun i => toBytes 256 (sget VVal.zero k.vr (a + i)).val.toNat

/-- Their bounds, then their tags (R35). -/
def boundImage (k : Core) (a n : Nat) : List Byte :=
  ((List.range n).flatMap fun i => toBytes 4 (sget VVal.zero k.vr (a + i)).bound.toNat)
  ++ (List.range n).flatMap fun i => toBytes 4 (b2n (sget VVal.zero k.vr (a + i)).bounded)

/-- The operand file. -/
def qImage (k : Core) : List Byte := (List.range 64).flatMap fun i => toBytes 256 (sget 0 k.q i).toNat

/-- An accumulator. -/
def accImage (k : Core) (a : Nat) : List Byte := (List.range 16384).flatMap fun i => toBytes 4 (sget 0 k.acc (16384 * a + i)).toNat

/-- A slot's bytes (R35). -/
def slotImage (k : Core) (cmask : Word) (wait : Nat) (taskId : Word) : List Byte :=
  fixedImage k cmask wait taskId
  ++ ((maskGroups cmask).flatMap fun g => vregImage k (32 * g) 32 ++ boundImage k (32 * g) 32)
  ++ (if maskQ cmask then qImage k else [])
  ++ ((maskAccs cmask).flatMap fun a => accImage k a)

/-! Reading an image back (R36, R37, R295). -/

/-- The number in `n` bytes at an offset of an image. -/
def rdNum (rd : Nat → Nat → List Byte) (o n : Nat) : Nat := ofBytes (rd o n)

/-- A loop-stack entry read back (R151). -/
def loopOf (v : Nat) : Option LoopEnt :=
  let st : Option LoopSt := match bits v 1 0 with | 1 => some .run | 2 => some .drain | 3 => some .stopped | _ => none
  st.map fun st =>
    { endA := .ofNat 48 (bits v 255 208), startA := .ofNat 48 (bits v 207 160), iter := .ofNat 32 (bits v 159 128), prem := .ofNat 32 (bits v 127 96),
      rem := .ofNat 32 (bits v 95 64), rb := .ofNat 6 (bits v 15 10), tail := .ofNat 3 (bits v 9 7), stg := .ofNat 3 (bits v 6 4), st := st }

/-- A FIFO read back. -/
def fifoOf (rd : Nat → Nat → List Byte) (o : Nat) : List (Option Word) :=
  (List.range 8).filterMap fun i =>
    let f := rdNum rd (o + 16 * i + 8) 1
    if bit f 0 then some (if bit f 1 then some (.ofNat 64 (rdNum rd (o + 16 * i) 8)) else none) else none

/-- A cluster restored from a fixed part: PC, mode, predicates, registers, loop stack and payload registers; the outgoing ones hold no
    payload (R154). -/
def restoreCl (rd : Nat → Nat → List Byte) (c : Cluster) (x : Cl) : Cl :=
  let n := c.num
  let preds : Sparse Mask := match c with
    | .V => (List.range 16).foldl (fun m p => sset 0 m p (.ofNat 64 (rdNum rd (0x80 + 8 * p) 8))) []
    | _ =>
      let o := match c with | .A => 0x40 | .T => 0x42 | _ => 0x44
      (List.range 16).foldl (fun m p => sset 0 m p (if bit (rdNum rd o 2) p then 1 else 0)) []
  let regs : Sparse Word := (List.range 31).foldl (fun m r => sset 0 m (r + 1) (.ofNat 64 (rdNum rd (0x100 + 256 * n + 8 * (r + 1)) 8))) []
  { x with
      pc := .ofNat 48 (rdNum rd (8 * n) 8), exposed := bit (rdNum rd 0x38 8) n, p := preds.filter fun e => e.1 != 0, s := regs,
      loops := ((List.range 4).filterMap fun i => loopOf (rdNum rd (0x500 + 128 * n + 32 * i) 32)).reverse,
      inL := .ofNat 64 (rdNum rd (0xF00 + 32 * n) 8), inR := .ofNat 64 (rdNum rd (0xF00 + 32 * n + 8) 8), outL := none, outR := none }

/-- Page number `p` lies in one of some ranges. -/
def inRanges (l : List (Nat × Nat)) (p : Nat) : Bool := l.any fun r => decide (r.1 ≤ p) && decide (p < r.1 + r.2)

/-- Frame and permissions of a handle. -/
def leafOf (h : BitVec 128) : Nat := 8 * hFrame h + bits h.toNat 62 60

/-- Frame and permissions that a walk of a context's page gives now, if it is mapped (R37). -/
def State.leafNow (s : State) (ctx die vpage : Nat) : Option Nat :=
  match (s.walk ctx die vpage).2 with
  | .page h _ => some (leafOf h)
  | _ => none

/-- What the pages that a core's valid handles name are mapped to (R37). -/
def State.leavesOf (s : State) (ctx k : Nat) (c : Core) : List (Nat × Option Nat) :=
  ((((List.range 32).map fun i => sget 0 c.h i).filter hValid).map hVpage).eraseDups.map fun p => (p, s.leafNow ctx (dieOf k) p)

/-- Those of a save's mapped pages whose mapping satisfies `p`, as ranges of one page, but for pages that a range names already. -/
def pagesWhere (p : Nat × Nat → Bool) (named : List (Nat × Nat)) (leaves : List (Nat × Option Nat)) : List (Nat × Nat) :=
  leaves.filterMap fun e => match e.2 with
    | some v => if p (e.1, v) && !inRanges named e.1 then some (e.1, 1) else none
    | none => none

/-- The pages of a core's continuations that satisfy `p` of their context's number and their mapping at the save join those that a restore clears
    handles for (R37). -/
def Core.noteConts (k : Core) (p : Nat → Nat × Nat → Bool) : Core :=
  if k.conts.isEmpty then k else
  { k with conts := k.conts.map fun (c : Cont) => { c with tinvs := c.tinvs ++ pagesWhere (p c.task.ctx.toNat) c.tinvs c.leaves } }

/-- The pages of all continuations and saved contexts that satisfy `p` of the die, the context's number and the mapping at the save join those
    that a restore clears handles for (R37). -/
def State.notePages (s : State) (p : Nat → Nat → Nat × Nat → Bool) : State :=
  { s with
      cores := s.cores.map fun (e : Nat × Core) => (e.1, e.2.noteConts (p (dieOf e.1))),
      ctxs := s.ctxs.map fun (e : Nat × Ctx) =>
        (e.1, { e.2 with tinvs := e.2.tinvs ++ pagesWhere (p (dieOf (e.2.coreList.headD 0)) e.1) e.2.tinvs e.2.leaves,
                         saved := e.2.saved.map fun (c : Nat × Core) => (c.1, c.2.noteConts (p (dieOf c.1))) }) }

/-- Pages that are unmapped, or mapped otherwise than at the save, are noted, so that mapping them again before the restore does not bring their
    handles back (R37). -/
def State.noteChanges (s : State) : State := s.notePages fun die n e => s.leafNow n die e.1 != some e.2

/-- A handle that a restore leaves invalid: since the save a tinv has named its page, or the page has been unmapped or its permissions have
    changed (R37). -/
def State.stale (s : State) (ctx k : Nat) (tinvs : List (Nat × Nat)) (leaves : List (Nat × Option Nat)) (h : BitVec 128) : Bool :=
  hValid h && (inRanges tinvs (hVpage h) || leaves.any fun e => e.1 == hVpage h && e.2.isSome && e.2 != s.leafNow ctx (dieOf k) e.1)

/-- A handle's image as its register holds it: reserved bits are zero (R7, R239), and V is clear when it is stale (R37). -/
def handleOf (stale : BitVec 128 → Bool) (v : Nat) : BitVec 128 :=
  let h := BitVec.ofNat 128 v &&& 0x0000000000000000FFFFFFFFFFFFFFFF ||| BitVec.ofNat 128 (bits v 79 64 * 2 ^ 64)
  let h := h &&& ~~~(0x0E000000_18000000 : BitVec 128)
  if stale h then h &&& ~~~(BitVec.ofNat 128 (2 ^ 63)) else h

/-- A tile window's image as its register holds it: reserved bits are zero (R7, R201). -/
def windowOf (v : Nat) : BitVec 256 :=
  .ofNat 256 (pack [(14, bits v 13 0), (2, 0), (93, bits v 108 16), (19, 0), (16, bits v 143 128), (16, 0), (96, bits v 255 160)])

/-- CMASK as its register holds it (R7, R34). -/
def cmaskOf (v : Nat) : Word := .ofNat 64 (bits v 63 39 * 2 ^ 39)

/-- The fixed part restored to a core (R35, R37): latches read as zero, AFLAGS is zero (R61) and the quantisation bypass is empty. -/
def restoreFixed (rd : Nat → Nat → List Byte) (stale : BitVec 128 → Bool) (k : Core) : Core :=
  let k := k.upAll fun c x => restoreCl rd c { x with aflags := 0 }
  let k := ((List.range 8).zip fifoOrder).foldl (fun k f => k.setFifo f.2.1 f.2.2 (fifoOf rd (0x700 + 128 * f.1))) k
  { k with
      win := (List.range 16).foldl (fun m w => sset 0 m w (windowOf (rdNum rd (0xB00 + 32 * w) 32))) [],
      h := (List.range 32).foldl (fun m i => sset 0 m i (handleOf stale (rdNum rd (0xD00 + 16 * i) 16))) [],
      latch := [], bypass := [] }

/-- Vector registers restored: data at `o`, bounds and tags at `b`. -/
def restoreVregs (rd : Nat → Nat → List Byte) (o b a n : Nat) (k : Core) : Core :=
  { k with vr := (List.range n).foldl (fun m i => sset VVal.zero m (a + i)
      { val := .ofNat 2048 (rdNum rd (o + 256 * i) 256), bound := .ofNat 32 (rdNum rd (b + 4 * i) 4),
        bounded := bit (rdNum rd (b + 4 * n + 4 * i) 4) 0 }) k.vr }

/-- The operand file restored. -/
def restoreQ (rd : Nat → Nat → List Byte) (o : Nat) (k : Core) : Core :=
  { k with q := (List.range 64).foldl (fun m i => sset 0 m i (.ofNat 2048 (rdNum rd (o + 256 * i) 256))) [] }

/-- An accumulator restored. -/
def restoreAcc (rd : Nat → Nat → List Byte) (o a : Nat) (k : Core) : Core :=
  { k with acc := (List.range 16384).foldl (fun m i => sset 0 m (16384 * a + i) (.ofNat 32 (rdNum rd (o + 4 * i) 4))) k.acc }

/-- A slot restored to its core. -/
def restoreSlot (rd : Nat → Nat → List Byte) (cmask : Word) (stale : BitVec 128 → Bool) (k : Core) : Core :=
  let k := restoreFixed rd stale k
  let gs := maskGroups cmask
  let k := ((List.range gs.length).zip gs).foldl (fun k e => restoreVregs rd (4096 + 8448 * e.1) (4096 + 8448 * e.1 + 8192) (32 * e.2) 32 k) k
  let o := 4096 + 8448 * gs.length
  let k := if maskQ cmask then restoreQ rd o k else k
  let o := if maskQ cmask then o + 16384 else o
  let l := maskAccs cmask
  ((List.range l.length).zip l).foldl (fun k e => restoreAcc rd (o + 65536 * e.1) e.2 k) k

/-! The core record (R292). The places of the fields within the areas at 0xE_6000 that R292 lists are log 24's. -/

/-- A ready-queue entry's 16 bytes: a new task's launch and identity, or a continuation's slot (log 24). -/
def readyImage : ReadyEnt → List Byte
  | .task t => toBytes 8 (2 ^ 63 + t.launch) ++ toBytes 8 t.id.toNat
  | .cont slot => toBytes 8 (2 ^ 62 + slot.toNat) ++ toBytes 8 0

/-- A ready-queue entry read back: a task or continuation is one of `pool`, as the entry names it; one that has left its group since the save
    is none (R330). -/
def readyOf (pool : List ReadyEnt) (a b : Nat) : Option ReadyEnt :=
  if bit a 63 then pool.find? fun e => match e with
    | .task t => t.launch == a % 2 ^ 62 && t.id.toNat == b
    | .cont _ => false
  else if bit a 62 then (if pool.contains (.cont (.ofNat 6 a)) then some (.cont (.ofNat 6 a)) else none) else none

/-- Owner codes, 3 bits a tile. -/
def ownerImage (k : Core) : List Byte := toBytes 240 (pack ((List.range 640).map fun t => (3, (k.owner' t).toNat)))

/-- A local address as a chain word holds it: all ones for none. -/
def chainWord (a : Option Nat) : List Byte := toBytes 8 (a.getD 0xFFFFFFFF)

/-- A command of the chain that a core shows, not started. -/
def Core.waits (k : Core) (c : CopyCmd) : Bool := c.entry.isNone && k.seqCtx == some c.ctx.toNat

/-- Copy commands of the chain that have not started. -/
def Core.unstarted (k : Core) : List CopyCmd := k.cp.filter k.waits

/-- SEQ_CP, SEQ_WS, and the chains: of the copy engine the addresses of the oldest entry that has not completed, of the tail and of the next
    entry to start; of the weight-stream engine the numbers of the oldest fill, of the last and of the next to start (R292; log 24). -/
def chainImage (k : Core) : List Byte :=
  toBytes 8 k.seqCp.toNat ++ toBytes 8 k.seqWs.toNat
  ++ chainWord (k.cp.head?.map (·.addr)) ++ chainWord k.cpTail ++ chainWord (k.unstarted.head?.map (·.addr))
  ++ toBytes 8 (match k.ws with | f :: _ => f.seq | [] => k.wsNext) ++ toBytes 8 (k.wsNext - 1)
  ++ toBytes 8 (match k.ws.find? fun f => !f.started with | some f => f.seq | none => k.wsNext)

/-- The metadata of a bank. -/
def bankImage (m : BankMeta) : List Byte :=
  toBytes 8 (pack [(16, m.kbase), (16, m.nbase), (16, m.rows), (4, m.typ.toNat), (1, b2n m.poisoned)])

/-- The metadata of a bank read back. -/
def bankOf (v : Nat) : BankMeta :=
  { kbase := bits v 15 0, nbase := bits v 31 16, rows := bits v 47 32, typ := .ofNat 4 (bits v 51 48), poisoned := bit v 52 }

/-- Bank metadata, active bank, PHASE, cut counter, AFLAGS, halt state and the quantisation bypass (R292; log 24). -/
def modeImage (k : Core) : List Byte :=
  bankImage k.meta0 ++ bankImage k.meta1
  ++ [BitVec.ofNat 8 (b2n k.active), BitVec.ofNat 8 k.steps.toNat] ++ toBytes 2 k.cut.toNat
  ++ [k.v.aflags, k.t.aflags, BitVec.ofNat 8 (b2n k.halted), BitVec.ofNat 8 k.bypass.length]
  ++ k.bypass.flatMap fun e => toBytes 4 e.1.toNat

/-- A level of the nest sequencer. -/
def levelImage (n : NestLevel) : List Byte :=
  toBytes 8 (pack [(16, n.count.toNat), (16, n.dk.toNat), (16, n.dm.toNat), (16, n.dn.toNat)]) ++ [BitVec.ofNat 8 n.dacc.toNat]

/-- A level read back. -/
def levelOf (v : Nat) : NestLevel :=
  { count := .ofNat 16 v, dk := .ofNat 16 (bits v 31 16), dm := .ofNat 16 (bits v 47 32), dn := .ofNat 16 (bits v 63 48), dacc := .ofNat 3 (bits v 66 64) }

/-- A nest: its levels, k level, how many words stand behind it, the index of its next step, and its template (R215; log 24). -/
def nestImage (n : Nest) : List Byte :=
  padTo 128 ([BitVec.ofNat 8 n.levels.length, BitVec.ofNat 8 n.klevel, BitVec.ofNat 8 (b2n n.entered), BitVec.ofNat 8 n.after] ++ toBytes 12 n.next
    ++ toBytes 24 ((encode .T (.mma { e := true, g := 0, n := false, y := false, k := 0 } n.tmpl)).getD 0 0) ++ n.levels.flatMap levelImage)

/-- A nest changed by its image; its template is the one it has. -/
def nestOf (rd : Nat → Nat → List Byte) (o : Nat) (n : Nest) : Nest :=
  { n with
    levels := (List.range (rdNum rd o 1)).map (fun l => levelOf (rdNum rd (o + 40 + 9 * l) 9)), klevel := rdNum rd (o + 1) 1,
    entered := bit (rdNum rd (o + 2) 1) 0, after := rdNum rd (o + 3) 1, next := rdNum rd (o + 4) 12 }

/-- The page at 0xE_6000 of the register image (R292). -/
def miscImage (k : Core) : List Byte :=
  padTo 0x800 (k.ready.flatMap readyImage) ++ padTo 0x100 (ownerImage k) ++ chainImage k ++ padTo 0x40 (modeImage k)
  ++ padTo 0x80 ((List.range 8).flatMap fun l => levelImage (sget NestLevel.reset k.shadow l)) ++ padTo 0x600 (k.nests.flatMap nestImage)

/-- The first MiB of a core record (R292). -/
def registerImage (k : Core) : List Byte :=
  let taskId := match k.task with | some t => t.id | none => 0
  fixedImage k k.cmask 0 taskId ++ vregImage k 0 512 ++ boundImage k 0 512 ++ qImage k
  ++ ((List.range 8).flatMap fun a => accImage k a) ++ ((List.range 262144).map fun i => sget 0 k.bank i)
  ++ miscImage k ++ List.replicate 0x19000 0

/-- The quantisation bypass read back: each scale can be popped when the core's own entry there could be, or else at once. -/
def bypassOf (rd : Nat → Nat → List Byte) (old : List (BitVec 32 × Nat)) : List (BitVec 32 × Nat) :=
  (List.range (min 2 (rdNum rd 0xE6957 1))).map fun i => (.ofNat 32 (rdNum rd (0xE6958 + 4 * i) 4), (old.getD i (0, 0)).2)

/-- The page at 0xE_6000 read back to a core `k`. -/
def restoreMisc (rd : Nat → Nat → List Byte) (k : Core) : Core :=
  let old := k.bypass
  let k := { k with
    ready := (List.range 128).filterMap fun i => readyOf k.ready (rdNum rd (0xE6000 + 16 * i) 8) (rdNum rd (0xE6008 + 16 * i) 8),
    owner := (List.range 640).foldl (fun m t => sset 0 m t (.ofNat 3 (bits (rdNum rd 0xE6800 240) (3 * t + 2) (3 * t)))) [],
    seqCp := .ofNat 64 (rdNum rd 0xE6900 8), seqWs := .ofNat 64 (rdNum rd 0xE6908 8),
    meta0 := bankOf (rdNum rd 0xE6940 8), meta1 := bankOf (rdNum rd 0xE6948 8), active := bit (rdNum rd 0xE6950 1) 0,
    tailActive := k.tailActive != (k.active != bit (rdNum rd 0xE6950 1) 0),
    steps := .ofNat 3 (rdNum rd 0xE6951 1), cut := .ofNat 16 (rdNum rd 0xE6952 2), halted := bit (rdNum rd 0xE6956 1) 0, bypass := bypassOf rd old,
    shadow := (List.range 8).foldl (fun m l => sset NestLevel.reset m l (levelOf (rdNum rd (0xE6980 + 9 * l) 9))) [],
    nests := ((List.range k.nests.length).zip k.nests).map fun (e : Nat × Nest) => nestOf rd (0xE6A00 + 128 * e.1) e.2 }
  (k.upCl .V fun x => { x with aflags := .ofNat 8 (rdNum rd 0xE6954 1) }).upCl .T fun x => { x with aflags := .ofNat 8 (rdNum rd 0xE6955 1) }

/-- A core restored from the register image; what R292 gives no place is that of the core `k` (R295; log 24). -/
def restoreImage (rd : Nat → Nat → List Byte) (stale : BitVec 128 → Bool) (k : Core) : Core :=
  let by' := k.bypass
  let k := { restoreFixed rd stale k with bypass := by' }
  let k := restoreQ rd 0x22000 (restoreVregs rd 0x1000 0x21000 0 512 k)
  let k := (List.range 8).foldl (fun k a => restoreAcc rd (0x26000 + 65536 * a) a k) k
  restoreMisc rd { k with
    bank := (List.range 262144).foldl (fun m i => sset 0 m i (.ofNat 8 (rdNum rd (0xA6000 + i) 1))) [],
    cmask := cmaskOf (rdNum rd 0x20 8) }

/-- The chains resume from their saved positions: the commands that have not started are the entries that LINK leads to, from the position to
    the tail, numbered on from the commands before them (R252, R295). -/
def restoreChains (rd : Nat → Nat → List Byte) (tag : Nat) (k : Core) : Core :=
  let word (o : Nat) : Option Nat := let v := rdNum rd o 8; if v ≥ spSize then none else some v
  let pos := word 0xE6920
  let tail := word 0xE6918
  let all := match pos with | some a => some a :: followLinks k 40960 (some a) | none => []
  let addrs := (all.takeWhile (·.isSome)).filterMap id
  let addrs := match tail with | some t => if addrs.contains t then addrs.takeWhile (· != t) ++ [t] else addrs | none => addrs
  let others := k.cp.filter fun c => !k.waits c
  let first := match k.unstarted.head? with
    | some c => c.seq
    | none => if others.isEmpty then k.seqCp.toNat + 1 else k.cpNext
  let cmds := ((List.range addrs.length).zip addrs).map fun (e : Nat × Nat) =>
    match k.unstarted.find? fun c => c.seq == first + e.1 with
    | some c => { c with addr := e.2 }
    | none => CopyCmd.fresh (first + e.1) (.ofNat 6 (k.seqCtx.getD 0)) e.2 tag
  { k with
    cp := others ++ cmds, cpTail := tail, cpNext := first + cmds.length,
    ws := k.ws.filter (fun f => f.started || (decide (rdNum rd 0xE6938 8 ≤ f.seq) && decide (f.seq ≤ rdNum rd 0xE6930 8))), wsNext := rdNum rd 0xE6930 8 + 1 }

end Sys2Proof.Machine
end

