-- ==== Sys2Proof/Machine/Probe.lean ====
section
/-! DEFINITION. Probes: the walk of a page of rprobe, the fault-request and fault-reply rings, and the probes that wait on the host
    (R242, R301, R302, R347). -/

namespace Sys2Proof.Machine

open Sys2Proof

/-- Entries of the fault-request ring (R284, R301). -/
def Ctx.frqSize (x : Ctx) : Nat := 64 * bits x.desc.rsize.toNat 11 0

/-- Entries of the fault-reply ring. -/
def Ctx.frpSize (x : Ctx) : Nat := 64 * bits x.desc.rsize.toNat 27 16

/-- A probe token (R301). -/
def probeToken (core slot count : Nat) : BitVec 32 := .ofNat 32 (pack [(18, count % 2 ^ 18), (6, slot), (8, core)])

/-- A fault request posted for a page, with the access byte naming R (log 36): false when the ring is full and the request is
    dropped (R301). -/
def State.postFault (s : State) (n : Nat) (token : BitVec 32) (page : Nat) : State × Bool :=
  let x := s.ctx n
  if (x.fqHead - x.fqTail).toNat == x.frqSize then (s.refuse unitMgmt (some (n, x.kdom.toNat)) (toBytes 4 token.toNat), false)
  else
    let j := x.fqHead + 1
    let r := toBytes 4 token.toNat ++ [BitVec.ofNat 8 n, 1, 0, 0] ++ toBytes 8 (page * 2 ^ 21) ++ List.replicate 16 0
    let s := s.devWrite (x.desc.frq.toNat + 32 * ((j.toNat + 2 ^ 32 - 1) % 2 ^ 32 % x.frqSize)) r
    ((s.upCtx n fun x => { x with fqHead := j }).raiseIrq (192 + n), true)

/-- A page of a probe (R242): beyond 2^48 it counts as refused; held in the RTB it is resolved; else it is walked. -/
inductive PageRes
  | resolved
  | refused
  | fault
  | failed
  deriving DecidableEq, Repr

/-- A page of a probe looked up, or walked for a core (R240, R347): a page that walks enters the RTB. -/
def State.probePage (s : State) (k n page : Nat) : State × PageRes :=
  if page ≥ 2 ^ 27 then (s, .refused)
  else match (s.core k).rtbFind (s.ctx n) page with
    | some e => (s.upCore k fun c => c.rtbUse e, .resolved)
    | none =>
      let (s, r) := s.walk n (dieOf k) page
      match r with
      | .page h hen => (s.rtbFill k n page h hen, .resolved)
      | .fault => (s, .fault)
      | .fail => (s, .failed)

/-- The pages of a probe evaluated in ascending order: the state, and the pages with what each gave. -/
def State.probeAll (s : State) (k n base count : Nat) : State × List (Nat × PageRes) :=
  (List.range count).foldl (fun (st : State × List (Nat × PageRes)) i =>
    let (s, r) := st.1.probePage k n (base + i)
    (s, st.2 ++ [(base + i, r)])) (s, [])

/-- The result of a probe that retires (R242). -/
def State.probeResult (s : State) (k n base count : Nat) (refused failed : List Nat) : Word :=
  let held := ((List.range count).filter fun i => ((s.core k).rtbFind (s.ctx n) (base + i)).isSome && decide (base + i < 2 ^ 27)).length
  let rf := !refused.isEmpty || ((List.range count).any fun i => decide (base + i ≥ 2 ^ 27))
  .ofNat 64 (pack [(10, held), (1, b2n !failed.isEmpty), (1, b2n rf)])

/-- Every page of a probe has been resolved, refused or found in walk error (R242). -/
def probeDone (c : Cont) : Option Word :=
  match c.on with
  | .probe _ _ _ _ [] [] _ _ => some 0
  | _ => none

/-- A continuation's probe changed, and its wait evaluated. -/
def State.upProbe (s : State) (k : Nat) (slot : BitVec 6) (f : WaitOn → WaitOn) : State :=
  s.upCore k fun c =>
    let c := { c with conts := c.conts.map fun (x : Cont) => if x.slot == slot then { x with on := f x.on } else x }
    c.wake fun x => if x.slot == slot then probeDone x else none

/-- The waiting probe of a core that has a page to walk. -/
def Core.probeOf (k : Core) (page : Nat) : Option Cont :=
  k.conts.find? fun c => !c.saving && !c.ready && (match c.on with | .probe _ _ _ _ w _ _ _ => w.contains page | _ => false)

/-- A page leaves the pages to walk and enters another list. -/
def movePage (page : Nat) (res : PageRes) : WaitOn → WaitOn
  | .probe t d b n w p r f =>
    let w := w.filter (· != page)
    match res with
    | .resolved => .probe t d b n w p r f
    | .fault => .probe t d b n w (p ++ [page]) r f
    | .refused => .probe t d b n w p (r ++ [page]) f
    | .failed => .probe t d b n w p r (f ++ [page])
  | o => o

/-- PAGE_WALK: a walk of a waiting probe's page that meets an entry with V = 0 posts a fault request; with a full ring the page
    counts as refused (R301, R347). -/
def execPageWalk (core : CoreId) (vpage : BitVec 27) (s : State) : Out :=
  let k := core.toNat
  let page := vpage.toNat
  .next (match (s.core k).probeOf page with
    | none => s
    | some c =>
      let n := c.task.ctx.toNat
      let (t, r) := s.probePage k n page
      match r, c.on with
      | .fault, .probe token _ _ _ _ _ _ _ =>
        let (t, ok) := t.postFault n token page
        t.upProbe k c.slot (movePage page (if ok then .fault else .refused))
      | _, _ => s)

/-- WALK_COMPLETE: the page of a waiting probe enters the RTB, or is found in walk error (R347). -/
def execWalkComplete (core : CoreId) (vpage : BitVec 27) (s : State) : Out :=
  let k := core.toNat
  let page := vpage.toNat
  .next (match (s.core k).probeOf page with
    | none => s
    | some c =>
      let (t, r) := s.probePage k c.task.ctx.toNat page
      match r with
      | .fault => s
      | _ => t.upProbe k c.slot (movePage page r))

/-! Replies (R301, R302). -/

/-- The next reply of a context's ring: its token, context, verdict and page; the head advances. -/
def State.takeReply (s : State) (n : Nat) : State × Nat × Nat × Nat × Nat :=
  let x := s.ctx n
  let (s, bs, _) := s.devRead (x.desc.frp.toNat + 16 * (x.frHead.toNat % x.frpSize)) 16
  let v := ofBytes bs
  (s.upCtx n fun x => { x with frHead := x.frHead + 1 }, bits v 31 0, bits v 39 32, bits v 47 40, bits v 127 85)

/-- A reply matched to its probe: a mapped page is walked again, a refused page is marked; others are discarded (R302). -/
def State.reply (s : State) (n token ctxByte verdict page : Nat) : State :=
  let k := token / 2 ^ 24
  match if ctxByte != n then none else (s.core k).conts.find? fun c => !c.saving && !c.ready && c.task.ctx.toNat == n && (match c.on with
      | .probe t _ _ _ _ p _ _ => t.toNat == token && p.contains page
      | _ => false) with
  | none => s
  | some c =>
    s.upProbe k c.slot fun o => match o with
      | .probe t d b m w p r f =>
        let p := p.filter (· != page)
        if verdict == 0 then .probe t d b m (w ++ [page]) p r f else .probe t d b m w p (r ++ [page]) f
      | o => o

/-- The replies that stand in a context's ring are consumed. -/
def State.takeReplies : Nat → State → Nat → State
  | 0, s, _ => s
  | j + 1, s, n =>
    let (s, token, cx, verdict, page) := s.takeReply n
    takeReplies j (s.reply n token cx verdict page) n

/-- Replies that stand in the ring of a context. -/
def Ctx.standing (x : Ctx) : Nat := (x.frTail - x.frHead).toNat

/-- FRTAIL_WRITE: R301; replies are matched while the context is RESIDENT or RUNNING, and stay in the ring otherwise (R302). -/
def execFrtailWrite (ctx : CtxId) (val : BitVec 32) (s : State) : Out :=
  let n := ctx.toNat
  let s := s.upCtx n fun x => { x with frTail := val }
  let x := s.ctx n
  .next (if x.st == .resident || x.st == .running then s.takeReplies x.standing n else s)

/-- FQTAIL_WRITE: R301. -/
def execFqtailWrite (ctx : CtxId) (val : BitVec 32) (s : State) : Out := .next (s.upCtx ctx.toNat fun x => { x with fqTail := val })

end Sys2Proof.Machine
end

