-- ==== Sys2Proof/Machine/Group.lean ====
section
/-! DEFINITION. Groups and the idleness of contexts: how a task's end counts, and how a group fails (R289, R330 to R332). -/

namespace Sys2Proof.Machine

open Sys2Proof

/-! Contexts at work (R289). -/

/-- A core has work of a context: a task or continuation that runs or is ready, or one being saved. -/
def Core.busyFor (k : Core) (n : Nat) : Bool :=
  (k.task.isSome && k.ctxNum == n) || k.ready.any (k.readyOf n) || k.conts.any fun c => c.task.ctx.toNat == n && (c.saving || c.ready)

/-- RUNNING becomes RESIDENT when no task or continuation of the context is running or ready on any core, by the table of R289; that a context
    whose tasks all wait stays RUNNING (R56) is read as saying that nothing ends it (log 74; DEDUCED). -/
def State.noteIdle (s : State) (n : Nat) : State :=
  if (s.ctx n).st == .running && !s.cores.any (fun e => e.2.busyFor n) then s.upCtx n fun x => { x with st := .resident } else s

/-- RESIDENT becomes RUNNING when a task or continuation starts (R289). -/
def State.noteRunning (s : State) (n : Nat) : State :=
  if (s.ctx n).st == .resident then s.upCtx n fun x => { x with st := .running } else s

/-! Groups (R330). -/

/-- Every group of a launch changed. -/
def State.upLaunch (s : State) (id : Nat) (f : Launch → Launch) : State :=
  { s with launches := s.launches.map fun l => if l.id == id then f l else l }

/-- A group of a launch, by its first ordinal, changed. -/
def State.upGroup (s : State) (id first : Nat) (f : Group → Group) : State :=
  s.upLaunch id fun l => { l with groups := l.groups.map fun g => if g.first == first then f g else g }

/-- A launch by its number. -/
def State.launch (s : State) (id : Nat) : Option Launch := s.launches.find? fun l => l.id == id

/-- A task has ended by tend; with the last one its group drains (R330). -/
def State.taskDone (s : State) (t : Task) : State :=
  s.upGroup t.launch t.first fun g =>
    let n := g.ended + 1
    { g with ended := n, st := if decide (n ≥ t.gsize) && (g.st == .placed || g.st == .running) then .draining else g.st }

/-- A task belongs to a group. -/
def Task.inGroup (t : Task) (id first : Nat) : Bool := t.launch == id && t.first == first

/-- What is left of a group on a core stops: its task, its ready tasks and its continuations (R330). -/
def Core.stopGroup (k : Core) (id first : Nat) : Core :=
  let mine (c : Cont) : Bool := c.task.inGroup id first
  let keep (e : ReadyEnt) : Bool := match e with
    | .task t => !t.inGroup id first
    | .cont slot => !k.conts.any fun c => c.slot == slot && mine c
  let k := match k.task with | some t => if t.inGroup id first then k.stopClusters else k | none => k
  { k with ready := k.ready.filter keep, conts := k.conts.filter fun c => !mine c }

/-! The ends of groups (R330). -/

/-- The group placed on a quad, with its launch. -/
def State.groupOn (s : State) (q : Nat) : Option (Launch × Group) :=
  match sget none s.quads q with
  | none => none
  | some g => (s.launch g.launch).bind fun l => (l.groups.find? fun x => x.first == g.first).map fun x => (l, x)

/-- TS is zero on the four cores of a quad. -/
def State.quadQuiet (s : State) (q : Nat) : Bool := (List.range 4).all fun i => (s.core (4 * q + i)).tsCount == 0 && (s.core (4 * q + i)).nests.isEmpty

/-- A quad is free. -/
def State.freeQuad (s : State) (q : Nat) : State := { s with quads := serase s.quads q }

/-- A launch's record is QUEUED, DISPATCHING or RUNNING. -/
def State.launchLive (s : State) (l : Launch) : Bool :=
  match (sget Rec.reset s.recs (recKeyOf l.ctx.toNat l.recNo)).st with
  | .queued | .dispatching | .running => true
  | _ => false

/-- The launch of the group on a quad is gone: its record was blanked while the group's tile steps still completed (R330). -/
def State.orphan (s : State) (q : Nat) : Bool := match sget none s.quads q with | some g => (s.launch g.launch).isNone | none => false

/-- A draining group whose cores' TS is zero is DONE, and its quad is free (R330). -/
def State.groupDone (s : State) (q : Nat) : State :=
  match s.groupOn q with
  | none => s
  | some (l, g) =>
    if g.st != .draining || !s.quadQuiet q then s
    else (s.upGroup l.id g.first fun g => { g with st := .done, freed := true }).freeQuad q

/-- A FAULTED group whose stopped tasks' TS is zero frees its quad, and the launch is FAULTED (R315, R330). A context being sealed frees its
    quads when the seal is complete; the quad of a launch that is gone is freed under the same condition (R315). -/
def State.groupFree (s : State) (q : Nat) : State :=
  match s.groupOn q with
  | none => if s.orphan q && s.quadQuiet q then s.freeQuad q else s
  | some (l, g) =>
    let n := l.ctx.toNat
    if g.st != .faulted || !s.quadQuiet q || (s.ctx n).st == .sealing then s
    else
      let s := (s.upGroup l.id g.first fun g => { g with freed := true }).freeQuad q
      let s := if s.launchLive l then s.setQueue l.queue.toNat ((s.queue l.queue.toNat).entryEnds l.entry) else s
      s.setRecSt n l.recNo .faulted

/-- GROUP_DONE: R330. -/
def execGroupDone (quad : BitVec 6) (s : State) : Out := .next (s.groupDone quad.toNat)

/-- GROUP_QUAD_FREE: R330. -/
def execGroupQuadFree (quad : BitVec 6) (s : State) : Out := .next (s.groupFree quad.toNat)

/-- What is left of a group on its quad stops. -/
def State.stopGroup (s : State) (quad id first : Nat) : State :=
  (List.range 4).foldl (fun s i => s.upCore (4 * quad + i) fun k => k.stopGroup id first) s

/-- The TRAP_CAUSE of the cluster that a core's TRAP_CAUSE registers name as the origin (R298). -/
def Core.originCause (k : Core) : Word :=
  (k.cl (match bits k.a.trapCause.toNat 11 10 with | 0 => .A | 1 => .V | 2 => .T | _ => .S)).trapCause

/-- A task ends by trap: its group is FAULTED, what is left of the group stops, the launch's unplaced groups are dropped, and a record
    is written (R330, R331). -/
def State.groupFault (s : State) (k : Nat) (t : Task) (cause : Word) : State :=
  let s := s.upGroup t.launch t.first fun g => { g with st := .faulted, unqueued := [] }
  let s := s.upLaunch t.launch fun l => { l with dropped := true }
  let s := s.stopGroup t.quad t.launch t.first
  let n := t.ctx.toNat
  s.logError 11 2 (unitCore k) (some (n, (s.ctx n).kdom.toNat)) 0 (toBytes 4 t.lser.toNat ++ toBytes 4 t.first ++ toBytes 8 cause.toNat)

end Sys2Proof.Machine
end

