-- ==== Sys2Proof/Machine/Task.lean ====
section
/-! DEFINITION. Tasks: trap, bkpt, eret, lmode, phase and the task-level words; their actions, continuations, starts, the watchdog and
    debugger halts (R30 to R39, R50, R53, R85 to R87, R159 to R165, R298 to R304). -/

namespace Sys2Proof.Machine

open Sys2Proof

/-! trap and bkpt (R159). -/

/-- trap: R159. -/
def execTrap (h : Hdr) (code : BitVec 10) (s : State) : Out := issue s (.trap h code) fun s => .trapNext s .trap (code.setWidth 64)

/-- A bkpt acts: it passes where a debugger has asked for a halt, and else it traps (R159, R304). -/
def bkptBody (code : BitVec 10) (s : State) : Eff :=
  match s.mine.debug with
  | .off => .trapNext s .bkpt (code.setWidth 64)
  | _ => .ok (s.upMine fun k => { k with debug := .hit })

/-- bkpt: R159; DEBUG_HALT is the halt of an attached debugger (log 3). -/
def execBkpt (h : Hdr) (code : BitVec 10) (s : State) : Out := issue s (.bkpt h code) (bkptBody code)

/-! The words that wait for all four copies (R32, R160). -/

/-- A task-level copy issues, and waits for the action (R32). -/
def copyBody (i : Instr) (s : State) : Eff := .ok (s.waitHere i)

/-- yield: R161. -/
def execYield (h : Hdr) (s : State) : Out := issue s (.yield h) (copyBody (.yield h))

/-- tend: R33. -/
def execTend (h : Hdr) (s : State) : Out := issue s (.tend h) (copyBody (.tend h))

/-- waita: R162. -/
def execWaita (h : Hdr) (a b : Reg) (cc : BitVec 3) (s : State) : Out := issue s (.waita h a b cc) (copyBody (.waita h a b cc))

/-- bwait: R340. -/
def execBwait (h : Hdr) (d a : Reg) (lv : BitVec 2) (num : BitVec 8) (s : State) : Out :=
  issue s (.bwait h d a lv num) (copyBody (.bwait h d a lv num))

/-- rprobe: R242. -/
def execRprobe (h : Hdr) (d a b : Reg) (s : State) : Out := issue s (.rprobe h d a b) (copyBody (.rprobe h d a b))

/-- Which of the words that all four clusters issue together a word is, by its major and sub-op (R32, R160). -/
def copyKind : Instr → Nat
  | .tend _ => 1
  | .yield _ => 2
  | .waita _ _ _ _ => 3
  | .bwait _ _ _ _ _ => 4
  | .rprobe _ _ _ _ => 5
  | .eret _ => 6
  | _ => 0

/-- The kind of the copy a cluster waits at. -/
def Cl.copyAt (x : Cl) : Nat := match x.wait with | some i => copyKind i | none => 0

/-- All four copies have issued. -/
def Core.allCopies (k : Core) : Bool := Cluster.all.all fun c => (k.cl c).copyAt != 0

/-- The four copies are the same instruction. -/
def Core.sameCopies (k : Core) : Bool := Cluster.all.all fun c => (k.cl c).copyAt == k.a.copyAt

/-- The word a cluster waits at retires: the PC moves past it, its pops stand and it pushes (R32, R45). -/
def Core.finishWord (k : Core) (c : Cluster) : Core :=
  match (k.cl c).wait with
  | none => k
  | some i =>
    let k := k.upCl c fun x => { x with pc := pcPlus c x.pc i.words, wait := none, popped := [] }
    match i.hdr? with
    | some h => k.pushSoon c h.pushes
    | none => k

/-- The four copies retire; every watchdog's count restarts (R32, R53). -/
def Core.finishAll (k : Core) (now : Nat) : Core :=
  { (Cluster.all.foldl Core.finishWord k.commitAll).upAll fun _ x => { x with wdogFrom := now } with waitHeld := false }

/-! eret (R160, R300). -/

/-- The first cluster whose eret traps: its loop stack is not the one held at handler entry (0x0D of ILLOP), or its TRAP_PC is no
    target of R114 (log 57). -/
def Core.eretBad (k : Core) : Option (Cluster × Cause × Word) :=
  match (Cluster.all.zip k.hloops).find? fun e => (k.cl e.1).loops != e.2 with
  | some (c, _) => some (c, .illop, 0x0D)
  | none => (Cluster.all.find? fun c => badTarget c (k.cl c).trapPc).map fun c => (c, .align, 0)

/-- The task leaves the handler: INH is cleared (R300); a task that ends has left it (log 37). -/
def Core.leaveHandler (k : Core) : Core :=
  { (k.upAll fun _ x => { x with trapCause := x.trapCause &&& ~~~(0x8000 : Word) }) with inh := false, hloops := [] }

/-- Every cluster resumes at its TRAP_PC and INH is cleared (R160, R300). A new version opens. -/
def Core.eretAct (k : Core) : Core :=
  let k := Cluster.all.foldl Core.finishWord k
  { (k.upAll fun _ x => { x with pc := x.trapPc.setWidth 48 }).leaveHandler with version := [] }

/-- The last copy of eret issues: the return, unless a check of R114 or R300 fails. -/
def State.eretAll (s : State) : State :=
  let k := s.mine
  match k.eretBad with
  | some (c, cause, info) =>
    s.trapHere c cause (k.cl c).pc info (match cause with
      | .align => operandAddr (k.cl c).trapPc.toNat 0
      | _ => (match (k.cl c).wait with | some i => wordImage c i | none => []))
  | none => s.upMine Core.eretAct

/-- eret in a cluster: PRIV outside a handler; with the other three copies there, the return (R160). -/
def eretBody (h : Hdr) (s : State) : Eff :=
  if !s.mine.inh then privNow s (.eret h)
  else
    let s := s.waitHere (.eret h)
    if s.mine.allCopies && s.mine.sameCopies then .ok s.eretAll else .ok s

/-- eret: R160. -/
def execEret (h : Hdr) (s : State) : Out := issue s (.eret h) (eretBody h)

/-! lmode (R50, R164). -/

/-- lmode: R50; one that names the current mode only passes. -/
def execLmode (h : Hdr) (exposed : Bool) (s : State) : Out :=
  issue s (.lmode h exposed) fun s =>
    if s.myCl.exposed == exposed then .ok (s.advance (.lmode h exposed)) else .ok (s.waitHere (.lmode h exposed))

/-- A cluster's queues are empty: its LD and ST counts are zero. -/
def Cl.quiet (x : Cl) : Bool := x.loadQ.isEmpty && x.storeQ.isEmpty && x.rets.isEmpty

/-- A waiting lmode acts once its cluster's LD and ST and the core's TS are zero (R50): 8 issue cycles pass, and results that are due later
    stay in flight. No issue cycle passes before that (log 6). -/
def State.lmodeSwitch (s : State) (k : Nat) (c : Cluster) : State :=
  let x := s.core k
  match (x.cl c).wait with
  | some (.lmode _ e) =>
    if !((x.cl c).quiet && x.tsCount == 0 && x.nests.isEmpty) || s.power.stopped then s
    else
      let x := x.upCl c fun y => { y with exposed := e, icyc := y.icyc + 8 }
      ((s.setCore k ((x.commitBy c (x.cl c).icyc).finishWord c)).recheck k).settle k
  | _ => s

/-- LMODE_SWITCH: R50. -/
def execLmodeSwitch (core : CoreId) (c : Cluster) (s : State) : Out := .next (s.lmodeSwitch core.toNat c)

/-! phase (R84 to R86, R165). -/

/-- phase: R165; one that names the present split completes at once, unless another word of its bundle is a phase too, which acts first. -/
def execPhase (h : Hdr) (n : BitVec 3) (s : State) : Out :=
  issue s (.phase h n) fun s =>
    if s.mine.steps == n && s.mine.phaseReq.isEmpty then .ok (s.advance (.phase h n))
    else
      let c := s.curCl
      .ok ((s.waitHere (.phase h n)).upMine fun k => { k with phaseReq := k.phaseReq ++ [(c, n)] })

/-- First tile and number of the tiles that pass between scratchpad and L1. -/
def passing (a b : Nat) : Nat × Nat := (640 - 32 * max a b, 32 * (max a b - min a b))

/-- The first tile that a change to `n` steps takes and that is not THREAD (R85 step 2). -/
def Core.tileTaken (k : Core) (n : Nat) : Option Nat :=
  if n ≤ k.steps.toNat then none
  else let (t, m) := passing k.steps.toNat n; firstHeld k t m

/-- The split changes (R85 steps 3 to 6): dirty L1 bytes go to L2, the L1 is invalidated, and the tiles change hands. -/
def State.setSteps (s : State) (k : Nat) (n : BitVec 3) : State :=
  let s := s.l1ToL2 k fun _ => true
  s.upCore k fun c =>
    let (t, m) := passing c.steps.toNat n.toNat
    let o := if c.steps.toNat < n.toNat then ownCache else ownThread
    let c := { c with sp := seraseRange c.sp (4096 * t) (4096 * (t + m)), spPoison := seraseRange c.spPoison (4096 * t) (4096 * (t + m)), l1 := [], steps := n }
    (List.range m).foldl (fun c i => c.setOwner (t + i) o) c

/-- The first phase of a core acts once LD and ST of all four clusters are zero (R85); one that names the present split only completes
    (R165). -/
def State.phaseChange (s : State) (k : Nat) : State :=
  let x := s.core k
  match x.phaseReq with
  | [] => s
  | (c, n) :: r =>
    if !Cluster.all.all (fun c => (x.cl c).quiet) || s.power.stopped then s
    else if n == x.steps then (s.upCore k fun y => ({ y with phaseReq := r }).finishWord c).settle k
    else match x.tileTaken n.toNat with
      | some t =>
        (s.upCore k fun y => ({ y with phaseReq := r }).upCl c fun z => { z with wait := none }).raise k c .owner (x.cl c).pc 0 (operandAddr (4096 * t) (x.owner' t))
      | none => ((s.setSteps k n).upCore k fun y => ({ y with phaseReq := r }).finishWord c).settle k

/-- PHASE_SPLIT_CHANGE: R85. -/
def execPhaseSplitChange (core : CoreId) (s : State) : Out := .next (s.phaseChange core.toNat)

/-! The task-level action (R32 to R39). -/

/-- A trap raised at the A cluster's copy: nothing has acted. -/
def State.copyTrap (s : State) (k : Nat) (cause : Cause) (operand : List Byte) : State :=
  s.raise k .A cause (s.core k).a.pc 0 operand

/-- The core has no task: tokens and payloads are discarded (R33). -/
def Core.clearTask (k : Core) : Core :=
  { (k.upAll fun _ x => { x with wait := none, popped := [], flight := [], trapped := none }).leaveHandler with
      task := none, toRight := [], toLeft := [], version := [] }

/-- tend: the task ends, by trap when a cluster is in the handler (R33, R331). -/
def State.endTask (s : State) (k : Nat) : State :=
  match (s.core k).task with
  | none => s
  | some t =>
    let inh := (s.core k).inh
    let s := if inh then s else s.commit k
    let cause := (s.core k).originCause
    let s := s.upCore k fun c => (c.finishAll s.cycle).clearTask
    let s := if inh then s.groupFault k t cause else s.taskDone t
    s.noteIdle t.ctx.toNat

/-- yield: drained and committed, the task goes on at the next words, or stops there for a pending pre-emption (R161). -/
def State.yieldAct (s : State) (k : Nat) : State :=
  (s.commit k).upCore k fun c =>
    let c := c.finishAll s.cycle
    if c.asked then c.upAll fun _ x => { x with stopped := true } else c

/-- A continuation slot's index that no continuation of the core holds (R39). -/
def Core.freeSlot (k : Core) : Nat := ((List.range 64).find? fun i => !k.conts.any fun c => c.slot.toNat == i).getD 0

/-- A wait found unsatisfied saves the slot and ends the task (R38 step 4); with 64 continuations it is held (R39), and so it is while a word
    cannot retire (R45). The mappings of the pages that its handles name are noted (R37). -/
def State.beginSave (s : State) (k : Nat) (on : Nat → WaitOn) : State :=
  let c := s.core k
  match c.task with
  | none => s
  | some t =>
    if c.conts.length ≥ 64 then s.setCore k { c with waitHeld := true } else
    let slot := c.freeSlot
    let k0 := c.finishAll s.cycle
    if k0.retiring then s else
    let w := on slot
    let cnt := match w with | .probe _ _ _ _ _ _ _ _ => sset 0 c.issueCnt slot (sget 0 c.issueCnt slot + 1) | _ => c.issueCnt
    let e : Cont := { slot := .ofNat 6 slot, tile := .ofNat 10 (slotTile c.cslot), cmask := c.cmask, task := t, on := w, saving := true, ready := false,
                      result := 0, tinvs := [], leaves := s.leavesOf t.ctx.toNat k c, tsteps := c.tsteps, jsteps := c.jsteps, xcount := c.xcount, tds := c.tds }
    s.setCore k { k0.leaveHandler with task := none, version := [], conts := k0.conts ++ [e], issueCnt := cnt }

/-- A wait satisfied at step 3 of R38: the instruction retires and the task goes on, with a value for the A cluster's register. -/
def State.goOn (s : State) (k : Nat) (d : Reg) (v : Option Word) : State :=
  s.upCore k fun c =>
    let c := c.finishAll s.cycle
    match v with
    | some v => c.upCl .A fun x => x.setReg d v
    | none => c

/-- The checks of a wait's own operands, before the version commits: the cause and the bytes of R299 (R162, R334). -/
def State.waitBad (s : State) (k : Nat) (i : Instr) : Option (Cause × List Byte) :=
  let c := s.core k
  match i with
  | .waita _ a _ _ =>
    let x := (c.a.reg a).toNat
    if x % 8 != 0 || x ≥ spSize then some (.align, operandAddr x 0)
    else if c.owner' (x / 4096) != ownThread then some (.owner, operandAddr x (c.owner' (x / 4096)))
    else none
  | .bwait _ _ _ lv num => if s.barAllowed k (barKey k lv.toNat num.toNat) then none else some (.priv, wordImage .A i)
  | _ => none

/-- The evaluation of a wait at action time and what follows (R38 steps 3 and 4). -/
def State.waitStep (s : State) (k : Nat) (i : Instr) : State :=
  let c := s.core k
  match i with
  | .waita _ a b cc =>
    let x := (c.a.reg a).toNat
    if ccHolds cc.toNat (c.spWord x) (c.a.reg b) then s.goOn k 0 none
    else s.beginSave k fun _ => .word x cc b (c.a.reg b)
  | .bwait _ d a lv num =>
    let key := barKey k lv.toNat num.toNat
    let e : BitVec 16 := (c.a.reg a).setWidth 16
    match (s.bar key).answers e.toNat with
    | some v => (s.goOn k d (some v)).acquire k (barScope key)
    | none => s.beginSave k fun _ => .barrier key (256 * lv.toNat + num.toNat) e d
  | .rprobe _ d a b =>
    let base := (c.a.reg a).toNat / 2 ^ 21
    let n := min (c.a.reg b).toNat 512
    let (s, l) := s.probeAll k c.ctxNum base n
    if l.all fun e => e.2 == .resolved then s.goOn k d (some (s.probeResult k c.ctxNum base n [] []))
    else
      let count := sget 0 c.issueCnt ((s.core k).freeSlot) + 1
      let open' := (l.filter fun e => e.2 == .fault || e.2 == .failed).map (·.1)
      s.beginSave k fun slot => .probe (probeToken k slot count) d base n open' [] ((l.filter fun e => e.2 == .refused).map (·.1)) []
  | _ => s

/-- waita, bwait or rprobe acts, in the order of R38. -/
def State.waitAct (s : State) (k : Nat) (i : Instr) : State :=
  match s.waitBad k i with
  | some (cause, operand) => s.copyTrap k cause operand
  | none =>
    let s := s.commit k
    let c := s.core k
    let base := 4096 * slotTile c.cslot
    let size := slotSize c.cmask
    if !c.slotOk (slotTile c.cslot) size then
      s.copyTrap k .owner (operandAddr base (if base + size ≤ spSize then c.wrongOwner ownThread base size else 0))
    else s.waitStep k i

/-- Copies that disagree: every cluster raises ILLOP 0x0A (R32). -/
def State.disagree (s : State) (k : Nat) : State :=
  (Cluster.all.foldl (fun s c =>
    let x := (s.core k).cl c
    s.markTrap k c .illop x.pc 0x0A (match x.wait with | some i => wordImage c i | none => [])) s).settle k

/-- The four copies stay where they are: at a wait, while a pre-emption is asked, since the core has reached its pre-emption point with the
    wait not acted on; at any, once the save has begun (R51, R397). -/
def State.staysThere (s : State) (k : Nat) : Bool :=
  let c := s.core k
  (c.asked && 3 ≤ c.a.copyAt && c.a.copyAt ≤ 5) || (s.ctx c.ctxNum).saving

/-- The action of the four copies that wait on a core, once it is drained (R32); a wait that the limit of R39 holds does not act until one
    of the continuations has left. -/
def State.taskAction (s : State) (k : Nat) : State :=
  let c := s.core k
  if c.task.isNone || c.trap.isSome || c.halted || !c.allCopies || s.power.stopped || (c.waitHeld && decide (c.conts.length ≥ 64)) then s
  else if !c.sameCopies then s.disagree k
  else if !c.drained || s.staysThere k then s
  else match c.a.wait with
    | some (.tend _) => s.endTask k
    | some (.yield _) => s.yieldAct k
    | some (.waita h a b cc) => s.waitAct k (.waita h a b cc)
    | some (.bwait h d a lv num) => s.waitAct k (.bwait h d a lv num)
    | some (.rprobe h d a b) => s.waitAct k (.rprobe h d a b)
    | _ => s

/-- TASK_LEVEL_ACTION: R32. -/
def execTaskLevelAction (core : CoreId) (s : State) : Out := .next (s.taskAction core.toNat)

/-- WAIT_HOLD_RELEASE: a wait held by the limit of R39 is evaluated again once a continuation has left. -/
def execWaitHoldRelease (core : CoreId) (s : State) : Out :=
  let k := core.toNat
  let c := s.core k
  .next (if c.conts.length < 64 && 3 ≤ c.a.copyAt && c.a.copyAt ≤ 5 then s.taskAction k else s)

/-! Continuations (R35 to R39). -/

/-- The wait of a saved continuation, if it is satisfied. -/
def State.waitAnswer (s : State) (k : Nat) (c : Cont) : Option Word :=
  match c.on with
  | .word _ _ _ _ => (s.core k).waitaHolds c
  | .barrier _ _ _ _ => s.barAnswer c
  | .probe _ _ _ _ _ _ _ _ => probeDone c

/-- A wait is evaluated: satisfied, its continuation enters the ready queue (R38, R39). -/
def State.evaluate (s : State) (k : Nat) (slot : BitVec 6) : State :=
  s.upCore k fun c => c.wake fun x => if x.slot == slot then s.waitAnswer k x else none

/-- WAIT_EVALUATE: R38. -/
def execWaitEvaluate (core : CoreId) (slot : BitVec 6) (s : State) : Out := .next (s.evaluate core.toNat slot)

/-- The save of a slot is complete: the slot is written and the wait is evaluated again (R35, R38). -/
def State.saveDone (s : State) (k : Nat) : State :=
  let c := s.core k
  match c.conts.find? (·.saving) with
  | none => s
  | some e =>
    if s.power.stopped then s else
    let img := slotImage c e.cmask (waitWord e.on) e.task.id
    let c := c.spWrite (4096 * e.tile.toNat) (allOf img)
    let c := { c with toRight := [], toLeft := [], conts := c.conts.map fun (x : Cont) => if x.saving then { x with saving := false } else x }
    ((s.setCore k c).evaluate k e.slot).noteIdle e.task.ctx.toNat

/-- CONTINUATION_SAVE_DONE: R38. -/
def execContinuationSaveDone (core : CoreId) (s : State) : Out := .next (s.saveDone core.toNat)

/-- A core can take a ready entry of a context: it has no task and saves none, what a stopped task left has completed, the context is RESIDENT
    or RUNNING (R39, R51, R289), and the clock runs (R20). -/
def State.mayTake (s : State) (k n : Nat) : Bool :=
  let c := s.core k
  let x := s.ctx n
  c.task.isNone && !c.conts.any (·.saving) && (c.ending.isNone || c.drained) && (x.st == .resident || x.st == .running)
    && !s.power.stopped

/-- The oldest ready continuation of a core. -/
def Core.readyCont (k : Core) : Option Cont :=
  k.ready.findSome? fun e => match e with
    | .cont slot => k.conts.find? fun c => c.slot == slot
    | .task _ => none

/-- The command numbers of a context become a core's (R259). -/
def Core.useSeqs (k : Core) (n : Nat) : Core :=
  if k.seqCtx == some n then k else
  let parked : SeqSt := { cpNext := k.cpNext, cpTail := k.cpTail, seqCp := k.seqCp, wsNext := k.wsNext, seqWs := k.seqWs }
  let seqs := match k.seqCtx with | some m => sset SeqSt.reset k.seqs m parked | none => k.seqs
  let q := sget SeqSt.reset seqs n
  { k with seqCtx := some n, seqs := serase seqs n, cpNext := q.cpNext, cpTail := q.cpTail, seqCp := q.seqCp, wsNext := q.wsNext, seqWs := q.seqWs }

/-- What every start of a task or continuation sets: the task, and counts that begin with it (R30, R61, R196, R220, R227); its queue is
    empty, so that the active bank is the tail's (R216). Under CP a new task counts
    from the next command and fill on, and a continuation every command of its context on the core (R30, R43). -/
def Core.beginTask (k : Core) (t : Task) (fresh : Bool) (now tsteps jsteps xcount : Nat) (tds : Sparse (BitVec 1024)) : Core :=
  let k := k.useSeqs t.ctx.toNat
  { (k.upAll fun _ x => { x with wait := none, popped := [], flight := [], stopped := false, wdogFrom := now, trapped := none, aflags := 0 }) with
      task := some t, ending := none, cpFrom := if fresh then k.cpNext else 0, wsFrom := if fresh then k.wsNext else 0, waitHeld := false, debug := .off,
      version := [], inh := false, hloops := [], tsteps := tsteps, jsteps := jsteps, tailActive := k.active, xcount := xcount, tds := tds, latch := [], bypass := [],
      ownt := k.ownt.map fun r => { r with tq := 0 } }

/-- The value that a waking continuation's register receives, with its register (R242, R340). -/
def State.wakeValue (s : State) (k : Nat) (c : Cont) : Option (Reg × Word) :=
  match c.on with
  | .word _ _ _ _ => none
  | .barrier _ _ _ d => some (d, c.result)
  | .probe _ d base n _ _ refused failed => some (d, s.probeResult k c.task.ctx.toNat base n refused failed)

/-- The oldest ready continuation starts on its core: the slot is restored (R36, R37, R39). One that a barrier woke acquires at the
    barrier's scope (R339). -/
def State.contStart (s : State) (k : Nat) : State :=
  let c := s.core k
  match c.readyCont with
  | none => s
  | some e =>
    if !s.mayTake k e.task.ctx.toNat then s else
    let v := s.wakeValue k e
    let rd (o n : Nat) : List Byte := c.spRead (4096 * e.tile.toNat + o) n
    let c := { c with ready := c.ready.filter (· != ReadyEnt.cont e.slot), conts := c.conts.filter fun x => x.slot != e.slot }
    let c := (restoreSlot rd e.cmask (s.stale e.task.ctx.toNat k e.tinvs e.leaves) c).beginTask e.task false s.cycle e.tsteps e.jsteps e.xcount e.tds
    let c := match v with | some (d, w) => c.upCl .A fun x => x.setReg d w | none => c
    let s := s.setCore k c
    let s := match e.on with | .barrier key _ _ _ => s.acquire k (barScope key) | _ => s
    s.noteRunning e.task.ctx.toNat

/-- CONTINUATION_START: R36. -/
def execContinuationStart (core : CoreId) (s : State) : Out := .next (s.contStart core.toNat)

/-! New tasks (R30, R87, R320). -/

/-- The oldest new task of a core's ready queue. -/
def Core.readyTask (k : Core) : Option Task :=
  k.ready.findSome? fun e => match e with | .task t => some t | .cont _ => none

/-- Tasks in a ready queue. -/
def Core.newTasks (k : Core) : Nat := (k.ready.filter fun e => match e with | .task _ => true | .cont _ => false).length

/-- A group's tasks enter the ready queues of its cores in ordinal order, as space allows (R39, R323, R327). -/
def enterTasks (cores : List (Nat × Core)) : List Task → List (Nat × Core) × List Task
  | [] => (cores, [])
  | t :: r =>
    let k := 4 * t.quad + (t.ord - BitVec.ofNat 32 t.first).toNat % 4
    let c := sget Core.reset cores k
    if c.newTasks < 64 && c.ready.length < 128 then enterTasks (sput cores k { c with ready := c.ready ++ [.task t] }) r
    else let (cs, l) := enterTasks cores r; (cs, t :: l)

/-- Tasks of a group that still wait for space enter the ready queues. -/
def State.refill (s : State) (id first : Nat) : State :=
  match (s.launch id).bind fun l => l.groups.find? fun g => g.first == first with
  | none => s
  | some g =>
    if g.unqueued.isEmpty then s else
    let (cs, l) := enterTasks s.cores g.unqueued
    { s with cores := cs }.upGroup id first fun g => { g with unqueued := l }

/-- A cluster at a task's start (R30, R154). -/
def startCl (t : Task) (c : Cluster) (x : Cl) : Cl :=
  let s : Sparse Word := ((List.range 16).zip t.params).foldl (fun m e => sset 0 m (16 + e.1) e.2) []
  { x with pc := t.pcs.getD c.num 0, s := s, p := [], loops := [], exposed := false, inL := 0, inR := 0, outL := none, outR := none }

/-- The task's first words can issue: its group is RUNNING, and its launch (R315, R330). -/
def State.noteStarted (s : State) (t : Task) : State :=
  let s := s.upGroup t.launch t.first fun g => { g with st := if g.st == .placed then .running else g.st }
  match s.launch t.launch with
  | none => s
  | some l => if (sget Rec.reset s.recs (recKeyOf l.ctx.toNat l.recNo)).st == .dispatching then s.setRecSt l.ctx.toNat l.recNo .running else s

/-- A tile of the split region is held by an engine (R83, R87). -/
def Core.splitHeld (k : Core) : Bool := (List.range 128).any fun i => let o := k.owner' (512 + i); o != ownThread && o != ownCache

/-- A new task starts on its core in the state of R30, after a change of the split (R87) and an acquire at dev scope (R320); it waits while a
    continuation is ready, or, where the split changes, while an engine holds a tile of the split region (R39, R87). -/
def State.newStart (s : State) (k : Nat) : State :=
  let c := s.core k
  match c.readyTask with
  | none => s
  | some t =>
    if c.readyCont.isSome || !s.mayTake k t.ctx.toNat || (c.steps != t.steps && c.splitHeld) then s else
    let s := if c.steps == t.steps then s else s.setSteps k t.steps
    let s := s.acquire k 3
    let c := s.core k
    let c := { c with ready := c.ready.filter (· != ReadyEnt.task t), toRight := [], toLeft := [], win := [], h := [] }
    let c := (c.beginTask t true s.cycle 0 0 0 []).upAll (startCl t)
    (((s.setCore k c).noteRunning t.ctx.toNat).noteStarted t).refill t.launch t.first

/-- TASK_START: R30. -/
def execTaskStart (core : CoreId) (s : State) : Out := .next (s.newStart core.toNat)

/-! The watchdog (R53, R303). -/

/-- A cluster's count since it last passed a pre-emption point. -/
def State.wdogCount (s : State) (k : Nat) (c : Cluster) : Nat := s.cycle - ((s.core k).cl c).wdogFrom

/-- A core's task has reached its pre-emption points: each cluster has stopped, or waits at a task-level word that has not acted, or the core
    is halted; no trap or save is in progress, and LD, ST and TS are zero (R51, R52, R304, R397). -/
def Core.atPoint (k : Core) : Bool :=
  k.trap.isNone && !k.conts.any (·.saving) && k.drained
    && (k.task.isNone || k.halted || Cluster.all.all fun c => (k.cl c).stopped || (1 ≤ (k.cl c).copyAt && (k.cl c).copyAt ≤ 5))

/-- WATCHDOG is raised in a cluster whose count exceeds W; it stops while the task is halted, its core is stopped for a save, or the clock is
    stopped (R20, R53, R303). -/
def State.watchdog (s : State) (k : Nat) (c : Cluster) : State :=
  let x := s.core k
  match x.task with
  | none => s
  | some t =>
    let n := s.wdogCount k c
    if x.halted || (x.asked && x.atPoint) || s.power.stopped || n ≤ t.w.toNat then s
    else s.raise k c .watchdog (x.cl c).pc (.ofNat 64 (n % 2 ^ 32 + 2 ^ 32 * t.w.toNat)) []

/-- WATCHDOG: R53. -/
def execWatchdog (core : CoreId) (c : Cluster) (s : State) : Out := .next (s.watchdog core.toNat c)

/-- HANDLER_ENTRY: R298; LD, ST and TS have reached zero. -/
def execHandlerEntry (core : CoreId) (s : State) : Out := .next (s.settle core.toNat)

/-! Debugger halts (R304). -/

/-- An enabled hardware breakpoint of the cluster stands at its PC (R304). -/
def Cl.atBreak (x : Cl) : Bool := x.dbgbp.any fun e => e.2.getLsbD 63 && e.2.setWidth 48 == x.pc

/-- The four clusters stop where they are; nothing is discarded and no record is written (R304). -/
def State.haltCore (s : State) (k : Nat) : State :=
  let now := s.cycle
  s.upCore k fun c => { c.commitAll with halted := true, haltedAt := now }

/-- A bkpt at the cluster's PC: the word. -/
def State.bkptAt (s : State) (k : Nat) (c : Cluster) : Option (Hdr × BitVec 10) :=
  match (s.fetchAt k c).2 with
  | .words w next => (match decode c w next with | .ok (.bkpt h code) => some (h, code) | _ => none)
  | .trap _ _ _ => none

/-- A core halts once the bkpt it was asked to halt at has issued (R159, R304). -/
def State.haltHit (s : State) (k : Nat) : State :=
  if (s.core k).debug == .hit then (s.upCore k fun c => { c with debug := .off }).haltCore k else s

/-- DEBUG_HALT: at a breakpoint before its word issues, at a bkpt once it has issued: alone, or with the other words of its lock-step bundle,
    which `step` issues (R46, R159, R304). -/
def State.debugHalt (s : State) (k : Nat) (c : Cluster) : State :=
  let t := { s with cur := .ofNat 8 k, curCl := c }
  if !t.canIssue then s
  else if t.myCl.atBreak then s.haltCore k
  else match s.bkptAt k c with
    | none => s
    | some (h, code) =>
      let t := t.upMine fun x => { x with debug := .armed }
      if h.y then { t with cur := s.cur, curCl := s.curCl }
      else
        let u := { t.issueWord (.bkpt h code) (bkptBody code) with cur := s.cur, curCl := s.curCl }
        if (u.core k).debug == .hit then u.haltHit k else u.upCore k fun x => { x with debug := .off }

/-- DEBUG_HALT: R304. -/
def execDebugHalt (core : CoreId) (c : Cluster) (s : State) : Out := .next (s.debugHalt core.toNat c)

/-- DEBUG_RESUME: R304; the watchdogs go on where they stood (R303). -/
def execDebugResume (core : CoreId) (s : State) : Out :=
  let k := core.toNat
  let c := s.core k
  .next (if !c.halted then s else s.setCore k
    { (c.upAll fun _ x => { x with wdogFrom := x.wdogFrom + (s.cycle - c.haltedAt) }) with halted := false })

/-- The debug window (R304, R374): the register image of the core that DBGSEL names. A read answers 8 bytes; a write changes 8 of them, where
    R292 gives the bytes a layout (log 24). -/
def State.debugWindow (s : State) (write : Bool) (off : Nat) (val : Word) : State :=
  let k := s.dbgsel.toNat
  let c := s.core k
  let img := registerImage c
  if !write then { s with hostRead := padTo 8 ((img.drop off).take 8), hostReadPoisoned := false }
  else if off + 8 > 0x100000 then s
  else
    let img := img.take off ++ toBytes 8 val.toNat ++ img.drop (off + 8)
    let rd (o n : Nat) : List Byte := (img.drop o).take n
    let d := restoreChains rd (s.quadTag (quadOf k)) (restoreImage rd (fun _ => false) c)
    s.setCore k { (d.upAll fun cl x => { x with outL := (c.cl cl).outL, outR := (c.cl cl).outR }) with latch := c.latch }

/-- DEBUG_WINDOW_ACCESS: R304. -/
def execDebugWindowAccess (write : Bool) (off : BitVec 24) (val : BitVec 64) (s : State) : Out := .next (s.debugWindow write off.toNat val)

end Sys2Proof.Machine
end

