-- ==== Sys2Proof/Machine/Context.lean ====
section
/-! DEFINITION. Contexts: load, pre-emption, save, restore and seal (R284 to R295, R302, R305, R343, R344). -/

namespace Sys2Proof.Machine

open Sys2Proof

/-- A context command ignored with an error-log record (R289). -/
def State.ctxIgnored (s : State) (n op : Nat) : State := s.refuse unitMgmt (some (n, (s.ctx n).kdom.toNat)) [BitVec.ofNat 8 op]

/-- CTXCMD as a command writes it (R287). -/
def State.ctxWrite (s : State) (op n daddr : Nat) : State := { s with ctxcmd := .ofNat 64 (pack [(6, n), (2, op), (44, daddr / 256)]) }

/-- STATE of CTXSTAT (R287). -/
def CtxSt.code : CtxSt → Nat
  | .free => 0 | .loading => 1 | .resident => 2 | .running => 3 | .preempting => 4 | .saved => 5 | .faulted => 6 | .sealing => 7

/-- CTXSTAT of a context (R287). -/
def Ctx.stat (x : Ctx) : Word := .ofNat 64 (pack [(4, x.st.code), (28, 0), (8, x.lerr.toNat), (8, x.cause.toNat)])

/-! Load (R288). -/

/-- CTX_LOAD: FREE becomes LOADING; in any other state the command is ignored with a record (R289). -/
def execCtxLoad (ctx : CtxId) (daddr : BitVec 52) (s : State) : Out :=
  let n := ctx.toNat
  let s := s.ctxWrite 0 n daddr.toNat
  .next (if (s.ctx n).st == .free && s.turn.isNone then s.upCtx n fun x => { x with st := .loading, restoring := false, daddr := daddr &&& 0xFFFFFFFFFFF00 }
    else s.ctxIgnored n 0)

/-- The fields of a descriptor image (R284). -/
def Desc.ofImage (v : Nat) : Desc :=
  let w (o : Nat) : Word := .ofNat 64 (bits v (8 * o + 63) (8 * o))
  { config := w 0, ptroot := w 8, ttbase := w 0x10, hpc := [w 0x18, w 0x20, w 0x28, w 0x30], save := w 0x38, frq := w 0x40, frp := w 0x48, rsize := w 0x50,
    mbox := w 0x58, cores := .ofNat 256 (bits v 1023 768) }

/-- A reserved field of the descriptor is nonzero, an alignment is broken, or SAVE lies in slice storage under another scheme than 7
    (R288 code 2). -/
def Desc.malformed (d : Desc) (v : Nat) : Bool :=
  let c := d.config.toNat
  let r := d.rsize.toNat
  bits c 63 60 != 0 || bits c 43 40 != 0 || bits c 31 24 != 0 || bits v 2047 1024 != 0 || bits r 63 28 != 0 || bits r 15 12 != 0
    || d.ptroot.toNat % 4096 != 0 || d.save.toNat % 2 ^ 21 != 0 || d.frq.toNat % 4096 != 0 || d.frp.toNat % 4096 != 0
    || (Cluster.all.any fun k => badTarget k (d.hpc.getD k.num 0)) || (tierOf d.save.toNat == some 3 && bits c 59 57 != 7)

/-- CORES is zero, TRLOC is above 0x9FF, or a field of RSIZE is 0 or above 64 (R288 code 4). -/
def Desc.outOfRange (d : Desc) : Bool :=
  let a := bits d.rsize.toNat 11 0
  let b := bits d.rsize.toNat 27 16
  d.cores == 0 || decide (bits d.config.toNat 55 44 > 0x9FF) || a == 0 || decide (a > 64) || b == 0 || decide (b > 64)

/-- LERR of a load (R288). -/
def State.loadError (s : State) (n : Nat) (d : Desc) (v : Nat) (poisoned : Bool) : Nat :=
  if poisoned then 1
  else if d.malformed v then 2
  else if s.ctxs.any fun (e : Nat × Ctx) => e.1 != n && e.2.st != .free && (e.2.st != .loading || e.2.restoring) && bits e.2.desc.config.toNat 23 0 == bits d.config.toNat 23 0 then 3
  else if d.outOfRange then 4
  else if (sget Kd.reset s.kds (bits d.config.toNat 39 32)).st == .retired then 5
  else 0

/-- Entries of an ASID, of one generation or of all, leave every RTB (R350 to R352). -/
def State.dropRtb (s : State) (p : RtbEnt → Bool) (core : Nat → Bool) : State :=
  { s with cores := s.cores.map fun (e : Nat × Core) => if core e.1 then (e.1, { e.2 with rtb := e.2.rtb.filter fun x => !p x }) else e }

/-- Entries of an ASID leave every walk cache. -/
def State.dropWalks (s : State) (p : BitVec 16 → BitVec 8 → Bool) : State :=
  { s with walkCache := s.walkCache.filter fun e => !p e.2.1 e.2.2.1 }

/-- A context is loaded: RESIDENT, its rings and command numbers at their start (R259, R289, R301, R350). -/
def State.loadOk (s : State) (n : Nat) (d : Desc) : State :=
  let s := s.upCtx n fun x => { x with st := .resident, lerr := 0, cause := 0, desc := d, fqHead := 0, fqTail := 0, frHead := 0, frTail := 0, tinvs := [],
                                       leaves := [], saved := [], savedQuads := [] }
  let x := s.ctx n
  let s := { s with cores := s.cores.map fun (e : Nat × Core) =>
    if x.coreList.contains e.1 then
      (e.1, let k := if e.2.seqCtx == some n then { e.2 with seqCtx := none } else e.2
            { k with seqs := serase k.seqs n })
    else e }
  if x.gen == 0 then (s.dropRtb (fun r => r.asid == x.asid) fun _ => true).dropWalks fun a _ => a == x.asid else s

/-- A load reads and checks the descriptor (R288). -/
def State.contextLoad (s : State) (n : Nat) : State :=
  let x := s.ctx n
  if x.st != .loading || x.restoring then s else
  let (s, bs, poisoned) := s.devRead x.daddr.toNat 256
  let v := ofBytes bs
  let d := Desc.ofImage v
  match s.loadError n d v poisoned with
  | 0 => s.loadOk n d
  | e => s.upCtx n fun x => { x with st := .free, lerr := .ofNat 8 e }

/-- CONTEXT_LOAD_DONE: R289. -/
def execContextLoadDone (ctx : CtxId) (s : State) : Out := .next (s.contextLoad ctx.toNat)

/-! Pre-emption and save (R289, R291 to R293). -/

/-- The quads that hold groups of a context's launches (R323). -/
def State.quadsOf (s : State) (n : Nat) : List (Nat × QuadSt) :=
  (List.range 64).filterMap fun q => match sget none s.quads q with
    | some g => (match s.launch g.launch with | some l => if l.ctx.toNat == n then some (q, g) else none | none => none)
    | none => none

/-- A core holds state of a context: work, a continuation, an engine entry, or a place in a quad that one of its groups holds. -/
def State.present (s : State) (n k : Nat) : Bool :=
  let c := s.core k
  c.busyFor n || (c.conts.any fun x => x.task.ctx.toNat == n) || (c.cp.any fun x => x.ctx.toNat == n) || (c.ws.any fun x => x.ctx.toNat == n)
    || (match c.ending with | some t => t.ctx.toNat == n | none => false) || (s.quadsOf n).any fun q => q.1 == quadOf k

/-- A core is free of other contexts' tasks (R290). -/
def Core.freeOfOthers (k : Core) (n : Nat) : Bool :=
  (k.task.isNone || k.ctxNum == n) && (k.task.isSome || k.ending.isNone || k.drained || k.ctxNum == n) && k.ready.all (k.readyOf n)
    && k.conts.all fun c => c.task.ctx.toNat == n

/-- A core works for another context than `n`, or lies in a quad that a group of another holds. -/
def State.usedByOthers (s : State) (n k : Nat) : Bool :=
  !(s.core k).freeOfOthers n
    || (match sget none s.quads (quadOf k) with | some g => !(s.quadsOf n).any (fun q => q.2 == g) | none => false)

/-- The cores that hold state of a context and that no other context has taken. Of a core that another has taken the
    save takes the engine entries alone (log 39). -/
def State.coresOf (s : State) (n : Nat) : List Nat := (s.ctx n).coreList.filter fun k => s.present n k && !s.usedByOthers n k

/-- A pre-emption request is raised on every core of CORES (R51, R289). -/
def State.preemptCtx (s : State) (n : Nat) : State :=
  ((s.ctx n).coreList.foldl (fun s k => s.upCore k fun c => { c with preempt := c.preempt ||| BitVec.ofNat 64 (2 ^ n) }) s).upCtx n
    fun x => { x with st := .preempting, saving := false }

/-- The request of a context is answered on every core. -/
def State.preemptEnds (s : State) (n : Nat) : State :=
  { s with cores := s.cores.map fun (e : Nat × Core) => (e.1, { e.2 with preempt := e.2.preempt &&& ~~~(BitVec.ofNat 64 (2 ^ n)) }) }

/-- CTX_PREEMPT: R289. -/
def execCtxPreempt (ctx : CtxId) (s : State) : Out :=
  let n := ctx.toNat
  let s := s.ctxWrite 1 n 0
  .next (match (s.ctx n).st with
    | .resident | .running => s.preemptCtx n
    | .preempting | .saved => s
    | _ => s.ctxIgnored n 1)

/-- CONTEXT_SAVE_START: every core has stopped; versions commit, and engines start nothing more (R41, R52, R291). -/
def execContextSaveStart (ctx : CtxId) (s : State) : Out :=
  let n := ctx.toNat
  let l := s.coresOf n
  .next (if (s.ctx n).st != .preempting || (s.ctx n).saving || !l.all (fun k => (s.core k).atPoint) || s.power.stopped then s
    else (l.foldl (fun s k => (s.commit k).upCore k Core.commitAll) s).upCtx n fun x => { x with saving := true })

/-- The dirty bytes a core holds, and those it wrote that its L2 holds, go home, and its L1 is invalidated (R291 step 2). -/
def State.carryHome (s : State) (k : Nat) : State := (s.release k 3).upCore k fun c => { c with l1 := [] }

/-- What stays with a core when a context leaves it: the crossbars, the RTB, breakpoints, and the engine entries and numbers of other
    contexts. Everything else is as after reset (R291, R305; log 39). `k` holds the context's numbers. -/
def Core.leftBy (k : Core) (n : Nat) : Core :=
  { (Core.reset.upAll fun c x => { x with dbgbp := (k.cl c).dbgbp }) with
      xb := k.xb, rtb := k.rtb, seqs := k.seqs, preempt := k.preempt, cp := k.cp.filter fun x => x.ctx.toNat != n, ws := k.ws.filter fun x => x.ctx.toNat != n }

/-- The state of a context on a core as the save keeps it: a cluster that waits at a task-level word issues it again (R397). -/
def Core.kept (k : Core) (n : Nat) : Core :=
  { (Cluster.all.foldl Core.giveBack k) with cp := k.cp.filter fun x => x.ctx.toNat == n, ws := k.ws.filter fun x => x.ctx.toNat == n }

/-- The save area's place of a core's record (R291). -/
def recordBase (x : Ctx) (k : Nat) : Nat := x.desc.save.toNat + 2 ^ 21 + k * 0x380000

/-- Bytes of a context's save area read, under SAVEILV (R294). -/
def State.saveRead (s : State) (n a m : Nat) : State × List Byte :=
  let (s, bs, _) := s.devReadAs (s.ctx n).saveIlv a m
  (s, bs)

/-- Bytes of a context's save area written, under SAVEILV (R294). -/
def State.saveWrite (s : State) (n a : Nat) (bs : List Byte) : State := s.devWriteAs (s.ctx n).saveIlv a bs

/-- A core's record is written: the register image, and every tile that is not CACHE (R292). -/
def State.writeRecord (s : State) (n k : Nat) (c : Core) : State :=
  let b := recordBase (s.ctx n) k
  let s := s.saveWrite n b (registerImage c)
  (List.range 640).foldl (fun s t => if c.owner' t == ownCache then s else s.saveWrite n (b + 0x100000 + 4096 * t) (c.spRead (4096 * t) 4096)) s

/-- One core of a context saved, its bytes carried home (R291). -/
def State.saveCore (s : State) (n k : Nat) : State :=
  let c := (s.core k).useSeqs n
  let kept := c.kept n
  let s := s.writeRecord n k kept
  let leaves := s.leavesOf n k kept
  let s := s.setCore k (c.leftBy n)
  s.upCtx n fun x => { x with saved := x.saved ++ [(k, kept)], leaves := x.leaves ++ leaves.filter fun e => !x.leaves.any fun f => f.1 == e.1 }

/-- The engine entries of a context on a core that another context has taken leave it with the save (R291; log 39). -/
def State.parkEngines (s : State) (n k : Nat) : State :=
  let c := s.core k
  let mine : Core := { Core.reset with cp := c.cp.filter fun x => x.ctx.toNat == n, ws := c.ws.filter fun x => x.ctx.toNat == n }
  if mine.cp.isEmpty && mine.ws.isEmpty then s else
  let s := s.setCore k { c with cp := c.cp.filter fun x => x.ctx.toNat != n, ws := c.ws.filter fun x => x.ctx.toNat != n }
  s.upCtx n fun x => { x with saved := x.saved ++ [(k, mine)] }

/-- Parked engine entries stand in their core's chains again (R295; log 39). -/
def State.unparkEngines (s : State) (k : Nat) (mine : Core) : State := s.upCore k fun c => { c with cp := c.cp ++ mine.cp, ws := c.ws ++ mine.ws }

/-- The barrier words of the context's quads go to its mailbox (R343). -/
def State.saveBars (s : State) (n : Nat) (l : List (Nat × QuadSt)) : State :=
  let m := (s.ctx n).mailbox
  let s := l.foldl (fun s e => (List.range 16).foldl (fun s b =>
    s.devWrite (m + 256 * e.1 + 16 * b) (toBytes 8 (sget 0 s.barriers (16 * e.1 + b)).toNat ++ toBytes 8 0)) s) s
  let (s, v, _) := s.devNum (m + 0x4000) 8
  s.devWrite (m + 0x4000) (toBytes 8 (l.foldl (fun v e => v ||| 2 ^ e.1) v))

/-- Engine arrivals of a context on their way reach their units, or its mailbox. -/
def State.flushArrivals (s : State) (n : Nat) : State :=
  let mine := s.arrivals.filter fun a => a.ctx.toNat == n
  mine.foldl State.engineArrive { s with arrivals := s.arrivals.filter fun a => a.ctx.toNat != n }

/-- The save-area header (R293). -/
def State.writeHeader (s : State) (n : Nat) (l : List Nat) : State :=
  let x := s.ctx n
  let (s, count) := s.saveRead n (x.desc.save.toNat + 0x28) 8
  s.saveWrite n x.desc.save.toNat
    (padTo 0x400 (toBytes 32 (l.foldl (fun v k => v ||| 2 ^ k) 0) ++ toBytes 8 x.frHead.toNat ++ toBytes 8 (ofBytes count + 1)))

/-- The cores that the header names (R293). -/
def State.savedCores (s : State) (n : Nat) : State × List Nat :=
  let (s, bs) := s.saveRead n (s.ctx n).desc.save.toNat 32
  (s, (s.ctx n).coreList.filter fun k => bit (ofBytes bs) k)

/-- A context is saved: every engine entry in flight has completed; its cores and quads are free (R289, R291, R326, R343). A core that a
    debugger has let go on meanwhile reaches a pre-emption point first (R304, R397). -/
def State.contextSave (s : State) (n : Nat) : State :=
  let x := s.ctx n
  let l := s.coresOf n
  if x.st != .preempting || !x.saving
      || x.coreList.any (fun k => (s.core k).cp.any (fun c => c.ctx.toNat == n && c.entry.isSome) || (s.core k).ws.any fun f => f.ctx.toNat == n && f.started) then s
  else if !l.all fun k => (s.core k).atPoint then s.upCtx n fun x => { x with saving := false }
  else
    let qs := s.quadsOf n
    let s := s.upCtx n fun x => { x with saved := [], tinvs := [], leaves := [] }
    let s := s.saveBars n qs
    let s := x.coreList.foldl State.carryHome s
    let s := x.coreList.foldl (fun s k => if l.contains k then s.saveCore n k else s.parkEngines n k) s
    let s := (s.writeHeader n l).preemptEnds n
    let now := s.us
    let s := s.upCtx n fun x => { x with st := .saved, saving := false, restoring := false, savedAt := now,
                                         savedQuads := qs.map fun e => { quad := e.1, launch := e.2.launch, first := e.2.first, tag := e.2.tag } }
    ({ s with quads := s.quads.map fun (e : Nat × Option QuadSt) => if qs.any (fun q => q.1 == e.1) then (e.1, none) else e }).flushArrivals n

/-- CONTEXT_SAVE_DONE: R289. -/
def execContextSaveDone (ctx : CtxId) (s : State) : Out := .next (s.contextSave ctx.toNat)

/-! Restore (R290, R295, R302, R344). -/

/-- CTX_RESTORE: a SAVED context asks for its restore; other states ignore it with a record (R289). -/
def execCtxRestore (ctx : CtxId) (s : State) : Out :=
  let n := ctx.toNat
  let s := s.ctxWrite 2 n 0
  .next (if (s.ctx n).st == .saved then s.upCtx n fun x => { x with restoring := true } else s.ctxIgnored n 2)

/-- CONTEXT_RESTORE_START: the restore begins once every core that the image names is free of other contexts' tasks; its groups take their quads
    back under new placement tags (R290, R326, R344). -/
def execContextRestoreStart (ctx : CtxId) (s : State) : Out :=
  let n := ctx.toNat
  let x := s.ctx n
  let (t, l) := s.savedCores n
  .next (if x.st != .saved || !x.restoring || !l.all (fun k => (s.core k).freeOfOthers n) || s.power.stopped then s
    else
      -- a group of another context whose tasks have all ended leaves the quad
      let t := x.savedQuads.foldl (fun (s : State) g => (s.groupDone g.quad).groupFree g.quad) t
      let s := x.savedQuads.foldl (fun (s : State) g =>
        { s with quads := sset none s.quads g.quad (some { launch := g.launch, first := g.first, tag := s.nextTag }), nextTag := s.nextTag + 1 }) t
      s.upCtx n fun x => { x with st := .loading })

/-- Copy commands of the placement that a quad had before the save carry its new tag (R341, R344). -/
def retagged (old new : Nat) (l : List CopyCmd) : List CopyCmd := l.map fun c => if c.tag == old then { c with tag := new } else c

/-- A saved core back on its core, from its record's bytes (R292, R295); what the record has no place for is as it was saved, and the crossbars
    and the RTB are the core's own. Handles are left invalid by R37. -/
def State.restoreCore (s : State) (n k : Nat) : State :=
  let x := s.ctx n
  let kept := sget Core.reset x.saved k
  let b := recordBase x k
  let (s, img) := s.saveRead n b 0x100000
  let rd (o m : Nat) : List Byte := (img.drop o).take m
  let c := restoreImage rd (s.stale n k x.tinvs x.leaves) kept
  let (s, c) := (List.range 640).foldl (fun (st : State × Core) t =>
    if c.owner' t == ownCache then st else
    let (s, bs) := st.1.saveRead n (b + 0x100000 + 4096 * t) 4096
    (s, st.2.spWrite (4096 * t) (allOf bs))) (s, c)
  let tag := s.quadTag (quadOf k)
  let old := match x.savedQuads.find? fun g => g.quad == quadOf k with | some g => g.tag | none => 0
  let c := restoreChains rd tag c
  let cur := (s.core k).useSeqs n
  s.setCore k { (c.upAll fun cl y => { y with dbgbp := (cur.cl cl).dbgbp }) with
    xb := cur.xb, rtb := cur.rtb, seqs := cur.seqs, seqCtx := some n, cp := retagged old tag c.cp ++ cur.cp, ws := c.ws ++ cur.ws, ending := none,
    preempt := cur.preempt, spPoison := kept.spPoison, conts := c.conts.map fun e => { e with tinvs := e.tinvs ++ x.tinvs } }

/-- The barriers of a restored quad, with the arrivals logged meanwhile: tainted ones first. The waits are evaluated later (R344). -/
def State.replayQuad (s : State) (n m q : Nat) : State :=
  let s := (List.range 16).foldl (fun (s : State) b =>
    let (s, w, _) := s.devNum (m + 256 * q + 16 * b) 8
    { s with barriers := sset 0 s.barriers (16 * q + b) (.ofNat 64 w) }) s
  (List.range 16).foldl (fun (s : State) b =>
    let (s, p, _) := s.devNum (m + 256 * q + 16 * b + 8) 8
    let many (s : State) (c : Nat) (t : Bool) : State := (List.range c).foldl (fun s _ => (s.countArrival (some n) (16 * q + b) t).1) s
    many (many s (bits p 63 48) true) (bits p 15 0) false) s

/-- The mailbox is replayed and QMASK cleared (R344). -/
def State.replayMail (s : State) (n : Nat) : State :=
  let m := (s.ctx n).mailbox
  let (s, mask, _) := s.devNum (m + 0x4000) 8
  let s := (s.ctx n).savedQuads.foldl (fun s g => if bit mask g.quad then s.replayQuad n m g.quad else s) s
  s.devWrite (m + 0x4000) (toBytes 8 0)

/-- Refusals that stand in the ring are recorded against their tokens (R302). -/
def State.takeRefusals (s : State) (n : Nat) : Nat → State
  | 0 => s
  | j + 1 =>
    let (t, token, cx, verdict, page) := s.takeReply n
    takeRefusals (if verdict == 0 then t else t.reply n token cx verdict page) n j

/-- A probe is issued again over its whole range, under a new token; pages in the RTB are resolved and refused pages stay refused (R302). -/
def State.reissue (s : State) (n k : Nat) (c : Cont) : State :=
  match c.on with
  | .probe _ d base m _ _ refused _ =>
    let count := sget 0 (s.core k).issueCnt c.slot.toNat + 1
    let token := probeToken k c.slot.toNat count
    let w := ((List.range m).map (base + ·)).filter fun p => decide (p < 2 ^ 27) && !refused.contains p && ((s.core k).rtbFind (s.ctx n) p).isNone
    let s := s.upCore k fun x =>
      let x := { x with issueCnt := sset 0 x.issueCnt c.slot.toNat count }
      x.spWrite (4096 * c.tile.toNat + 0x28) (allOf (toBytes 8 (waitWord (.probe token d base m w [] refused []))))
    s.upProbe k c.slot fun _ => .probe token d base m w [] refused []
  | _ => s

/-- A cluster resumes after a restore: a loop entry in STOPPED starts its refill, and the watchdog's count restarts (R52, R152, R303). -/
def Cl.resume (x : Cl) (c : Cluster) (now : Nat) : Cl :=
  let x := { x with stopped := false, wdogFrom := now }
  match x.loops with
  | e :: r => if e.st == .stopped then x.startIter c { e with st := .run } r else x
  | [] => x

/-- The steps of R295 on the cores a context is restored to. -/
def State.contextRestore (s : State) (n : Nat) : State :=
  let x := s.ctx n
  if x.st != .loading || !x.restoring || s.power.stopped then s else
  let (s, l) := s.savedCores n
  let s := l.foldl (fun s k => s.restoreCore n k) s
  let s := (x.saved.filter fun e => !l.contains e.1).foldl (fun s e => s.unparkEngines e.1 e.2) s
  let s := s.takeRefusals n x.standing
  let s := s.replayMail n
  let s := l.foldl (fun s k => (s.core k).conts.foldl (fun s c => match c.on with | .probe _ _ _ _ _ _ _ _ => s | _ => s.evaluate k c.slot) s) s
  let s := l.foldl (fun s k => (s.core k).conts.foldl (fun s c => if c.ready then s else s.reissue n k c) s) s
  let now := s.cycle
  let s := l.foldl (fun s k => s.upCore k fun c => if c.task.isSome then (c.upAll fun cl y => y.resume cl now) else c) s
  let s := l.foldl (fun s k => s.upCore k fun c => if c.halted then { c with haltedAt := now } else c) s
  let st : CtxSt := if l.any fun k => (s.core k).task.isSome then .running else .resident
  s.upCtx n fun x => { x with st := st, restoring := false, saved := [], savedQuads := [], tinvs := [], leaves := [] }

/-- CONTEXT_RESTORE_DONE: R295. -/
def execContextRestoreDone (ctx : CtxId) (s : State) : Out := .next (s.contextRestore ctx.toNat)

/-! Seal (R305). -/

/-- Steps 1 and 2 of R305: every task stops, engine commands will complete ABORTED, and the ready queues are cleared of the context; its
    queues, groups and records end (R310, R315, R330). -/
def State.sealStart (s : State) (n : Nat) : State :=
  let s := { s with cores := s.cores.map fun (e : Nat × Core) => (e.1, (e.2.dropCtx n).abortEngines n) }
  let gone (l : Launch) : Launch := { l with dropped := true, groups := l.groups.map fun g => match g.st with
    | .placed | .running | .draining => { g with st := .faulted, unqueued := [] }
    | _ => g }
  let s := { s with launches := s.launches.map fun (l : Launch) => if l.ctx.toNat == n then gone l else l,
                    recs := seraseRange s.recs (recKeyOf n 0) (recKeyOf (n + 1) 0) }
  (s.queuesGone n).upCtx n fun x => { x with st := .sealing, saving := false, restoring := false, launchCnt := 0 }

/-- CTX_SEAL: R289, R305. -/
def execCtxSeal (ctx : CtxId) (s : State) : Out :=
  let n := ctx.toNat
  let s := s.ctxWrite 3 n 0
  .next (match (s.ctx n).st with
    | .free | .sealing => s.ctxIgnored n 3
    | _ => s.sealStart n)

/-- Every command and fill of the context in flight on a core completes ABORTED. -/
def State.endEngines (s : State) (n k : Nat) : State :=
  let s := ((s.core k).cp.filter fun c => c.ctx.toNat == n).foldl (fun s c => s.copyEnd k c) s
  (List.range ((s.core k).ws.filter fun f => f.ctx.toNat == n && f.started).length).foldl (fun s _ => s.fillComplete k) s

/-- The record of an array's context is cleared when it names the context (R305). -/
def XArr.forget (a : XArr) (ctx : CtxId) : XArr := if a.owner == some ctx then { a with owner := none } else a

/-- Arrays of a core, with a context's records cleared. -/
def forgetArrays (ctx : CtxId) (m : Sparse XArr) : Sparse XArr := m.filterMap fun (e : Nat × XArr) =>
  let a := e.2.forget ctx
  if a = XArr.reset then none else some (e.1, a)

/-- Steps 3 to 7 of R305: bytes go home, the cores that no other context has taken are zeroed, translations, replies, mailbox, barriers, exports
    and the header are cleared, and the context is FREE. Its outstanding accesses have completed. -/
def State.contextSeal (s : State) (n : Nat) : State :=
  let x := s.ctx n
  let ctx : CtxId := .ofNat 6 n
  if x.st != .sealing || !(s.coresOf n).all (fun k => (s.core k).drained) then s else
  let l := x.coreList.filter fun k => !s.usedByOthers n k
  let s := (x.coreList.foldl (fun s k => s.endEngines n k) s).flushArrivals n
  let s := x.coreList.foldl (fun s k => s.release k 3) s
  let s := l.foldl (fun s k => s.upCore k fun c => (c.useSeqs n).leftBy n) s
  let s := (s.quadsOf n).foldl (fun s q => s.clearQuadBars q.1) s
  let s := s.faultLaunches n
  let s := { s with recs := seraseRange s.recs (recKeyOf n 0) (recKeyOf (n + 1) 0) }
  let s := { s with cores := s.cores.map fun (e : Nat × Core) => (e.1, { e.2 with xb := forgetArrays ctx e.2.xb }) }
  let s := (s.dropRtb (fun r => r.asid == x.asid && r.gen == x.gen) fun _ => true).dropWalks fun a g => a == x.asid && g == x.gen
  let s := s.devWrite (x.mailbox + 0x4000) (toBytes 8 0)
  let s := s.saveWrite n x.desc.save.toNat (List.replicate 0x800 0)
  let owned := s.bcfg
  let s := s.resetBars fun k => decide (1024 ≤ k) && (let v := (sget 0 owned k).toNat; bit v 7 && bits v 5 0 == n)
  let s := { s with exports := s.exports.filter fun (e : Nat × BitVec 128) => bits e.2.toNat 69 64 != n }
  s.upCtx n fun y => { Ctx.reset with rpool := y.rpool, cause := y.cause, lerr := y.lerr, freeze := y.freeze, frTail := y.frTail, frHead := y.frTail }

/-- CONTEXT_SEAL_DONE: R305. -/
def execContextSealDone (ctx : CtxId) (s : State) : Out := .next (s.contextSeal ctx.toNat)

end Sys2Proof.Machine
end

