-- ==== Sys2Proof/Machine/Window.lean ====
section
/-! DEFINITION. The host's window onto device memory, BAR 2, and host memory (R369, R372). -/

namespace Sys2Proof.Machine

open Sys2Proof

/-- The PCIe link carries traffic (R369). -/
def State.hostUp (s : State) : Bool := s.linkUp 28

/-- The device answers the host's accesses: the start record has been written, and no step of a turnover has failed (R386, R390; log 53). -/
def State.answers (s : State) : Bool := s.started && !s.turnFailed

/-- The device-physical address of a window offset. -/
def State.winAddr (s : State) (off : BitVec 36) : Nat := bits s.win.toNat 51 36 * 2 ^ 36 + off.toNat

/-- A window access: by address, under a key domain. -/
def State.winAcc (s : State) (kd : BitVec 8) (a : Nat) : Acc := { s.physAcc a with kd := some kd }

/-- WIN's key domain. -/
def State.winKd (s : State) : BitVec 8 := s.win.setWidth 8

/-- A window access waits at its home. -/
def State.winHeld (s : State) (a n : Nat) : Bool :=
  s.isHeld (s.winAcc 0 a) (a % 2 ^ 21) || s.isHeld (s.winAcc 0 (a + n - 1)) ((a + n - 1) % 2 ^ 21)

/-- A window read: the bytes and their poison marks. -/
def State.winRead (s : State) (a n : Nat) : State × List (Byte × Bool) :=
  let m := min n (2 ^ 21 - a % 2 ^ 21)
  let (s, r) := s.homeRead (s.winAcc s.winKd a) (a % 2 ^ 21) m
  if m == n then (s, r) else
  let (s, r') := s.homeRead (s.winAcc s.winKd (a + m)) 0 (n - m)
  (s, r ++ r')

/-- A window write performed at its home. -/
def State.winWrite (s : State) (kd : BitVec 8) (a : Nat) (bs : List Byte) : State :=
  let m := min bs.length (2 ^ 21 - a % 2 ^ 21)
  let s := s.homeWrite (s.winAcc kd a) (a % 2 ^ 21) (allOf (bs.take m))
  if m == bs.length then s else s.homeWrite (s.winAcc kd (a + m)) 0 (allOf (bs.drop m))

/-- Posted writes are performed in order, up to the first that its home holds (R372). -/
def State.drainLoop : List (Nat × BitVec 8 × List Byte) → State → State
  | [], s => { s with posted := [] }
  | (a, kd, bs) :: r, s =>
    if s.winHeld a bs.length then { s with posted := (a, kd, bs) :: r } else drainLoop r (s.winWrite kd a bs)

/-- Posted writes that their homes no longer hold are performed. -/
def State.drainPosted (s : State) : State := if s.posted.isEmpty then s else State.drainLoop s.posted s

/-- BAR2_READ: `n` bytes, behind every posted write; all ones until the start record is written (R369, R372, R390). -/
def execBar2Read (off : BitVec 36) (n : BitVec 4) (s : State) : Out :=
  .next (if !s.answers then { s with hostRead := List.replicate n.toNat 0xFF, hostReadPoisoned := false }
    else if !s.hostUp then s
    else
      let s := s.drainPosted
      if !s.posted.isEmpty || s.winHeld (s.winAddr off) n.toNat then s.meetHold
      else
        let (s, r) := s.winRead (s.winAddr off) n.toNat
        { s with hostRead := r.map (·.1), hostReadPoisoned := r.any (·.2) })

/-- BAR2_WRITE: posted, and performed in posting order; dropped until the start record is written (R369, R372, R390). -/
def execBar2Write (off : BitVec 36) (data : List (BitVec 8)) (s : State) : Out :=
  .next (if !s.answers || !s.hostUp then s
    else ({ s with posted := s.posted ++ [(s.winAddr off, s.winKd, data)] }).drainPosted)

/-! Host memory. -/

/-- Host memory. -/
def State.hostByte (s : State) (a : Nat) : Byte := sget unwritten s.hostMem a

/-- Bytes written to host memory (R372). -/
def State.hostWrite (s : State) (a : Nat) (bs : List Byte) : State := { s with hostMem := putBytes unwritten s.hostMem a (allOf bs) }

end Sys2Proof.Machine
end

