-- ==== Sys2Proof/Machine/Record.lean ====
section
/-! DEFINITION. Launch records: their fields, the checks of an arm, lpatch, larm and the host's record commands (R24 to R26, R312 to R318). -/

namespace Sys2Proof.Machine

open Sys2Proof

/-! The record's fields (R313, R314), over the number its 2,048 bits hold. -/

/-- Entry PC of a cluster. -/
def recPc (v : Nat) (c : Cluster) : Nat := bits v (64 * c.num + 63) (64 * c.num)
/-- SHAPE. -/
def recShape (v : Nat) : Nat := bits v 319 256
/-- Width w(i). -/
def recW (v i : Nat) : Nat := bits (recShape v) (6 * i + 5) (6 * i)
/-- Extent e(i). -/
def recE (v i : Nat) : Nat := bits v (320 + 32 * i + 31) (320 + 32 * i) + 1
/-- G. -/
def recG (v : Nat) : Nat := bits (recShape v) 38 36
/-- Z. -/
def recZ (v : Nat) : Nat := bits (recShape v) 42 40
/-- STEPS. -/
def recSteps (v : Nat) : Nat := bits (recShape v) 46 44
/-- VER. -/
def recVer (v : Nat) : Bool := bit (recShape v) 47
/-- REARM. -/
def recRearm (v : Nat) : Bool := bit (recShape v) 48
/-- W. -/
def recWdog (v : Nat) : Nat := bits v 543 512
/-- TTBASE. -/
def recTt (v : Nat) : Nat := bits v 639 576
/-- KCDST. -/
def recKcdst (v : Nat) : Nat := bits v 703 640
/-- KCVAL. -/
def recKcval (v : Nat) : Nat := bits v 767 704
/-- PARAM k. -/
def recParam (v k : Nat) : Nat := bits v (1024 + 64 * k + 63) (1024 + 64 * k)

/-- Tasks in a group (R25). -/
def recGroupSize (v : Nat) : Nat := (List.range (recG v)).foldl (fun n i => n * recE v i) 1

/-- Supersteps (R25). -/
def recSupersteps (v : Nat) : Nat := if recZ v == 7 then 1 else recE v (recZ v)

/-- Groups of a superstep (R25, R26). -/
def recGroups (v : Nat) : Nat := ((List.range 6).filter fun i => recG v ≤ i && i != recZ v).foldl (fun n i => n * recE v i) 1

/-- The fields in the order in which an ordinal is taken apart, the least significant first (R26). -/
def fieldOrder (v : Nat) : List Nat := (List.range 6).filter (· != recZ v) ++ (if recZ v < 6 then [recZ v] else [])

/-- Field values of an ordinal, as pairs of field and value (R26). -/
def fieldVals (v : Nat) : List Nat → Nat → List (Nat × Nat)
  | [], _ => []
  | i :: r, n => (i, n % recE v i) :: fieldVals v r (n / recE v i)

/-- The work identifier of an ordinal (R24, R26). -/
def recWid (v ord : Nat) : Nat :=
  (fieldVals v (fieldOrder v) ord).foldl (fun w e => w + e.2 * 2 ^ ((List.range e.1).foldl (fun o j => o + recW v j) 0)) 0

/-! The checks of an arm (R316). -/

/-- A width above 32, widths above 64 together, or an extent above 2^w. -/
def recBadShape (v : Nat) : Bool :=
  (List.range 6).any (fun i => decide (recW v i > 32) || decide (recE v i > 2 ^ recW v i))
    || decide ((List.range 6).foldl (fun n i => n + recW v i) 0 > 64)

/-- A group level, superstep field or group size that R25 forbids. -/
def recBadGroup (v : Nat) : Bool :=
  decide (recG v > 6) || (recZ v != 7 && decide (recZ v < recG v)) || recZ v == 6 || decide (recGroupSize v > 1024)

/-- STEPS above 4, a reserved bit, TTBASE or KCDST misaligned, or KCDST outside CORES. -/
def recBadFields (v : Nat) (cores : List Nat) : Bool :=
  let sh := recShape v
  let kc := recKcdst v
  decide (recSteps v > 4) || bits sh 63 49 != 0 || bit sh 43 || bit sh 39 || bits v 575 544 != 0 || bits v 1023 768 != 0
    || bits (recTt v) 63 48 != 0 || recTt v % 128 != 0 || bits kc 62 30 != 0 || kc % 8 != 0 || (bit kc 63 && !cores.contains (bits kc 29 22))

/-- A quad whose four cores are all in CORES. -/
def hasQuad (x : Ctx) (q : Nat) : Bool := (List.range 4).all fun i => x.desc.cores.getLsbD (4 * q + i)

/-- The code of an arm on a record's bytes: the first failing check in the order of R316. Codes 2 to 6 are of fields in the record's first
    line, so that a record whose first line is poisoned shows none of them (log 41). -/
def armCode (x : Ctx) (v : Nat) (poisoned poisoned' : Bool) : Nat :=
  if poisoned then 7
  else if recBadShape v then 2
  else if recBadGroup v then 3
  else if recWdog v == 0 then 4
  else if Cluster.all.any (fun c => badTarget c (.ofNat 64 (recPc v c))) then 5
  else if recBadFields v x.coreList then 6
  else if poisoned' then 7
  else if !(List.range 64).any (hasQuad x) then 8
  else 0

/-! The pool (R312). -/

/-- The device-physical address of a record. -/
def Ctx.recAddr (x : Ctx) (r : Nat) : Nat := bits x.rpool.toNat 51 24 * 2 ^ 24 + 256 * r

/-- A record of a context. -/
def State.record (s : State) (n r : Nat) : Rec := sget Rec.reset s.recs (recKeyOf n r)

/-- A record replaced. -/
def State.setRecord (s : State) (n r : Nat) (x : Rec) : State := { s with recs := sset Rec.reset s.recs (recKeyOf n r) x }

/-- RPOOL_WRITE: ignored with a record while any record of the context is not BLANK (R312). -/
def execRpoolWrite (ctx : CtxId) (val : BitVec 64) (s : State) : Out :=
  let n := ctx.toNat
  .next (if s.recs.any (fun e => decide (recKeyOf n 0 ≤ e.1) && decide (e.1 < recKeyOf (n + 1) 0) && e.2.st != .blank) then s.ctxIgnored n 0x10
    else s.upCtx n fun x => { x with rpool := val &&& 0xFFFFFFF000000 })

/-- An arm of a record: the state and the code (R315, R316). -/
def State.arm (s : State) (n r : Nat) : State × Nat :=
  if r ≥ 65536 then (s, 7) else
  let x := s.record n r
  if x.st != .blank && x.st != .patched then (s, 1) else
  let a := (s.ctx n).recAddr r
  let (s, bs, p) := s.devRead a 128
  let (s, bs', p') := s.devRead (a + 128) 128
  let v := ofBytes (bs ++ bs')
  match armCode (s.ctx n) v p p' with
  | 0 => (s.setRecord n r { st := .armed, image := .ofNat 2048 v }, 0)
  | c => (s, c)

/-- A patch of a record's field (R315, R317): the state and the code. -/
def State.patch (s : State) (n r field : Nat) (v : Word) : State × Nat :=
  if r ≥ 65536 then (s, 7) else
  let x := s.record n r
  if x.st != .blank && x.st != .patched then (s, 1)
  else
    let a := (s.ctx n).recAddr r
    let put (o : Nat) (bs : List Byte) : State × Nat := ((s.devWrite (a + o) bs).setRecord n r { x with st := .patched }, 0)
    if field < 16 then put (0x80 + 8 * field) (toBytes 8 v.toNat)
    else if field < 22 then
      if v.toNat == 0 || v.toNat > 2 ^ 32 then (s, 2) else put (0x28 + 4 * (field - 16)) (toBytes 4 (v.toNat - 1))
    else put 0x58 (toBytes 8 v.toNat)

/-! lpatch and larm (R317). -/

/-- What lpatch, larm and qapp do first: the version commits, and a release at dev scope completes (R40, R317). -/
def State.unitRelease (s : State) : State := (s.commit s.me).release s.me 3

/-- lpatch: R317. -/
def execLpatch (h : Hdr) (d a b : Reg) (field : BitVec 5) (s : State) : Out :=
  issue s (.lpatch h d a b field) fun s =>
    let r := (s.reg a).toNat
    let v := s.reg b
    let (s, code) := s.unitRelease.patch s.mine.ctxNum r field.toNat v
    .ok (s.enqRet (.lpatch h d a b field) d (.ofNat 64 code) none)

/-- larm: R317. -/
def execLarm (h : Hdr) (d a : Reg) (s : State) : Out :=
  issue s (.larm h d a) fun s =>
    let r := (s.reg a).toNat
    let (s, code) := s.unitRelease.arm s.mine.ctxNum r
    .ok (s.enqRet (.larm h d a) d (.ofNat 64 code) none)

/-! The host's record commands (R318). -/

/-- The code of a record state (R318). -/
def RecSt.code : RecSt → Nat
  | .blank => 0 | .patched => 1 | .armed => 2 | .queued => 3 | .dispatching => 4 | .running => 5 | .retired => 6 | .faulted => 7

/-- RECSTAT after a command. -/
def State.report (s : State) (n r code : Nat) : State :=
  { s with recstat := .ofNat 64 (pack [(4, (s.record n r).st.code), (4, 0), (8, code), (26, 0), (6, n), (16, r)]) }

/-- A write to RECCMD: ignored with a record for a context in FREE or SEALING, and refused during a turnover (R386); it acts behind the BAR 2 writes posted before it, and does not
    take place while one of them is held. -/
def State.recCmd (s : State) (op n r : Nat) (f : State → State × Nat) : State :=
  let s := ({ s with reccmd := .ofNat 64 (pack [(16, r), (8, 0), (6, n), (2, op)]) }).drainPosted
  if !s.posted.isEmpty then s.meetHold else
  if s.turn.isSome then s.ctxIgnored n 0x11 else
  match (s.ctx n).st with
  | .free | .sealing => s.ctxIgnored n 0x11
  | _ => let (s, code) := f s; s.report n r code

/-- REC_ARM: R318. -/
def execRecArm (ctx : CtxId) (rec : BitVec 16) (s : State) : Out :=
  .next (s.recCmd 0 ctx.toNat rec.toNat fun s => s.arm ctx.toNat rec.toNat)

/-- The launch that uses a record. -/
def State.launchOf (s : State) (n r : Nat) : Option Launch := s.launches.find? fun l => l.ctx.toNat == n && l.recNo == r

/-- A launch whose record is blanked: its groups that still run stop, and it is gone; a quad of it is freed once TS is zero there (R330). -/
def State.dropLaunch (s : State) (l : Launch) : State :=
  let s := l.groups.foldl (fun s g => match g.st with
    | .placed | .running | .draining => s.stopGroup g.quad l.id g.first
    | _ => s) s
  let s := s.upCtx l.ctx.toNat fun x =>
    { x with saved := x.saved.map fun (e : Nat × Core) => (e.1, l.groups.foldl (fun k g => k.stopGroup l.id g.first) e.2),
             savedQuads := x.savedQuads.filter fun g => g.launch != l.id }
  let s := { s with launches := s.launches.filter fun x => x.id != l.id }
  (List.range 64).foldl State.groupFree s

/-- A host blank (R315). -/
def State.blank (s : State) (n r : Nat) : State :=
  let x := s.record n r
  match x.st with
  | .blank => s
  | .patched | .armed => s.setRecord n r Rec.reset
  | .faulted =>
    let s := match s.launchOf n r with | some l => s.dropLaunch l | none => s
    s.setRecord n r Rec.reset
  | _ => s.ctxIgnored n 0x12

/-- REC_BLANK: R318. -/
def execRecBlank (ctx : CtxId) (rec : BitVec 16) (s : State) : Out :=
  .next (s.recCmd 1 ctx.toNat rec.toNat fun s => (s.blank ctx.toNat rec.toNat, 0))

/-- REC_QUERY: R318. -/
def execRecQuery (ctx : CtxId) (rec : BitVec 16) (s : State) : Out := .next (s.recCmd 2 ctx.toNat rec.toNat fun s => (s, 0))

/-- RECCMD_RESERVED: ignored with an error-log record (R318). -/
def execReccmdReserved (s : State) : Out := .next (({ s with reccmd := 0xC0000000 }).refuse unitMgmt none [3])

end Sys2Proof.Machine
end

