-- ==== Sys2Proof/Machine/Queue.lean ====
section
/-! DEFINITION. Queues: their registers and states, the launch entries they hand, completion, and qapp (R306 to R311). -/

namespace Sys2Proof.Machine

open Sys2Proof

/-! Registers (R306). -/

/-- HOST of a queue's ring. -/
def Queue.host (q : Queue) : Bool := q.qbase.getLsbD 63
/-- DEVAPP. -/
def Queue.devapp (q : Queue) : Bool := q.qcfg.getLsbD 62
/-- PRIO. -/
def Queue.prio (q : Queue) : Nat := bits q.qcfg.toNat 49 48
/-- WEIGHT. -/
def Queue.weight (q : Queue) : Nat := bits q.qcfg.toNat 47 40
/-- VEC. -/
def Queue.vec (q : Queue) : Nat := bits q.qcfg.toNat 39 32
/-- Entries of the ring. -/
def Queue.size (q : Queue) : Nat := 64 * 2 ^ bits q.qcfg.toNat 3 0
/-- The address of entry `j`'s slot. -/
def Queue.slot (q : Queue) (j : BitVec 32) : Nat := bits q.qbase.toNat 51 12 * 4096 + 64 * ((j - 1).toNat % q.size)

/-- A count has reached another, as 32-bit differences (R306). -/
def reached (x n : BitVec 32) : Bool := decide ((x - n).toNat < 2 ^ 31)

/-- QCFG without its reserved bits. -/
def qcfgMask : Word := 0xC0FFFFFF0000000F
/-- QBASE without its reserved bits. -/
def qbaseMask : Word := 0x800FFFFFFFFFF000

/-- A queue command ignored with an error-log record. -/
def State.queueIgnored (s : State) (q op : Nat) : State := s.refuse unitMgmt none (toBytes 2 q ++ [BitVec.ofNat 8 op])

/-- A context that a queue can be enabled for (R310 code 7). -/
def Ctx.loaded (x : Ctx) : Bool :=
  match x.st with
  | .resident | .running | .preempting | .saved => true
  | .loading => x.restoring
  | _ => false

/-- QUEUE_ENABLE: R310. -/
def execQueueEnable (q : QueueId) (cfg : BitVec 64) (s : State) : Out :=
  let x := s.queue q.toNat
  .next (if x.st != .disabled || s.turn.isSome then s.queueIgnored q.toNat 0 else
    let y : Queue := { x with qcfg := (cfg ||| 0x8000000000000000) &&& qcfgMask, head := 0, tail := 0, cseq := 0, eidx := 0, err := 0, st := .idle,
                              pending := [], retired := [], credit := 0 }
    let bad := decide (bits cfg.toNat 3 0 > 10) || y.weight == 0 || !(s.ctx y.ctx).loaded || (y.devapp && y.host)
    s.setQueue q.toNat (if bad then { x with qcfg := y.qcfg, st := .error, err := 7, eidx := 0 } else y))

/-- QUEUE_DRAIN: nothing more is handed (R310). -/
def execQueueDrain (q : QueueId) (s : State) : Out :=
  let x := s.queue q.toNat
  .next (match x.st with
    | .disabled | .draining => s
    | _ => s.setQueue q.toNat ({ x with qcfg := x.qcfg &&& 0x7FFFFFFFFFFFFFFF, st := .draining }).drainEnd)

/-- A write of QCFG with EN 0 outside DISABLED: fields other than EN that differ from those held are ignored with a record, and the queue
    drains (R306, R310; log 79). -/
def State.qcfgClear (s : State) (q : QueueId) (v : Word) : Out :=
  let held := (s.queue q.toNat).qcfg
  execQueueDrain q (if ((v ^^^ held) &&& qcfgMask) <<< 1 == 0 then s else s.queueIgnored q.toNat 2)

/-- QUEUE_TAIL_WRITE: R310, R311. -/
def execQueueTailWrite (q : QueueId) (val : BitVec 32) (s : State) : Out :=
  let x := s.queue q.toNat
  .next (match x.st with
    | .disabled | .draining | .error => s.queueIgnored q.toNat 1
    | _ =>
      if x.devapp then s.queueIgnored q.toNat 1
      else if !reached val x.tail || (val - x.head).toNat > x.size then s.setQueue q.toNat { x with st := .error, err := 1 }
      else s.setQueue q.toNat { x with tail := val, st := if x.st == .idle && val != x.tail then .active else x.st })

/-- QBASE_WRITE: QBASE, or the fields of QCFG other than EN, in DISABLED; ignored with a record in any other state (R306). -/
def execQbaseWrite (q : QueueId) (cfg : Bool) (val : BitVec 64) (s : State) : Out :=
  let x := s.queue q.toNat
  .next (if x.st != .disabled then s.queueIgnored q.toNat 2
    else s.setQueue q.toNat (if cfg then { x with qcfg := val &&& qcfgMask &&& 0x7FFFFFFFFFFFFFFF } else { x with qbase := val &&& qbaseMask }))

/-! Handing an entry (R307, R308). -/

/-- A launch entry read in full: its bits, and whether it was poisoned. -/
def State.readEntry (s : State) (x : Queue) (j : BitVec 32) : State × Nat × Bool :=
  if x.host then (s, ofBytes ((List.range 64).map fun i => s.hostByte (x.slot j + i)), false)
  else s.devNum (x.slot j) 64

/-- DEP's queue and count. -/
def entryDep (e : Nat) : Nat × BitVec 32 := (bits e 77 64, .ofNat 32 (bits e 127 96))

/-- The error of a malformed entry (R310). -/
def State.entryBad (s : State) (q : Nat) (x : Queue) (j : BitVec 32) (e : Nat) : Option Nat :=
  let (d, n) := entryDep e
  if bit e 16 && ((s.queue d).ctx != x.ctx || (d == q && reached n j)) then some 4
  else if bits e 22 20 > 4 || bits e 130 128 != 0 then some 5
  else none

/-- The conditions under which an entry is handed (R308). -/
def State.entryFree (s : State) (x : Queue) (j : BitVec 32) (e : Nat) : Bool :=
  let (d, n) := entryDep e
  (!bit e 16 || reached (s.queue d).cseq n) && (!bit e 19 || x.cseq == j - 1) && (s.record x.ctx (bits e 15 0)).st == .armed

/-- The record image with the entry's patches, for this launch only (R308). -/
def patched (v e : Nat) : Nat :=
  (List.range (bits e 22 20)).foldl (fun v k =>
    let o := 1024 + 64 * bits e (27 + 4 * k) (24 + 4 * k)
    v - bits v (o + 63) o * 2 ^ o + bits e (256 + 64 * k + 63) (256 + 64 * k) * 2 ^ o) v

/-- An entry is handed: its launch is QUEUED (R308, R315). -/
def State.handEntry (s : State) (q : Nat) (x : Queue) (j : BitVec 32) (e : Nat) : State :=
  let n := x.ctx
  let r := bits e 15 0
  let l : Launch :=
    { id := s.nextLaunch, ctx := .ofNat 6 n, recNo := r, lser := (s.ctx n).launchCnt, queue := .ofNat 14 q, entry := j,
      image := .ofNat 2048 (patched (s.record n r).image.toNat e),
      cpl := if bit e 17 then some (.ofNat 64 (bits e 191 128), .ofNat 64 (bits e 255 192)) else none, intr := bit e 18, superstep := 0, nextGroup := 0,
      groups := [], dropped := false, queuedAt := s.us, waitFrom := s.us, retiredNo := 0 }
  let s := s.setQueue q { x with head := j, st := if j == x.tail then .idle else .active, pending := x.pending ++ [j] }
  let s := s.upCtx n fun c => { c with launchCnt := c.launchCnt + 1 }
  { (s.setRecSt n r .queued) with launches := s.launches ++ [l], nextLaunch := s.nextLaunch + 1 }

/-- The head entry of a queue is read, and handed, found malformed, or left to wait (R308, R310); a ring in host memory is read over the PCIe
    link (R369, R372). -/
def State.queueHand (s : State) (q : Nat) : State :=
  let x := s.queue q
  if (x.st != .active && x.st != .blocked) || x.head == x.tail || (x.host && !s.hostUp) then s else
  let j := x.head + 1
  let (s, e, poisoned) := s.readEntry x j
  match if poisoned then some 3 else s.entryBad q x j e with
  | some err => s.setQueue q { x with st := .error, err := .ofNat 8 err, eidx := j }
  | none => if s.entryFree x j e then s.handEntry q x j e else s.setQueue q { x with st := .blocked }

/-- QUEUE_HAND_ENTRY: R308. -/
def execQueueHandEntry (q : QueueId) (s : State) : Out := .next (s.queueHand q.toNat)

/-! Retirement (R309, R315). -/

/-- CSEQ advances over the entries that have retired in order; the vectors that are now due (R309). -/
def Queue.cover (x : Queue) : Nat → Queue × Bool
  | 0 => (x, false)
  | n + 1 =>
    match x.retired.find? fun r => r.1 == x.cseq + 1 with
    | none => (x, false)
    | some r =>
      let (y, i) := ({ x with cseq := x.cseq + 1, retired := x.retired.filter fun t => t.1 != r.1 }).cover n
      (y, r.2 || i)

/-- The completion value of an entry is written (R307, R309). -/
def State.complete (s : State) (a v : Word) : State :=
  if a.getLsbD 63 then s.hostWrite (bits a.toNat 51 0) (toBytes 8 v.toNat) else s.devWrite (bits a.toNat 51 0) (toBytes 8 v.toNat)

/-- The completion value goes to host memory over a link that carries no traffic (R369). -/
def State.cannotComplete (s : State) (l : Launch) : Bool := match l.cpl with | some (a, _) => a.getLsbD 63 && !s.hostUp | none => false

/-- The entry of a launch that reached RETIRED retires, in the order in which the launches of its queue reached it: the completion value, CSEQ,
    the vector; the record returns to ARMED or BLANK, unless a seal has done so (R309, R315). -/
def State.entryRetire (s : State) (q : Nat) (j : BitVec 32) : State :=
  match s.launches.find? fun l => l.queue.toNat == q && l.entry == j && l.done with
  | none => s
  | some l =>
    if s.cannotComplete l || s.launches.any (fun x => x.queue.toNat == q && x.done && decide (x.retiredNo < l.retiredNo)) then s else
    let s := match l.cpl with | some (a, v) => s.complete a v | none => s
    let x := s.queue q
    let x := { x with pending := x.pending.filter (· != j), retired := x.retired ++ [(j, l.intr)] }
    let (x, intr) := x.cover (x.retired.length + 1)
    let s := s.setQueue q x.drainEnd
    let s := if intr then s.raiseIrq x.vec else s
    let n := l.ctx.toNat
    let s := if l.dropped then s else if recRearm l.image.toNat then s.setRecSt n l.recNo .armed else s.setRecord n l.recNo Rec.reset
    { s with launches := s.launches.filter fun y => y.id != l.id }

/-- QUEUE_ENTRY_RETIRE: R309. -/
def execQueueEntryRetire (q : QueueId) (entry : BitVec 32) (s : State) : Out := .next (s.entryRetire q.toNat entry)

/-! qapp (R311). -/

/-- The append at the queue unit: the value that qapp returns. -/
def State.append (s : State) (n q : Nat) (block : List Byte) : State × Word :=
  let x := s.queue q
  if q ≥ 16384 || x.ctx != n then (s, .ofNat 64 (3 * 2 ^ 62))
  else if !x.devapp || (x.st != .idle && x.st != .active && x.st != .blocked) then (s, .ofNat 64 (2 * 2 ^ 62))
  else if (x.tail - x.head).toNat == x.size then (s, .ofNat 64 (2 ^ 62))
  else
    let j := x.tail + 1
    let s := s.devWrite (x.slot j) block
    (s.setQueue q { x with tail := j, st := if x.st == .idle then .active else x.st }, .ofNat 64 j.toNat)

/-- qapp: R311; the block is read at issue. -/
def execQapp (h : Hdr) (d a b : Reg) (s : State) : Out :=
  issue s (.qapp h d a b) fun s =>
    let x := (s.reg b).toNat
    let q := (s.reg a).toNat
    if x % 64 != 0 || x + 64 > spSize then alignTrap x
    else if !s.mine.owned ownThread x 64 then .trap .owner 0 (operandAddr x (s.mine.wrongOwner ownThread x 64))
    else
      let block := s.mine.spRead x 64
      let (s, v) := s.unitRelease.append s.mine.ctxNum q block
      .ok (s.enqRet (.qapp h d a b) d v none)

end Sys2Proof.Machine
end

