-- ==== Sys2Proof/Machine/Dispatcher.lean ====
section
/-! DEFINITION. The dispatcher: which launch is chosen, where a group is placed, pre-emption and restore; the ends of groups, supersteps
    and kernels (R26, R28, R29, R319 to R330). -/

namespace Sys2Proof.Machine

open Sys2Proof

/-! Launches that can be chosen (R321, R325). -/

/-- Unplaced groups of the current superstep. -/
def Launch.unplaced (l : Launch) : Nat := recGroups l.image.toNat - l.nextGroup

/-- A dispatchable launch (R321). -/
def State.dispatchable (s : State) (l : Launch) : Bool :=
  let st := (s.ctx l.ctx.toNat).st
  !l.dropped && s.launchLive l && decide (l.unplaced > 0) && (st == .resident || st == .running)

/-- A restorable launch of a SAVED context that has not yet asked for its restore: with unplaced groups of its current superstep, or placed ones
    in the save image (R325). -/
def State.restorable (s : State) (l : Launch) : Bool :=
  let x := s.ctx l.ctx.toNat
  x.st == .saved && !x.restoring && ((!l.dropped && s.launchLive l && decide (l.unplaced > 0)) || x.savedQuads.any fun g => g.launch == l.id)

/-- PRIO of the queue whose entry started a launch (R321). -/
def State.prio (s : State) (l : Launch) : Nat := (s.queue l.queue.toNat).prio

/-- A launch's wait in microseconds: from its last placement, or from its queueing; for a restorable launch not from before its context was
    SAVED (R321, R325). -/
def State.waitOf (s : State) (l : Launch) : Nat :=
  let x := s.ctx l.ctx.toNat
  s.us - (if x.st == .saved then max l.waitFrom x.savedAt else l.waitFrom)

/-- The effective class of a launch (R321). -/
def State.effClass (s : State) (l : Launch) : Nat := s.prio l - s.waitOf l / 2000

/-! The choice (R322). -/

/-- The element with the greatest key, the first among equals. -/
def bestBy {α : Type} (key : α → Nat) : List α → Option α
  | [] => none
  | a :: r =>
    match bestBy key r with
    | none => some a
    | some b => if key a ≥ key b then some a else some b

/-- The launch that R322 picks among candidates, with the credits it leaves. -/
def State.pick (s : State) (l : List Launch) : State × Option Launch :=
  match l with
  | [] => (s, none)
  | a :: r =>
    let c := (a :: r).foldl (fun m x => min m (s.effClass x)) (s.effClass a)
    let inC := (a :: r).filter fun x => s.effClass x == c
    let aged := inC.filter fun x => decide (s.effClass x < s.prio x)
    match bestBy s.waitOf aged with
    | some x => (s, some x)
    | none =>
      let qs := (inC.map fun x => x.queue.toNat).eraseDups
      let s := if qs.all (fun q => (s.queue q).credit == 0) then
          qs.foldl (fun s q => s.setQueue q { s.queue q with credit := (s.queue q).weight }) s else s
      -- the most credit, the lowest queue number on a tie
      match bestBy (fun q => (s.queue q).credit * 16384 + (16383 - q)) qs with
      | none => (s, none)
      | some q =>
        match inC.find? fun x => x.queue.toNat == q with
        | none => (s, none)
        | some x => (s.setQueue q { s.queue q with credit := (s.queue q).credit - 1 }, some x)

/-! Placement (R26, R27, R323, R328). -/

/-- A launch's CORES hold the quad, and no group is placed on it. -/
def State.quadFree (s : State) (x : Ctx) (q : Nat) : Bool := hasQuad x q && (sget none s.quads q).isNone

/-- A claim that comes before a launch's own covers the quad (R324). -/
def State.claimed (s : State) (id q : Nat) : Bool :=
  (s.claims.takeWhile (· != id)).any fun c => match s.launch c with | some l => hasQuad (s.ctx l.ctx.toNat) q | none => false

/-- The quad on which a launch's next group is placed: the lowest that is free and unclaimed (R323, R324). -/
def State.quadFor (s : State) (l : Launch) : Option Nat :=
  (List.range 64).find? fun q => s.quadFree (s.ctx l.ctx.toNat) q && !s.claimed l.id q

/-- A task of a launch (R24 to R27, R30). -/
def State.taskOf (s : State) (l : Launch) (first size quad ord : Nat) : Task :=
  let v := l.image.toNat
  { ctx := l.ctx, launch := l.id, lser := l.lser, ord := .ofNat 32 ord, wid := .ofNat 64 (recWid v ord), first := first, gsize := size, quad := quad,
    ver := recVer v, steps := .ofNat 3 (recSteps v), w := .ofNat 32 (recWdog v),
    ttbase := if recTt v == 0 then (s.ctx l.ctx.toNat).desc.ttbase else .ofNat 64 (recTt v),
    pcs := Cluster.all.map fun c => .ofNat 48 (recPc v c), params := (List.range 16).map fun k => .ofNat 64 (recParam v k) }

/-- The next group of a launch is placed on a quad: its barriers are IDLE, it has a new placement tag, and its tasks enter the ready queues
    (R322, R323, R328, R341). -/
def State.place (s : State) (l : Launch) (q : Nat) : State :=
  let v := l.image.toNat
  let size := recGroupSize v
  let first := (l.superstep * recGroups v + l.nextGroup) * size
  let tag := s.nextTag
  let tasks := (List.range size).map fun j => s.taskOf l first size q (first + j)
  let g : Group := { first := first, quad := q, st := .placed, ended := 0, unqueued := tasks, freed := false }
  let now := s.us
  let s := (s.clearQuadBars q).upLaunch l.id fun l => { l with nextGroup := l.nextGroup + 1, groups := l.groups ++ [g], waitFrom := now }
  let s := { s with quads := sset none s.quads q (some { launch := l.id, first := first, tag := tag }), nextTag := tag + 1,
                    claims := s.claims.filter (· != l.id) }
  let n := l.ctx.toNat
  let s := s.upCtx n fun x => { x with lastPlaced := tag }
  let s := if (s.record n l.recNo).st == .queued then s.setRecSt n l.recNo .dispatching else s
  s.refill l.id first

/-- A group is placed and has not ended. -/
def Group.holds (g : Group) : Bool := match g.st with | .placed | .running | .draining => true | .done => false | .faulted => !g.freed

/-- A launch that only runs: placed groups, and no unplaced group of its current superstep (R324). -/
def onlyRuns (l : Launch) : Bool := (l.dropped || l.unplaced == 0) && l.groups.any Group.holds

/-- The highest class of a context: the least class number over its launches (R324). -/
def State.topClass (s : State) (n : Nat) : Option Nat :=
  ((s.launches.filter fun l => l.ctx.toNat == n).filterMap fun l =>
    if s.dispatchable l then some (s.effClass l) else if onlyRuns l then some (s.prio l) else none).min?

/-- The context that is pre-empted for a launch that found no quad: the one with the largest class number above the launch's, the most
    recently placed on a tie (R324). -/
def State.victim (s : State) (l : Launch) : Option Nat :=
  let n := l.ctx.toNat
  let x := s.ctx n
  let live (m : Nat) : Bool := match (s.ctx m).st with | .resident | .running | .preempting => true | _ => false
  let holds (m : Nat) : Bool := m != n && live m && (s.quadsOf m).any fun q => hasQuad x q.1
  let cands := (List.range 64).filterMap fun m =>
    if holds m then (s.topClass m).bind fun c => if c > s.effClass l then some (m, c) else none else none
  (bestBy (fun e => e.2 * 2 ^ 64 + (s.ctx e.1).lastPlaced) cands).map (·.1)

/-- A pre-emption that frees a quad of a launch's CORES is on its way. -/
def State.freeing (s : State) (l : Launch) : Bool :=
  (List.range 64).any fun m => m != l.ctx.toNat && (s.ctx m).st == .preempting && (s.quadsOf m).any fun q => hasQuad (s.ctx l.ctx.toNat) q.1

/-- A launch that finds no quad keeps its claim, and a context is pre-empted for it; one that is being pre-empted already stays so. A launch
    that tries again pre-empts none while a context on a quad of its CORES is being pre-empted (R289, R324; log 76; DESIGN CHOICE). -/
def State.claimFor (s : State) (l : Launch) : State :=
  let again := s.claims.contains l.id
  let s := if again then s else { s with claims := s.claims ++ [l.id] }
  if again && s.freeing l then s else
  match s.victim l with
  | some m => if (s.ctx m).st == .preempting then s else s.preemptCtx m
  | none => s

/-- A launch that can be placed is; another waits with its claim. -/
def State.placeOrClaim (s : State) (l : Launch) : State :=
  match s.quadFor l with
  | some q => s.place l q
  | none => s.claimFor l

/-- What happens to the chosen launch: a SAVED context asks for its restore, a group is placed, or the launch waits with its claim
    (R322 to R325). -/
def State.serve (s : State) (l : Launch) : State :=
  if (s.ctx l.ctx.toNat).st == .saved then s.upCtx l.ctx.toNat fun x => { x with restoring := true } else s.placeOrClaim l

/-- Claims are met, oldest first, or tried again; a claim of a launch that can no longer be placed is given up (R324). -/
def State.retryClaims (s : State) : State :=
  s.claims.foldl (fun s id =>
    match (s.launch id).filter s.dispatchable with
    | some l => s.placeOrClaim l
    | none => { s with claims := s.claims.filter (· != id) }) s

/-- A choice of the dispatcher: the claims that stand first, and then R322 among the other launches (R322, R324, R325). -/
def State.choose (s : State) : State :=
  let s := s.retryClaims
  let (t, k) := s.pick (s.launches.filter fun x => (s.dispatchable x && !s.claims.contains x.id) || s.restorable x)
  match k with
  | none => s
  | some x => t.serve x

/-- DISPATCH_CHOICE: R322. -/
def execDispatchChoice (s : State) : Out := .next s.choose

/-! Ends of supersteps and kernels (R28, R29, R319). -/

/-- Every task of a launch's current superstep has ended: all its groups have been placed and are DONE. -/
def Launch.stepDone (l : Launch) : Bool := !l.dropped && l.unplaced == 0 && l.groups.all fun g => g.st == .done

/-- The bytes that a context's cores wrote are visible at dev scope (R29, R319). -/
def State.releaseCtx (s : State) (n : Nat) : State := (s.ctx n).coreList.foldl (fun s k => s.release k 3) s

/-- The first entry not started of a context on a core, when it carries SSTART, may start (R28, R255). The barrier releases the chains of every
    core of the context, whatever launch appended them; an SSTART entry behind another that has not started is not armed yet (log 75; DESIGN
    CHOICE). -/
def Core.startChain (k : Core) (n : Nat) : Core :=
  match splitCp k.cp with
  | none => k
  | some (before, c, after) =>
    if c.ctx.toNat == n && ceSstart (ofBytes (k.spRead c.addr 64)) then { k with cp := before ++ { c with released := true } :: after } else k

/-- SUPERSTEP_RELEASE: the superstep barrier releases (R28, R29), and the chains armed at it start with it, before the next superstep is
    dispatched. A context whose engines may not start entries, since it is saved or being saved, is waited for, so that they do (R291). -/
def execSuperstepRelease (launch : Nat) (s : State) : Out :=
  .next (match s.launch launch with
    | none => s
    | some l =>
      if !s.launchLive l || !(s.ctx l.ctx.toNat).enginesRun || !l.stepDone || l.superstep + 1 ≥ recSupersteps l.image.toNat then s
      else
        let n := l.ctx.toNat
        let s := s.releaseCtx n
        let s := (s.ctx n).coreList.foldl (fun s k => if (splitCp (s.core k).cp).isSome then (s.upCore k fun c => c.startChain n).copyStart k else s) s
        s.upLaunch l.id fun l => { l with superstep := l.superstep + 1, nextGroup := 0, groups := [] })

/-- The kernel completion signal, dropped cases included (R163, R319). -/
def State.kernelSignal (s : State) (l : Launch) : State :=
  let kc := recKcdst l.image.toNat
  if !bit kc 63 then s else
  let k := bits kc 29 22
  let a := bits kc 21 0
  let n := l.ctx.toNat
  if a % 8 != 0 || a ≥ spSize || !(s.ctx n).coreList.contains k || (s.core k).owner' (a / 4096) != ownThread then
    s.refuse unitMgmt (some (n, (s.ctx n).kdom.toNat)) (toBytes 8 k ++ toBytes 8 a)
  else (s.upCore k fun c => c.spWrite a (allOf (toBytes 8 (recKcval l.image.toNat)))).recheck k

/-- The next place among the launches that have reached RETIRED. -/
def State.retiredNext (s : State) : Nat := s.launches.foldl (fun m l => max m l.retiredNo) 0 + 1

/-- KERNEL_RETIRE: every task of the last superstep has ended; the kernel's writes are released, the completion signal is written, and the
    record is RETIRED (R315, R319). -/
def execKernelRetire (launch : Nat) (s : State) : Out :=
  .next (match s.launch launch with
    | none => s
    | some l =>
      if !s.launchLive l || !l.stepDone || l.superstep + 1 < recSupersteps l.image.toNat || (s.ctx l.ctx.toNat).st == .sealing then s
      else
        let no := s.retiredNext
        (((s.releaseCtx l.ctx.toNat).kernelSignal l).setRecSt l.ctx.toNat l.recNo .retired).upLaunch l.id fun x => { x with retiredNo := no })

end Sys2Proof.Machine
end

