-- ==== Sys2Proof/Machine/Migrate.lean ====
section
/-! DEFINITION. Translations invalidated, frames and their motion, free-location rings, dictionaries, ways and demotions (R93, R95,
    R101, R351 to R354, R361 to R366). -/

namespace Sys2Proof.Machine

open Sys2Proof

/-! tinv (R351, R352). -/

/-- A handle with V cleared (R239). -/
def hClear (h : BitVec 128) : BitVec 128 := h &&& ~~~(BitVec.ofNat 128 (2 ^ 63))

/-- V cleared in a handle whose page lies in [first, first + count). -/
def inTinv (first count : Nat) (h : BitVec 128) : BitVec 128 := if inRanges [(first, count)] (hVpage h) then hClear h else h

/-- V cleared in a handle that names a frame (R239; log 40). -/
def inFrame (f : Nat) (h : BitVec 128) : BitVec 128 := if hFrame h == f then hClear h else h

/-- A handle on its way to a register is changed as those in registers are. -/
def InFlight.onHandle (g : BitVec 128 → BitVec 128) (f : InFlight) : InFlight :=
  match f.what with
  | .handle r v => { f with what := .handle r (g v) }
  | _ => f

/-- Every live handle of a core changed. -/
def Core.onHandles (k : Core) (g : BitVec 128 → BitVec 128) : Core :=
  { (k.upAll fun _ x => { x with flight := x.flight.map (InFlight.onHandle g) }) with h := k.h.map fun (e : Nat × BitVec 128) => (e.1, g e.2) }

/-- Step 4 of R351 on a core: live handles of the running task, and the pages remembered by its continuations (R37). -/
def Core.tinv (k : Core) (n first count : Nat) : Core :=
  let k := { k with conts := k.conts.map fun (c : Cont) => if c.task.ctx.toNat == n then { c with tinvs := c.tinvs ++ [(first, count)] } else c }
  if k.task.isSome && k.ctxNum == n then k.onHandles (inTinv first count) else k

/-- Step 4 of R351 for a context: on every core, or at its restore when it is SAVED. -/
def State.tinvHandles (s : State) (n first count : Nat) : State :=
  let s := { s with cores := s.cores.map fun (e : Nat × Core) => (e.1, e.2.tinv n first count) }
  let x := s.ctx n
  if x.st == .saved || (x.st == .loading && x.restoring) then s.upCtx n fun x => { x with tinvs := x.tinvs ++ [(first, count)] } else s

/-- A translation lies in a page range. -/
def RtbEnt.inPages (r : RtbEnt) (first count : Nat) : Bool := decide (first ≤ r.vpage.toNat) && decide (r.vpage.toNat < first + count)

/-- Steps 2 to 4 of R351 for a context's pages [first, first + count). -/
def State.tinvPages (s : State) (n first count : Nat) : State :=
  let x := s.ctx n
  let s := s.dropRtb (fun r => r.asid == x.asid && r.gen == x.gen && r.inPages first count) fun k => x.coreList.contains k
  (s.dropWalks fun a _ => a == x.asid).tinvHandles n first count

/-- Pages of the address space. -/
def allPages : Nat := 2 ^ 27

/-- tinv: a release at dev scope, and the pages invalidated; a count of 0 only releases (R351). -/
def execTinv (h : Hdr) (a b : Reg) (s : State) : Out :=
  issue s (.tinv h a b) fun s =>
    let first := (s.reg a).toNat / 2 ^ 21
    let count := (s.reg b).toNat
    let s := s.release s.me 3
    .ok (if count == 0 then s else s.tinvPages s.mine.ctxNum first count)

/-- tinv all (R351). -/
def execTinvAll (h : Hdr) (s : State) : Out :=
  issue s (.tinvAll h) fun s => .ok ((s.release s.me 3).tinvPages s.mine.ctxNum 0 allPages)

/-- TINVCMD as the host wrote it (R352). -/
def tinvWord (op asid gen : Nat) : Word := .ofNat 64 (op * 2 ^ 62 + asid * 2 ^ 46 + gen * 2 ^ 38)

/-- The host's invalidation of pages of an ASID, of one generation or of all (R352); it waits for the BAR 2 writes posted before it (R349). -/
def State.tinvHost (s : State) (asid : BitVec 16) (gen : Option (BitVec 8)) (first count : Nat) : State :=
  if !s.posted.isEmpty then s.meetHold else
  if count == 0 then { s with tinvDone := true } else
  let hit (g : BitVec 8) : Bool := match gen with | some v => v == g | none => true
  let s := s.dropRtb (fun r => r.asid == asid && hit r.gen && r.inPages first count) fun _ => true
  let s := s.dropWalks fun a _ => a == asid
  let l := (List.range 64).filter fun n => (s.ctx n).st != .free && (s.ctx n).asid == asid && hit (s.ctx n).gen
  let s := l.foldl (fun (s : State) n => s.tinvHandles n first count) s
  { s with tinvDone := true }

/-- TINV_RANGE: the range of TINVARG (R352). -/
def execTinvRange (asid : BitVec 16) (gen : BitVec 8) (s : State) : Out :=
  let s := { s with tinvcmd := tinvWord 0 asid.toNat gen.toNat }
  .next (s.tinvHost asid (some gen) (bits s.tinvarg.toNat 26 0) (bits s.tinvarg.toNat 63 32))

/-- TINV_ASID_GEN: every page of the ASID and generation (R352). -/
def execTinvAsidGen (asid : BitVec 16) (gen : BitVec 8) (s : State) : Out :=
  .next (({ s with tinvcmd := tinvWord 1 asid.toNat gen.toNat }).tinvHost asid (some gen) 0 allPages)

/-- TINV_ASID_ALL_GEN: every page of the ASID in every generation (R352). -/
def execTinvAsidAllGen (asid : BitVec 16) (s : State) : Out :=
  .next (({ s with tinvcmd := tinvWord 2 asid.toNat 0 }).tinvHost asid none 0 allPages)

/-- TINVCMD_RESERVED: ignored with a record (R352). -/
def execTinvcmdReserved (s : State) : Out :=
  .next (({ s with tinvcmd := tinvWord 3 0 0 }).refuse unitMgmt none [3])

/-! Free-location rings (R364). -/

/-- A ring. -/
def State.ring (s : State) (t ilv : Nat) : Flr := sget Flr.reset s.flr (8 * t + ilv)

/-- A ring replaced. -/
def State.setRing (s : State) (t ilv : Nat) (r : Flr) : State := { s with flr := sset Flr.reset s.flr (8 * t + ilv) r }

/-- Entries a ring holds. -/
def Flr.size (r : Flr) : Nat := 2 ^ bits r.cfg.toNat 3 0
/-- The address of an entry. -/
def Flr.slot (r : Flr) (n : BitVec 32) : Nat := bits r.cfg.toNat 51 12 * 4096 + 8 * (n.toNat % r.size)

/-- A motion record of the error log: frame and LAST or PCNT (R361, R364). -/
def State.logMotion (s : State) (sev f : Nat) (detail : List Byte) : State := s.logError 4 sev (unitBase (f % 16)) none f detail

/-- A location goes back to its tier's ring; slice storage has none; a full ring gives a record (R364). -/
def State.returnLoc (s : State) (f : Nat) (loc : BitVec 31) (ilv : Nat) : State :=
  match tierOf (loc.toNat * 2 ^ 21) with
  | some 3 | none => s
  | some t =>
    let r := s.ring t ilv
    if (r.tail - r.head).toNat ≥ r.size then s.logMotion 2 f (toBytes 8 (loc.toNat * 2 ^ 21))
    else (s.devWrite (r.slot r.tail) (toBytes 8 (loc.toNat * 2 ^ 21))).setRing t ilv { r with tail := r.tail + 1 }

/-! Motion (R361, R362). -/

/-- The CXL ports a location needs under a scheme (R356, R362). -/
def portsOf (loc : BitVec 31) (ilv : Nat) : List Nat :=
  let a := loc.toNat * 2 ^ 21
  if tierOf a == some 2 then (if ilv < 4 then [24, 25, 26, 27] else [24 + (a - 2 ^ 46) / 2 ^ 44]) else []

/-- A port that a motion's source or destination needs carries no traffic. -/
def State.unreachable (s : State) (e : Frame) : Bool :=
  !((portsOf e.loc e.ilv.toNat) ++ portsOf e.dest e.ilv.toNat).all s.linkUp

/-- A page at a location under a scheme has bytes in HBM channel `g` (R357). -/
def usesChannel (loc : BitVec 31) (ilv g : Nat) : Bool :=
  let a := loc.toNat * 2 ^ 21
  tierOf a == some 0 && (List.range (2 ^ 21 / stripeOf ilv)).any fun i => (channelOf 0 a ilv (stripeOf ilv * i)).1 == g

/-- A destination with bytes in a fenced channel (R367). -/
def State.destFenced (s : State) (e : Frame) : Bool := s.remap.any fun r => r.2.fenced && usesChannel e.dest e.ilv.toNat r.1

/-- Stream slots of a frame's engine in use. -/
def State.slotsUsed (s : State) (f : Nat) : List (BitVec 4) :=
  (s.frames.filter fun e => e.1 % 16 == f % 16 && (e.2.st == .inMotion || e.2.st == .committing)).map (·.2.slot)

/-- The lowest free stream slot of a frame's engine. -/
def State.freeSlot (s : State) (f : Nat) : Option (BitVec 4) :=
  ((List.range 16).map (BitVec.ofNat 4)).find? fun i => !(s.slotsUsed f).contains i

/-- A motion starts (R361). -/
def State.startMotion (s : State) (f : Nat) (dest : BitVec 31) (slot : BitVec 4) : State :=
  let e := { s.frame f with st := .inMotion, dest := dest, wmark := 0, slot := slot, parked := false, pcnt := 0, bitmap := 0, destLost := false }
  s.setFrame f (if s.unreachable e then { e with parked := true, parkedAt := s.us } else e)

/-- A motion is aborted: the destination goes back to its ring, the slot is free, LAST is set and a record written (R283, R361). -/
def State.abortMotion (s : State) (f : Nat) (last : BitVec 3) : State :=
  let e := s.frame f
  let s := s.setFrame f { e with st := .resident, last := last, parked := false }
  (s.returnLoc f e.dest e.ilv.toNat).logMotion 2 f [last.setWidth 8]

/-- A frame in motion aborts when its destination is fenced or a write there was uncorrectable, parks when it cannot be reached, and resumes
    when it can (R361, R367). -/
def State.checkMotion (s : State) (f : Nat) : State :=
  let e := s.frame f
  if e.st != .inMotion then s
  else if s.destFenced e || e.destLost then s.abortMotion f 4
  else if s.unreachable e && !e.parked then s.setFrame f { e with parked := true, parkedAt := s.us }
  else if !s.unreachable e && e.parked then s.setFrame f { e with parked := false }
  else s

/-- Every motion checked after a link or a channel has changed (R361). -/
def State.checkMotions (s : State) : State := (s.frames.map (·.1)).foldl State.checkMotion s

/-- The lowest line whose bit is clear (R362). -/
def Frame.nextLine (e : Frame) : Option Nat := (List.range 16384).find? fun i => !e.copied i

/-- The record of a line's block goes with the line (R109): a source block without one leaves UNKNOWN. -/
def State.moveRec (s : State) (src dst : Acc) (o : Nat) : State :=
  match s.recKey dst o with
  | none => s
  | some k => match s.recKey src o with
    | some j => let s := s.loadRec j; s.setRec k (s.digestRec j)
    | none => s.setRec k DRec.beyond

/-- A line's bytes, mark and key written whole (R362, R410). -/
def State.putLine (s : State) (acc : Acc) (o : Nat) (bs : List Byte) (ls : LineSt) : State :=
  let l := s.lineNo acc o
  let s := (s.planeOut acc o).walkStale acc o
  { s with mem := putBytes unwritten s.mem (s.spot acc o) (allOf bs),
           lines := sset LineSt.reset s.lines l { ls with key := if s.tagged (acc.cell o) then ls.key else none },
           bad := sset false s.bad l false, weak := sset false s.weak l false }

/-- One line copied as an entry of its forwarder, with its poison and its record; a destination that cannot take the line ends the motion
    (R361, R362, R410; log 44). -/
def State.copyLine (s : State) (f i : Nat) : State :=
  let e := s.frame f
  let o := 128 * i
  let src : Acc := { base := e.loc.toNat * 2 ^ 21, ilv := e.ilv.toNat, attr := none, kd := none, frame := some f }
  let dst : Acc := { src with base := e.dest.toNat * 2 ^ 21 }
  if s.isHeld src o || s.isHeld dst o then s.meetHold
  else if !s.reach dst o then s.abortMotion f 4
  else
    let here := s.reach src o
    let s := if here then (s.planeOut src o).findLine src o else s.logAccess 1 src o
    let ls := s.line (s.lineNo src o)
    let bs := if here then s.memBytes (s.spot src o) 128 else List.replicate 128 0
    let ls := { ls with poisoned := !here || ls.poisoned }
    let s := (s.putLine dst o bs ls).moveRec src dst o
    let e := s.frame f
    s.setFrame f { e with bitmap := e.bitmap ||| BitVec.ofNat 16384 (2 ^ i), wmark := e.wmark + 1,
                          pcnt := if ls.poisoned && e.pcnt != 255 then e.pcnt + 1 else e.pcnt }

/-- MIGRATION_LINE_COPY: R362. -/
def execMigrationLineCopy (frame : FrameId) (s : State) : Out :=
  let f := frame.toNat
  let t := s.checkMotion f
  let e := t.frame f
  .next (if e.st != .inMotion || e.parked then t else match e.nextLine with | some i => t.copyLine f i | none => t)

/-- MIGRATION_COMMIT: with every line copied the destination is the home; a record is written when poison was carried (R282, R361). -/
def execMigrationCommit (frame : FrameId) (s : State) : Out :=
  let f := frame.toNat
  let t := s.checkMotion f
  let e := t.frame f
  .next (if e.st != .inMotion || e.parked || e.wmark != 16384 then t else
    let t := t.setFrame f { e with st := .committing }
    if e.pcnt != 0 then t.logMotion 1 f [e.pcnt] else t)

/-- A frame is unmapped, and no live handle that names it is valid any more (R239, R361, R363; log 40). -/
def State.unmapFrame (s : State) (f : Nat) : State :=
  let s := s.setFrame f { s.frame f with st := .unmapped, hoten := false, unmapPending := false }
  { s with cores := s.cores.map fun (e : Nat × Core) => (e.1, e.2.onHandles (inFrame f)) }.notePages fun _ _ e => e.2 / 8 == f

/-- MIGRATION_COMMIT_DONE: the frame is RESIDENT at DEST, the source goes back to its ring, and an unmap that waited is performed (R361). -/
def execMigrationCommitDone (frame : FrameId) (s : State) : Out :=
  let f := frame.toNat
  let e := s.frame f
  .next (if e.st != .committing then s else
    let tier : BitVec 2 := .ofNat 2 ((tierOf (e.dest.toNat * 2 ^ 21)).getD 0)
    let s := s.setFrame f { e with st := .resident, loc := e.dest, tier := tier, last := 1 }
    let s := s.returnLoc f e.loc e.ilv.toNat
    if e.unmapPending then s.unmapFrame f else s)

/-- MIGRATION_PARK_TIMEOUT: 100 ms parked (R361). -/
def execMigrationParkTimeout (frame : FrameId) (s : State) : Out :=
  let f := frame.toNat
  let e := s.frame f
  .next (if e.st == .inMotion && e.parked && decide (s.us ≥ e.parkedAt + 100000) then s.abortMotion f 3 else s)

/-! Frame commands (R354). -/

/-- FRMSTAT set. -/
def State.frmStat (s : State) (code : BitVec 8) : State := { s with frmstat := code }

/-- A location is in no range that frames may use (code 2), or in slice storage under another scheme than 7 or in a way that is not STORAGE
    (code 6). -/
def State.locBad (s : State) (loc : BitVec 31) (ilv : Nat) : Option (BitVec 8) :=
  let a := loc.toNat * 2 ^ 21
  match tierOf a with
  | none => some 2
  | some 3 => let (b, w) := wayOf a; if ilv != 7 || s.way b w != .storage then some 6 else none
  | some _ => none

/-- FRMCMD as the host wrote it; a field the command does not use is 0 (R354). -/
def State.frmCmd (s : State) (op f : Nat) (loc : BitVec 31) (ilv : BitVec 3) : State :=
  { s with frmcmd := .ofNat 64 (op * 2 ^ 62 + ilv.toNat * 2 ^ 59 + loc.toNat * 2 ^ 28 + f) }

/-- FRAME_MAP: R354. -/
def execFrameMap (frame : FrameId) (loc : BitVec 31) (ilv : BitVec 3) (s : State) : Out :=
  let f := frame.toNat
  let s := s.frmCmd 0 f loc ilv
  let e := s.frame f
  .next (if f ≥ s.fltlim.toNat then s.frmStat 5
    else if e.st != .unmapped then s.frmStat 1
    else match s.locBad loc ilv.toNat with
      | some c => s.frmStat c
      | none =>
        let tier : BitVec 2 := .ofNat 2 ((tierOf (loc.toNat * 2 ^ 21)).getD 0)
        (s.setFrame f { e with st := .resident, loc := loc, tier := tier, ilv := ilv, hot := 0, hoten := false, last := 0 }).frmStat 0)

/-- FRAME_UNMAP: R354, R361. -/
def execFrameUnmap (frame : FrameId) (s : State) : Out :=
  let f := frame.toNat
  let s := s.frmCmd 1 f 0 0
  let e := s.frame f
  .next (if f ≥ s.fltlim.toNat then s.frmStat 5 else match e.st with
    | .unmapped => s.frmStat 1
    | .resident => (s.unmapFrame f).frmStat 0
    | .inMotion => ((s.abortMotion f 5).unmapFrame f).frmStat 0
    | .committing => (s.setFrame f { e with unmapPending := true }).frmStat 0)

/-- FRAME_MIGRATE: R354. -/
def execFrameMigrate (frame : FrameId) (loc : BitVec 31) (s : State) : Out :=
  let f := frame.toNat
  let s := s.frmCmd 2 f loc 0
  let e := s.frame f
  .next (if f ≥ s.fltlim.toNat then s.frmStat 5
    else if e.st != .resident then s.frmStat 1
    else match s.locBad loc e.ilv.toNat with
      | some c => s.frmStat c
      | none =>
        if tierOf (loc.toNat * 2 ^ 21) == some e.tier.toNat then s.frmStat 3
        else match s.freeSlot f with
          | none => s.frmStat 4
          | some i => (s.startMotion f loc i).frmStat 0)

/-- FRAME_ABORT: R354, R361. -/
def execFrameAbort (frame : FrameId) (s : State) : Out :=
  let f := frame.toNat
  let s := s.frmCmd 3 f 0 0
  .next (if f ≥ s.fltlim.toNat then s.frmStat 5
    else if (s.frame f).st == .inMotion then (s.abortMotion f 2).frmStat 0
    else s.frmStat 1)

/-- A frame's entry as its 16 bytes give it; what the forwarder holds of its motion stays (R353, R362). -/
def Frame.ofBits (e : Frame) (v : Nat) : Frame :=
  { e with
    hot := .ofNat 16 (bits v 127 112), hoten := bit v 111, last := .ofNat 3 (bits v 106 104), wmark := .ofNat 15 (bits v 103 89),
    dest := .ofNat 31 (bits v 88 58), loc := .ofNat 31 (bits v 57 27), ilv := .ofNat 3 (bits v 26 24), parked := bit v 23,
    slot := .ofNat 4 (bits v 19 16), tier := .ofNat 2 (bits v 12 11), pcnt := .ofNat 8 (bits v 7 0),
    st := match bits v 10 8 with | 1 => .resident | 2 => .inMotion | 3 => .committing | _ => .unmapped }

/-- The frames whose entries at a base are not wholly zero. -/
def State.framesAt (s : State) (base : Nat) : List Nat :=
  (s.mem.filterMap fun (c : Nat × Byte) =>
    let (acc, o) := s.cellAcc (s.unstored c.1)
    let a := acc.base + o
    if base ≤ a && decide (a < base + 2 ^ 32) then some ((a - base) / 16) else none).eraseDups

/-- An entry of the table at a base joins those read so far; one that reads as poison leaves its frame UNMAPPED (R353; log 10). -/
def readFrame (base : Nat) (p : State × Sparse Frame) (f : Nat) : State × Sparse Frame :=
  let (s, v, bad) := p.1.devNum (base + 16 * f) 16
  (s, if bad then p.2 else sset Frame.reset p.2 f ((s.frame f).ofBits v))

/-- FLTBASE changes: the frame location caches are filled from the table at the new base (R353; log 10). -/
def State.setFltbase (s : State) (v : Word) : State :=
  let base := bits v.toNat 51 12 * 4096
  let (t, m) := (s.framesAt base).foldl (readFrame base) (s, [])
  { t with fltbase := .ofNat 64 base, frames := m }

/-- FLTLIM_WRITE: a value above 2^28 is ignored with a record (R353). -/
def execFltlimWrite (val : BitVec 64) (s : State) : Out :=
  .next (if val.toNat > 2 ^ 28 then s.refuse unitMgmt none (toBytes 8 val.toNat) else { s with fltlim := val })

/-- HOT_DECAY: every counter halved (R363). -/
def execHotDecay (s : State) : Out :=
  .next ((s.frames.map (·.1)).foldl (fun (s : State) f => s.setFrame f { s.frame f with hot := (s.frame f).hot / 2 }) s)

/-! pmig and pheat (R365, R366). -/

/-- pmig's effect at the frame's engine: the code (R365). -/
def State.migrate (s : State) (f tier : Nat) : State × Nat :=
  let e := s.frame f
  let r := s.ring tier e.ilv.toNat
  if e.st == .unmapped then (s, 5)
  else if e.st != .resident then (s, 1)
  else if tier == e.tier.toNat then (s, 2)
  else if r.tail == r.head then (s, 3)
  else match s.freeSlot f with
    | none => (s, 4)
    | some i =>
      let (s, v, _) := s.devNum (r.slot r.head) 8
      ((s.setRing tier e.ilv.toNat { r with head := r.head + 1 }).startMotion f (.ofNat 31 (bits v 51 21)) i, 0)

/-- The abort form's effect: the code (R365). -/
def State.migrateAbort (s : State) (f : Nat) : State × Nat :=
  match (s.frame f).st with
  | .inMotion => (s.abortMotion f 2, 0)
  | .committing => (s, 7)
  | _ => (s, 6)

/-- The value pmig returns (R365). -/
def pmigValue (code f : Nat) : Word := .ofNat 64 (f + 2 ^ 56 * code)

/-- pmig: R365. -/
def execPmig (h : Hdr) (d a : Reg) (tier : BitVec 2) (s : State) : Out :=
  issue s (.pmig h d a tier) fun s =>
    let hd := s.mine.handle a
    if !hValid hd then .trap .handle 0 [] else
    let (s, code) := s.migrate (hFrame hd) tier.toNat
    .ok (s.enqRet (.pmig h d a tier) d (pmigValue code (hFrame hd)) none)

/-- pmig, the abort form: R365. -/
def execPmigAbort (h : Hdr) (d a : Reg) (s : State) : Out :=
  issue s (.pmigAbort h d a) fun s =>
    let hd := s.mine.handle a
    if !hValid hd then .trap .handle 0 [] else
    let (s, code) := s.migrateAbort (hFrame hd)
    .ok (s.enqRet (.pmigAbort h d a) d (pmigValue code (hFrame hd)) none)

/-- What pheat returns of a frame (R366). -/
def Frame.heat (e : Frame) : Word :=
  .ofNat 64 (pack [(16, 0), (3, match e.st with | .unmapped => 0 | .resident => 1 | .inMotion => 2 | .committing => 3), (2, e.tier.toNat),
    (15, e.wmark.toNat), (1, b2n e.parked), (3, e.last.toNat), (8, e.pcnt.toNat), (16, e.hot.toNat)])

/-- pheat: R366. -/
def execPheat (h : Hdr) (d a : Reg) (s : State) : Out :=
  issue s (.pheat h d a) fun s =>
    let hd := s.mine.handle a
    if !hValid hd then .trap .handle 0 [] else
    .ok (s.enqRet (.pheat h d a) d (s.frame (hFrame hd)).heat none)

/-! Dictionaries (R101). -/

/-- A dictionary slot. -/
def State.dict (s : State) (n : Nat) : Dict := sget Dict.reset s.dicts n

/-- A dictionary slot replaced. -/
def State.setDict (s : State) (n : Nat) (d : Dict) : State := { s with dicts := sset Dict.reset s.dicts n d }

/-- A dictionary record of the error log: the slot and the command, or 4 for a load that failed. -/
def State.dictLog (s : State) (slot op : Nat) : State := s.logError 5 2 unitMgmt none 0 [BitVec.ofNat 8 slot, BitVec.ofNat 8 op]

/-- DICTCMD as it was written (R101). -/
def State.dictCmd (s : State) (op : Nat) (slot : BitVec 6) (addr : Nat) : State :=
  { s with dictcmd := .ofNat 64 (addr + op * 64 + slot.toNat) }

/-- DICT_LOAD: R101. -/
def execDictLoad (slot : BitVec 6) (addr : BitVec 52) (s : State) : Out :=
  let n := slot.toNat
  let s := s.dictCmd 0 slot (addr &&& 0xFFFFFFFFFFF00).toNat
  .next (if (s.dict n).st == .empty then s.setDict n { Dict.reset with st := .loading, addr := addr &&& 0xFFFFFFFFFFF00 } else s.dictLog n 0)

/-- DICT_LOAD_DONE: the image is read; the slot is ARMED, or EMPTY with a record (R100, R101). -/
def execDictLoadDone (slot : BitVec 6) (s : State) : Out :=
  let n := slot.toNat
  let d := s.dict n
  .next (if d.st != .loading then s else
    let (s, bs, poisoned) := s.devRead d.addr.toNat 1184
    let img : Sparse Byte := ((List.range 1184).zip bs).foldl (fun m e => sset 0 m e.1 e.2) []
    if poisoned || overSubscribed img then (s.setDict n Dict.reset).dictLog n 4
    else s.setDict n { d with st := .armed, count := 0, image := img })

/-- DICT_RETIRE: an ARMED slot retires; with no reference left it is EMPTY and zeroed (R101). -/
def execDictRetire (slot : BitVec 6) (s : State) : Out :=
  let n := slot.toNat
  let s := s.dictCmd 1 slot 0
  let d := s.dict n
  .next (if d.st != .armed then s.dictLog n 1
    else s.setDict n (if d.count == 0 then Dict.reset else { d with st := .retiring }))

/-- DICT_PIN: R101. -/
def execDictPin (slot : BitVec 6) (s : State) : Out :=
  let n := slot.toNat
  let s := s.dictCmd 2 slot 0
  let d := s.dict n
  .next (if d.st == .armed then s.setDict n { d with count := d.count + 1 } else s.dictLog n 2)

/-- DICT_UNPIN: R101. -/
def execDictUnpin (slot : BitVec 6) (s : State) : Out :=
  let n := slot.toNat
  let s := s.dictCmd 3 slot 0
  let d := s.dict n
  .next (if d.st == .armed && d.count != 0 then s.setDict n { d with count := d.count - 1 } else s.dictLog n 3)

/-! Ways and demotions (R93, R95). -/

/-- A way's state set. -/
def State.setWay (s : State) (slice way : Nat) (w : WaySt) : State := { s with ways := sset .cache s.ways (16 * slice + way) w }

/-- A line of a slice's caches lies in a slice. -/
def inSlice (slice : Nat) (e : Nat × SLine) : Bool := (sliceSet (128 * e.1)).1 == slice

/-- WAY_FLUSH_DONE: the dirty lines are written, and every line of the way is invalid (R93). -/
def execWayFlushDone (slice way : BitVec 4) (s : State) : Out :=
  .next (if s.way slice.toNat way.toNat == .flushing then
    ({ s with slices := s.slices.filter fun e => !(inSlice slice.toNat e && e.2.way == way) }).setWay slice.toNat way.toNat .zeroS
  else s)

/-- 32 MiB of a way's storage zeroed, with the marks of its lines (R93). -/
def State.zeroWay (s : State) (slice way : Nat) : State :=
  let a := 2 ^ 42 + slice * 2 ^ 29 + way * 2 ^ 25
  { s with mem := seraseRange s.mem a (a + 2 ^ 25), lines := seraseRange s.lines (a / 128) ((a + 2 ^ 25) / 128),
           bad := seraseRange s.bad (a / 128) ((a + 2 ^ 25) / 128), weak := seraseRange s.weak (a / 128) ((a + 2 ^ 25) / 128) }

/-- WAY_ZERO_DONE: R93. -/
def execWayZeroDone (slice way : BitVec 4) (s : State) : Out :=
  let b := slice.toNat
  let w := way.toNat
  .next (match s.way b w with
    | .zeroS => (s.zeroWay b w).setWay b w .storage
    | .zeroC => (s.zeroWay b w).setWay b w .cache
    | _ => s)

/-- RDEMOTE_WRITE: the chain's demotion starts (R95). -/
def execRdemoteWrite (slice : BitVec 4) (chain : BitVec 8) (s : State) : Out :=
  .next { s with rdemote := sset 0 s.rdemote slice.toNat chain }

/-- DEMOTION_DONE: the chain's lines in the slice are clean and the least recently used, and RDEMOTE reads 0 (R95). -/
def execDemotionDone (slice : BitVec 4) (s : State) : Out :=
  let chain := sget 0 s.rdemote slice.toNat
  let demote (e : Nat × SLine) : Nat × SLine := if chain != 0 && inSlice slice.toNat e && e.2.chain == chain then (e.1, { e.2 with dirty := false, last := 0 }) else e
  .next { s with slices := s.slices.map demote, rdemote := sset 0 s.rdemote slice.toNat 0 }

end Sys2Proof.Machine
end

