-- ==== Sys2Proof/Machine/Link.lean ====
section
/-! DEFINITION. Links, CXL back-invalidates, remote elements, and the registers with no behaviour of their own (R7,
    R369 to R379, R385). -/

namespace Sys2Proof.Machine

open Sys2Proof

/-! Link states (R369 to R371). -/

/-- A link. -/
def State.link (s : State) (l : Nat) : Link := sget Link.reset s.links l

/-- A link replaced. -/
def State.setLink (s : State) (l : Nat) (x : Link) : State := { s with links := sset Link.reset s.links l x }

/-- A record of class link (R369, R381). -/
def State.linkLog (s : State) (l : Nat) : State := s.logError 3 2 (unitLink l) none 0 []

/-- A link trains (R369). -/
def State.train (s : State) (l : Nat) : State := (s.setLink l { s.link l with st := .training, lanes := 0, since := s.us }).checkMotions

/-- LSTAT of a link (R371). -/
def Link.stat (x : Link) : Word :=
  .ofNat 64 (pack [(3, match x.st with | .down => 0 | .training => 1 | .up => 2 | .degraded => 3 | .quarantined => 4), (5, 0),
    (5, x.lanes.toNat), (25, 0), (10, x.peer.toNat), (16, x.errc.toNat)])

/-- lstat: R371. -/
def execLstat (h : Hdr) (d a : Reg) (s : State) : Out :=
  issue s (.lstat h d a) fun s =>
    let l := (s.reg a).toNat
    .ok (s.enqRet (.lstat h d a) d (if l > 28 then BitVec.allOnes 64 else (s.link l).stat) none)

/-- LINK_TRAIN: R369, R370. -/
def execLinkTrain (link : BitVec 5) (s : State) : Out :=
  let l := link.toNat
  .next (if l > 28 then s else match (s.link l).st with
    | .down | .degraded | .quarantined => s.train l
    | .training | .up => s)

/-- LINK_DOWN: R369, R370. -/
def execLinkDown (link : BitVec 5) (s : State) : Out :=
  let l := link.toNat
  .next (if l > 28 then s else (s.setLink l { s.link l with st := .down, lanes := 0 }).checkMotions)

/-- LINK_RELEASE: R369, R370. -/
def execLinkRelease (link : BitVec 5) (s : State) : Out :=
  let l := link.toNat
  .next (if l > 28 then s else match (s.link l).st with
    | .degraded | .quarantined => s.train l
    | .down | .training | .up => s)

/-- LINK_TRAINED: at full width UP, with lanes lost DEGRADED; the attached capacity of a CXL port is known (R369, R370; log 42). -/
def execLinkTrained (link : BitVec 5) (lanes : BitVec 5) (full : Bool) (peer : BitVec 10) (s : State) : Out :=
  let l := link.toNat
  let x := s.link l
  .next (if x.st != .training then s else
    let x := { x with st := if full then .up else .degraded, errc := 0, lanes := lanes, peer := if l < 24 then peer else 0 }
    let x := if 24 ≤ l && l < 28 then { x with cap := .ofNat 16 (min (Config.cxlGib (l - 24)) 16384) } else x
    (s.setLink l x).checkMotions)

/-- LINK_TRAIN_TIMEOUT: 100 ms without training (R369). -/
def execLinkTrainTimeout (link : BitVec 5) (s : State) : Out :=
  let l := link.toNat
  let x := s.link l
  .next (if x.st == .training && decide (s.us ≥ x.since + 100000) then (s.setLink l { x with st := .down }).linkLog l else s)

/-- LINK_LANES_LOST: DEGRADED with the lanes left, or DOWN with none (R369). -/
def execLinkLanesLost (link : BitVec 5) (left : BitVec 5) (s : State) : Out :=
  let l := link.toNat
  let x := s.link l
  .next (match x.st with
    | .up | .degraded =>
      if left.toNat ≥ x.lanes.toNat then s
      else if left == 0 then ((s.setLink l { x with st := .down, lanes := 0 }).linkLog l).checkMotions
      else s.setLink l { x with st := .degraded, lanes := left }
    | .down | .training | .quarantined => s)

/-- Errors counted, stopping at 0xFFFF (R371). -/
def Link.addErrors (x : Link) (n : Nat) : Link := { x with errc := .ofNat 16 (min (x.errc.toNat + n) 0xFFFF) }

/-- LINK_ERROR_WINDOW: the errors of a 1 ms window; at THRESH the link is QUARANTINED (R369). A Salmus link's errors were counted as its flits
    came (R376). -/
def execLinkErrorWindow (link : BitVec 5) (errors : BitVec 16) (s : State) : Out :=
  let l := link.toNat
  let x := s.link l
  .next (match x.st with
    | .up | .degraded =>
      let x := if l < 24 then x else x.addErrors errors.toNat
      if x.thresh != 0 && errors.toNat ≥ x.thresh.toNat then ((s.setLink l { x with st := .quarantined }).linkLog l).checkMotions
      else s.setLink l x
    | .down | .training | .quarantined => s)

/-! Remote elements served here (R376 to R379). -/

/-- Some of the bytes [o, o + n) of an access's page cannot be reached or lie in a poisoned line. -/
def State.anyLost (s : State) (acc : Acc) (o n : Nat) : Bool :=
  (List.range (n / 128 + 2)).any fun i =>
    let p := min (o + 128 * i) (o + n - 1)
    !s.reach acc p || (s.line (s.lineNo acc p)).poisoned

/-- One element performed through an export entry, and whether it failed: a read of poison, a write or reduction that was dropped (R249, R378,
    R379). -/
def State.servePerform (s : State) (r : RemoteReq) : State × Bool :=
  let acc := s.exportAcc r.entry.toNat
  let o := r.off.toNat
  match r.kind with
  | .read => let s := (s.homeRead acc o r.len).1; (s, s.anyLost acc o r.len)
  | .write => let s := s.homeWrite acc o (allOf r.data); (s, s.anyLost acc o r.data.length)
  | .red =>
    let s := if r.op == 0 then s.homeWrite acc o (allOf r.data)
      else s.homeReds (unitBase (acc.slice o)) acc o (scatLit r.op.toNat r.fp) r.data
    (s, s.anyLost acc o r.data.length)
  | .reply | .arrival => (s, false)

/-- Bytes an element covers. -/
def reqBytes (r : RemoteReq) : Nat := match r.kind with | .read => r.len | .write | .red => r.data.length | .reply | .arrival => 0

/-- The command and entry of a request, as `remoteFailed` names them: device, tag and entry. -/
def reqKey (r : RemoteReq) : Nat := replyKey r.src.toNat r.tag.toNat r.entry.toNat 0

/-- After a command's last element, or its arrival request, the entry's arrival is made, tainted if any element failed (R379; log 51). -/
def State.serveLast (s : State) (r : RemoteReq) : State :=
  { (s.exportArrive r.entry.toNat (sget false s.remoteFailed (reqKey r))) with remoteFailed := serase s.remoteFailed (reqKey r) }

/-- A reply flit stands for the bytes of its command's elements that it carried: its own bytes, or none where it was lost (R376). -/
def State.takeReplyFlit (s : State) (r : RemoteReq) (bs : Option (List Byte)) : State :=
  { s with replies := sput s.replies (replyKey r.src.toNat r.tag.toNat r.entry.toNat r.off.toNat) (max r.len r.data.length, bs) }

/-- A request of another module served here, or its reply taken (R376 to R379). One that names another device is not this module's. -/
def State.serveRemote (s : State) (r : RemoteReq) : State :=
  if r.dst != s.devid then s else
  match r.kind with
  | .reply => s.takeReplyFlit r (some r.data)
  | .arrival => s.serveLast r
  | _ =>
    let ok := s.exportOk r.entry.toNat (r.kind != .read) && decide (r.off.toNat + reqBytes r ≤ 2 ^ 21)
    let (s, failed) := if ok then s.servePerform r else (s, true)
    let s := if failed then { s with remoteFailed := sset false s.remoteFailed (reqKey r) true } else s
    if r.last then s.serveLast r else s

/-- A flit lost to its CRC: every element it carried bytes of fails, at its home or, for a reply, at this module's own command (R376, R379;
    log 51). -/
def State.flitLost (s : State) (r : RemoteReq) : State :=
  if r.dst != s.devid then s else
  match r.kind with
  | .reply => s.takeReplyFlit r none
  | .arrival => s
  | _ => { s with remoteFailed := sset false s.remoteFailed (reqKey r) true }

/-- REMOTE_ELEMENT_SERVE: R378, R379. -/
def execRemoteElementServe (req : RemoteReq) (s : State) : Out := .next (s.serveRemote req)

/-- SALMUS_FLIT_RECEIVE: the range of an element that one flit carries, at most 224 bytes of payload, is served; a flit that fails its CRC is
    dropped and counted. No rule gives its sequence number `RemoteReq.num` an effect (R376; log 51). -/
def execSalmusFlitReceive (link : BitVec 5) (crcOk : Bool) (req : RemoteReq) (s : State) : Out :=
  let l := link.toNat
  .next (if l ≥ 24 || !s.linkUp l || req.data.length > 224 then s
    else if crcOk then s.serveRemote req
    else (s.setLink l ((s.link l).addErrors 1)).flitLost req)

/-! CXL back-invalidates and the patrol (R375, R385). -/

/-- BACK_INVALIDATE of a line of a port's memory: the home reads the line, the slice and every L2 drop it, and its record loses its claim when the
    port's memory is shared; bytes that a core has not released stay where they are (R107, R375, R410). -/
def execBackInvalidate (line : Nat) (s : State) : Out :=
  let cell := 128 * line
  let (acc, o) := s.cellAcc cell
  .next (if tierOf cell != some 2 || !s.cellReach cell then s else
    let s := s.findLine acc o
    let s := { s with slices := serase s.slices line }
    let s := s.l2Stale acc o
    if (s.link (24 + (chanOf 2 cell).1)).shared then s.upRec acc o DRec.backInv else s)

/-- Lines of HBM and LPDDR. -/
def patrolLines : Nat := 3 * 2 ^ 40 / 128

/-- A port's memory that is not SHARED and can be reached, in lines (R370, R383). -/
def State.portLines (s : State) (c : Nat) : Nat := if (s.link (24 + c)).shared || !s.linkUp (24 + c) then 0 else s.cxlCap c / 128

/-- A patrol visits a line: one that is tagged, and that its port, if it has one, reaches (R385). -/
def State.patrols (s : State) (line : Nat) : Bool :=
  decide (line < patrolLines) || (tierOf (128 * line) == some 2 && decide ((chanOf 2 (128 * line)).2 / 128 < s.portLines (chanOf 2 (128 * line)).1))

/-- Every line that a patrol visits has been visited in this pass (R385). -/
def State.passOver (s : State) : Bool :=
  (s.patrolled.filter fun e => s.patrols e.1).length == patrolLines + ((List.range 4).map s.portLines).foldl (· + ·) 0

/-- A domain that was ROTATING when the pass began is ACTIVE again, its old key erased (R384, R385). -/
def Kd.passEnds (k : Kd) : Kd :=
  if k.st == .rotating then { k with st := .active, key0 := if k.cur then none else k.key0, key1 := if k.cur then k.key1 else none } else k

/-- A patrol pass ends and the next begins (R385). -/
def State.passEnd (s : State) : State :=
  let old := s.patrolKds
  let s := { s with kds := s.kds.map fun (e : Nat × Kd) => if old.getLsbD e.1 then (e.1, e.2.passEnds) else e }
  { s with patrolled := [], patrolKds := s.kds.foldl (fun (m : BitVec 256) e => if e.2.st == .rotating then m ||| BitVec.ofNat 256 (2 ^ e.1) else m) 0 }

/-- A line re-encrypted under the current version of its domain, and written back as it was corrected (R385). -/
def State.recrypt (s : State) (l : Nat) : State :=
  let x := s.line l
  if x.poisoned then s else
  let s := { s with weak := sset false s.weak l false }
  match x.key with
  | some t => (match s.curKey t.kd with
    | some n => { s with lines := sset LineSt.reset s.lines l { x with key := some { t with serial := some n } } }
    | none => s)
  | none => s

/-- A patrol visit of a line: it is read and checked, a failing tag is counted by its base die, and the line is re-encrypted (R385). -/
def State.patrolLine (s : State) (acc : Acc) (o : Nat) : State :=
  let b := acc.slice o
  let s := if s.tagFails acc o then { s with tagFailCnt := sset 0 s.tagFailCnt b (sget 0 s.tagFailCnt b + 1) } else s
  (s.findLine acc o).recrypt (s.lineNo acc o)

/-- PATROL_VISIT of a line of HBM, LPDDR or CXL memory that is not SHARED; a pass over every line ends the ROTATING states it began with
    (R385). A line of a held channel waits; one of a fenced channel is not read (R367). -/
def execPatrolVisit (line : Nat) (s : State) : Out :=
  let (acc, o) := s.cellAcc (128 * line)
  .next (if !s.patrols line then s
    else if s.cellHeld (128 * line) then s.meetHold
    else
      let s := if s.cellReach (128 * line) then s.patrolLine acc o else s
      let s := { s with patrolled := sset false s.patrolled line true }
      if s.passOver then s.passEnd else s)

/-! Registers with no behaviour of their own (R7). -/

/-- A free-location ring's registers written; HEAD is read-only (R364). -/
def Flr.write (r : Flr) (v : BitVec 128) : Flr := { r with tail := .ofNat 32 (bits v.toNat 127 96), cfg := v.setWidth 64 &&& 0xFFFFFFFFFF00F }

/-- FREEZE of every context (R304, R374). -/
def State.setFreeze (s : State) (v : Word) : State :=
  (List.range 64).foldl (fun (s : State) n => if (s.ctx n).freeze == v.getLsbD n then s else s.upCtx n fun x => { x with freeze := v.getLsbD n }) s

/-- The fields of an export entry that are not reserved (R377). -/
def exportMask : BitVec 128 := .ofNat 128 (bits (2 ^ 128 - 1) 127 111 * 2 ^ 111 + bits (2 ^ 128 - 1) 69 64 * 2 ^ 64 + bits (2 ^ 128 - 1) 27 0)

/-- A register's fields stored; reserved ones are ignored (R7). -/
def State.writeReg (s : State) (reg : RegName) (v : BitVec 128) : State :=
  let w : Word := v.setWidth 64
  match reg with
  | .dseed => { s with dseed := w }
  | .fltbase => s.setFltbase w
  | .win => { s with win := w &&& 0xFFFF0000000FF }
  | .dbgctl => s.setFreeze w
  | .dbgsel => { s with dbgsel := w.setWidth 8 }
  | .devid => { s with devid := w.setWidth 10 }
  | .tinvarg => { s with tinvarg := w &&& 0xFFFFFFFF07FFFFFF }
  | .dpl b t => { s with dpl := sset 0 s.dpl (4 * b.toNat + t.toNat) (w &&& 0xFFFFFF0FFFE00000) }
  | .flr t sch => s.setRing t.toNat sch.toNat ((s.ring t.toNat sch.toNat).write v)
  | .route d => { s with routes := sset 31 s.routes d.toNat (w.setWidth 5) }
  | .exportEntry e => { s with exports := sset 0 s.exports e.toNat (v &&& exportMask) }
  | .dbgbp k c i => s.upCore k.toNat fun x => x.upCl c fun y => { y with dbgbp := sset 0 y.dbgbp i.toNat (w &&& 0x8000FFFFFFFFFFFF) }
  | .rtag b k => { s with rtag := sset 0 s.rtag (16 * b.toNat + k.toNat) w }
  | .lctl l => if l.toNat > 28 then s else
      s.setLink l.toNat { s.link l.toNat with thresh := .ofNat 16 (bits w.toNat 31 16), shared := decide (24 ≤ l.toNat && l.toNat < 28) && w.getLsbD 32 }
  | .elbase => { s with elog := { s.elog with base := w &&& 0xFFFFFFFFFF000 } }
  | .elcfg => { s with elog := { s.elog with cfg := w &&& 0x800000000000000F } }
  | .eltail => { s with elog := { s.elog with tail := w.setWidth 32 } }

/-- REGISTER_WRITE: R7. -/
def execRegisterWrite (reg : RegName) (val : BitVec 128) (s : State) : Out := .next (s.writeReg reg val)

end Sys2Proof.Machine
end

