-- ==== Sys2Proof/Machine/Power.lean ====
section
/-! DEFINITION. The power manager: samples, the steps of the arithmetic clock, the cap, the alarm and the thermal trip (R20 to R23). -/

namespace Sys2Proof.Machine

open Sys2Proof

/-- The cap at reset in watts, above which it cannot be raised (R20). -/
def capMax : Nat := 3200

/-- Samples in 10 ms (R20). -/
def samples10ms : Nat := 100

/-- A move of the clock step: the clock stops and CHANGES counts (R20, R21). Both counts of samples start again at every move, which the manual
    does not say (log 73; DESIGN CHOICE). -/
def Power.moveTo (p : Power) (step : BitVec 4) : Power :=
  { p with step := step, stopped := true, above := 0, below := 0,
           changes := if p.changes.toNat == 2 ^ 32 - 1 then p.changes else p.changes + 1 }

/-- The counts of consecutive samples above the cap, and of those below 90 % of it with every die below 90 °C (R20, R23). -/
def Power.count (p : Power) (watts maxTemp : Nat) : Power :=
  { p with above := if watts > p.cap then (if p.above < samples10ms then p.above + 1 else p.above) else 0,
           below := if watts * 10 < p.cap * 9 && maxTemp < 90 then p.below + 1 else 0 }

/-- One sample: the step moves by the rules of R20. -/
def Power.sample (p : Power) (watts maxTemp : Nat) : Power :=
  let q := p.count watts maxTemp
  let twice := q.above ≥ 2
  if twice || maxTemp > 95 then
    if q.step.toNat < 6 then { (q.moveTo (q.step + 1)) with cause := if twice then (if q.capLowered then 3 else 1) else 2 } else q
  else if q.below ≥ samples10ms && q.step != 0 then q.moveTo (q.step - 1)
  else q

/-- POWER_SAMPLE: R20. -/
def execPowerSample (watts maxTemp : Nat) (s : State) : Out := .next { s with power := s.power.sample watts maxTemp }

/-- STEP_CHANGE_DONE: the arithmetic clock runs again (R20). -/
def execStepChangeDone (s : State) : Out := .next { s with power := { s.power with stopped := false } }

/-- POWER_CAP_WRITE: a value above 3,200 W is not taken (R20). -/
def execPowerCapWrite (watts : Nat) (s : State) : Out :=
  .next (if watts > capMax then s else { s with power := { s.power with cap := watts, capLowered := decide (watts < capMax) } })

/-- POWER_OVERCAP_ALARM: after 10 ms above the cap at step 6, a power record and a signal to firmware, once (R23). -/
def execPowerOvercapAlarm (s : State) : Out :=
  .next (if s.power.step == 6 && s.power.above == samples10ms then
      let s := s.logError 2 0 unitMgmt none 0 []
      { s with power := { s.power with above := samples10ms + 1 }, fwSignals := s.fwSignals + 1 }
    else s)

/-- THERMAL_TRIP: the module is held in reset (R23). -/
def execThermalTrip (s : State) : Out := .next { s with power := { s.power with tripped := true } }

end Sys2Proof.Machine
end

