-- ==== Sys2Proof/Machine/Sha.lean ====
section
/-! DEFINITION. SHA-256 over bytes, which measurements use (R388). The function is that of the published standard the manual names. -/

namespace Sys2Proof.Machine

open Sys2Proof

/-- A number from 2 on with no smaller divisor from 2 on. -/
def isPrime (n : Nat) : Bool := decide (2 ≤ n) && ((List.range n).drop 2).all fun d => n % d != 0

/-- The first 64 primes: those below 312. -/
def shaPrimes : List Nat := (List.range 312).filter isPrime

/-- The largest number of at most `j` bits whose `e`-th power does not exceed `n`, found bit by bit above `r`. -/
def rootFrom (e n : Nat) : (j r : Nat) → Nat
  | 0, r => r
  | j + 1, r => rootFrom e n j (if (r + 2 ^ j) ^ e ≤ n then r + 2 ^ j else r)

/-- The first 32 bits of the fraction of an `e`-th root. -/
def rootBits (e p : Nat) : BitVec 32 := .ofNat 32 (rootFrom e (p * 2 ^ (32 * e)) 37 0)

/-- The round constants: of the cube roots of the first 64 primes. -/
def shaRoundConst : List (BitVec 32) := shaPrimes.map (rootBits 3)

/-- The initial hash words: of the square roots of the first eight primes. -/
def shaInit : List (BitVec 32) := (shaPrimes.take 8).map (rootBits 2)

/-- The exclusive or of a word's rotations to the right by these counts. -/
def turns (counts : List Nat) (x : BitVec 32) : BitVec 32 := counts.foldl (fun y n => y ^^^ x.rotateRight n) 0

/-- Where a bit of the first word is set, the second word's bit, elsewhere the third's. -/
def pick (sel yes no : BitVec 32) : BitVec 32 := no ^^^ (sel &&& (yes ^^^ no))

/-- The bits that at least two of three words have set. -/
def twoOf (x y z : BitVec 32) : BitVec 32 := pick (x ^^^ y) z x

/-- Words of 32 bits from bytes, most significant byte first. -/
def beWords : Nat → List Byte → List (BitVec 32)
  | 0, _ => []
  | n + 1, bs => (bs.getD 0 0 ++ bs.getD 1 0 ++ bs.getD 2 0 ++ bs.getD 3 0) :: beWords n (bs.drop 4)

/-- The message schedule, newest word first: `n` words more. -/
def shaExpand : Nat → List (BitVec 32) → List (BitVec 32)
  | 0, w => w
  | n + 1, w =>
    let old := w.getD 14 0
    let near := w.getD 1 0
    let mixed := (turns [7, 18] old ^^^ old >>> 3) + (turns [17, 19] near ^^^ near >>> 10)
    shaExpand n ((mixed + w.getD 15 0 + w.getD 6 0) :: w)

/-- One round on the eight working words. -/
def shaRound (v : List (BitVec 32)) (kw : BitVec 32) : List (BitVec 32) :=
  match v with
  | [a, b, c, d, e, f, g, h] =>
    let step := kw + h + pick e f g + turns [6, 11, 25] e
    [step + turns [2, 13, 22] a + twoOf a b c, a, b, c, step + d, e, f, g]
  | _ => v

/-- One block of 64 bytes. -/
def shaBlock (h : List (BitVec 32)) (bs : List Byte) : List (BitVec 32) :=
  let w := (shaExpand 48 (beWords 16 bs).reverse).reverse
  let r := (shaRoundConst.zip w).foldl (fun v e => shaRound v (e.1 + e.2)) h
  (h.zip r).map fun e => e.1 + e.2

/-- The message with its padding. -/
def shaPad (bs : List Byte) : List Byte :=
  let n := bs.length
  bs ++ [0x80] ++ List.replicate ((119 - n % 64) % 64) 0 ++ (toBytes 8 (8 * n)).reverse

/-- `n` blocks. -/
def shaBlocks : Nat → List (BitVec 32) → List Byte → List (BitVec 32)
  | 0, h, _ => h
  | n + 1, h, bs => shaBlocks n (shaBlock h (bs.take 64)) (bs.drop 64)

/-- SHA-256: the 32 bytes of the digest (R388). -/
def sha256 (bs : List Byte) : List Byte :=
  let p := shaPad bs
  (shaBlocks (p.length / 64) shaInit p).flatMap fun w => (toBytes 4 w.toNat).reverse

/-! RSASSA-PSS over SHA-256 with a 32-byte salt, of a 3,072-bit modulus (R389). -/

/-- The number that bytes hold, most significant first. -/
def beNat (bs : List Byte) : Nat := ofBytes bs.reverse

/-- `n` bytes of a number, most significant first. -/
def beBytes (n v : Nat) : List Byte := (toBytes n v).reverse

/-- The mask generation function MGF1 with SHA-256: `n` bytes. -/
def mgf1 (seed : List Byte) (n : Nat) : List Byte :=
  ((List.range ((n + 31) / 32)).flatMap fun i => sha256 (seed ++ beBytes 4 i)).take n

/-- The encoded message of 384 bytes, its top bit clear. -/
def pssEncode (message salt : List Byte) : List Byte :=
  let hash := sha256 (List.replicate 8 0 ++ sha256 message ++ salt)
  let block := List.replicate 318 0 ++ [0x01] ++ salt
  let masked := (block.zip (mgf1 hash 351)).map fun e => e.1 ^^^ e.2
  (masked.take 1).map (· &&& 0x7F) ++ masked.drop 1 ++ hash ++ [0xBC]

/-- b to the number of the `k` low bits of `e`, modulo `n`. -/
def powMod (n e : Nat) : Nat → Nat → Nat
  | 0, _ => 1 % n
  | k + 1, b => (if e.testBit 0 then b else 1) * powMod n (e / 2) k (b * b % n) % n

/-- The signature of a message under a salt: 384 bytes. -/
def rsaSign (modulus : Nat) (exponent : BitVec 3072) (message salt : List Byte) : List Byte :=
  beBytes 384 (powMod modulus exponent.toNat 3072 (beNat (pssEncode message salt)))

end Sys2Proof.Machine
end

