-- ==== Sys2Proof/Machine/Integrity.lean ====
section
/-! DEFINITION. Key domains, turnover, measurement and quotes, row-remap tables, and the resets (R367, R368, R384 to R390). -/

namespace Sys2Proof.Machine

open Sys2Proof

/-! Key domains (R384). -/

/-- A key domain. -/
def State.kd (s : State) (n : Nat) : Kd := sget Kd.reset s.kds n

/-- A key domain replaced. -/
def State.setKd (s : State) (n : Nat) (k : Kd) : State := { s with kds := sset Kd.reset s.kds n k }

/-- A key command refused (R384). -/
def State.kdRefused (s : State) (n op : Nat) : State := s.logError 6 2 unitMgmt (some (0, n)) 0 [BitVec.ofNat 8 op]

/-- KD_ACTIVATE: R384. -/
def execKdActivate (kd : BitVec 8) (s : State) : Out :=
  let n := kd.toNat
  .next (if (s.kd n).st == .free && !s.turnFailed then { (s.setKd n { st := .active, key0 := some s.nextKey, key1 := none, cur := false }) with nextKey := s.nextKey + 1 }
    else s.kdRefused n 0)

/-- KD_ROTATE: R384. -/
def execKdRotate (kd : BitVec 8) (s : State) : Out :=
  let n := kd.toNat
  let k := s.kd n
  .next (if k.st == .active && !s.turnFailed then
      { (s.setKd n { st := .rotating, key0 := if k.cur then some s.nextKey else k.key0, key1 := if k.cur then k.key1 else some s.nextKey, cur := !k.cur }) with
          nextKey := s.nextKey + 1 }
    else s.kdRefused n 1)

/-- A domain's keys are erased (R384). -/
def State.retireKd (s : State) (n : Nat) : State := s.setKd n { st := .retired, key0 := none, key1 := none, cur := false }

/-- KD_RETIRE: R384. -/
def execKdRetire (kd : BitVec 8) (s : State) : Out :=
  let n := kd.toNat
  .next (match (s.kd n).st with
    | .active | .rotating => if s.turnFailed then s.kdRefused n 2 else s.retireKd n
    | .free | .retired => s.kdRefused n 2)

/-- KD_FREE: R384. -/
def execKdFree (kd : BitVec 8) (s : State) : Out :=
  let n := kd.toNat
  .next (if (s.kd n).st == .retired && !s.turnFailed then s.setKd n Kd.reset else s.kdRefused n 3)

/-! Measurement and quotes (R388, R389). -/

/-- A measurement slot: its first byte is the lowest. -/
def State.slot (s : State) (i : Nat) : BitVec 256 := sget 0 s.slots i

/-- A slot extended with a digest (R388). -/
def State.extend (s : State) (i : Nat) (m : BitVec 256) : State :=
  { s with slots := sset 0 s.slots i (.ofNat 256 (ofBytes (sha256 (toBytes 32 (s.slot i).toNat ++ toBytes 32 m.toNat)))) }

/-- MEASURE_EXTEND: firmware extends slots 8 to 15 and no other (R388). -/
def execMeasureExtend (slot : BitVec 4) (digest : BitVec 256) (s : State) : Out :=
  .next (if slot.toNat < 8 || s.turnFailed then s.refuse unitMgmt none [slot.setWidth 8] else s.extend slot.toNat digest)

/-- Bytes 0x000 to 0x27F of a quote (R389). -/
def quoteBytes (nonce : BitVec 256) (slots : List (BitVec 256)) (health turnstat devid : Word) : List Byte :=
  toBytes 32 nonce.toNat ++ (slots.flatMap fun m => toBytes 32 m.toNat) ++ toBytes 8 health.toNat ++ toBytes 8 turnstat.toNat
    ++ toBytes 8 devid.toNat ++ List.replicate 72 0

/-- The certificate that the management port answers, which endorses the signing key (R389). -/
def quoteCertificate : List Byte := Config.certificate

/-- The bytes of a signature as a number, the first byte lowest. -/
def quoteSig (bs salt : List Byte) : BitVec 3072 := .ofNat 3072 (ofBytes (rsaSign Config.rsaModulus Config.rsaExponent bs salt))

/-- A quote is signed (R389). -/
def State.sign (s : State) (nonce : BitVec 256) : State :=
  let slots := (List.range 16).map s.slot
  let devid : Word := Config.moduleSerial ++ s.devid
  { s with quote := some { nonce := nonce, slots := slots, health := s.health, turnstat := s.turnstat, devid := devid,
                           sig := quoteSig (quoteBytes nonce slots s.health s.turnstat devid) (toBytes 32 (Config.salt s.seq).toNat) } }

/-- QUOTE_SIGN: R389. -/
def execQuoteSign (nonce : BitVec 256) (s : State) : Out := .next (s.sign nonce)

/-! Turnover (R386, R387). -/

/-- What stands at the heads of a core's queues is performed, cluster by cluster. -/
def State.workHeads (s : State) (k : Nat) : State :=
  Cluster.all.foldl (fun (s : State) c =>
    ((((((((((s.loadReturn k c).acquireDone k c).storePerform k c).atomicPerform k c).reductionPerform k c).dgsealEntry k c).releaseDone k c).signalDeliver
      k c).binitPerform k c).threadArrive k c)) (s.vldgReturn k)

/-- Performances that a store-queue entry takes. -/
def StoreEnt.work (e : StoreEnt) : Nat := match e.kind with | .dgseal _ _ left => left | _ => 1

/-- Performances that a core's queues take at most. -/
def Core.work (k : Core) : Nat :=
  (Cluster.all.map fun c => (k.cl c).loadQ.length + (k.cl c).rets.length + 2 * ((k.cl c).storeQ.map StoreEnt.work).foldl (· + ·) 0).foldl (· + ·) 0

/-- Everything outstanding on a core completes. -/
def State.drainCore (s : State) (k : Nat) : State := (List.range (s.core k).work).foldl (fun (s : State) _ => s.workHeads k) s

/-- Step 1 of R386 for one context: sealed, its outstanding accesses completed and what is left of its cores' queues discarded (R305): every context
    that is not FREE is sealed in the same step. -/
def State.sealNow (s : State) (n : Nat) : State :=
  let s := s.sealStart n
  let l := s.coresOf n
  let s := l.foldl State.drainCore s
  let s := (s.ctx n).coreList.foldl (fun (s : State) k => s.upCore k fun c =>
    { (c.upAll fun _ x => { x with loadQ := [], storeQ := [], rets := [] }) with tq := [], nests := [], xq := [] }) s
  s.contextSeal n

/-- A conversion under way of a way to storage is brought to its end (R93, R386). -/
def State.finishWays (s : State) : State :=
  s.ways.foldl (fun (s : State) e => match e.2 with
    | .flushing | .zeroS => (s.zeroWay (e.1 / 16) (e.1 % 16)).setWay (e.1 / 16) (e.1 % 16) .storage
    | .cache | .storage | .zeroC => s) s

/-- Every dirty line of every L2 and slice goes home, and the digest records to their planes (R386). -/
def State.writeBack (s : State) : State :=
  let s := (List.range 8).foldl (fun (s : State) d => (linesOf ((s.l2Of d).map (·.1))).foldl (fun (s : State) l => s.l2Back d l) s) s
  (s.digests.map (·.1)).foldl State.evictRec s

/-- Step 3 of R386: dirty lines go home, every way is CACHE and its storage zero, and on-package state is zeroed. The crossbars and the
    breakpoints are not named. -/
def State.scrub (s : State) : State :=
  let s := s.finishWays.writeBack
  let lo := 2 ^ 42
  let hi := 2 ^ 42 + 16 * 2 ^ 29
  { s with
      ways := [], mem := seraseRange s.mem lo hi, lines := seraseRange s.lines (lo / 128) (hi / 128), bad := seraseRange s.bad (lo / 128) (hi / 128),
      weak := seraseRange s.weak (lo / 128) (hi / 128), slices := [], digests := [],
      cores := s.cores.map fun (e : Nat × Core) => (e.1, { (Core.reset.upAll fun c x => { x with dbgbp := (e.2.cl c).dbgbp }) with xb := e.2.xb }),
      l2 := [], walkCache := [], dicts := [], rtag := [], rdemote := [], exports := [], remoteFailed := [], barriers := [], arrivals := [], dseed := 0 }

/-- Step 4 of R386: every array of every core is erased. -/
def State.eraseAll (s : State) : State :=
  (List.range 256).foldl (fun (s : State) k => s.upCore k fun c =>
    (List.range 16).foldl (fun c x => c.setArray x { (c.array x).erase with owner := none }) c) s

/-- Step 5 of R386: M8 to M15 are zeroed and extended with the runtime firmware images (R388). -/
def State.remeasure (s : State) : State :=
  let s := { s with slots := s.slots.filter fun e => e.1 < 8 }
  (List.range 8).foldl (fun (s : State) i => s.extend (8 + i) (Config.imageDigest s.seq (8 + i))) s

/-- TURNSTAT with its step and failed step (R386). -/
def turnWord (w : Word) (cur failed : Nat) : Word := .ofNat 64 (pack [(4, cur), (4, failed), (24, 0), (32, bits w.toNat 63 32)])

/-- The turnover count rises with the last step, so that no quote shows it with earlier measurements (R386). -/
def countUp (w : Word) : Word := w + 0x100000000

/-- HEALTH of a free value: its fields alone (R387). -/
def healthOf (v : Word) : Word := v &&& 0xFFFFFFFF0000FFFF

/-- A core has an array that is not ERASED, or, for the health test, one with errors counted (R387, test 3). -/
def Core.arraysFail (c : Core) (errors : Bool) : Bool :=
  (List.range 16).any fun x => (c.array x).st != .erased || (errors && (c.array x).errc != 0)

/-- Cores with an array that fails. -/
def State.coresFail (s : State) (errors : Bool) : Nat := ((List.range 256).filter fun k => (s.core k).arraysFail errors).length

/-- The health test as the arrays answer it: bit 3, and the cores with a failure. The model's datapaths answer tests 0 to 2 as R387 expects, and
    a failure of the hardware comes with the step that fails (log 53). -/
def State.arrayHealth (s : State) : Word := let n := s.coresFail true; if n == 0 then 0 else .ofNat 64 (2 ^ 3 + n * 2 ^ 32)

/-- One step of R386, and whether it succeeded: step 4 checks STATE 1, and step 6 reports HEALTH. -/
def State.turnStep (s : State) (c : Turn) (i : Nat) : State × Bool :=
  match i with
  | 1 => ((List.range 64).foldl (fun (s : State) n => if c.ctxMask.getLsbD n && (s.ctx n).st != .free then s.sealNow n else s) s, true)
  | 2 => ((List.range 256).foldl (fun (s : State) n =>
      if c.kdMask.getLsbD n then (match (s.kd n).st with | .active | .rotating => s.retireKd n | .free | .retired => s) else s) s, true)
  | 3 => (s.scrub, true)
  | 4 => let s := s.eraseAll; (s, s.coresFail false == 0)
  | 5 => (s.remeasure, true)
  | 6 => let h := s.arrayHealth; ({ s with health := h }, h == 0)
  | _ => (({ s with turnstat := countUp s.turnstat }).sign c.nonce, true)

/-- The turnover stops at a step that fails, with a quote that carries the failure (R386). -/
def State.turnFail (s : State) (c : Turn) (i : Nat) : State := ({ s with turnstat := turnWord s.turnstat i i, turn := none }).sign c.nonce

/-- The current step of a turnover is performed, and the next one is current (R386). -/
def State.turnNext (s : State) : State :=
  match s.turn with
  | none => s
  | some c =>
    let i := bits s.turnstat.toNat 3 0
    if c.fail.toNat == i then (if i == 6 then { s with health := healthOf (Config.healthResult s.seq) } else s).turnFail c i
    else
      let (t, ok) := s.turnStep c i
      if !ok then t.turnFail c i
      else if i ≥ 7 then { t with turnstat := turnWord t.turnstat 0 0, turn := none }
      else { t with turnstat := turnWord t.turnstat (i + 1) 0 }

/-- A turnover begins with step 1. It is refused unless every context that is not FREE is named, and while one is under way or after a step that
    failed (R386; log 53). -/
def State.turnover (s : State) (ctxMask : BitVec 64) (kdMask : BitVec 256) (nonce : BitVec 256) (fail : BitVec 4) : State :=
  if s.turn.isSome || s.turnFailed || (List.range 64).any (fun n => (s.ctx n).st != .free && !ctxMask.getLsbD n) then s.refuse unitMgmt none [4]
  else { s with turnstat := turnWord s.turnstat 1 0, turn := some { ctxMask := ctxMask, kdMask := kdMask, nonce := nonce, fail := fail } }

/-- TURNOVER: R386. -/
def execTurnover (ctxMask : BitVec 64) (kdMask : BitVec 256) (nonce : BitVec 256) (fail : Option (BitVec 4)) (s : State) : Out :=
  .next (s.turnover ctxMask kdMask nonce (fail.getD 0))

/-! Row-remap tables and refreshes (R367, R368). -/

/-- The channel number of a stack's channel (R355). -/
def channelNo (stack : BitVec 4) (channel : BitVec 5) : Nat := 32 * stack.toNat + channel.toNat

/-- A channel's table replaced. -/
def State.setRemap (s : State) (g : Nat) (r : Remap) : State := { s with remap := sset Remap.reset s.remap g r }

/-- REMAP_TABLE_ERROR: the channel's accesses are held for the reload, or the channel is fenced with a record and no row is remapped (R367). -/
def execRemapTableError (stack : BitVec 4) (channel : BitVec 5) (copyOk : Bool) (s : State) : Out :=
  let g := channelNo stack channel
  .next (if copyOk then s.setRemap g { s.remapOf g with held := true }
    else ((s.setRemap g { rows := [], held := false, fenced := true }).logError 1 1 (unitBase stack.toNat) none 0 (toBytes 8 g)).checkMotions)

/-- REMAP_TABLE_RELOAD_DONE: the table is the copy's, the channel resumes, and a record is written (R367). -/
def execRemapTableReloadDone (stack : BitVec 4) (channel : BitVec 5) (s : State) : Out :=
  let g := channelNo stack channel
  .next (if (s.remapOf g).held then (s.setRemap g { s.remapOf g with held := false }).logError 0 0 (unitBase stack.toNat) none 0 (toBytes 8 g) else s)

/-- ROW_REMAP_TABLE_WRITE: firmware sends a failed row to a spare and ends the fencing of a channel (R367). -/
def execRowRemapTableWrite (stack : BitVec 4) (channel : BitVec 5) (row spare : BitVec 16) (s : State) : Out :=
  let g := channelNo stack channel
  let r := s.remapOf g
  .next (s.setRemap g { r with rows := sput r.rows row.toNat spare, fenced := false })

/-- A correctable error in a channel's table: corrected and counted by its base die (R367, R382). -/
def State.tableError (s : State) (g : Nat) : State := s.corrected (g / 32) (2 ^ 62 + g) none 0

/-- REFRESH_POSTPONED: only the count changes (R368). -/
def execRefreshPostponed (stack : BitVec 4) (s : State) : Out :=
  .next { s with refpost := sset 0 s.refpost stack.toNat (sget 0 s.refpost stack.toNat + 1) }

/-! Resets (R390). -/

/-- A crossbar array after a cold reset: UNKNOWN; its cells are not changed (R224). -/
def XArr.cold (a : XArr) : XArr := { XArr.reset with cells := a.cells }

/-- What a cold reset starts from: the state after reset, with the memories, the cells of the arrays, the row-remap tables and the count of keys
    ever made as they were; what on-package SRAM held is gone (R23, R390; log 43). -/
def State.powerOn (s : State) : State :=
  { State.reset with
      seq := s.seq, agenda := s.agenda, mem := s.mem, hostMem := s.hostMem, lines := s.lines, bad := s.bad, weak := s.weak,
      nextKey := s.nextKey, remap := s.remap,
      cores := s.cores.map fun (e : Nat × Core) => (e.1, { Core.reset with xb := e.2.xb.map fun (x : Nat × XArr) => (x.1, x.2.cold) }) }

/-- Step 2 of R390 for the PCIe link: UP at full width, DEGRADED with lanes lost, DOWN with a record when it does not train (R369; log 43). -/
def State.trainHost (s : State) : State :=
  let lanes := (Config.pcieLanes s.seq).toNat
  if lanes == 0 then (s.setLink 28 Link.reset).linkLog 28
  else s.setLink 28 { Link.reset with st := if lanes ≥ 16 then .up else .degraded, lanes := .ofNat 5 (min lanes 16) }

/-- The error-log ring that start-up firmware sets, so that its records are written (R380, R390; log 43). -/
def startElog : Elog :=
  { base := Config.startElbase &&& 0xFFFFFFFFFF000, cfg := 0x8000000000000000 + Config.startLogsize.setWidth 64, head := 0, tail := 0, lost := 0 }

/-- Steps 1 to 5 of R390: M0 to M7 are measured, the PCIe link is trained, memory is tested, a key domain is made for the host, and the trip and
    start records are written. -/
def State.start (s : State) : State :=
  let t := (List.range 8).foldl (fun (t : State) i => t.extend i (Config.imageDigest t.seq i)) s.powerOn
  let t := ({ t with elog := startElog }).trainHost
  let t := { t with health := healthOf (Config.healthResult t.seq) }
  let kd := Config.hostDomain
  let t := { (t.setKd kd.toNat { st := .active, key0 := some t.nextKey, key1 := none, cur := false }) with nextKey := t.nextKey + 1, hostKd := some kd }
  let t := if s.power.tripped then t.logError 10 3 unitMgmt none 0 [] else t
  { (t.logError 9 0 unitMgmt none 0 (toBytes 8 t.health.toNat)) with started := true }

/-- COLD_RESET: R390. -/
def execColdReset (s : State) : Out := .next s.start

/-- Every key domain but the host's. -/
def State.otherKds (s : State) : BitVec 256 :=
  match s.hostKd with
  | some k => BitVec.allOnes 256 &&& ~~~(BitVec.ofNat 256 (2 ^ k.toNat))
  | none => BitVec.allOnes 256

/-- FUNCTION_LEVEL_RESET: a turnover of every context that is not FREE and of every key domain but the host's (R390). -/
def execFunctionLevelReset (s : State) : Out :=
  .next (s.turnover (BitVec.allOnes 64) s.otherKds (Config.freeNonce s.seq) (Config.turnFails s.seq))

end Sys2Proof.Machine
end

