-- ==== Sys2Proof/Machine/Bar0.lean ====
section
/-! DEFINITION. BAR 0: the offsets of the host's registers, what a read of one answers and what a write of one starts (R369, R374, R390). A
    register that starts a command is written through the event of that command. -/

namespace Sys2Proof.Machine

open Sys2Proof

/-- The row of a table of registers in which an offset lies: base, bytes a row, and rows. -/
def rowAt (a base stride rows : Nat) : Option Nat := if base ≤ a && decide (a < base + stride * rows) then some ((a - base) / stride) else none

/-- The upper half of a 16-byte register lies at an offset. -/
def isUpper (a : Nat) : Bool := a / 8 % 2 == 1

/-- SWMODE of a slice (R94). -/
def State.swmode (s : State) (b : Nat) : Word :=
  let mask (p : WaySt → Bool) : Nat := pack ((List.range 16).map fun w => (1, b2n (p (s.way b w))))
  .ofNat 64 (mask (fun w => w == .flushing || w == .zeroS || w == .storage) + 2 ^ 16 * mask fun w => w == .flushing || w == .zeroS || w == .zeroC)

/-- DICTSTAT of a slot (R101). -/
def Dict.stat (d : Dict) : Word :=
  .ofNat 64 (pack [(2, match d.st with | .empty => 0 | .loading => 1 | .armed => 2 | .retiring => 3), (30, 0), (32, d.count.toNat)])

/-- DBGCTL: FREEZE of every context (R374). -/
def State.dbgctl (s : State) : Word := .ofNat 64 (pack ((List.range 64).map fun n => (1, b2n (s.ctx n).freeze)))

/-- TINVCMD as it reads, with DONE (R352). -/
def State.tinvReg (s : State) : Word := s.tinvcmd ||| .ofNat 64 (b2n s.tinvDone)

/-- A free-location ring's 16 bytes (R364). -/
def Flr.bits' (r : Flr) : BitVec 128 := r.tail ++ r.head ++ r.cfg

/-- LCTL of a link; OP reads 0 (R370). -/
def Link.ctl (x : Link) : Word := .ofNat 64 (pack [(16, 0), (16, x.thresh.toNat), (1, b2n x.shared), (15, 0), (16, x.cap.toNat)])

/-- A queue's state as QSTAT codes it (R306). -/
def QSt.code : QSt → Nat
  | .disabled => 0 | .idle => 1 | .active => 2 | .blocked => 3 | .draining => 4 | .error => 5

/-- A queue's register `i` (R306). -/
def Queue.reg (q : Queue) (i : Nat) : Word :=
  match i with
  | 0 => q.qbase
  | 1 => q.qcfg
  | 2 => q.tail.setWidth 64
  | 3 => q.head.setWidth 64
  | 4 => q.cseq.setWidth 64
  | 5 => .ofNat 64 (pack [(3, q.st.code), (21, 0), (8, q.err.toNat), (32, q.eidx.toNat)])
  | _ => 0

/-- Half of a 16-byte register. -/
def half (a : Nat) (v : BitVec 128) : Word := if isUpper a then (v >>> 64).setWidth 64 else v.setWidth 64

/-- A 16-byte register with one half replaced. -/
def withHalf (a : Nat) (old : BitVec 128) (v : Word) : BitVec 128 := if isUpper a then v ++ old.setWidth 64 else (old >>> 64).setWidth 64 ++ v

/-- The cluster of a number. -/
def clusterNo (n : Nat) : Cluster := match n with | 0 => .A | 1 => .V | 2 => .T | _ => .S

/-- The registers of one offset each (R374). -/
def State.bar0Low (s : State) (a : Nat) : Word :=
  match a with
  | 0x00 => s.devid.setWidth 64
  | 0x08 => s.dseed
  | 0x10 => s.fltbase
  | 0x18 => s.fltlim
  | 0x20 => s.ctxcmd
  | 0x28 => s.reccmd
  | 0x30 => s.recstat
  | 0x38 => s.tinvarg
  | 0x40 => s.tinvReg
  | 0x48 => s.frmcmd
  | 0x50 => s.frmstat.setWidth 64
  | 0x58 => s.dictcmd
  | 0x60 => s.dbgctl
  | 0x68 => s.dbgsel.setWidth 64
  | 0x70 => s.win
  | _ => 0

/-- What the 8 bytes at an offset read as; unlisted offsets read as zero (R374). -/
def State.bar0Get (s : State) (a : Nat) : Word :=
  ([(rowAt a 0x1000 8 64).map fun n => (s.ctx n).stat,
    (rowAt a 0x1200 8 64).map fun n => (s.dict n).stat,
    (rowAt a 0x1400 8 64).map fun n => (s.ctx n).rpool,
    (rowAt a 0x1600 16 64).map fun n => if isUpper a then (s.ctx n).frTail.setWidth 64 else (s.ctx n).frHead.setWidth 64,
    (rowAt a 0x1A00 16 64).map fun n => if isUpper a then (s.ctx n).fqTail.setWidth 64 else (s.ctx n).fqHead.setWidth 64,
    (rowAt a 0x2000 8 16).map s.swmode,
    (rowAt a 0x2080 8 16).map fun b => sget 0 s.refpost b,
    (rowAt a 0x2100 24 16).map fun b => s.dplOf b ((a - 0x2100) % 24 / 8),
    (rowAt a 0x2400 16 24).map fun r => half a (s.ring (r / 8) (r % 8)).bits',
    (rowAt a 0x10000 8 4096).map fun r => sget 0 ((s.core (r / 16)).cl (clusterNo (r / 4 % 4))).dbgbp (r % 4),
    (rowAt a 0x20000 8 1792).map fun b => sget 0 s.barriers (if b < 1536 then b else 512 + b),
    (rowAt a 0x24000 8 768).map fun b => sget 0 s.bcfg (1024 + (if b < 512 then b else 512 + b)),
    (rowAt a 0x26000 8 29).map fun l => (s.link l).stat,
    (rowAt a 0x26100 8 29).map fun l => (s.link l).ctl,
    (rowAt a 0x28000 8 1024).map fun v => (sget 31 s.routes v).setWidth 64,
    (rowAt a 0x30000 16 4096).map fun e => half a (sget 0 s.exports e),
    (rowAt a 0x400000 64 16384).map fun q => (s.queue q).reg (a % 64 / 8),
    (rowAt a 0x800000 0x100000 1).map fun _ => .ofNat 64 (ofBytes (((registerImage (s.core s.dbgsel.toNat)).drop (a - 0x800000)).take 8)),
    (rowAt a 0xF00000 16 256).map fun v => half a (sget 0 s.msix v),
    (rowAt a 0xF01000 8 4).map fun i => (s.irq >>> (64 * i)).setWidth 64].findSome? id).getD (s.bar0Low a)

/-- The meaning of the event that a write of one of the command registers is (R101, R287, R318, R352, R354). -/
def lowCmd (a : Nat) (v : Word) : Option (State → Out) :=
  let n := v.toNat
  match a with
  | 0x18 => some (execFltlimWrite v)
  | 0x20 =>
    let c : CtxId := .ofNat 6 n
    some (match bits n 7 6 with | 0 => execCtxLoad c (.ofNat 52 (bits n 51 8 * 256)) | 1 => execCtxPreempt c | 2 => execCtxRestore c | _ => execCtxSeal c)
  | 0x28 =>
    let c : CtxId := .ofNat 6 (bits n 29 24)
    let r : BitVec 16 := .ofNat 16 n
    some (match bits n 31 30 with | 0 => execRecArm c r | 1 => execRecBlank c r | 2 => execRecQuery c r | _ => execReccmdReserved)
  | 0x40 =>
    let asid : BitVec 16 := .ofNat 16 (bits n 61 46)
    let gen : BitVec 8 := .ofNat 8 (bits n 45 38)
    some (match bits n 63 62 with | 0 => execTinvRange asid gen | 1 => execTinvAsidGen asid gen | 2 => execTinvAsidAllGen asid | _ => execTinvcmdReserved)
  | 0x48 =>
    let f : FrameId := .ofNat 28 n
    let loc : BitVec 31 := .ofNat 31 (bits n 58 28)
    some (match bits n 63 62 with | 0 => execFrameMap f loc (.ofNat 3 (bits n 61 59)) | 1 => execFrameUnmap f | 2 => execFrameMigrate f loc | _ => execFrameAbort f)
  | 0x58 =>
    let d : BitVec 6 := .ofNat 6 n
    some (match bits n 7 6 with | 0 => execDictLoad d (.ofNat 52 (bits n 51 8 * 256)) | 1 => execDictRetire d | 2 => execDictPin d | _ => execDictUnpin d)
  | _ => none

/-- The register of no behaviour of its own that an offset names, as the host may write it (R7, R374). -/
def plainReg (a : Nat) : Option RegName :=
  match a with
  | 0x08 => some .dseed
  | 0x10 => some .fltbase
  | 0x38 => some .tinvarg
  | 0x60 => some .dbgctl
  | 0x68 => some .dbgsel
  | 0x70 => some .win
  | _ =>
    [(rowAt a 0x2100 8 48).map fun r => RegName.dpl (.ofNat 4 (r / 3)) (.ofNat 2 (r % 3)),
     (rowAt a 0x10000 8 4096).map fun r => .dbgbp (.ofNat 8 (r / 16)) (clusterNo (r / 4 % 4)) (.ofNat 2 r),
     (rowAt a 0x28000 8 1024).map fun v => .route (.ofNat 10 v)].findSome? id

/-- The meaning of the event that a write of 8 bytes at an offset is, if it is one (R374). A queue is drained by EN := 0 (R310). -/
def State.bar0Cmd (s : State) (a : Nat) (v : Word) : Option (State → Out) :=
  match plainReg a with
  | some r => some (execRegisterWrite r (v.setWidth 128))
  | none =>
    ([lowCmd a v,
      (rowAt a 0x1400 8 64).map fun n => execRpoolWrite (.ofNat 6 n) v,
      (rowAt a 0x1600 16 64).bind fun n => if isUpper a then some (execFrtailWrite (.ofNat 6 n) (v.setWidth 32)) else none,
      (rowAt a 0x1A00 16 64).bind fun n => if isUpper a then some (execFqtailWrite (.ofNat 6 n) (v.setWidth 32)) else none,
      (rowAt a 0x2400 16 24).map fun r => execRegisterWrite (.flr (.ofNat 2 (r / 8)) (.ofNat 3 r)) (withHalf a (s.ring (r / 8) (r % 8)).bits' v),
      (rowAt a 0x24000 8 512).map fun b => execBcfgWrite false (.ofNat 9 b) v,
      (rowAt a 0x25000 8 256).map fun b => execBcfgWrite true (.ofNat 9 b) v,
      (rowAt a 0x30000 16 4096).map fun e => execRegisterWrite (.exportEntry (.ofNat 12 e)) (withHalf a (sget 0 s.exports e) v),
      (rowAt a 0x400000 64 16384).bind fun q => match a % 64 / 8 with
        | 0 => some (execQbaseWrite (.ofNat 14 q) false v)
        | 1 => if v.getLsbD 63 then some (execQueueEnable (.ofNat 14 q) v)
          else if (s.queue q).st == .disabled then some (execQbaseWrite (.ofNat 14 q) true v) else some (·.qcfgClear (.ofNat 14 q) v)
        | 2 => some (execQueueTailWrite (.ofNat 14 q) (v.setWidth 32))
        | _ => none,
      (rowAt a 0x800000 0x100000 1).map fun _ => execDebugWindowAccess true (.ofNat 24 (a - 0x800000)) v].findSome? id)

/-- BAR 0 answers, and the link carries traffic (R369, R386, R390). -/
def State.barOpen (s : State) : Bool := s.answers && s.hostUp

/-- A read of 8 bytes of BAR 0: all ones until the start record is written (R374, R390). -/
def State.bar0Read (s : State) (off : BitVec 24) : State :=
  if !s.answers then { s with hostRead := List.replicate 8 0xFF, hostReadPoisoned := false }
  else if !s.hostUp then s
  else { s with hostRead := toBytes 8 (s.bar0Get (off.toNat / 8 * 8)).toNat, hostReadPoisoned := false }

/-- A command register holds what the host last wrote, but for its reserved bits (R101, R287, R318, R352, R354). -/
def State.keepCmd (s : State) (a : Nat) (v : Word) : State :=
  match a with
  | 0x20 => { s with ctxcmd := v &&& 0xFFFFFFFFFFFFF }
  | 0x28 => { s with reccmd := v &&& 0xFF00FFFF }
  | 0x40 => { s with tinvcmd := v &&& 0xFFFFFFC000000000 }
  | 0x48 => { s with frmcmd := v }
  | 0x58 => { s with dictcmd := v &&& 0xFFFFFFFFFFFFF }
  | _ => s

/-- A write of 8 bytes of BAR 0: a command, a register, or an entry of the MSI-X table; read-only and unlisted offsets ignore it (R374, R390). -/
def State.bar0Write (s : State) (off : BitVec 24) (v : Word) : Out :=
  let a := off.toNat / 8 * 8
  if !s.barOpen then .next s else
  match s.bar0Cmd a v with
  | some f => (match f s with
    | .next t => .next (t.keepCmd a v)
    | .fault x => .fault x
    | .refused x => .refused x)
  | none => .next (match rowAt a 0xF00000 16 256 with
    | some n => { s with msix := sset 0 s.msix n (withHalf a (sget 0 s.msix n) v) }
    | none => s)

end Sys2Proof.Machine
end

