-- ==== Sys2Proof/Machine/Vector.lean ====
section
/-! DEFINITION. The vector words: lanes, guards and results, arithmetic, compares, conversions, reductions, permutes, moves,
    vector memory and bounded values (R72 to R81, R167 to R193). -/

namespace Sys2Proof.Machine

open Sys2Proof

/-! Lanes and elements (R57, R167). -/

/-- Element `k` of width `w`. -/
def elem (v : VReg) (w k : Nat) : Nat := (v >>> (w * k)).toNat % 2 ^ w

/-- A register from elements of width `w`. -/
def ofElems (w : Nat) (l : List Nat) : VReg := .ofNat 2048 (pack (l.map fun e => (w, e)))

/-- The lane that holds element `k` of width `w`. -/
def laneOf (w k : Nat) : Nat := w * k / 32

/-- The lanes in which the issuing V word executes (R117). -/
def State.active (s : State) (h : Hdr) : Mask := guardMask s.myCl h

/-- Some lane is inactive. -/
def partialMask (m : Mask) : Bool := m != allLanes

/-- Elements `0` to `n - 1` of width `w` computed in the active lanes, with the flags they raise (R61, R167). -/
def mapElems (w n : Nat) (active : Mask) (f : Nat → Nat × Fl) : VReg × Fl :=
  let l := (List.range n).map fun k => if active.getLsbD (laneOf w k) then f k else (0, 0)
  (ofElems w (l.map (·.1)), l.foldl (fun a e => a ||| e.2) 0)

/-- The value of a name. -/
def State.vval (s : State) (n : Nat) : VReg := (s.mine.vname n).val

/-- A name holds a bounded value. -/
def State.isBounded (s : State) (n : Nat) : Bool := (s.mine.vname n).bounded

/-- The port of a result by the parity of its destination (R170). -/
def portBy (lo d : Nat) : Nat := lo + d % 2

/-- An exact result: the bits of `m` of the destination, and the flags (R61, R170). -/
def State.vput (s : State) (lat d : Nat) (m v : VReg) (fl : Fl) (port : Nat) : State :=
  let s := s.deliver lat (.vreg d m v false 0 false (some port))
  if fl == 0 then s else s.deliver lat (.flags fl)

/-- The checks of an exact word: a bounded source, or a part of a bounded destination, is ILLTYPE (R79, R168). -/
def exactCheck (s : State) (i : Instr) (d : Option Nat) (srcs : List Nat) (part : Bool) (go : Eff) : Eff :=
  if srcs.any s.isBounded || (part && (match d with | some d => s.isBounded d | none => false)) then illtypeNow s i else go

/-- A word computed element by element from A and B, of one type (R167, R172). -/
def vmap2 (i : Instr) (h : Hdr) (o : VOps) (lat port0 : Nat) (srcs : List Nat) (f : Nat → Nat × Fl) (s : State) : Eff :=
  let d := o.dn s.myCl
  let act := s.active h
  exactCheck s i (some d) srcs (partialMask act)
    (let r := mapElems (typeWidth o.typ.toNat) (elems o.typ.toNat) act f
     .ok (s.vput lat d (laneBits act) r.1 r.2 (portBy port0 d)))

/-! Integer arithmetic (R172). -/

/-- vshl: wrapping, or clamping when bits that differ from the sign are shifted out (R172). -/
def vshlEl (t : Nat) (sat : Bool) (a b : Nat) : Nat × Fl :=
  let n := typeWidth t
  if sat then satInt t (intVal t a * (2 ^ min b n : Nat)) else (if b ≥ n then 0 else a * 2 ^ b % 2 ^ n, 0)

/-- vsar: sign bits in; an n8 has none (R172; log 31). -/
def vsarEl (t a b : Nat) : Nat := wrapTo (typeWidth t) (intVal t a / ((2 ^ min b (typeWidth t) : Nat) : Int))

/-- b of a class 0 word: element k of B, or IMM (R172). -/
def bOf (o : VOps) (B : VReg) (k : Nat) : Nat :=
  let n := typeWidth o.typ.toNat
  if bit o.c.toNat 24 then wrapTo n (immOf o.typ.toNat o.c.toNat) else elem B n k

/-- The names a class 0 word reads. -/
def intSrcs (x : Cl) (o : VOps) : List Nat := if bit o.c.toNat 24 then [o.an x] else [o.an x, o.bn x]

/-- A binary word of class 0. -/
def vint (i : Instr) (h : Hdr) (o : VOps) (lat : Nat) (f : Nat → Nat → Nat × Fl) (s : State) : Eff :=
  let A := s.vval (o.an s.myCl)
  let B := s.vval (o.bn s.myCl)
  let n := typeWidth o.typ.toNat
  vmap2 i h o lat 0 (intSrcs s.myCl o) (fun k => f (elem A n k) (bOf o B k)) s

/-- A unary word. -/
def vun (i : Instr) (h : Hdr) (o : VOps) (lat port0 : Nat) (f : Nat → Nat → Nat × Fl) (s : State) : Eff :=
  let A := s.vval (o.an s.myCl)
  let n := typeWidth o.typ.toNat
  vmap2 i h o lat port0 [o.an s.myCl] (fun k => f k (elem A n k)) s

/-- vadd: R172. -/
def execVadd (h : Hdr) (o : VOps) (s : State) : Out := issue s (.vadd h o) (vint (.vadd h o) h o 1 fun a b => fitInt o.typ.toNat o.sat (intVal o.typ.toNat a + intVal o.typ.toNat b))

/-- vsub: R172. -/
def execVsub (h : Hdr) (o : VOps) (s : State) : Out := issue s (.vsub h o) (vint (.vsub h o) h o 1 fun a b => fitInt o.typ.toNat o.sat (intVal o.typ.toNat a - intVal o.typ.toNat b))

/-- vmul: R172. -/
def execVmul (h : Hdr) (o : VOps) (s : State) : Out := issue s (.vmul h o) (vint (.vmul h o) h o 3 fun a b => fitInt o.typ.toNat o.sat (intVal o.typ.toNat a * intVal o.typ.toNat b))

/-- vmulh: R172. -/
def execVmulh (h : Hdr) (o : VOps) (s : State) : Out := issue s (.vmulh h o) (vint (.vmulh h o) h o 3 fun a b => (wrapTo (2 * typeWidth o.typ.toNat) (intVal o.typ.toNat a * intVal o.typ.toNat b) / 2 ^ typeWidth o.typ.toNat, 0))

/-- vmin: R172. -/
def execVmin (h : Hdr) (o : VOps) (s : State) : Out := issue s (.vmin h o) (vint (.vmin h o) h o 1 fun a b => (if intVal o.typ.toNat a ≤ intVal o.typ.toNat b then a else b, 0))

/-- vmax: R172. -/
def execVmax (h : Hdr) (o : VOps) (s : State) : Out := issue s (.vmax h o) (vint (.vmax h o) h o 1 fun a b => (if intVal o.typ.toNat a ≤ intVal o.typ.toNat b then b else a, 0))

/-- vand: R172. -/
def execVand (h : Hdr) (o : VOps) (s : State) : Out := issue s (.vand h o) (vint (.vand h o) h o 1 fun a b => (a &&& b, 0))

/-- vor: R172. -/
def execVor (h : Hdr) (o : VOps) (s : State) : Out := issue s (.vor h o) (vint (.vor h o) h o 1 fun a b => (a ||| b, 0))

/-- vxor: R172. -/
def execVxor (h : Hdr) (o : VOps) (s : State) : Out := issue s (.vxor h o) (vint (.vxor h o) h o 1 fun a b => (a ^^^ b, 0))

/-- vshl: R172. -/
def execVshl (h : Hdr) (o : VOps) (s : State) : Out := issue s (.vshl h o) (vint (.vshl h o) h o 1 fun a b => vshlEl o.typ.toNat o.sat a b)

/-- vshr: R172. -/
def execVshr (h : Hdr) (o : VOps) (s : State) : Out := issue s (.vshr h o) (vint (.vshr h o) h o 1 fun a b => (if b ≥ typeWidth o.typ.toNat then 0 else a / 2 ^ b, 0))

/-- vsar: R172. -/
def execVsar (h : Hdr) (o : VOps) (s : State) : Out := issue s (.vsar h o) (vint (.vsar h o) h o 1 fun a b => (vsarEl o.typ.toNat a b, 0))

/-- vabs: R172. -/
def execVabs (h : Hdr) (o : VOps) (s : State) : Out := issue s (.vabs h o) (vun (.vabs h o) h o 1 0 fun _ a => fitInt o.typ.toNat o.sat ((intVal o.typ.toNat a).natAbs : Int))

/-- vneg: R172. -/
def execVneg (h : Hdr) (o : VOps) (s : State) : Out := issue s (.vneg h o) (vun (.vneg h o) h o 1 0 fun _ a => fitInt o.typ.toNat o.sat (-(intVal o.typ.toNat a)))

/-! Floating-point arithmetic (R173). -/

/-- The names of an operand: the register, with its partner when W2 is 1 (R173). -/
def pairNames (w2 : Bool) (st n : Nat) : List Nat := if w2 then [n, partner st n] else [n]

/-- A word of class 1, ops 0 to 3: FMA one takes the first registers, FMA two the partners; `f` takes the patterns of the
    three sources (R173). -/
def vflt (i : Instr) (h : Hdr) (o : VOps) (c3 : Bool) (f : Nat → Nat → Nat → Nat × Fl) (s : State) : Eff :=
  let x := s.myCl
  let t := o.typ.toNat
  let n := typeWidth t
  let ds := pairNames o.w2 o.ds.toNat (o.dn x)
  let as' := pairNames o.w2 o.as.toNat (o.an x)
  let bs := pairNames o.w2 o.bs.toNat (o.bn x)
  let cs := if c3 then pairNames o.w2 (bits o.c.toNat 14 12) (o.cn x) else []
  let act := s.active h
  if (as' ++ bs ++ cs).any s.isBounded || (partialMask act && ds.any s.isBounded) then illtypeNow s i
  else
    let one (j : Nat) : VReg × Fl :=
      let A := s.vval (as'.getD j 0)
      let B := s.vval (bs.getD j 0)
      let C := if c3 then s.vval (cs.getD j 0) else 0
      mapElems n (elems t) act fun k => f (elem A n k) (elem B n k) (elem C n k)
    let d0 := ds.getD 0 0
    let r0 := one 0
    let s1 := s.vput 4 d0 (laneBits act) r0.1 r0.2 (if o.w2 then 2 else portBy 2 d0)
    if o.w2 then (let r1 := one 1; .ok (s1.vput 4 (ds.getD 1 0) (laneBits act) r1.1 r1.2 3)) else .ok s1

/-- vfadd: R173. -/
def execVfadd (h : Hdr) (o : VOps) (s : State) : Out :=
  issue s (.vfadd h o) (vflt (.vfadd h o) h o false fun a b _ => (fmtOf o.typ.toNat).fadd o.rm.toNat ((fmtOf o.typ.toNat).decode a) ((fmtOf o.typ.toNat).decode b))

/-- vfsub: R173. -/
def execVfsub (h : Hdr) (o : VOps) (s : State) : Out :=
  issue s (.vfsub h o) (vflt (.vfsub h o) h o false fun a b _ => (fmtOf o.typ.toNat).fadd o.rm.toNat ((fmtOf o.typ.toNat).decode a) (FVal.neg ((fmtOf o.typ.toNat).decode b)))

/-- vfmul: R173. -/
def execVfmul (h : Hdr) (o : VOps) (s : State) : Out :=
  issue s (.vfmul h o) (vflt (.vfmul h o) h o false fun a b _ => (fmtOf o.typ.toNat).fmul o.rm.toNat ((fmtOf o.typ.toNat).decode a) ((fmtOf o.typ.toNat).decode b))

/-- vfma: R173. -/
def execVfma (h : Hdr) (o : VOps) (s : State) : Out :=
  issue s (.vfma h o) (vflt (.vfma h o) h o true fun a b c => (fmtOf o.typ.toNat).ffma o.rm.toNat ((fmtOf o.typ.toNat).decode a) ((fmtOf o.typ.toNat).decode b) ((fmtOf o.typ.toNat).decode c))

/-- A binary float word that does not round. -/
def vflt2 (i : Instr) (h : Hdr) (o : VOps) (f : Nat → Nat → Nat × Fl) (s : State) : Eff :=
  let A := s.vval (o.an s.myCl)
  let B := s.vval (o.bn s.myCl)
  let n := typeWidth o.typ.toNat
  vmap2 i h o 2 2 [o.an s.myCl, o.bn s.myCl] (fun k => f (elem A n k) (elem B n k)) s

/-- vfabs and vfneg: the sign cleared or inverted; a NaN gives the default NaN, and IV if it signals (R173). -/
def signEl (t : Nat) (flip : Bool) (a : Nat) : Nat × Fl :=
  let v := (fmtOf t).decode a
  if v.isNan then ((fmtOf t).dnan, flIf v.sig flIV)
  else if flip then (a ^^^ (fmtOf t).signBit, 0) else (a % (fmtOf t).signBit, 0)

/-- vfmin: R65, R173. -/
def execVfmin (h : Hdr) (o : VOps) (s : State) : Out := issue s (.vfmin h o) (vflt2 (.vfmin h o) h o (fminmax o.typ.toNat false))

/-- vfmax: R65, R173. -/
def execVfmax (h : Hdr) (o : VOps) (s : State) : Out := issue s (.vfmax h o) (vflt2 (.vfmax h o) h o (fminmax o.typ.toNat true))

/-- vfabs: R173. -/
def execVfabs (h : Hdr) (o : VOps) (s : State) : Out := issue s (.vfabs h o) (vun (.vfabs h o) h o 2 2 fun _ a => signEl o.typ.toNat false a)

/-- vfneg: R173. -/
def execVfneg (h : Hdr) (o : VOps) (s : State) : Out := issue s (.vfneg h o) (vun (.vfneg h o) h o 2 2 fun _ a => signEl o.typ.toNat true a)

/-! Compare, select and predicate logic (R174 to R176). -/

/-- A compare: every element of a lane, or any of them, decides the lane; only active lanes of pd change (R167, R174). -/
def vcmpBody (i : Instr) (h : Hdr) (o : VOps) (f : Nat → Nat → Bool × Fl) (s : State) : Eff :=
  let x := s.myCl
  let n := typeWidth o.typ.toNat
  let per := 32 / n
  let act := s.active h
  let A := s.vval (o.an x)
  let B := s.vval (o.bn x)
  exactCheck s i none [o.an x, o.bn x] false
    (let lane (l : Nat) : Bool × Fl :=
       if !act.getLsbD l then (false, 0) else
       let r := (List.range per).map fun j => f (elem A n (per * l + j)) (elem B n (per * l + j))
       (if bit o.c.toNat 4 then r.any (·.1) else r.all (·.1), r.foldl (fun a e => a ||| e.2) 0)
     let r := (List.range 64).map lane
     let fl := r.foldl (fun a e => a ||| e.2) 0
     let s1 := s.deliver 1 (.pred (.ofNat 4 o.c.toNat) act (.ofNat 64 (pack (r.map fun e => (1, b2n e.1)))))
     .ok (if fl == 0 then s1 else s1.deliver 1 (.flags fl)))

/-- An integer compare by value; lo and ls by bit pattern (R174). -/
def icmp (t cc a b : Nat) : Bool :=
  match cc with
  | 0 => a == b
  | 1 => a != b
  | 2 => decide (intVal t a < intVal t b)
  | 3 => decide (intVal t a ≤ intVal t b)
  | 4 => decide (a < b)
  | _ => decide (a ≤ b)

/-- vcmp.eq: R174. -/
def execVcmpEq (h : Hdr) (o : VOps) (s : State) : Out :=
  issue s (.vcmpEq h o) (vcmpBody (.vcmpEq h o) h o fun a b => (icmp o.typ.toNat 0 a b, 0))

/-- vcmp.ne: R174. -/
def execVcmpNe (h : Hdr) (o : VOps) (s : State) : Out :=
  issue s (.vcmpNe h o) (vcmpBody (.vcmpNe h o) h o fun a b => (icmp o.typ.toNat 1 a b, 0))

/-- vcmp.lt: R174. -/
def execVcmpLt (h : Hdr) (o : VOps) (s : State) : Out :=
  issue s (.vcmpLt h o) (vcmpBody (.vcmpLt h o) h o fun a b => (icmp o.typ.toNat 2 a b, 0))

/-- vcmp.le: R174. -/
def execVcmpLe (h : Hdr) (o : VOps) (s : State) : Out :=
  issue s (.vcmpLe h o) (vcmpBody (.vcmpLe h o) h o fun a b => (icmp o.typ.toNat 3 a b, 0))

/-- vcmp.lo: R174. -/
def execVcmpLo (h : Hdr) (o : VOps) (s : State) : Out :=
  issue s (.vcmpLo h o) (vcmpBody (.vcmpLo h o) h o fun a b => (icmp o.typ.toNat 4 a b, 0))

/-- vcmp.ls: R174. -/
def execVcmpLs (h : Hdr) (o : VOps) (s : State) : Out :=
  issue s (.vcmpLs h o) (vcmpBody (.vcmpLs h o) h o fun a b => (icmp o.typ.toNat 5 a b, 0))

/-- vfcmp.eq: R65, R174. -/
def execVfcmpEq (h : Hdr) (o : VOps) (s : State) : Out :=
  issue s (.vfcmpEq h o) (vcmpBody (.vfcmpEq h o) h o (fcmp o.typ.toNat 0))

/-- vfcmp.ne: R65, R174. -/
def execVfcmpNe (h : Hdr) (o : VOps) (s : State) : Out :=
  issue s (.vfcmpNe h o) (vcmpBody (.vfcmpNe h o) h o (fcmp o.typ.toNat 1))

/-- vfcmp.lt: R65, R174. -/
def execVfcmpLt (h : Hdr) (o : VOps) (s : State) : Out :=
  issue s (.vfcmpLt h o) (vcmpBody (.vfcmpLt h o) h o (fcmp o.typ.toNat 2))

/-- vfcmp.le: R65, R174. -/
def execVfcmpLe (h : Hdr) (o : VOps) (s : State) : Out :=
  issue s (.vfcmpLe h o) (vcmpBody (.vfcmpLe h o) h o (fcmp o.typ.toNat 3))

/-- vsel: R175. -/
def execVsel (h : Hdr) (o : VOps) (s : State) : Out :=
  issue s (.vsel h o) fun s =>
    let x := s.myCl
    let p := x.pmask (.ofNat 4 o.c.toNat)
    let A := s.vval (o.an x)
    let B := s.vval (o.bn x)
    let n := typeWidth o.typ.toNat
    vmap2 (.vsel h o) h o 1 0 [o.an x, o.bn x]
      (fun k => (if p.getLsbD (laneOf n k) != bit o.c.toNat 4 then elem A n k else elem B n k, 0)) s

/-- vplog: lane by lane, in the active lanes (R176). -/
def vplogBody (op : Nat) (h : Hdr) (o : VOps) (s : State) : Eff :=
  let x := s.myCl
  let v := plogMask op (x.pmask (.ofNat 4 (o.c.toNat / 16))) (x.pmask (.ofNat 4 o.c.toNat))
  .ok (s.deliver 1 (.pred (.ofNat 4 (o.c.toNat / 256)) (s.active h) v))

/-- vplog.and: R176. -/
def execVplogAnd (h : Hdr) (o : VOps) (s : State) : Out := issue s (.vplogAnd h o) (vplogBody 0 h o)

/-- vplog.or: R176. -/
def execVplogOr (h : Hdr) (o : VOps) (s : State) : Out := issue s (.vplogOr h o) (vplogBody 1 h o)

/-- vplog.xor: R176. -/
def execVplogXor (h : Hdr) (o : VOps) (s : State) : Out := issue s (.vplogXor h o) (vplogBody 2 h o)

/-- vplog.andn: R176. -/
def execVplogAndn (h : Hdr) (o : VOps) (s : State) : Out := issue s (.vplogAndn h o) (vplogBody 3 h o)

/-! Conversion and quantisation (R76 to R78, R177 to R179). -/

/-- vcvt: a narrowing conversion fills one part of D, a widening one reads one part of A (R177). -/
def vcvtBody (h : Hdr) (o : VOps) (s : State) : Eff :=
  let x := s.myCl
  let t := o.typ.toNat
  let st := o.c.toNat % 16
  let ws := typeWidth st
  let wd := typeWidth t
  let part := bits o.c.toNat 6 4
  let n := 2048 / max ws wd
  let d := o.dn x
  let act := s.active h
  let A := s.vval (o.an x)
  exactCheck s (.vcvt h o) (some d) [o.an x] (partialMask act || decide (ws > wd))
    (let first := if ws > wd then part * n else 0
     let from' := if ws > wd then 0 else part * n
     let r := mapElems wd (2048 / wd) act fun k =>
       if first ≤ k && k < first + n then convert st t o.rm.toNat o.sat (elem A ws (from' + (k - first))) else (0, 0)
     let here : VReg := ofElems wd ((List.range (2048 / wd)).map fun k => if first ≤ k && k < first + n then 2 ^ wd - 1 else 0)
     .ok (s.vput 3 d (laneBits act &&& here) r.1 r.2 5))

/-- vcvt: R177. -/
def execVcvt (h : Hdr) (o : VOps) (s : State) : Out := issue s (.vcvt h o) (vcvtBody h o)

/-- The registers of a 128-element block: A, and A + 1 for f32 (R178). -/
def blockNames (st n : Nat) : List Nat := if st == 7 then [n, nextName n] else [n]

/-- Element `k` of a block of source type `st`, and the guard lane that selects it (R178). -/
def blockElem (s : State) (names : List Nat) (st k : Nat) : Nat × Nat :=
  if st == 7 then (elem (s.vval (names.getD (k / 64) 0)) 32 (k % 64), k % 64) else (elem (s.vval (names.getD 0 0)) 16 k, k / 2)

/-- The scale of R76, from the largest magnitude. -/
def scaleOf (amax : FVal) : Nat :=
  match amax with
  | .nan _ => fmtF32.dnan
  | .inf _ => fmtF32.infBits
  | .fin _ m e => if m == 0 then 0x3F800000 else max (fmtF32.fdiv 0 (.fin false m e) (.fin false 448 0)).1 0x00800000

/-- The larger of two magnitudes; NaN stands (R76). -/
def magMax (a b : FVal) : FVal :=
  if a.isNan then a else if b.isNan then b else if (fvAbs a).lt (fvAbs b) then fvAbs b else fvAbs a

/-- A scale pushed into the bypass, poppable 3 issue cycles on; a full FIFO loses its oldest (R78). -/
def pushScale (q : BitVec 32) (at' : Nat) (l : List (BitVec 32 × Nat)) : List (BitVec 32 × Nat) × Fl :=
  if l.length ≥ 2 then (l.tail ++ [(q, at')], flQG) else (l ++ [(q, at')], 0)

/-- vamax: R178. -/
def vamaxBody (h : Hdr) (o : VOps) (s : State) : Eff :=
  let x := s.myCl
  let t := o.typ.toNat
  let names := blockNames t (o.an x)
  let d := o.dn x
  let act := s.active h
  exactCheck s (.vamax h o) (some d) names (partialMask act)
    (let els := (List.range 128).filterMap fun k => let e := blockElem s names t k; if act.getLsbD e.2 then some (fvalOf t e.1) else none
     let q := scaleOf (els.foldl magMax (.fin false 0 0))
     let b := pushScale (.ofNat 32 q) (x.icyc + 3) s.mine.bypass
     let s1 := s.upMine fun k => { k with bypass := b.1 }
     .ok (s1.vput 4 d (laneBits act) (ofElems 32 (List.replicate 64 q)) (flIf (els.any (·.sig)) flIV ||| b.2) 5))

/-- vamax: R178. -/
def execVamax (h : Hdr) (o : VOps) (s : State) : Out := issue s (.vamax h o) (vamaxBody h o)

/-- The scale a vqcvt pops: in scoreboard mode the issue cycles until the oldest is poppable pass first; a gap gives 1.0 and QG
    (R78). -/
def popScale (x : Cl) (l : List (BitVec 32 × Nat)) : Nat × Fl × List (BitVec 32 × Nat) × Nat :=
  match l with
  | (q, c) :: r => if c ≤ x.icyc || !x.exposed then (q.toNat, 0, r, max x.icyc c) else (0x3F800000, flQG, l, x.icyc)
  | [] => (0x3F800000, flQG, l, x.icyc)

/-- vqcvt: R77, R179. -/
def vqcvtBody (h : Hdr) (o : VOps) (s : State) : Eff :=
  let x := s.myCl
  let st := o.c.toNat % 16
  let part := bits o.c.toNat 4 4
  let names := blockNames st (o.an x)
  let d := o.dn x
  let act := s.active h
  exactCheck s (.vqcvt h o) (some d) names true
    (let (q, gap, rest, cyc) := popScale x s.mine.bypass
     let s0 := s.upMine fun k => { k with bypass := rest }
     let s1 := if cyc == x.icyc then s0 else s0.tickTo cyc
     let r := mapElems 8 256 act fun j =>
       if 128 * part ≤ j && j < 128 * part + 128 then
         let v := fvalOf st (blockElem s names st (j - 128 * part)).1
         let y := (fmtF32.fdiv 0 v (f32Val q)).1
         let e := toE4m3 (f32Val y)
         (e.1, (e.2 &&& flES) ||| flIf v.sig flIV)
       else (0, 0)
     let here : VReg := ofElems 8 ((List.range 256).map fun j => if 128 * part ≤ j && j < 128 * part + 128 then 255 else 0)
     .ok (s1.vput 4 d (laneBits act &&& here) r.1 (r.2 ||| gap) 5))

/-- vqcvt: R179. -/
def execVqcvt (h : Hdr) (o : VOps) (s : State) : Out := issue s (.vqcvt h o) (vqcvtBody h o)

/-! Special functions (R180). -/

/-- vexp2: R73 to R75, R180. -/
def execVexp2 (h : Hdr) (o : VOps) (s : State) : Out :=
  issue s (.vexp2 h o) fun s =>
    let A := s.vval (o.an s.myCl)
    let d := o.dn s.myCl
    let act := s.active h
    exactCheck s (.vexp2 h o) (some d) [o.an s.myCl] (partialMask act)
      (let r := mapElems 32 64 act fun k => vexp2F (Config.ulpChoice s.seq k) (elem A 32 k)
       .ok (s.vput 8 d (laneBits act) r.1 r.2 4))

/-- vlog2: R73 to R75, R180. -/
def execVlog2 (h : Hdr) (o : VOps) (s : State) : Out :=
  issue s (.vlog2 h o) fun s =>
    let A := s.vval (o.an s.myCl)
    let d := o.dn s.myCl
    let act := s.active h
    exactCheck s (.vlog2 h o) (some d) [o.an s.myCl] (partialMask act)
      (let r := mapElems 32 64 act fun k => vlog2F (Config.ulpChoice s.seq k) (elem A 32 k)
       .ok (s.vput 8 d (laneBits act) r.1 r.2 4))

/-- vrcp: R73 to R75, R180. -/
def execVrcp (h : Hdr) (o : VOps) (s : State) : Out :=
  issue s (.vrcp h o) fun s =>
    let A := s.vval (o.an s.myCl)
    let d := o.dn s.myCl
    let act := s.active h
    exactCheck s (.vrcp h o) (some d) [o.an s.myCl] (partialMask act)
      (let r := mapElems 32 64 act fun k => vrcpF o.rm.toNat (elem A 32 k)
       .ok (s.vput 8 d (laneBits act) r.1 r.2 4))

/-- vrsqrt: R73 to R75, R180. -/
def execVrsqrt (h : Hdr) (o : VOps) (s : State) : Out :=
  issue s (.vrsqrt h o) fun s =>
    let A := s.vval (o.an s.myCl)
    let d := o.dn s.myCl
    let act := s.active h
    exactCheck s (.vrsqrt h o) (some d) [o.an s.myCl] (partialMask act)
      (let r := mapElems 32 64 act fun k => vrsqrtF (Config.ulpChoice s.seq k) (elem A 32 k)
       .ok (s.vput 8 d (laneBits act) r.1 r.2 4))

/-! Reductions (R72, R181). -/

/-- One level of the tree: nodes of neighbours, with their flags. -/
def treeLevel (op : Nat → Nat → Nat × Fl) : List Nat → List Nat × Fl
  | a :: b :: r => let n := op a b; let l := treeLevel op r; (n.1 :: l.1, n.2 ||| l.2)
  | l => (l, 0)

/-- The tree of R72, `k` levels at most. -/
def tree (op : Nat → Nat → Nat × Fl) : Nat → List Nat → Nat × Fl
  | 0, l => (l.getD 0 0, 0)
  | k + 1, l => if l.length ≤ 1 then (l.getD 0 0, 0) else let (m, f) := treeLevel op l; let r := tree op k m; (r.1, f ||| r.2)

/-- An element widened to i32 or f32 (R72). -/
def widenEl (t w : Nat) : Nat × Fl :=
  if isInt t then (wrapTo 32 (intVal t w), 0) else if t == 7 then (w, 0) else fmtF32.round 0 (fvalOf t w)

/-- A reduction: inactive lanes supply the identity, and every lane of D is written (R167, R181). -/
def vredBody (i : Instr) (h : Hdr) (o : VOps) (ident : Nat) (op : Nat → Nat → Nat × Fl) (s : State) : Eff :=
  let x := s.myCl
  let t := o.typ.toNat
  let n := typeWidth t
  let d := o.dn x
  let act := s.active h
  let A := s.vval (o.an x)
  exactCheck s i (some d) [o.an x] false
    (let l := (List.range (elems t)).map fun k => if act.getLsbD (laneOf n k) then widenEl t (elem A n k) else (ident, 0)
     let r := tree op 9 (l.map (·.1))
     .ok (s.vput 6 d (BitVec.allOnes 2048) (.ofNat 2048 r.1) (l.foldl (fun a e => a ||| e.2) 0 ||| r.2) 6))

/-- vredadd: R72, R181. -/
def execVredadd (h : Hdr) (o : VOps) (s : State) : Out :=
  issue s (.vredadd h o) (if isInt o.typ.toNat
    then vredBody (.vredadd h o) h o 0 fun a b => fitInt 3 o.sat (intVal 3 a + intVal 3 b)
    else vredBody (.vredadd h o) h o 0x80000000 fun a b => fmtF32.fadd o.rm.toNat (f32Val a) (f32Val b))

/-- vredmax: R72, R181. -/
def execVredmax (h : Hdr) (o : VOps) (s : State) : Out :=
  issue s (.vredmax h o) (if isInt o.typ.toNat
    then vredBody (.vredmax h o) h o (wrapTo 32 (intMin o.typ.toNat)) fun a b => (if intVal 3 a < intVal 3 b then b else a, 0)
    else vredBody (.vredmax h o) h o 0xFF800000 (fminmax 7 true))

/-- vredmin: R72, R181. -/
def execVredmin (h : Hdr) (o : VOps) (s : State) : Out :=
  issue s (.vredmin h o) (if isInt o.typ.toNat
    then vredBody (.vredmin h o) h o (wrapTo 32 (intMax o.typ.toNat)) fun a b => (if intVal 3 b < intVal 3 a then b else a, 0)
    else vredBody (.vredmin h o) h o 0x7F800000 (fminmax 7 false))

/-! Permutes (R182). -/

/-- A word of class 6, element by element. -/
def vpermBody (i : Instr) (h : Hdr) (o : VOps) (lat : Nat) (srcs : List Nat) (f : Nat → Nat) (s : State) : Eff :=
  let d := o.dn s.myCl
  let act := s.active h
  exactCheck s i (some d) srcs (partialMask act)
    (let r := mapElems (typeWidth o.typ.toNat) (elems o.typ.toNat) act fun k => (f k, 0)
     .ok (s.vput lat d (laneBits act) r.1 r.2 6))

/-- vperm: R182. -/
def execVperm (h : Hdr) (o : VOps) (s : State) : Out :=
  issue s (.vperm h o) fun s =>
    let A := s.vval (o.an s.myCl)
    let B := s.vval (o.bn s.myCl)
    let n := typeWidth o.typ.toNat
    vpermBody (.vperm h o) h o 3 [o.an s.myCl, o.bn s.myCl] (fun k => elem A n (elem B n k % elems o.typ.toNat)) s

/-- vbcast of an element: R182. -/
def execVbcast (h : Hdr) (o : VOps) (s : State) : Out :=
  issue s (.vbcast h o) fun s =>
    let A := s.vval (o.an s.myCl)
    vpermBody (.vbcast h o) h o 2 [o.an s.myCl] (fun _ => elem A (typeWidth o.typ.toNat) (o.c.toNat % 512)) s

/-- The scalar register in bits [20:16] of C (R182, R184, R193). -/
def regAt16 (o : VOps) : Reg := .ofNat 5 (o.c.toNat / 2 ^ 16)

/-- vbcast of a scalar: R182. -/
def execVbcastScalar (h : Hdr) (o : VOps) (s : State) : Out :=
  issue s (.vbcastScalar h o) fun s =>
    let v := (s.reg (regAt16 o)).toNat % 2 ^ typeWidth o.typ.toNat
    vpermBody (.vbcastScalar h o) h o 2 [] (fun _ => v) s

/-- The element vslide puts at `j` (R182). -/
def slideEl (t : Nat) (A B : VReg) (k : Int) (j : Nat) : Nat :=
  let n : Int := elems t
  let p : Int := j + k
  if 0 ≤ p && p < n then elem A (typeWidth t) p.toNat
  else if p ≥ n then elem B (typeWidth t) (p - n).toNat
  else elem B (typeWidth t) (n + p).toNat

/-- vslide: R182. -/
def execVslide (h : Hdr) (o : VOps) (s : State) : Out :=
  issue s (.vslide h o) fun s =>
    let A := s.vval (o.an s.myCl)
    let B := s.vval (o.bn s.myCl)
    vpermBody (.vslide h o) h o 2 [o.an s.myCl, o.bn s.myCl] (slideEl o.typ.toNat A B (signedOf 10 o.c.toNat)) s

/-! Bit operations (R183). -/

/-- vbext: LEN bits from POS, sign-extended for signed types (R183). -/
def bextEl (t pos len a : Nat) : Nat :=
  let v := a / 2 ^ pos % 2 ^ len
  if t == 1 then v else wrapTo (typeWidth t) (signedOf len v)

/-- Bits set among the low `n` (R183). -/
def popcount : Nat → Nat → Nat
  | 0, _ => 0
  | n + 1, a => a % 2 + popcount n (a / 2)

/-- Leading zeros of an element of `w` bits (R183). -/
def clzEl (w a : Nat) : Nat := if a == 0 then w else w - 1 - Nat.log2 a

/-- vbext: R183. -/
def execVbext (h : Hdr) (o : VOps) (s : State) : Out :=
  issue s (.vbext h o) (vun (.vbext h o) h o 2 0 fun _ a => (bextEl o.typ.toNat (bits o.c.toNat 9 5) (o.c.toNat % 32 + 1) a, 0))

/-- vfunnel: R183. -/
def execVfunnel (h : Hdr) (o : VOps) (s : State) : Out :=
  issue s (.vfunnel h o) fun s =>
    let A := s.vval (o.an s.myCl)
    let B := s.vval (o.bn s.myCl)
    let n := typeWidth o.typ.toNat
    vmap2 (.vfunnel h o) h o 2 0 [o.an s.myCl, o.bn s.myCl]
      (fun k => ((elem A n k * 2 ^ n + elem B n k) / 2 ^ (o.c.toNat % 64) % 2 ^ n, 0)) s

/-- vpopc: R183. -/
def execVpopc (h : Hdr) (o : VOps) (s : State) : Out :=
  issue s (.vpopc h o) (vun (.vpopc h o) h o 2 0 fun _ a => (popcount (typeWidth o.typ.toNat) a, 0))

/-- vclz: R183. -/
def execVclz (h : Hdr) (o : VOps) (s : State) : Out :=
  issue s (.vclz h o) (vun (.vclz h o) h o 2 0 fun _ a => (clzEl (typeWidth o.typ.toNat) a, 0))

/-! Level moves (R184). -/

/-- vmov: the active lanes, with tag and bound from one of v0 to v511 to another; a bounded latch, or a bounded value into q, is
    ILLTYPE (R79, R184). -/
def vmovBody (h : Hdr) (o : VOps) (s : State) : Eff :=
  let x := s.myCl
  let d := o.dn x
  let a := o.an x
  let act := s.active h
  let v := s.mine.vname a
  if v.bounded then
    if a ≥ 512 || d ≥ 512 then illtypeNow s (.vmov h o)
    else .ok (s.deliver 1 (.vreg d (laneBits act) v.val true v.bound (partialMask act) (some (portBy 0 d))))
  else exactCheck s (.vmov h o) (some d) [] (partialMask act) (.ok (s.vput 1 d (laneBits act) v.val 0 (portBy 0 d)))

/-- vmov: R184. -/
def execVmov (h : Hdr) (o : VOps) (s : State) : Out := issue s (.vmov h o) (vmovBody h o)

/-- vmov.mask D, p: every lane written (R167, R184). -/
def execVmovMaskToV (h : Hdr) (o : VOps) (s : State) : Out :=
  issue s (.vmovMaskToV h o) fun s =>
    let d := o.dn s.myCl
    .ok (s.vput 1 d (BitVec.allOnes 2048) ((s.myCl.pmask (.ofNat 4 o.c.toNat)).setWidth 2048) 0 (portBy 0 d))

/-- vmov.mask p, A: the active lanes of p (R167, R184). -/
def execVmovMaskToP (h : Hdr) (o : VOps) (s : State) : Out :=
  issue s (.vmovMaskToP h o) fun s =>
    let a := o.an s.myCl
    exactCheck s (.vmovMaskToP h o) none [a] false
      (.ok (s.deliver 1 (.pred (.ofNat 4 o.c.toNat) (s.active h) ((s.vval a).setWidth 64))))

/-- vgets: a lane to a scalar register of V; its guard tests lane 0 (R184). -/
def execVgets (h : Hdr) (o : VOps) (s : State) : Out :=
  issue s (.vgets h o) fun s =>
    let a := o.an s.myCl
    let v : BitVec 32 := .ofNat 32 (elem (s.vval a) 32 (o.c.toNat % 64))
    exactCheck s (.vgets h o) none [a] false (s.put 2 (regAt16 o) (if o.typ == 3 then v.signExtend 64 else v.setWidth 64))

/-- vsets: lane k from a scalar register, if it is active (R184). -/
def execVsets (h : Hdr) (o : VOps) (s : State) : Out :=
  issue s (.vsets h o) fun s =>
    let d := o.dn s.myCl
    let k := o.c.toNat % 64
    if !(s.active h).getLsbD k then .ok s
    else exactCheck s (.vsets h o) (some d) [] true
      (.ok (s.vput 1 d (laneBits (.ofNat 64 (2 ^ k))) (.ofNat 2048 ((s.reg (regAt16 o)).toNat % 2 ^ 32 * 2 ^ (32 * k))) 0 (portBy 0 d)))

/-! Vector memory (R185 to R191). -/

/-- SB, H, AC, PD, L and the offset in bytes (R185). -/
def VOps.sb (o : VOps) : Reg := .ofNat 5 (o.c.toNat / 2 ^ 20)
/-- H. -/
def VOps.hreg (o : VOps) : Reg := .ofNat 5 (o.c.toNat / 2 ^ 15)
/-- AC. -/
def VOps.acls (o : VOps) : BitVec 2 := .ofNat 2 (o.c.toNat / 2 ^ 13)
/-- PD. -/
def VOps.pd (o : VOps) : Pred := .ofNat 4 (o.c.toNat / 2 ^ 9)
/-- L. -/
def VOps.len (o : VOps) : Nat := 256 / 2 ^ bits o.c.toNat 8 7

/-- The address or offset x of R186, and with an index of R187; the sums wrap modulo 2^64, as scalar addresses do (log 78; DESIGN CHOICE). -/
def vAddr (s : State) (o : VOps) : Nat := (s.reg (VOps.sb o) + BitVec.ofNat 64 (32 * bits o.c.toNat 6 0)).toNat

/-- A vector load's result: poisoned active lanes trap, or are zeroed and cleared in PD (R189). -/
def vloadPut (h : Hdr) (o : VOps) (lat d x : Nat) (r : List (Byte × Bool)) (s : State) : Eff :=
  let act := s.active h
  let bad := poisonLanes act r
  let pd := VOps.pd o
  if bad != 0 && pd == 0 then .trap .poison 0 (operandPoison 0 x bad)
  else
    let s1 := s.vput lat d (laneBits act) (loadedVec act bad r) 0 7
    .ok (if bad == 0 then s1 else s1.deliver lat (.pred pd bad 0))

/-- Scratchpad bytes with their poison marks. -/
def Core.spMarked (k : Core) (x n : Nat) : List (Byte × Bool) := (List.range n).map fun j => (k.spByte (x + j), sget false k.spPoison (x + j))

/-- vld: R186. -/
def execVld (h : Hdr) (o : VOps) (s : State) : Out :=
  issue s (.vld h o) fun s =>
    let d := o.dn s.myCl
    let x := vAddr s o
    let n := VOps.len o
    exactCheck s (.vld h o) (some d) [] (partialMask (s.active h))
      (localCheck s x n n (vloadPut h o 6 d x (s.mine.spMarked x n) s))

/-- The bytes a store moves: those of active lanes (R186). -/
def storeBytes (act : Mask) (v : VReg) (n : Nat) : List (Option Byte) :=
  (List.range n).map fun j => if act.getLsbD (j / 4) then some (BitVec.ofNat 8 (elem v 8 j)) else none

/-- vst: R186. -/
def execVst (h : Hdr) (o : VOps) (s : State) : Out :=
  issue s (.vst h o) fun s =>
    let b := o.bn s.myCl
    let x := vAddr s o
    let n := VOps.len o
    exactCheck s (.vst h o) none [b] false (localCheck s x n n (.ok (s.spStore x (storeBytes (s.active h) (s.vval b) n))))

/-- The addresses of an indexed word's active lanes, in ascending lanes (R187). -/
def idxAddrs (s : State) (h : Hdr) (o : VOps) : List (Nat × Nat) :=
  let A := s.vval (o.an s.myCl)
  let act := s.active h
  ((List.range 64).filter fun l => act.getLsbD l).map fun l => (l, (vAddr s o + elem A 32 l) % 2 ^ 64)

/-- The checks of the indexed forms (R187). -/
def idxCheck (s : State) (l : List (Nat × Nat)) (go : Eff) : Eff :=
  match l.find? fun e => e.2 % 4 != 0 || decide (e.2 ≥ spSize) with
  | some e => alignTrap e.2
  | none =>
    match l.find? fun e => s.mine.owner' (e.2 / 4096) != ownThread with
    | some e => .trap .owner 0 (operandAddr e.2 (s.mine.owner' (e.2 / 4096)))
    | none => go

/-- vldx: R187. -/
def execVldx (h : Hdr) (o : VOps) (s : State) : Out :=
  issue s (.vldx h o) fun s =>
    let d := o.dn s.myCl
    let l := idxAddrs s h o
    exactCheck s (.vldx h o) (some d) [o.an s.myCl] (partialMask (s.active h))
      (idxCheck s l
        (let lane (j : Nat) : List (Byte × Bool) :=
           match l.find? fun e => e.1 == j with
           | some e => s.mine.spMarked e.2 4
           | none => List.replicate 4 (0, false)
         vloadPut h o 10 d (vAddr s o) ((List.range 64).flatMap lane) s))

/-- vstx: lanes in ascending order (R187). -/
def execVstx (h : Hdr) (o : VOps) (s : State) : Out :=
  issue s (.vstx h o) fun s =>
    let b := o.bn s.myCl
    let l := idxAddrs s h o
    let B := s.vval b
    exactCheck s (.vstx h o) none [o.an s.myCl, b] false
      (idxCheck s l (.ok (l.foldl (fun s e => s.spStore e.2 (allOf (toBytes 4 (elem B 32 e.1)))) s)))

/-- vldg: R186, R189. -/
def execVldg (h : Hdr) (o : VOps) (s : State) : Out :=
  issue s (.vldg h o) fun s =>
    let d := o.dn s.myCl
    let x := vAddr s o
    let n := VOps.len o
    let hd := s.mine.handle (VOps.hreg o)
    exactCheck s (.vldg h o) (some d) [] (partialMask (s.active h))
      (globalCheck hd x n n true
        (.ok (s.enqLoad (.vldg h o) (VOps.acls o) (.vldg hd x n d (s.active h) (VOps.pd o) 0))))

/-- vstg: R186; in a versioned kernel it is held in the version (R40). -/
def execVstg (h : Hdr) (o : VOps) (s : State) : Out :=
  issue s (.vstg h o) fun s =>
    let b := o.bn s.myCl
    let x := vAddr s o
    let n := VOps.len o
    let hd := s.mine.handle (VOps.hreg o)
    let bs := storeBytes (s.active h) (s.vval b) n
    exactCheck s (.vstg h o) none [b] false
      (globalCheck hd x n n false
        (if s.versioned then s.intoVersion { h := hd, off := x, upd := .bytes bs } .ok
         else .ok (s.enqStore (.vstg h o) (VOps.acls o) (.st hd x bs))))

/-! Bounded arithmetic (R80, R81, R192, R193). -/

/-- A source in a b32 position: value and bound; untagged is bound +0, and a bounded latch is ILLTYPE (R79, R192). -/
def State.bsrc (s : State) (n : Nat) : Option (VReg × Nat) :=
  let v := s.mine.vname n
  if v.bounded then (if n ≥ 512 then none else some (v.val, v.bound.toNat)) else some (v.val, 0)

/-- The largest of some magnitudes, as f32 patterns; NaN and infinity are the largest. -/
def maxMag (l : List Nat) : Nat := l.foldl (fun m w => max m (absF32 w)) 0

/-- A bounded word's result: the bound is +infinity where an active result is NaN or infinite (R80), and a D of q0 to q63 is
    ILLTYPE (R192). -/
def bndPut (i : Instr) (h : Hdr) (o : VOps) (lat port0 : Nat) (f : Nat → Nat) (bound : Nat → Nat) (s : State) : Eff :=
  let d := o.dn s.myCl
  let act := s.active h
  let r := mapElems 32 64 act fun k => (f k, 0)
  let m := maxMag ((List.range 64).filterMap fun k => if act.getLsbD k then some (f k) else none)
  let b := if m ≥ fmtF32.infBits then fmtF32.infBits else bound m
  if d ≥ 512 then illtypeNow s i
  else .ok (s.deliver lat (.vreg d (laneBits act) r.1 true (.ofNat 32 b) (partialMask act) (some (portBy port0 d))))

/-- up(w + ulp(M)) (R80). -/
def upUlp (w m : Nat) : Nat := upF32 (FVal.add 0 (f32Val w) (ulpVal m)).1

/-- vbadd: R80, R192. -/
def execVbadd (h : Hdr) (o : VOps) (s : State) : Out :=
  issue s (.vbadd h o) fun s =>
    match s.bsrc (o.an s.myCl), s.bsrc (o.bn s.myCl) with
    | some (A, ba), some (B, bb) =>
      bndPut (.vbadd h o) h o 4 2 (fun k => (fmtF32.fadd o.rm.toNat (f32Val (elem A 32 k)) (f32Val (elem B 32 k))).1)
        (fun m => upUlp (upAdd ba bb) m) s
    | _, _ => illtypeNow s (.vbadd h o)

/-- vbmul: R80, R192; a tagged B is ILLTYPE. -/
def execVbmul (h : Hdr) (o : VOps) (s : State) : Out :=
  issue s (.vbmul h o) fun s =>
    let act := s.active h
    let B := s.vval (o.bn s.myCl)
    match s.bsrc (o.an s.myCl), s.isBounded (o.bn s.myCl) with
    | some (A, ba), false =>
      let x := maxMag ((List.range 64).filterMap fun k => if act.getLsbD k then some (elem B 32 k) else none)
      bndPut (.vbmul h o) h o 4 2 (fun k => (fmtF32.fmul o.rm.toNat (f32Val (elem A 32 k)) (f32Val (elem B 32 k))).1)
        (fun m => upUlp (upMul ba x) m) s
    | _, _ => illtypeNow s (.vbmul h o)

/-- vbmax: R80, R192. -/
def execVbmax (h : Hdr) (o : VOps) (s : State) : Out :=
  issue s (.vbmax h o) fun s =>
    match s.bsrc (o.an s.myCl), s.bsrc (o.bn s.myCl) with
    | some (A, ba), some (B, bb) =>
      bndPut (.vbmax h o) h o 1 0 (fun k => (fminmax 7 true (elem A 32 k) (elem B 32 k)).1) (fun _ => max ba bb) s
    | _, _ => illtypeNow s (.vbmax h o)

/-- vaccept: the values as exact f32 where the bound is at most the threshold, whatever the bound under a threshold of +∞, else every lane of pc cleared (R81, R193). -/
def execVaccept (h : Hdr) (o : VOps) (s : State) : Out :=
  issue s (.vaccept h o) fun s =>
    let d := o.dn s.myCl
    let act := s.active h
    let t := (s.reg (regAt16 o)).toNat % 2 ^ 32
    match s.bsrc (o.an s.myCl) with
    | none => illtypeNow s (.vaccept h o)
    | some (A, b) =>
      if t == fmtF32.infBits || (!(f32Val t).isNan && ((f32Val b).lt (f32Val t) || (f32Val b).eq (f32Val t))) then
        exactCheck s (.vaccept h o) (some d) [] (partialMask act) (.ok (s.vput 2 d (laneBits act) A 0 (portBy 0 d)))
      else .ok (s.deliver 2 (.pred (.ofNat 4 o.c.toNat) allLanes 0))

end Sys2Proof.Machine
end

