-- ==== Sys2Proof/Machine/Dispatch.lean ====
section
/-! DEFINITION. The dispatch of an instruction or event to its meaning. -/

namespace Sys2Proof.Machine

open Sys2Proof

def exec (i : Instr) (s : State) : Host.Outcome State Fault Refusal :=
  match i with
  | .add h d a b => Sys2Proof.Machine.execAdd h d a b s
  | .sub h d a b => Sys2Proof.Machine.execSub h d a b s
  | .and h d a b => Sys2Proof.Machine.execAnd h d a b s
  | .or h d a b => Sys2Proof.Machine.execOr h d a b s
  | .xor h d a b => Sys2Proof.Machine.execXor h d a b s
  | .shl h d a b => Sys2Proof.Machine.execShl h d a b s
  | .shr h d a b => Sys2Proof.Machine.execShr h d a b s
  | .sar h d a b => Sys2Proof.Machine.execSar h d a b s
  | .mul h d a b => Sys2Proof.Machine.execMul h d a b s
  | .mulhs h d a b => Sys2Proof.Machine.execMulhs h d a b s
  | .mulhn h d a b => Sys2Proof.Machine.execMulhn h d a b s
  | .divs h d a b => Sys2Proof.Machine.execDivs h d a b s
  | .divn h d a b => Sys2Proof.Machine.execDivn h d a b s
  | .rems h d a b => Sys2Proof.Machine.execRems h d a b s
  | .remn h d a b => Sys2Proof.Machine.execRemn h d a b s
  | .min h d a b => Sys2Proof.Machine.execMin h d a b s
  | .max h d a b => Sys2Proof.Machine.execMax h d a b s
  | .sel h d a b => Sys2Proof.Machine.execSel h d a b s
  | .addi h d a k => Sys2Proof.Machine.execAddi h d a k s
  | .andi h d a k => Sys2Proof.Machine.execAndi h d a k s
  | .ori h d a k => Sys2Proof.Machine.execOri h d a k s
  | .shli h d a k => Sys2Proof.Machine.execShli h d a k s
  | .shri h d a k => Sys2Proof.Machine.execShri h d a k s
  | .sari h d a k => Sys2Proof.Machine.execSari h d a k s
  | .limm h d hi lit => Sys2Proof.Machine.execLimm h d hi lit s
  | .plog h op pd pa pb => Sys2Proof.Machine.execPlog h op pd pa pb s
  | .cmpEq h pd a b => Sys2Proof.Machine.execCmpEq h pd a b s
  | .cmpNe h pd a b => Sys2Proof.Machine.execCmpNe h pd a b s
  | .cmpLt h pd a b => Sys2Proof.Machine.execCmpLt h pd a b s
  | .cmpLe h pd a b => Sys2Proof.Machine.execCmpLe h pd a b s
  | .cmpLo h pd a b => Sys2Proof.Machine.execCmpLo h pd a b s
  | .cmpLs h pd a b => Sys2Proof.Machine.execCmpLs h pd a b s
  | .cmpiEq h pd a k => Sys2Proof.Machine.execCmpiEq h pd a k s
  | .cmpiNe h pd a k => Sys2Proof.Machine.execCmpiNe h pd a k s
  | .cmpiLt h pd a k => Sys2Proof.Machine.execCmpiLt h pd a k s
  | .cmpiLe h pd a k => Sys2Proof.Machine.execCmpiLe h pd a k s
  | .cmpiLo h pd a k => Sys2Proof.Machine.execCmpiLo h pd a k s
  | .cmpiLs h pd a k => Sys2Proof.Machine.execCmpiLs h pd a k s
  | .br h f => Sys2Proof.Machine.execBr h f s
  | .brp h sense p f => Sys2Proof.Machine.execBrp h sense p f s
  | .jmp h a => Sys2Proof.Machine.execJmp h a s
  | .call h c f => Sys2Proof.Machine.execCall h c f s
  | .ret h a => Sys2Proof.Machine.execRet h a s
  | .loop h c f => Sys2Proof.Machine.execLoop h c f s
  | .lbr h f => Sys2Proof.Machine.execLbr h f s
  | .getc h d r => Sys2Proof.Machine.execGetc h d r s
  | .setc h a r => Sys2Proof.Machine.execSetc h a r s
  | .tkrd h d dir => Sys2Proof.Machine.execTkrd h d dir s
  | .tkwr h a dir => Sys2Proof.Machine.execTkwr h a dir s
  | .cwait h ld st cp ts => Sys2Proof.Machine.execCwait h ld st cp ts s
  | .ld h d a b m => Sys2Proof.Machine.execLd h d a b m s
  | .st h d a b m => Sys2Proof.Machine.execSt h d a b m s
  | .nop h => Sys2Proof.Machine.execNop h s
  | .trap h code => Sys2Proof.Machine.execTrap h code s
  | .eret h => Sys2Proof.Machine.execEret h s
  | .bkpt h code => Sys2Proof.Machine.execBkpt h code s
  | .yield h => Sys2Proof.Machine.execYield h s
  | .tend h => Sys2Proof.Machine.execTend h s
  | .waita h a b cc => Sys2Proof.Machine.execWaita h a b cc s
  | .signal h d a b self => Sys2Proof.Machine.execSignal h d a b self s
  | .lmode h exposed => Sys2Proof.Machine.execLmode h exposed s
  | .phase h n => Sys2Proof.Machine.execPhase h n s
  | .mark h => Sys2Proof.Machine.execMark h s
  | .release h scope => Sys2Proof.Machine.execRelease h scope s
  | .acquire h scope => Sys2Proof.Machine.execAcquire h scope s
  | .xlat h d a pd => Sys2Proof.Machine.execXlat h d a pd s
  | .rprobe h d a b => Sys2Proof.Machine.execRprobe h d a b s
  | .amo h d a b m => Sys2Proof.Machine.execAmo h d a b m s
  | .red h d a b m => Sys2Proof.Machine.execRed h d a b m s
  | .cpq h d a b => Sys2Proof.Machine.execCpq h d a b s
  | .cptail h d a n => Sys2Proof.Machine.execCptail h d a n s
  | .gath h d a b => Sys2Proof.Machine.execGath h d a b s
  | .scat h d a b => Sys2Proof.Machine.execScat h d a b s
  | .dgld h d a b ac off => Sys2Proof.Machine.execDgld h d a b ac off s
  | .dgq h d a b ac cpy l test => Sys2Proof.Machine.execDgq h d a b ac cpy l test s
  | .dgseal h a b ac n => Sys2Proof.Machine.execDgseal h a b ac n s
  | .owng h a b cls => Sys2Proof.Machine.execOwng h a b cls s
  | .ownt h a b => Sys2Proof.Machine.execOwnt h a b s
  | .ownw h a b => Sys2Proof.Machine.execOwnw h a b s
  | .cflush h d a b ac scope => Sys2Proof.Machine.execCflush h d a b ac scope s
  | .cinv h d a b ac scope => Sys2Proof.Machine.execCinv h d a b ac scope s
  | .cway h d a b mode => Sys2Proof.Machine.execCway h d a b mode s
  | .lpatch h d a b field => Sys2Proof.Machine.execLpatch h d a b field s
  | .larm h d a => Sys2Proof.Machine.execLarm h d a s
  | .qapp h d a b => Sys2Proof.Machine.execQapp h d a b s
  | .binit h d a lv num => Sys2Proof.Machine.execBinit h d a lv num s
  | .barv h d lv num => Sys2Proof.Machine.execBarv h d lv num s
  | .bwait h d a lv num => Sys2Proof.Machine.execBwait h d a lv num s
  | .pmig h d a tier => Sys2Proof.Machine.execPmig h d a tier s
  | .pmigAbort h d a => Sys2Proof.Machine.execPmigAbort h d a s
  | .pheat h d a => Sys2Proof.Machine.execPheat h d a s
  | .tinv h a b => Sys2Proof.Machine.execTinv h a b s
  | .tinvAll h => Sys2Proof.Machine.execTinvAll h s
  | .lstat h d a => Sys2Proof.Machine.execLstat h d a s
  | .vadd h o => Sys2Proof.Machine.execVadd h o s
  | .vsub h o => Sys2Proof.Machine.execVsub h o s
  | .vmul h o => Sys2Proof.Machine.execVmul h o s
  | .vmulh h o => Sys2Proof.Machine.execVmulh h o s
  | .vmin h o => Sys2Proof.Machine.execVmin h o s
  | .vmax h o => Sys2Proof.Machine.execVmax h o s
  | .vabs h o => Sys2Proof.Machine.execVabs h o s
  | .vneg h o => Sys2Proof.Machine.execVneg h o s
  | .vand h o => Sys2Proof.Machine.execVand h o s
  | .vor h o => Sys2Proof.Machine.execVor h o s
  | .vxor h o => Sys2Proof.Machine.execVxor h o s
  | .vshl h o => Sys2Proof.Machine.execVshl h o s
  | .vshr h o => Sys2Proof.Machine.execVshr h o s
  | .vsar h o => Sys2Proof.Machine.execVsar h o s
  | .vfadd h o => Sys2Proof.Machine.execVfadd h o s
  | .vfsub h o => Sys2Proof.Machine.execVfsub h o s
  | .vfmul h o => Sys2Proof.Machine.execVfmul h o s
  | .vfma h o => Sys2Proof.Machine.execVfma h o s
  | .vfmin h o => Sys2Proof.Machine.execVfmin h o s
  | .vfmax h o => Sys2Proof.Machine.execVfmax h o s
  | .vfabs h o => Sys2Proof.Machine.execVfabs h o s
  | .vfneg h o => Sys2Proof.Machine.execVfneg h o s
  | .vcmpEq h o => Sys2Proof.Machine.execVcmpEq h o s
  | .vcmpNe h o => Sys2Proof.Machine.execVcmpNe h o s
  | .vcmpLt h o => Sys2Proof.Machine.execVcmpLt h o s
  | .vcmpLe h o => Sys2Proof.Machine.execVcmpLe h o s
  | .vcmpLo h o => Sys2Proof.Machine.execVcmpLo h o s
  | .vcmpLs h o => Sys2Proof.Machine.execVcmpLs h o s
  | .vfcmpEq h o => Sys2Proof.Machine.execVfcmpEq h o s
  | .vfcmpNe h o => Sys2Proof.Machine.execVfcmpNe h o s
  | .vfcmpLt h o => Sys2Proof.Machine.execVfcmpLt h o s
  | .vfcmpLe h o => Sys2Proof.Machine.execVfcmpLe h o s
  | .vsel h o => Sys2Proof.Machine.execVsel h o s
  | .vplogAnd h o => Sys2Proof.Machine.execVplogAnd h o s
  | .vplogOr h o => Sys2Proof.Machine.execVplogOr h o s
  | .vplogXor h o => Sys2Proof.Machine.execVplogXor h o s
  | .vplogAndn h o => Sys2Proof.Machine.execVplogAndn h o s
  | .vcvt h o => Sys2Proof.Machine.execVcvt h o s
  | .vamax h o => Sys2Proof.Machine.execVamax h o s
  | .vqcvt h o => Sys2Proof.Machine.execVqcvt h o s
  | .vexp2 h o => Sys2Proof.Machine.execVexp2 h o s
  | .vlog2 h o => Sys2Proof.Machine.execVlog2 h o s
  | .vrcp h o => Sys2Proof.Machine.execVrcp h o s
  | .vrsqrt h o => Sys2Proof.Machine.execVrsqrt h o s
  | .vredadd h o => Sys2Proof.Machine.execVredadd h o s
  | .vredmax h o => Sys2Proof.Machine.execVredmax h o s
  | .vredmin h o => Sys2Proof.Machine.execVredmin h o s
  | .vperm h o => Sys2Proof.Machine.execVperm h o s
  | .vbcast h o => Sys2Proof.Machine.execVbcast h o s
  | .vbcastScalar h o => Sys2Proof.Machine.execVbcastScalar h o s
  | .vslide h o => Sys2Proof.Machine.execVslide h o s
  | .vbext h o => Sys2Proof.Machine.execVbext h o s
  | .vfunnel h o => Sys2Proof.Machine.execVfunnel h o s
  | .vpopc h o => Sys2Proof.Machine.execVpopc h o s
  | .vclz h o => Sys2Proof.Machine.execVclz h o s
  | .vmov h o => Sys2Proof.Machine.execVmov h o s
  | .vmovMaskToV h o => Sys2Proof.Machine.execVmovMaskToV h o s
  | .vmovMaskToP h o => Sys2Proof.Machine.execVmovMaskToP h o s
  | .vgets h o => Sys2Proof.Machine.execVgets h o s
  | .vsets h o => Sys2Proof.Machine.execVsets h o s
  | .vld h o => Sys2Proof.Machine.execVld h o s
  | .vldx h o => Sys2Proof.Machine.execVldx h o s
  | .vst h o => Sys2Proof.Machine.execVst h o s
  | .vstx h o => Sys2Proof.Machine.execVstx h o s
  | .vldg h o => Sys2Proof.Machine.execVldg h o s
  | .vstg h o => Sys2Proof.Machine.execVstg h o s
  | .vbadd h o => Sys2Proof.Machine.execVbadd h o s
  | .vbmul h o => Sys2Proof.Machine.execVbmul h o s
  | .vbmax h o => Sys2Proof.Machine.execVbmax h o s
  | .vaccept h o => Sys2Proof.Machine.execVaccept h o s
  | .mma h o => Sys2Proof.Machine.execMma h o s
  | .mms h o => Sys2Proof.Machine.execMms h o s
  | .mzero h o => Sys2Proof.Machine.execMzero h o s
  | .mstore h o => Sys2Proof.Machine.execMstore h o s
  | .mload h o => Sys2Proof.Machine.execMload h o s
  | .mwldWindow h td w wb noff => Sys2Proof.Machine.execMwldWindow h td w wb noff s
  | .mwldRange h td rows wb koff noff => Sys2Proof.Machine.execMwldRange h td rows wb koff noff s
  | .mwswap h wb => Sys2Proof.Machine.execMwswap h wb s
  | .mnset h level a b => Sys2Proof.Machine.execMnset h level a b s
  | .mgo h levels klevel tmpl => Sys2Proof.Machine.execMgo h levels klevel tmpl s
  | .tdset h td a => Sys2Proof.Machine.execTdset h td a s
  | .tdget h td a => Sys2Proof.Machine.execTdget h td a s
  | .twin h td w a b lv => Sys2Proof.Machine.execTwin h td w a b lv s
  | .twinGet h w a b => Sys2Proof.Machine.execTwinGet h w a b s
  | .tcut h td w budget level span => Sys2Proof.Machine.execTcut h td w budget level span s
  | .tcocut h td w l dim => Sys2Proof.Machine.execTcocut h td w l dim s
  | .tmerge h wd wa wb mode otd => Sys2Proof.Machine.execTmerge h wd wa wb mode otd s
  | .tnext h w => Sys2Proof.Machine.execTnext h w s
  | .xprog h pair a b csel => Sys2Proof.Machine.execXprog h pair a b csel s
  | .xverify h pair a tol csel => Sys2Proof.Machine.execXverify h pair a tol csel s
  | .xcal h xb csel => Sys2Proof.Machine.execXcal h xb csel s
  | .xmvm h pair d a b p sgn rm csel => Sys2Proof.Machine.execXmvm h pair d a b p sgn rm csel s
  | .xstat h xb d field col => Sys2Proof.Machine.execXstat h xb d field col s
  | .xerase h xb csel => Sys2Proof.Machine.execXerase h xb csel s
  | .taskLevelAction core => Sys2Proof.Machine.execTaskLevelAction core s
  | .waitEvaluate core slot => Sys2Proof.Machine.execWaitEvaluate core slot s
  | .continuationSaveDone core => Sys2Proof.Machine.execContinuationSaveDone core s
  | .waitHoldRelease core => Sys2Proof.Machine.execWaitHoldRelease core s
  | .taskStart core => Sys2Proof.Machine.execTaskStart core s
  | .continuationStart core => Sys2Proof.Machine.execContinuationStart core s
  | .phaseSplitChange core => Sys2Proof.Machine.execPhaseSplitChange core s
  | .lmodeSwitch core c => Sys2Proof.Machine.execLmodeSwitch core c s
  | .watchdog core c => Sys2Proof.Machine.execWatchdog core c s
  | .handlerEntry core => Sys2Proof.Machine.execHandlerEntry core s
  | .debugHalt core c => Sys2Proof.Machine.execDebugHalt core c s
  | .debugResume core => Sys2Proof.Machine.execDebugResume core s
  | .debugWindowAccess write off val => Sys2Proof.Machine.execDebugWindowAccess write off val s
  | .loadReturn core c => Sys2Proof.Machine.execLoadReturn core c s
  | .vldgReturn core => Sys2Proof.Machine.execVldgReturn core s
  | .releaseDone core c => Sys2Proof.Machine.execReleaseDone core c s
  | .acquireDone core c => Sys2Proof.Machine.execAcquireDone core c s
  | .homeWrite die line => Sys2Proof.Machine.execHomeWrite die line s
  | .homeRead line => Sys2Proof.Machine.execHomeRead line s
  | .atomicPerform core c => Sys2Proof.Machine.execAtomicPerform core c s
  | .reductionPerform core c => Sys2Proof.Machine.execReductionPerform core c s
  | .dgsealEntry core c => Sys2Proof.Machine.execDgsealEntry core c s
  | .backInvalidate line => Sys2Proof.Machine.execBackInvalidate line s
  | .patrolVisit line => Sys2Proof.Machine.execPatrolVisit line s
  | .signalDeliver core c => Sys2Proof.Machine.execSignalDeliver core c s
  | .tileStepExecute core => Sys2Proof.Machine.execTileStepExecute core s
  | .tileStepComplete core => Sys2Proof.Machine.execTileStepComplete core s
  | .jointStepExecute quad => Sys2Proof.Machine.execJointStepExecute quad s
  | .nestStepPlace core => Sys2Proof.Machine.execNestStepPlace core s
  | .weightFillStart core => Sys2Proof.Machine.execWeightFillStart core s
  | .weightFillComplete core => Sys2Proof.Machine.execWeightFillComplete core s
  | .xbarOpStart core pair => Sys2Proof.Machine.execXbarOpStart core pair s
  | .xmvmComplete core pair => Sys2Proof.Machine.execXmvmComplete core pair s
  | .xprogComplete core pair => Sys2Proof.Machine.execXprogComplete core pair s
  | .xverifyComplete core pair => Sys2Proof.Machine.execXverifyComplete core pair s
  | .xcalComplete core pair => Sys2Proof.Machine.execXcalComplete core pair s
  | .xeraseComplete core pair => Sys2Proof.Machine.execXeraseComplete core pair s
  | .xstatComplete core pair => Sys2Proof.Machine.execXstatComplete core pair s
  | .copyEntryStart core => Sys2Proof.Machine.execCopyEntryStart core s
  | .copyEntryComplete core seq => Sys2Proof.Machine.execCopyEntryComplete core seq s
  | .owntReturn core => Sys2Proof.Machine.execOwntReturn core s
  | .barrierArrival src => Sys2Proof.Machine.execBarrierArrival src s
  | .binitPerform core c => Sys2Proof.Machine.execBinitPerform core c s
  | .superstepRelease launch => Sys2Proof.Machine.execSuperstepRelease launch s
  | .dispatchChoice => Sys2Proof.Machine.execDispatchChoice s
  | .groupDone quad => Sys2Proof.Machine.execGroupDone quad s
  | .groupQuadFree quad => Sys2Proof.Machine.execGroupQuadFree quad s
  | .kernelRetire launch => Sys2Proof.Machine.execKernelRetire launch s
  | .ctxLoad ctx daddr => Sys2Proof.Machine.execCtxLoad ctx daddr s
  | .ctxPreempt ctx => Sys2Proof.Machine.execCtxPreempt ctx s
  | .ctxRestore ctx => Sys2Proof.Machine.execCtxRestore ctx s
  | .ctxSeal ctx => Sys2Proof.Machine.execCtxSeal ctx s
  | .contextLoadDone ctx => Sys2Proof.Machine.execContextLoadDone ctx s
  | .contextSaveStart ctx => Sys2Proof.Machine.execContextSaveStart ctx s
  | .contextSaveDone ctx => Sys2Proof.Machine.execContextSaveDone ctx s
  | .contextRestoreStart ctx => Sys2Proof.Machine.execContextRestoreStart ctx s
  | .contextRestoreDone ctx => Sys2Proof.Machine.execContextRestoreDone ctx s
  | .contextSealDone ctx => Sys2Proof.Machine.execContextSealDone ctx s
  | .pageWalk core vpage => Sys2Proof.Machine.execPageWalk core vpage s
  | .walkComplete core vpage => Sys2Proof.Machine.execWalkComplete core vpage s
  | .frtailWrite ctx val => Sys2Proof.Machine.execFrtailWrite ctx val s
  | .fqtailWrite ctx val => Sys2Proof.Machine.execFqtailWrite ctx val s
  | .tinvRange asid gen => Sys2Proof.Machine.execTinvRange asid gen s
  | .tinvAsidGen asid gen => Sys2Proof.Machine.execTinvAsidGen asid gen s
  | .tinvAsidAllGen asid => Sys2Proof.Machine.execTinvAsidAllGen asid s
  | .tinvcmdReserved => Sys2Proof.Machine.execTinvcmdReserved s
  | .queueEnable q cfg => Sys2Proof.Machine.execQueueEnable q cfg s
  | .queueDrain q => Sys2Proof.Machine.execQueueDrain q s
  | .queueTailWrite q val => Sys2Proof.Machine.execQueueTailWrite q val s
  | .queueHandEntry q => Sys2Proof.Machine.execQueueHandEntry q s
  | .queueEntryRetire q entry => Sys2Proof.Machine.execQueueEntryRetire q entry s
  | .recArm ctx rec => Sys2Proof.Machine.execRecArm ctx rec s
  | .recBlank ctx rec => Sys2Proof.Machine.execRecBlank ctx rec s
  | .recQuery ctx rec => Sys2Proof.Machine.execRecQuery ctx rec s
  | .reccmdReserved => Sys2Proof.Machine.execReccmdReserved s
  | .rpoolWrite ctx val => Sys2Proof.Machine.execRpoolWrite ctx val s
  | .bcfgWrite dev num val => Sys2Proof.Machine.execBcfgWrite dev num val s
  | .dictLoad slot addr => Sys2Proof.Machine.execDictLoad slot addr s
  | .dictLoadDone slot => Sys2Proof.Machine.execDictLoadDone slot s
  | .dictRetire slot => Sys2Proof.Machine.execDictRetire slot s
  | .dictPin slot => Sys2Proof.Machine.execDictPin slot s
  | .dictUnpin slot => Sys2Proof.Machine.execDictUnpin slot s
  | .frameMap frame loc ilv => Sys2Proof.Machine.execFrameMap frame loc ilv s
  | .frameUnmap frame => Sys2Proof.Machine.execFrameUnmap frame s
  | .frameMigrate frame loc => Sys2Proof.Machine.execFrameMigrate frame loc s
  | .frameAbort frame => Sys2Proof.Machine.execFrameAbort frame s
  | .migrationLineCopy frame => Sys2Proof.Machine.execMigrationLineCopy frame s
  | .migrationCommit frame => Sys2Proof.Machine.execMigrationCommit frame s
  | .migrationCommitDone frame => Sys2Proof.Machine.execMigrationCommitDone frame s
  | .migrationParkTimeout frame => Sys2Proof.Machine.execMigrationParkTimeout frame s
  | .hotDecay => Sys2Proof.Machine.execHotDecay s
  | .fltlimWrite val => Sys2Proof.Machine.execFltlimWrite val s
  | .wayFlushDone slice way => Sys2Proof.Machine.execWayFlushDone slice way s
  | .wayZeroDone slice way => Sys2Proof.Machine.execWayZeroDone slice way s
  | .rdemoteWrite slice chain => Sys2Proof.Machine.execRdemoteWrite slice chain s
  | .demotionDone slice => Sys2Proof.Machine.execDemotionDone slice s
  | .powerSample watts maxTemp => Sys2Proof.Machine.execPowerSample watts maxTemp s
  | .stepChangeDone => Sys2Proof.Machine.execStepChangeDone s
  | .powerCapWrite watts => Sys2Proof.Machine.execPowerCapWrite watts s
  | .powerOvercapAlarm => Sys2Proof.Machine.execPowerOvercapAlarm s
  | .thermalTrip => Sys2Proof.Machine.execThermalTrip s
  | .linkTrain link => Sys2Proof.Machine.execLinkTrain link s
  | .linkDown link => Sys2Proof.Machine.execLinkDown link s
  | .linkRelease link => Sys2Proof.Machine.execLinkRelease link s
  | .linkTrained link lanes full peer => Sys2Proof.Machine.execLinkTrained link lanes full peer s
  | .linkTrainTimeout link => Sys2Proof.Machine.execLinkTrainTimeout link s
  | .linkLanesLost link left => Sys2Proof.Machine.execLinkLanesLost link left s
  | .linkErrorWindow link errors => Sys2Proof.Machine.execLinkErrorWindow link errors s
  | .salmusFlitReceive link crcOk req => Sys2Proof.Machine.execSalmusFlitReceive link crcOk req s
  | .remoteElementServe req => Sys2Proof.Machine.execRemoteElementServe req s
  | .bar2Read off n => Sys2Proof.Machine.execBar2Read off n s
  | .bar2Write off data => Sys2Proof.Machine.execBar2Write off data s
  | .kdActivate kd => Sys2Proof.Machine.execKdActivate kd s
  | .kdRotate kd => Sys2Proof.Machine.execKdRotate kd s
  | .kdRetire kd => Sys2Proof.Machine.execKdRetire kd s
  | .kdFree kd => Sys2Proof.Machine.execKdFree kd s
  | .turnover ctxMask kdMask nonce fail => Sys2Proof.Machine.execTurnover ctxMask kdMask nonce fail s
  | .measureExtend slot digest => Sys2Proof.Machine.execMeasureExtend slot digest s
  | .quoteSign nonce => Sys2Proof.Machine.execQuoteSign nonce s
  | .remapTableError stack channel copyOk => Sys2Proof.Machine.execRemapTableError stack channel copyOk s
  | .remapTableReloadDone stack channel => Sys2Proof.Machine.execRemapTableReloadDone stack channel s
  | .refreshPostponed stack => Sys2Proof.Machine.execRefreshPostponed stack s
  | .coldReset => Sys2Proof.Machine.execColdReset s
  | .functionLevelReset => Sys2Proof.Machine.execFunctionLevelReset s
  | .registerWrite reg val => Sys2Proof.Machine.execRegisterWrite reg val s
  | .qbaseWrite q cfg val => Sys2Proof.Machine.execQbaseWrite q cfg val s
  | .rowRemapTableWrite stack channel row spare => Sys2Proof.Machine.execRowRemapTableWrite stack channel row spare s

end Sys2Proof.Machine
end

