-- ==== Sys2Proof/Machine/Bundle.lean ====
section
/-! DEFINITION. What a step performs: the issue of a cluster's next word, alone or in a lock-step bundle, an event, and the order in which
    things happen when nothing says otherwise (R46, R47, R132; log 3). -/

namespace Sys2Proof.Machine

open Sys2Proof

/-! One word (R46). -/

/-- The state with a cluster as the one that issues. -/
def State.at (s : State) (k : CoreId) (c : Cluster) : State := { s with cur := k, curCl := c }

/-- The bytes of a word that does not decode, and of the word after it where it takes one (R299). -/
def rawImage (w next : Nat) : List Byte := toBytes 24 w ++ toBytes 24 next

/-- Y of a word's header (R116). -/
def wordY (c : Cluster) (w : Nat) : Bool := bit w (c.width - 11 + 4)

/-- A word with Y clear issues alone. -/
def issueAlone (s : State) (w next : Nat) : Out :=
  match decodeAt s.curCl w next with
  | .ok i => exec i s
  | .bad b => .next (s.trapBad b (rawImage w next))

/-! Bundles (R46, R47, R131, R132). -/

/-- A cluster's word in a bundle: the cluster, the words, and what they decode to. -/
structure Member where
  c : Cluster
  w : Nat
  next : Nat
  d : Dec

/-- The next word of every cluster, when each can issue and has Y set. -/
def State.members (s : State) : List Cluster → Option (State × List Member)
  | [] => some (s, [])
  | c :: r =>
    let s := { s with curCl := c }
    if !s.canIssue then none else
    match s.fetchAt s.me c with
    | (_, .trap _ _ _) => none
    | (s, .words w next) =>
      if !wordY c w then none else
      match members s r with
      | none => none
      | some (s, l) => some (s, { c := c, w := w, next := next, d := decodeAt c w next } :: l)

/-- The check of the table of R131 that a member fails. -/
def State.memberTable (s : State) (m : Member) : Option Bad :=
  match m.d with
  | .bad b => some b
  | .ok i => tableBad (s.mine.cl m.c) i

/-- The first member, in the order A, V, T, S, that fails a check. -/
def firstBad (f : Member → Option Bad) : List Member → Option (Member × Bad)
  | [] => none
  | m :: r => match f m with | some b => some (m, b) | none => firstBad f r

/-- The issue cycle of a member (R48, R49). -/
def State.memberTick (s : State) (m : Member) : State :=
  match m.d with
  | .ok i => ({ s with curCl := m.c }).tick i
  | .bad _ => s

/-- A member stands where it is (R46, R49). -/
def State.memberStand (s : State) (m : Member) : State :=
  match m.d with
  | .ok i => ({ s with curCl := m.c }).holdBack i
  | .bad _ => s

/-- The further check that a member fails, a push onto a full loop stack among them (R131). -/
def State.memberIssue (s : State) (m : Member) : Option Bad :=
  match m.d with
  | .bad b => some b
  | .ok i =>
    match issueBad m.c (s.mine.cl m.c) i with
    | some b => some b
    | none => if ({ s with curCl := m.c }).fullPush i then some (.illop 0x0D) else none

/-- A member stalls. -/
def State.memberHolds (s : State) (m : Member) : Bool :=
  match m.d with
  | .ok i => ({ s with curCl := m.c }).holds i
  | .bad _ => false

/-- The members' copy commands and fills together would push CP beyond its limit (R43, R46). -/
def State.cpOver (s : State) (l : List Member) : Bool :=
  let n := (l.map fun m => match m.d with | .ok i => if guardTrue (s.mine.cl m.c) i then cpDemand i else 0 | .bad _ => 0).foldl (· + ·) 0
  decide (0 < n ∧ 255 < s.mine.cpLoad + n)

/-- Whether a branch, a call or an lbr of a bundle is taken; a false guard is not taken (R47, R119, R150, R152). -/
def memberTaken (x : Cl) (i : Instr) : Option Bool :=
  match i with
  | .br _ _ | .jmp _ _ | .call _ _ _ | .ret _ _ => some (guardTrue x i)
  | .brp _ sense p _ => some (guardTrue x i && brpTaken x sense p)
  | .lbr h _ => some (guardBit x h && (match x.loops with | e :: _ => e.st == .drain || e.rem != 0 || e.tail != 0 | [] => false))
  | _ => none

/-- The branches of a bundle disagree (R47). -/
def State.branchesDisagree (s : State) (l : List Member) : Bool :=
  let t := l.filterMap fun m => match m.d with | .ok i => memberTaken (s.mine.cl m.c) i | .bad _ => none
  t.any id && t.any (!·)

/-- The pops of a member whose guard is true, before any operand is read (R45, R46). -/
def State.memberPops (s : State) (m : Member) : State :=
  match m.d with
  | .ok i => if guardTrue (s.mine.cl m.c) i then ({ s with curCl := m.c }).popsOf i else s
  | .bad _ => s

/-- Each member performed in turn. -/
def runMembers : List Member → State → Out
  | [], s => .next s
  | m :: r, s =>
    match m.d with
    | .bad _ => .next s
    | .ok i =>
      match exec i { s with curCl := m.c } with
      | .next t => runMembers r t
      | .fault x => .fault x
      | .refused x => .refused x

/-- A bundle ends: traps that its words raised are entered once nothing is outstanding (R296). -/
def endJoint (c : Cluster) : Out → Out
  | .next t => .next (({ t with joint := false, curCl := c }).settle t.me)
  | .fault x => .fault x
  | .refused x => .refused x

/-- A member's trap for a check that failed; no word issues (R132). -/
def State.memberTrap (s : State) (m : Member) (b : Bad) : State := ({ s with curCl := m.c }).trapBad b (rawImage m.w m.next)

/-- A bundle that has passed the table of R131: it traps for another check, stalls, or issues, as a whole (R46, R47, R132). -/
def issueMembers (c : Cluster) (s : State) (l : List Member) : Out :=
  let t := l.foldl State.memberTick s
  match firstBad t.memberIssue l with
  | some (m, b) => .next (s.memberTrap m b)
  | none =>
    if l.any t.memberHolds || t.cpOver l then .next { (l.foldl State.memberStand t) with curCl := c }
    else if t.branchesDisagree l then
      endJoint c (.next (l.foldl (fun (t : State) m => t.memberTrap m (.illop 0x09)) { t with joint := true }))
    else
      endJoint c (runMembers l { (l.foldl State.memberPops t) with joint := true })

/-- A bundle issues, traps, or stalls as a whole. The table of R131 is passed by every member before a further check of any (log 34;
    DEDUCED). -/
def issueBundle (c : Cluster) (s : State) (l : List Member) : Out :=
  match firstBad s.memberTable l with
  | some (m, b) => .next (s.memberTrap m b)
  | none => issueMembers c s l

/-! The issue of a cluster (R46, R304). -/

/-- A bkpt that a debugger waits for has issued: the core halts (R159, R304). -/
def halting (k : CoreId) : Out → Out
  | .next t => .next (t.haltHit k.toNat)
  | .fault x => .fault x
  | .refused x => .refused x

/-- A cluster's next word issues if it can: an enabled breakpoint halts first; a fetch may trap; a word with Y clear issues alone, and one with Y
    set with the other three clusters' words. -/
def issueMove (s0 : State) (k : CoreId) (c : Cluster) : Out :=
  let s := s0.at k c
  if !s.canIssue then .next s
  else if s.myCl.atBreak then .next (s.debugHalt k.toNat c)
  else match s.fetchAt k.toNat c with
  | (t, .trap cause pc operand) => .next (t.trapHere c cause pc 0 operand)
  | (t, .words w next) =>
    if !wordY c w then halting k (issueAlone t w next)
    else match Cluster.all.find? fun d => (t.mine.cl d).atBreak with
      | some d => .next (t.debugHalt k.toNat d)
      | none => match t.members Cluster.all with
        | some (u, l) => halting k (issueBundle c u l)
        | none => .next (t.tickTo (t.myCl.icyc + 1)).stall

/-! Moves (log 3). -/

/-- Accesses of the host through BAR 0 and BAR 2, which are dropped until the start record is written, and while the link carries no traffic (R369,
    R390). BAR 2 reads answer all ones. -/
def viaBar : Instr → Bool
  | .ctxLoad _ _ | .ctxPreempt _ | .ctxRestore _ | .ctxSeal _ => true
  | .frtailWrite _ _ | .fqtailWrite _ _ | .tinvRange _ _ | .tinvAsidGen _ _ | .tinvAsidAllGen _ | .tinvcmdReserved => true
  | .queueEnable _ _ | .queueDrain _ | .queueTailWrite _ _ | .qbaseWrite _ _ _ => true
  | .recArm _ _ | .recBlank _ _ | .recQuery _ _ | .reccmdReserved | .rpoolWrite _ _ | .bcfgWrite _ _ _ => true
  | .dictLoad _ _ | .dictRetire _ | .dictPin _ | .dictUnpin _ => true
  | .frameMap _ _ _ | .frameUnmap _ | .frameMigrate _ _ | .frameAbort _ | .fltlimWrite _ => true
  | .debugResume _ | .debugWindowAccess _ _ _ | .bar2Write _ _ => true
  | .registerWrite r _ => (match r with | .devid | .rtag _ _ | .lctl _ | .elbase | .elcfg | .eltail => false | _ => true)
  | _ => false

/-- A move that met a place that holds it has not taken place (R93, R367; log 66). -/
def unheld (s : State) : Out → Out
  | .next t => .next (if t.heldHit then s else t)
  | .fault x => .fault x
  | .refused x => .refused x

/-- A move. Words come only from memory. -/
def moveBody (s : State) : Move → Out
  | .issue k c => issueMove s k c
  | .event i => if i.kind != .event || (viaBar i && !s.barOpen) then .next s else exec i s
  | .storePerform k c => .next (s.storePerform k.toNat c)
  | .evictL1 k line => .next (s.evictL1 k.toNat line)
  | .cellError line lost => .next (if lost then { s with bad := sset false s.bad line true } else { s with weak := sset false s.weak line true })
  | .evictRecord cell => .next (s.evictRec cell)
  | .bar0Read off => .next (s.bar0Read off)
  | .bar0Write off v => s.bar0Write off v
  | .tableError channel => .next (s.tableError channel)
  | .turnover => .next s.turnNext

/-! What happens next when nothing says otherwise (log 3). -/

/-- Something that may happen. -/
abbrev Try := State → Out

/-- What may act on a core's cluster. -/
def clusterTries (k : CoreId) (c : Cluster) : List Try :=
  [execLoadReturn k c, execAcquireDone k c, (fun s => .next (s.storePerform k.toNat c)), execAtomicPerform k c, execReductionPerform k c,
   execDgsealEntry k c, execReleaseDone k c, execSignalDeliver k c, execBinitPerform k c, execBarrierArrival (.thread k c), execLmodeSwitch k c,
   execWatchdog k c]

/-- What may act on a core's pair queue. -/
def pairTries (k : CoreId) (p : BitVec 3) : List Try :=
  [execXbarOpStart k p, execXmvmComplete k p, execXprogComplete k p, execXverifyComplete k p, execXcalComplete k p, execXeraseComplete k p,
   execXstatComplete k p]

/-- What a continuation may need. -/
def contTries (k : CoreId) (x : Cont) : List Try :=
  execWaitEvaluate k x.slot :: (match x.on with
    | .probe _ _ _ _ toWalk _ _ _ => toWalk.flatMap fun p => [execPageWalk k (.ofNat 27 p), execWalkComplete k (.ofNat 27 p)]
    | _ => [])

/-- What may act on a core. -/
def coreTries (k : CoreId) (x : Core) : List Try :=
  (Cluster.all.flatMap fun c => clusterTries k c)
  ++ [execVldgReturn k, execHandlerEntry k, execTaskLevelAction k, execContinuationSaveDone k, execWaitHoldRelease k, execPhaseSplitChange k,
      execTileStepExecute k, execTileStepComplete k, execNestStepPlace k, execWeightFillStart k, execWeightFillComplete k, execCopyEntryStart k,
      execOwntReturn k]
  ++ (x.cp.map fun e => execCopyEntryComplete k e.seq)
  ++ ((List.range 8).flatMap fun p => pairTries k (.ofNat 3 p))
  ++ (x.conts.flatMap fun e => contTries k e)
  ++ [execContinuationStart k, execTaskStart k]

/-- What may act on a context. -/
def ctxTries (n : Nat) : List Try :=
  let c : CtxId := .ofNat 6 n
  [execContextLoadDone c, execContextSaveStart c, execContextSaveDone c, execContextRestoreStart c, execContextRestoreDone c, execContextSealDone c]

/-- What may act on a queue. -/
def queueTries (n : Nat) (q : Queue) : List Try :=
  let i : QueueId := .ofNat 14 n
  (q.pending.map fun j => execQueueEntryRetire i j) ++ [execQueueHandEntry i]

/-- What may act on a frame. -/
def frameTries (n : Nat) : List Try :=
  let f : FrameId := .ofNat 28 n
  [execMigrationLineCopy f, execMigrationCommit f, execMigrationCommitDone f, execMigrationParkTimeout f]

/-- What the device's own units may do. -/
def State.unitTries (s : State) : List Try :=
  [execStepChangeDone, execBarrierArrival .engine, fun s => .next s.turnNext]
  ++ (s.ctxs.flatMap fun e => ctxTries e.1)
  ++ (s.queues.flatMap fun e => queueTries e.1 e.2)
  ++ (s.launches.flatMap fun l => [execSuperstepRelease l.id, execKernelRetire l.id])
  ++ (s.quads.flatMap fun e => [execJointStepExecute (.ofNat 6 e.1), execGroupDone (.ofNat 6 e.1), execGroupQuadFree (.ofNat 6 e.1)])
  ++ [execDispatchChoice]
  ++ (s.frames.flatMap fun e => frameTries e.1)
  ++ (s.dicts.map fun e => execDictLoadDone (.ofNat 6 e.1))
  ++ (s.ways.flatMap fun e => [execWayFlushDone (.ofNat 4 (e.1 / 16)) (.ofNat 4 (e.1 % 16)), execWayZeroDone (.ofNat 4 (e.1 / 16)) (.ofNat 4 (e.1 % 16))])
  ++ (s.rdemote.map fun e => execDemotionDone (.ofNat 4 e.1))
  ++ (s.remap.map fun e => execRemapTableReloadDone (.ofNat 4 (e.1 / 32)) (.ofNat 5 (e.1 % 32)))

/-- The clusters that may issue, taken in turn by the count of steps. -/
def State.issueTries (s : State) : List Try :=
  let l : List Try := s.cores.flatMap fun e => if e.2.task.isSome then Cluster.all.map fun c => fun t => issueMove t (.ofNat 8 e.1) c else []
  l.drop (s.seq % (l.length + 1)) ++ l.take (s.seq % (l.length + 1))

/-- Everything that may happen, in the order in which it is tried: the start first, then work that is under way, then issue. -/
def State.tries (s : State) : List Try :=
  if !s.started then [execColdReset]
  else s.unitTries ++ (s.cores.flatMap fun e => coreTries (.ofNat 8 e.1) e.2) ++ s.issueTries

/-- A try that has only looked at memory: nothing but the slices' lines, their access counts and the walk cache differs. -/
def State.onlyRead (s t : State) : Bool :=
  t == { s with cur := t.cur, curCl := t.curCl, slices := t.slices, hotCnt := t.hotCnt, walkCache := t.walkCache }

/-- The first that changes more than what a look at memory does, or stops the machine; with none the machine idles. -/
def State.firstTry (s : State) : List Try → Out
  | [] => .next s
  | f :: r =>
    match unheld s (f s) with
    | .next t => if s.onlyRead t then firstTry s r else .next t
    | .fault x => .fault x
    | .refused x => .refused x

/-- The first move of the agenda, with those behind it: a move that its place holds stays where it is, and something else happens (log 66). -/
def performMove (s : State) (m : Move) (r : List Move) : Out :=
  match moveBody { s with agenda := r } m with
  | .next t => if t.heldHit then s.firstTry s.tries else .next t
  | .fault x => .fault x
  | .refused x => .refused x

/-! Time (log 5). -/

/-- Time passes with a step: no arithmetic cycle while the clock is stopped (R20). -/
def State.elapse (s : State) : State :=
  { s with seq := s.seq + 1, cycle := s.cycle + (if s.power.stopped then 0 else Config.elapsedCycles s.seq), us := s.us + Config.elapsedUs s.seq }

/-- A thermal trip holds the module in reset: only a cold reset moves (R23). -/
def State.held (s : State) : Bool :=
  s.power.tripped && (match s.agenda with | .event .coldReset :: _ => false | _ => true)

/-- What is ready when a step begins: time has passed, BAR 2 writes and the device's own writes that nothing holds are home (log 5, log 69), and
    changes of the mappings that saved handles rest on are noted (R37). -/
def State.begin (s : State) : State :=
  let t := s.elapse
  let u := t.drainPosted
  (if u.heldHit then t else u).flushTodo.noteChanges

/-- One step: the next move of the agenda, or the choice above (log 3). -/
def stepMove (s : State) : Out :=
  if s.held then .fault .heldInReset else
  let t := s.begin
  match t.agenda with
  | m :: r => performMove t m r
  | [] => t.firstTry t.tries

/-! A word where the next step fetches (log 4). -/

/-- The cluster whose stream a table row's words belong to, by their width. -/
def clusterOf (nbits : Nat) : Cluster := if nbits ≤ 64 then .A else if nbits ≤ 96 then .V else .T

/-- A context that is loaded and RUNNING, with its page table at 2 MiB. -/
def placedCtx (x : Ctx) : Ctx :=
  { x with st := .running, desc := { x.desc with config := 0, ptroot := 0x200000, cores := 1 } }

/-- A task of context 0 on core 0. -/
def placedTask : Task :=
  { ctx := 0, launch := 0, lser := 0, ord := 0, wid := 0, first := 0, gsize := 1, quad := 0, ver := false, steps := 0, w := 0xFFFFFFFF,
    ttbase := 0, pcs := [0, 0, 0, 0], params := [] }

/-- A cluster that is about to issue the word at virtual address 0. -/
def placedCl (x : Cl) : Cl :=
  { x with pc := 0, loops := [], exposed := false, flight := [], loadQ := [], storeQ := [], rets := [], wait := none, popped := [], stopped := false,
           trapped := none, dbgbp := [] }

/-- Core 0 running that task. -/
def placedCore (k : Core) : Core :=
  { (k.upAll fun _ x => placedCl x) with
      task := some placedTask, ending := none, trap := none, inh := false, halted := false, preempt := 0, phaseReq := [], waitHeld := false, debug := .off,
      rtb := [], nests := [] }

/-- The frame that holds the code: RESIDENT at 4 MiB under scheme 2. -/
def placedFrame : Frame := { Frame.reset with st := .resident, loc := 2, ilv := 2 }

/-- A page-table leaf of frame 1 that allows fetch, under key domain 0. -/
def placedLeaf : Nat := 2 ^ 63 + 2 ^ 60 + 2 ^ 32 + 2 * 2 ^ 29

/-- Bytes in memory from byte `o` of a page at a location under a scheme on, within one stripe (R357). -/
def placed (base ilv o : Nat) (bs : List Byte) (m : Memory) : Memory := putBytes unwritten m (cellOf base ilv o) (allOf bs)

/-- The three table entries that map virtual page 0, in the page at 2 MiB. -/
def placedTables (m : Memory) : Memory :=
  let entry (o v : Nat) (m : Memory) : Memory := placed 0x200000 7 o (toBytes 8 v) m
  entry 0x2000 placedLeaf (entry 0x1000 (2 ^ 63 + 0x202000) (entry 0 (2 ^ 63 + 0x201000) m))

/-- The instruction's bytes in the cluster's stream, 48 of them, at the frame's start. -/
def placedCode (c : Cluster) (w : Nat) (m : Memory) : Memory :=
  placed 0x400000 2 0 (toBytes c.wordBytes w ++ toBytes c.wordBytes (w / 2 ^ c.width)) m

/-- A started module in which core 0 is about to issue the word from memory. -/
def placeWord (s : State) (nbits w : Nat) : State :=
  let c := clusterOf nbits
  { s with
      agenda := [.issue 0 c], joint := false, started := true, power := { s.power with stopped := false, tripped := false },
      cores := sput s.cores 0 (placedCore (s.core 0)), ctxs := sput s.ctxs 0 (placedCtx (s.ctx 0)),
      mem := placedCode c w (placedTables s.mem), lines := [], bad := [], weak := [], l2 := [], walkCache := [], remap := [], posted := [], todo := [],
      digests := [], heldHit := false, fltlim := 2, frames := sput [] 1 placedFrame }

end Sys2Proof.Machine
end

