-- ==== Sys2Proof/Machine/Step.lean ====
section
/-! DEFINITION. One step of the module, and a word placed where the next step fetches. -/

namespace Sys2Proof.Machine

open Sys2Proof

/-- One step: time passes, and the next move is performed (log 3). -/
def step (s : State) : Host.Outcome State Fault Refusal := stepMove s

/-- The state in which the very next step fetches and runs the instruction whose bits are `w` (log 4). -/
def State.withFetchWord (s : State) (nbits w : Nat) : State := placeWord s nbits w

end Sys2Proof.Machine
end

