-- ==== Sys2Proof/Safety.lean ====
section
/-! DEFINITION. The terms in which claims speak of a run: when a word issues and acts, what it leaves alone, and what holds of
    every state the machine can be in. -/

namespace Sys2Proof.Machine

open Sys2Proof

/-- The state a word's checks and operands see: in a bundle as it is (`step` has settled it, R46); alone, at its issue cycle, with
    the results then due written (R48, R49). -/
def State.ticked (s : State) (i : Instr) : State := if s.joint then s else s.tick i

/-- The state a word's body reads: the word's pops have been made (R45). -/
def State.begun (s : State) (i : Instr) : State := if s.joint then s else (s.tick i).popsOf i

/-- The issuing cluster's next word `i` issues now and acts: the cluster can issue, the word passes the checks of R131, nothing
    holds it (R48), no full loop stack refuses it (R148), and its guard is true (R119). -/
structure Ready (s : State) (i : Instr) : Prop where
  issues : s.canIssue = true
  formed : issueBad s.curCl s.myCl i = none
  free : s.joint = true ∨ (s.tick i).holds i = false
  room : (s.ticked i).fullPush i = false
  guard : guardTrue (s.ticked i).myCl i = true

/-- The issuing cluster's next word `i` issues now and only passes: its guard is false (R119). -/
structure Passes (s : State) (i : Instr) : Prop where
  issues : s.canIssue = true
  formed : issueBad s.curCl s.myCl i = none
  free : s.joint = true ∨ (s.tick i).holds i = false
  room : (s.ticked i).fullPush i = false
  guard : guardTrue (s.ticked i).myCl i = false

/-- The state a word's body gets: what the word will push is known, so that its results wait for the space (R45). -/
def State.noted (s : State) (i : Instr) : State := s.upMyCl fun x => { x with need := pushesOf i }

/-- A result of latency `lat` of the word `i` is written as the word issues: in scoreboard mode, with a latency that no lmode behind the word
    overtakes, where the word pushes nothing or retires at once (R45, R48, R50; log 6, log 22). -/
def State.atOnce (s : State) (i : Instr) (lat : Nat) : Prop :=
  s.myCl.exposed = false ∧ lat ≤ lmodeReach ∧ (pushesOf i = 0 ∨ (lat ≤ 1 ∧ s.mine.hasRoom s.curCl (pushesOf i) = true))

/-- From `s`, the state a word's body reads, the result `v` of the word `i` is in flight, due `lat` issue cycles later once the word's pushes find
    space (R45, R49). -/
def Sent (i : Instr) (s t : State) (lat : Nat) (v : RegVal) : Prop :=
  ({ due := s.myCl.icyc + lat, what := v, need := pushesOf i } : InFlight) ∈ t.myCl.flight

/-- Two states differ in no core but the issuing one, and in nothing outside the cores: no memory, no other unit. -/
def SameOutside (s t : State) : Prop := (∀ k, k ≠ s.me → t.core k = s.core k) ∧ { t with cores := s.cores } = s

/-- The issuing cores differ in nothing but the issuing cluster and the token FIFOs. -/
def SameCore (s t : State) : Prop :=
  (∀ c, c ≠ s.curCl → t.mine.cl c = s.mine.cl c) ∧
  { t.mine with a := s.mine.a, v := s.mine.v, t := s.mine.t, sc := s.mine.sc, toRight := s.mine.toRight, toLeft := s.mine.toLeft } = s.mine

/-- The issuing clusters differ in nothing but the PC, the scalar registers, the predicates, the results in flight and what they need, the
    outgoing token registers and the note of pops. -/
def SameCluster (s t : State) : Prop :=
  { t.myCl with pc := s.myCl.pc, s := s.myCl.s, p := s.myCl.p, flight := s.myCl.flight, need := s.myCl.need, outL := s.myCl.outL, outR := s.myCl.outR, popped := s.myCl.popped } = s.myCl

/-- From `s`, the state a word's body reads, the word `i` has passed with `t` as the result, and nothing but registers, predicates and
    tokens of its cluster changed: the frame of a word that only computes. -/
structure Passed (i : Instr) (s t : State) : Prop where
  outside : SameOutside s t
  core : SameCore s t
  cluster : SameCluster s t
  pc : t.myCl.pc = pcPlus s.curCl s.myCl.pc i.words

/-- No scalar register but `d` differs. -/
def RegsBut (d : Option Reg) (s t : State) : Prop := ∀ r, some r ≠ d → t.reg r = s.reg r

/-- No lane of a predicate differs. -/
def PredsKept (s t : State) : Prop := ∀ p, t.myCl.pmask p = s.myCl.pmask p

/-- The memories are in canonical form. -/
def Memory.wf (m : Memory) : Bool := swf unwritten m

/-- What holds of every state the machine can be in: device and host memory are canonical. -/
def State.Inv (s : State) : Prop := Memory.wf s.mem = true ∧ Memory.wf s.hostMem = true

end Sys2Proof.Machine
end

