-- ==== Sys2Proof/Certificates/Slice0/Obligations.lean ====
section
/-! DEFINITION. The statements for the provers. Section by section: what the encodings say, what a step does, and what each family of words
    and events does to the state. The helper functions restate tables of the manual in plain arithmetic. -/

namespace Sys2Proof.Spec

open Sys2Proof Sys2Proof.Machine

/-! Scalar words. -/

/-- The register and the value of a scalar word that computes a register: R138, R140, R141, R142, R154. -/
def scalarResult (u : State) : Instr → Option (Reg × Word)
  | .add _ d a b => some (d, u.reg a + u.reg b)
  | .sub _ d a b => some (d, u.reg a - u.reg b)
  | .and _ d a b => some (d, u.reg a &&& u.reg b)
  | .or _ d a b => some (d, u.reg a ||| u.reg b)
  | .xor _ d a b => some (d, u.reg a ^^^ u.reg b)
  | .shl _ d a b => some (d, .ofNat 64 ((u.reg a).toNat * 2 ^ ((u.reg b).toNat % 64)))
  | .shr _ d a b => some (d, .ofNat 64 ((u.reg a).toNat / 2 ^ ((u.reg b).toNat % 64)))
  | .sar _ d a b => some (d, .ofInt 64 ((u.reg a).toInt / 2 ^ ((u.reg b).toNat % 64)))
  | .mul _ d a b => some (d, .ofNat 64 ((u.reg a).toNat * (u.reg b).toNat))
  | .mulhs _ d a b => some (d, .ofInt 64 ((u.reg a).toInt * (u.reg b).toInt / 2 ^ 64))
  | .mulhn _ d a b => some (d, .ofNat 64 ((u.reg a).toNat * (u.reg b).toNat / 2 ^ 64))
  | .divs _ d a b => some (d, if u.reg b = 0 then .allOnes 64 else .ofInt 64 ((u.reg a).toInt.tdiv (u.reg b).toInt))
  | .divn _ d a b => some (d, if u.reg b = 0 then .allOnes 64 else .ofNat 64 ((u.reg a).toNat / (u.reg b).toNat))
  | .rems _ d a b => some (d, if u.reg b = 0 then u.reg a else .ofInt 64 ((u.reg a).toInt.tmod (u.reg b).toInt))
  | .remn _ d a b => some (d, if u.reg b = 0 then u.reg a else .ofNat 64 ((u.reg a).toNat % (u.reg b).toNat))
  | .min _ d a b => some (d, if (u.reg a).toInt < (u.reg b).toInt then u.reg a else u.reg b)
  | .max _ d a b => some (d, if (u.reg a).toInt < (u.reg b).toInt then u.reg b else u.reg a)
  | .sel h d a b => some (d, if u.myCl.pbit h.g = !h.n then u.reg a else u.reg b)
  | .addi h d a k => some (d, u.reg a + immI h k)
  | .andi h d a k => some (d, u.reg a &&& immI h k)
  | .ori h d a k => some (d, u.reg a ||| immI h k)
  | .shli h d a k => some (d, .ofNat 64 ((u.reg a).toNat * 2 ^ shiftCount h k))
  | .shri h d a k => some (d, .ofNat 64 ((u.reg a).toNat / 2 ^ shiftCount h k))
  | .sari h d a k => some (d, .ofInt 64 ((u.reg a).toInt / 2 ^ shiftCount h k))
  | .limm _ d false lit => some (d, .ofInt 64 lit.toInt)
  | .limm _ d true lit => some (d, .ofNat 64 ((u.reg d).toNat % 2 ^ 32 + 2 ^ 32 * lit.toNat))
  | .tkrd _ d .left => some (d, u.myCl.inL)
  | .tkrd _ d .right => some (d, u.myCl.inR)
  | _ => none

/-- The latency of a word that computes a scalar register or a predicate (R139). -/
def scalarLatency : Instr → Nat
  | .mul _ _ _ _ | .mulhs _ _ _ _ | .mulhn _ _ _ _ => 4
  | .divs _ _ _ _ | .divn _ _ _ _ | .rems _ _ _ _ | .remn _ _ _ _ => 24
  | .getc _ _ _ => 2
  | _ => 1

/-- A comparison by its condition (R125). -/
inductive Cond | eq | ne | lt | le | lo | ls
  deriving DecidableEq, Repr

/-- The comparison a condition makes. -/
def Cond.holds (c : Cond) (a b : Word) : Bool :=
  match c with
  | .eq => decide (a = b)
  | .ne => decide (a ≠ b)
  | .lt => decide (a.toInt < b.toInt)
  | .le => decide (a.toInt ≤ b.toInt)
  | .lo => decide (a.toNat < b.toNat)
  | .ls => decide (a.toNat ≤ b.toNat)

/-- The predicate and the bit of a scalar compare or of plog: R143, R144. -/
def predResult (u : State) : Instr → Option (Pred × Bool)
  | .cmpEq _ pd a b => some (pd, Cond.eq.holds (u.reg a) (u.reg b))
  | .cmpNe _ pd a b => some (pd, Cond.ne.holds (u.reg a) (u.reg b))
  | .cmpLt _ pd a b => some (pd, Cond.lt.holds (u.reg a) (u.reg b))
  | .cmpLe _ pd a b => some (pd, Cond.le.holds (u.reg a) (u.reg b))
  | .cmpLo _ pd a b => some (pd, Cond.lo.holds (u.reg a) (u.reg b))
  | .cmpLs _ pd a b => some (pd, Cond.ls.holds (u.reg a) (u.reg b))
  | .cmpiEq h pd a k => some (pd, Cond.eq.holds (u.reg a) (immI h k))
  | .cmpiNe h pd a k => some (pd, Cond.ne.holds (u.reg a) (immI h k))
  | .cmpiLt h pd a k => some (pd, Cond.lt.holds (u.reg a) (immI h k))
  | .cmpiLe h pd a k => some (pd, Cond.le.holds (u.reg a) (immI h k))
  | .cmpiLo h pd a k => some (pd, Cond.lo.holds (u.reg a) (immI h k))
  | .cmpiLs h pd a k => some (pd, Cond.ls.holds (u.reg a) (immI h k))
  | .plog _ op pd pa pb =>
    let a := u.myCl.pbit pa
    let b := u.myCl.pbit pb
    some (pd, match op.toNat with | 0 => a && b | 1 => a || b | 2 => a != b | _ => a && !b)
  | _ => none

/-- What getc reads (R156): the number of a control register, and its value in a state. -/
def controlTable (u : State) : List (BitVec 10 × Word) :=
  let k := u.mine
  let x := u.myCl
  [(0x000, match k.task with | some t => t.wid | none => 0),
   (0x001, match k.task with | some t => .ofNat 64 (t.ord.toNat + 2 ^ 32 * t.lser.toNat) | none => 0),
   (0x002, .ofNat 64 (k.ctxNum % 64 + 2 ^ 16 * ((u.ctx k.ctxNum).desc.config.toNat % 2 ^ 16) + 2 ^ 32 * ((u.ctx k.ctxNum).desc.config.toNat / 2 ^ 16 % 2 ^ 8))),
   (0x003, .ofNat 64 u.cycle),
   (0x004, if x.exposed then 1 else 0),
   (0x005, k.steps.setWidth 64),
   (0x006, match u.curCl with | .V | .T => x.aflags.setWidth 64 | .A | .S => 0),
   (0x007, .ofNat 64 (x.ldCount % 256 + 2 ^ 8 * (x.stCount % 256) + 2 ^ 16 * (k.cpCount % 256) + 2 ^ 24 * (k.tsCount % 256))),
   (0x008, .ofNat 64 (u.power.step.toNat + 2 ^ 4 * u.power.cause.toNat + 2 ^ 32 * u.power.changes.toNat)),
   (0x009, k.cslot), (0x00A, k.cmask), (0x00B, k.seqCp), (0x00C, k.seqWs),
   (0x010, x.trapCause), (0x011, x.trapPc), (0x012, x.trapInfo)]

/-- The register a control-register number names, written with its reserved bits zero (R7, R156). -/
def controlWrite (u : State) (r : BitVec 10) (v : Word) : State :=
  match r.toNat with
  | 0x006 => (match u.curCl with | .V | .T => u.upMyCl fun x => { x with aflags := v.setWidth 8 } | .A | .S => u)
  | 0x009 => u.upMine fun k => { k with cslot := .ofNat 64 (v.toNat / 2 ^ 12 % 2 ^ 10 * 2 ^ 12) }
  | 0x00A => u.upMine fun k => { k with cmask := .ofNat 64 (v.toNat / 2 ^ 39 * 2 ^ 39) }
  | 0x010 => u.upMyCl fun x => { x with trapCause := .ofNat 64 (v.toNat % 2 ^ 16) }
  | 0x011 => u.upMyCl fun x => { x with trapPc := .ofNat 64 (v.toNat % 2 ^ 48) }
  | 0x012 => u.upMyCl fun x => { x with trapInfo := v }
  | _ => u

/-- The registers setc may write: AFLAGS, CSLOT and CMASK always, the TRAP registers in a handler (R156). -/
def controlMay (u : State) (r : BitVec 10) : Bool :=
  r == 0x006 || r == 0x009 || r == 0x00A || ((r == 0x010 || r == 0x011 || r == 0x012) && u.mine.inh)

end Sys2Proof.Spec

open Sys2Proof Sys2Proof.Machine Sys2Proof.Spec

/-- The arithmetic, immediate, literal, select and token-read words, where their result is written at once (R50; log 6, log 22):
    the destination takes the value of the manual's table (s0 stays zero), the PC moves past the word, and no other register, predicate, flag,
    control register or memory changes (R138, R140, R141, R142, R154). -/
def Sys2Proof.Spec.ScalarResult : Prop :=
  ∀ (s : State) (i : Instr) (d : Reg) (v : Word), Ready s i → (s.begun i).atOnce i (scalarLatency i) →
    scalarResult (s.begun i) i = some (d, v) →
    ∃ t, exec i s = .next t ∧ t.reg d = (if d = 0 then 0 else v) ∧ Passed i (s.begun i) t ∧ RegsBut (some d) (s.begun i) t ∧
      PredsKept (s.begun i) t

/-- The same words in exposed mode, a division or remainder in either mode, and in scoreboard mode one that pushes and cannot retire as it issues
    (R45, R50; log 6, log 22): no register changes at issue, and the result is in flight, due the word's latency of R139 later, once its pushes find space
    (R49, R138, R139, R140, R141, R142, R154). -/
def Sys2Proof.Spec.ScalarResultInFlight : Prop :=
  ∀ (s : State) (i : Instr) (d : Reg) (v : Word), Ready s i → ¬ (s.begun i).atOnce i (scalarLatency i) →
    scalarResult (s.begun i) i = some (d, v) →
    ∃ t, exec i s = .next t ∧ Sent i (s.begun i) t (scalarLatency i) (.sreg d v) ∧
      RegsBut none (s.begun i) t ∧ PredsKept (s.begun i) t ∧ SameOutside (s.begun i) t ∧ t.myCl.aflags = (s.begun i).myCl.aflags ∧ t.mine.trap = (s.begun i).mine.trap ∧
      t.myCl.pc = pcPlus (s.begun i).curCl (s.begun i).myCl.pc i.words

/-- An issue cycle writes a scalar result that is due and whose pushes find space, and leaves any other; in scoreboard mode a word that names the register of
    a result in flight issues in the cycle by which the result is written (R45, R48, R49). -/
def Sys2Proof.Spec.ResultDue : Prop :=
  ∀ (s : State) (i : Instr) (n : Nat) (d : Reg) (v : Word) (q : BitVec 2), s.myCl.flight = [{ due := n, what := .sreg d v, need := q }] →
    let m := if s.myCl.exposed = false ∧ d ≠ 0 ∧ d ∈ i.sregs then max n (s.myCl.icyc + 1) else s.myCl.icyc + 1
    let room := (q.getLsbD 1 = true → (s.mine.fifoTo s.curCl .left).length < 8) ∧ (q.getLsbD 0 = true → (s.mine.fifoTo s.curCl .right).length < 8)
    (s.tick i).myCl.icyc = m ∧
    (n ≤ m → room → (s.tick i).myCl.flight = [] ∧ (s.tick i).reg d = (if d = 0 then 0 else v) ∧ RegsBut (some d) s (s.tick i)) ∧
    (m < n ∨ ¬ room → (s.tick i).myCl.flight = s.myCl.flight ∧ RegsBut none s (s.tick i))

/-- The arithmetic, immediate, literal, select and token-read words. In scoreboard mode the destination takes the value of the manual's table at once; in exposed mode, for a division or remainder in either mode (log 6), and for a word that pushes and cannot retire as it issues (log 22), the value is in flight, due the word's latency later; an issue cycle writes a result that is due and whose pushes find space and leaves any other, but a word of scoreboard mode that names its register waits for it; s0 stays zero, and no other register, flag or memory changes (R45, R49, R138, R139, R140, R141, R142, R154). -/
def Obligations.ScalarResults : Prop := ScalarResult ∧ ScalarResultInFlight ∧ ResultDue

/-- Compares and plog: the predicate takes the result, in every lane in the V cluster and in bit 0 elsewhere; no other predicate and no register changes. In
    exposed mode, and for a word whose pushes find no space (log 22), the result is in flight, due one issue cycle later (R13, R45, R49, R139, R143, R144). -/
def Obligations.PredicateResult : Prop :=
  ∀ (s : State) (i : Instr) (p : Pred) (b : Bool), Ready s i → predResult (s.begun i) i = some (p, b) →
    ∃ t, exec i s = .next t ∧ p ≠ 0 ∧
      ((s.begun i).atOnce i 1 → t.myCl.pbit p = b ∧ (s.curCl = .V → ∀ l < 64, (t.myCl.pmask p).getLsbD l = b) ∧
        (∀ q, q ≠ p → t.myCl.pmask q = (s.begun i).myCl.pmask q) ∧ Passed i (s.begun i) t ∧ RegsBut none (s.begun i) t) ∧
      (¬ (s.begun i).atOnce i 1 →
        Sent i (s.begun i) t 1 (.pred p (predLanes s.curCl) (spread b)) ∧
        RegsBut none (s.begun i) t ∧ PredsKept (s.begun i) t ∧ SameOutside (s.begun i) t ∧
        t.myCl.pc = pcPlus s.curCl (s.begun i).myCl.pc i.words)

/-- getc reads the control register it numbers (R156): its register takes the value, two issue cycles later in exposed mode and where
    the word pushes (R45, R49, R139; log 22). -/
def Sys2Proof.Spec.ControlRead : Prop :=
  ∀ (s : State) (h : Hdr) (d : Reg) (r : BitVec 10) (v : Word), Ready s (.getc h d r) →
    let u := s.begun (.getc h d r)
    (r, v) ∈ controlTable u →
    ∃ t, exec (.getc h d r) s = .next t ∧ PredsKept u t ∧
      (u.atOnce (.getc h d r) 2 → t.reg d = (if d = 0 then 0 else v) ∧ Passed (.getc h d r) u t ∧ RegsBut (some d) u t) ∧
      (¬ u.atOnce (.getc h d r) 2 → Sent (.getc h d r) u t 2 (.sreg d v) ∧ RegsBut none u t ∧ SameOutside u t ∧
        t.myCl.pc = pcPlus u.curCl u.myCl.pc 1)

/-- setc writes AFLAGS (V and T), CSLOT, CMASK and, in a handler, the TRAP registers; for any other register it raises PRIV and leaves the
    register as it was (R156). -/
def Sys2Proof.Spec.ControlWrite : Prop :=
  ∀ (s : State) (h : Hdr) (a : Reg) (r : BitVec 10), Ready s (.setc h a r) →
    let u := s.begun (.setc h a r)
    (controlMay u r = true →
      exec (.setc h a r) s = .next ((controlWrite ((u.advance (.setc h a r)).noted (.setc h a r)) r (u.reg a)).retire (.setc h a r))) ∧
    (controlMay u r = false →
      exec (.setc h a r) s = .next (u.trapHere u.curCl .priv u.myCl.pc 0
        (toBytes 24 ((encode u.curCl (.setc h a r)).getD 0 0) ++ toBytes 24 r.toNat)))

/-- getc reads the control register it numbers; setc writes AFLAGS, CSLOT, CMASK and, in a handler, the TRAP registers, and raises PRIV for any other (R156). -/
def Obligations.ControlRegisters : Prop := ControlRead ∧ ControlWrite

/-- Whether a header pushes in a direction (R45). -/
def Sys2Proof.Spec.pushesTo (h : Hdr) : Dir → Bool
  | .left => h.k.getLsbD 1
  | .right => h.k.getLsbD 0

/-- Whether a header pops in a direction (R45). -/
def Sys2Proof.Spec.popsFrom (h : Hdr) : Dir → Bool
  | .left => h.k.getLsbD 3
  | .right => h.k.getLsbD 2

/-- The outgoing payload register of a direction (R154). -/
def Sys2Proof.Spec.outgoing (x : Cl) : Dir → Option Word
  | .left => x.outL
  | .right => x.outR

/-- The neighbour from which a pop takes, and the direction in which it pushes (R12). -/
def Sys2Proof.Spec.neighbour (c : Cluster) : Dir → Cluster × Dir
  | .left => (c.left, .right)
  | .right => (c.right, .left)

/-- tkwr, nop and cwait change no register: nop and cwait do nothing but their header's work, and tkwr writes the outgoing register of its
    direction, which a push of the word itself carries. In scoreboard mode, where each FIFO that the word pushes has space, this happens at once; in
    exposed mode and with a full FIFO the payload and the pushes are in flight, and the outgoing registers and the FIFOs stay as they are
    (R45, R154, R155, R166; log 22). -/
def Sys2Proof.Spec.TokenWords : Prop :=
  ∀ (s : State) (i : Instr) (h : Hdr) (dir : Dir) (a : Reg) (ld st : BitVec 7) (cp : BitVec 8) (ts : BitVec 6),
    i = .nop h ∨ i = .cwait h ld st cp ts ∨ i = .tkwr h a dir → Ready s i →
    let u := s.begun i
    let out (d : Dir) : Option Word := if i = .tkwr h a d then some (u.reg a) else outgoing u.myCl d
    ∃ t, exec i s = .next t ∧ Passed i u t ∧ RegsBut none u t ∧ PredsKept u t ∧
      (u.atOnce i 1 → t.myCl.flight = u.myCl.flight ∧ ∀ d,
        (pushesTo h d = false → outgoing t.myCl d = out d ∧ t.mine.fifoTo s.curCl d = u.mine.fifoTo s.curCl d) ∧
        (pushesTo h d = true → outgoing t.myCl d = none ∧ t.mine.fifoTo s.curCl d = u.mine.fifoTo s.curCl d ++ [out d])) ∧
      (¬ u.atOnce i 1 → (∀ d, outgoing t.myCl d = outgoing u.myCl d ∧ t.mine.fifoTo s.curCl d = u.mine.fifoTo s.curCl d) ∧
        (i = .tkwr h a dir → Sent i u t 1 (.payload dir (u.reg a))) ∧
        (h.k.setWidth 2 ≠ (0 : BitVec 2) → Sent i u t 1 (.pushes (h.k.setWidth 2))))

/-- A pop takes the oldest entry of its neighbour's FIFO into the incoming register, zero when it has no payload; when a word of the neighbour that pushes
    there could not retire, it retires now and its entry joins the FIFO. A push enters the payload the cluster last wrote for its direction and leaves
    none; where a FIFO that the word pushes is full, its pushes wait in flight: shown on nop, in scoreboard mode (R12, R45, R154; log 22). -/
def Sys2Proof.Spec.PopAndPush : Prop :=
  ∀ (s : State) (h : Hdr), Ready s (.nop h) → s.joint = false → (s.tick (.nop h)).myCl.exposed = false →
    let u := s.tick (.nop h)
    let room := ∀ d, pushesTo h d = true → (u.mine.fifoTo s.curCl d).length < 8
    ∃ t, exec (.nop h) s = .next t ∧
      (∀ d, popsFrom h d = true → ∀ e r,
        let n := (neighbour s.curCl d).1
        let nd := (neighbour s.curCl d).2
        let q : BitVec 2 := match nd with | .left => 2 | .right => 1
        u.mine.fifoTo n nd = e :: r →
        (match d with | .left => t.myCl.inL | .right => t.myCl.inR) = e.getD 0 ∧
        ((u.mine.cl n).flight = [] → t.mine.fifoTo n nd = r) ∧
        (∀ m, (u.mine.cl n).flight = [{ due := m, what := .pushes q, need := q }] → m ≤ (u.mine.cl n).icyc → r.length < 8 →
          t.mine.fifoTo n nd = r ++ [outgoing (u.mine.cl n) nd] ∧ (t.mine.cl n).flight = [] ∧ outgoing (t.mine.cl n) nd = none)) ∧
      (room → ∀ d, pushesTo h d = true → outgoing t.myCl d = none ∧ t.mine.fifoTo s.curCl d = u.mine.fifoTo s.curCl d ++ [outgoing u.myCl d]) ∧
      (¬ room → ({ due := u.myCl.icyc + 1, what := .pushes (h.k.setWidth 2), need := h.k.setWidth 2 } : InFlight) ∈ t.myCl.flight ∧
        ∀ d, outgoing t.myCl d = outgoing u.myCl d ∧ t.mine.fifoTo s.curCl d = u.mine.fifoTo s.curCl d)

/-- tkwr, nop and cwait change no register, and pops and pushes move payloads through the neighbours' FIFOs (R45, R154, R155, R166). -/
def Obligations.Tokens : Prop := TokenWords ∧ PopAndPush

namespace Sys2Proof.Spec

open Sys2Proof Sys2Proof.Machine

/-! Branches and loops. -/

/-- Where a taken br, brp, jmp or ret goes (R145, R146); none where it falls through or its target is forbidden (R114). -/
def branchTarget (u : State) : Instr → Option VAddr
  | .br h f => some (pcPlus u.curCl u.myCl.pc (offB h f))
  | .brp h sense p f => if u.myCl.pbit p = !sense then some (pcPlus u.curCl u.myCl.pc (offB h f)) else none
  | .jmp _ a => if badTarget u.curCl (u.reg a) then none else some ((u.reg a).setWidth 48)
  | .ret _ a => if badTarget u.curCl (u.reg a) then none else some ((u.reg a).setWidth 48)
  | _ => none

/-- An exit branch (R153): it lies within START to END of the top entry, and its target does not. -/
def isExit (u : State) (target : VAddr) : Bool :=
  match u.myCl.loops with
  | e :: _ => decide (e.startA.toNat ≤ u.myCl.pc.toNat ∧ u.myCl.pc.toNat ≤ e.endA.toNat ∧ ¬ (e.startA.toNat ≤ target.toNat ∧ target.toNat ≤ e.endA.toNat))
  | [] => false

/-- p8 to p15 are all false. -/
def stagesClear (t : State) : Prop := ∀ p : Pred, 8 ≤ p.toNat → t.myCl.pmask p = 0

/-- p8 to p15 have moved one place on from those of `u`, and p8 is `b` (R149). -/
def stagesShifted (u t : State) (b : Bool) : Prop :=
  t.myCl.pmask 8 = (if b then predLanes u.curCl else 0) ∧
  ∀ p q : Pred, 8 ≤ p.toNat → q.toNat = p.toNat + 1 → t.myCl.pmask q = u.myCl.pmask p

/-- What an lbr does with the top entry: it pops it, or continues it with the p8 of the new iteration, or stops the cluster. -/
inductive LbrFate
  | pop
  | go (e : LoopEnt) (p8 : Bool)
  | stop (e : LoopEnt)

/-- The start of an iteration (R149): REM falls and p8 is 1, or TAIL falls and p8 is 0. -/
def startOf (e : LoopEnt) : LbrFate :=
  if e.rem ≠ 0 then .go { e with rem := e.rem - 1 } true else .go { e with tail := e.tail - 1 } false

/-- The table of R152 for a taken lbr, with `req` a pre-emption request pending; an entry that drains with no request pending resumes (log 38). -/
def lbrTable (req : Bool) (e : LoopEnt) : LbrFate :=
  let a := { e with iter := e.iter + 1, rb := e.rb + 1 }
  match e.st with
  | .drain =>
    if e.tail ≠ 0 then startOf a
    else
      let b := { a with iter := a.iter - BitVec.ofNat 32 e.stg.toNat, rb := a.rb - BitVec.ofNat 6 e.stg.toNat, rem := e.prem, prem := 0, tail := e.stg }
      if req then .stop { b with st := .stopped } else startOf { b with st := .run }
  | _ =>
    if e.rem = 0 ∧ e.tail = 0 then .pop
    else if req ∧ e.rem ≠ 0 ∧ e.stg ≠ 0 then startOf { a with st := .drain, prem := e.rem, rem := 0 }
    else if req ∧ e.rem ≠ 0 then .stop { a with st := .stopped, prem := 0, tail := 0 }
    else startOf a

end Sys2Proof.Spec

/-- A taken br, brp, jmp or ret continues at its target and two issue cycles follow; an exit branch pops the top loop entry and clears p8 to p15, any
    other keeps the loop stack; with no result in flight, no register and no other predicate changes (R145, R146, R147, R153). -/
def Sys2Proof.Spec.BranchTaken : Prop :=
  ∀ (s : State) (i : Instr) (target : VAddr), Ready s i → branchTarget (s.begun i) i = some target →
    let u := s.begun i
    ∃ t, exec i s = .next t ∧ t.myCl.pc = target ∧ t.myCl.icyc = u.myCl.icyc + 2 ∧ SameOutside u t ∧
      t.myCl.loops = (if isExit u target then u.myCl.loops.tail else u.myCl.loops) ∧
      (u.myCl.flight = [] → RegsBut none u t ∧ (isExit u target → stagesClear t) ∧ (¬ isExit u target → PredsKept u t))

/-- A brp that is not taken falls through (R145); a jmp or ret whose target R114 forbids raises ALIGN and stays on its word (R146). -/
def Sys2Proof.Spec.BranchNotTaken : Prop :=
  ∀ (s : State) (h : Hdr) (sense : Bool) (p : Pred) (f : BitVec 10) (a : Reg),
    (Ready s (.brp h sense p f) → (s.begun (.brp h sense p f)).myCl.pbit p = sense →
      ∃ t, exec (.brp h sense p f) s = .next t ∧
        t.myCl.pc = pcPlus s.curCl (s.begun (.brp h sense p f)).myCl.pc 1 ∧ t.myCl.icyc = (s.begun (.brp h sense p f)).myCl.icyc ∧
        SameOutside (s.begun (.brp h sense p f)) t ∧ RegsBut none (s.begun (.brp h sense p f)) t ∧ PredsKept (s.begun (.brp h sense p f)) t) ∧
    (∀ i, i = .jmp h a ∨ i = .ret h a → Ready s i → badTarget s.curCl ((s.begun i).reg a) = true →
      exec i s = .next ((s.begun i).trapHere s.curCl .align (s.begun i).myCl.pc 0 (toBytes 8 ((s.begun i).reg a).toNat ++ [0])))

/-- call writes the next word's address to its register, which the two cycles after it cover in either mode, and continues at its offset; the loop
    stack and the predicates stay; with no space for its pushes the link is in flight until they are made (R45, R146, R147, R153; log 22). -/
def Sys2Proof.Spec.CallLinks : Prop :=
  ∀ (s : State) (h : Hdr) (c : Reg) (f : BitVec 10), Ready s (.call h c f) → (s.begun (.call h c f)).myCl.flight = [] →
    let u := s.begun (.call h c f)
    let link : Word := (pcPlus s.curCl u.myCl.pc 1).setWidth 64
    ∃ t, exec (.call h c f) s = .next t ∧
      t.myCl.pc = pcPlus s.curCl u.myCl.pc (offB h f) ∧ t.myCl.icyc = u.myCl.icyc + 2 ∧ t.myCl.loops = u.myCl.loops ∧ SameOutside u t ∧ PredsKept u t ∧
      (u.mine.hasRoom s.curCl (h.k.setWidth 2) = true → t.reg c = (if c = 0 then 0 else link) ∧ RegsBut (some c) u t) ∧
      (u.mine.hasRoom s.curCl (h.k.setWidth 2) = false → Sent (.call h c f) u t 1 (.sreg c link) ∧ RegsBut none u t)

/-- br, brp, jmp, call and ret: where they continue, what they link, which loop entry an exit branch pops, and the two issue cycles after a taken one; a target that R114 forbids raises ALIGN (R114, R145, R146, R147, R153). That
    alignment is tested within the page is log 68, and that a target of 2^48 or more raises ALIGN log 27 (both DEDUCED); what a call leaves in flight is log 22. -/
def Obligations.Branches : Prop := BranchTaken ∧ BranchNotTaken ∧ CallLinks

/-- loop: with a count of 0 it continues after END; with four entries on the stack and another count it raises ILLOP 0x0D at issue, whatever its
    guard; otherwise it pushes an entry and starts the first iteration (R131, R148, R149, R152). -/
def Obligations.LoopPushes : Prop :=
  ∀ (s : State) (h : Hdr) (c : Reg) (f : BitVec 10),
    let u := s.begun (.loop h c f)
    let n := (u.reg c).toNat % 2 ^ 32
    let endA := pcPlus s.curCl u.myCl.pc f.toNat
    (Ready s (.loop h c f) → n = 0 →
      ∃ t, exec (.loop h c f) s = .next t ∧ t.myCl.pc = pcPlus s.curCl endA 1 ∧ t.myCl.loops = u.myCl.loops ∧ PredsKept u t ∧
        RegsBut none u t ∧ SameOutside u t) ∧
    (s.canIssue = true → issueBad s.curCl s.myCl (.loop h c f) = none → n ≠ 0 → 4 ≤ s.myCl.loops.length →
      regsWait (s.ticked (.loop h c f)).mine s.curCl (.loop h c f) = false →
      exec (.loop h c f) s = .next (s.trapHere s.curCl .illop s.myCl.pc 0x0D (wordImage s.curCl (.loop h c f)))) ∧
    (Ready s (.loop h c f) → n ≠ 0 → u.myCl.loops.length < 4 → ∃ t, exec (.loop h c f) s = .next t ∧ t.myCl.pc = pcPlus s.curCl u.myCl.pc 1 ∧
      t.myCl.loops = { endA := endA, startA := pcPlus s.curCl u.myCl.pc 1, iter := 0, prem := 0, rem := .ofNat 32 (n - 1), rb := 0,
                       tail := .ofNat 3 (h.x % 8), stg := .ofNat 3 (h.x % 8), st := .run } :: u.myCl.loops ∧
      t.myCl.pmask 8 = predLanes s.curCl ∧ (∀ p : Pred, 8 < p.toNat → t.myCl.pmask p = 0) ∧
      (∀ p : Pred, p.toNat < 8 → t.myCl.pmask p = u.myCl.pmask p) ∧ RegsBut none u t ∧ SameOutside u t)

/-- lbr: the top entry moves by the table of R152, the stage predicates by R149, and the PC goes to START or past END; a false guard ends the loop
    (R150, R152; of an entry that drains with no request pending, log 38). A cluster that stops writes what is in flight (R51; log 6). -/
def Obligations.LbrMoves : Prop :=
  ∀ (s : State) (h : Hdr) (f : BitVec 10) (e : LoopEnt) (r : List LoopEnt),
    (Ready s (.lbr h f) → (s.begun (.lbr h f)).myCl.loops = e :: r → e.st ≠ .stopped →
      let u := s.begun (.lbr h f)
      ∃ t, exec (.lbr h f) s = .next t ∧ SameOutside u t ∧
        (match lbrTable u.mine.asked e with
         | .pop => t.myCl.loops = r ∧ t.myCl.pc = pcPlus s.curCl u.myCl.pc 1 ∧ stagesClear t ∧ RegsBut none u t
         | .go e' b => t.myCl.loops = e' :: r ∧ t.myCl.pc = e.startA ∧ t.myCl.stopped = false ∧
             (e.st = .run ∨ e.tail ≠ 0 → stagesShifted u t b) ∧ RegsBut none u t
         | .stop e' => t.myCl.loops = e' :: r ∧ t.myCl.pc = e.startA ∧ t.myCl.stopped = true ∧
             (u.myCl.flight = [] → stagesClear t ∧ RegsBut none u t))) ∧
    (Passes s (.lbr h f) → (s.ticked (.lbr h f)).myCl.loops = e :: r →
      let u := s.ticked (.lbr h f)
      ∃ t, exec (.lbr h f) s = .next t ∧ t.myCl.loops = r ∧ t.myCl.pc = pcPlus s.curCl u.myCl.pc 1 ∧ stagesClear t ∧
        RegsBut none u t ∧ SameOutside u t)

/-- A word whose guard is false only passes: nothing but its PC moves, whatever its body; only an lbr acts on the loop stack (R119). -/
def Sys2Proof.Spec.FalseGuardPasses : Prop :=
  ∀ (s : State) (i : Instr), i.kind ≠ .event → (∀ h f, i ≠ .lbr h f) → Passes s i → exec i s = .next ((s.ticked i).advance i)

/-- A word that fails a check at issue traps at its own address, whatever its guard, and nothing of it acts: ILLOP with its sub-code in TRAP_INFO, or
    ILLTYPE (R131, R132). -/
def Sys2Proof.Spec.MalformedTraps : Prop :=
  ∀ (s : State) (i : Instr) (b : Bad), i.kind ≠ .event → s.canIssue = true → issueBad s.curCl s.myCl i = some b →
    exec i s = .next (match b with
      | .illop n => s.trapHere s.curCl .illop s.myCl.pc (n.setWidth 64) (wordImage s.curCl i)
      | .illtype => s.trapHere s.curCl .illtype s.myCl.pc 0 (wordImage s.curCl i))

/-- A held word does not issue: its PC stays, and nothing outside its core changes. With nothing in flight nothing changes at all; in exposed mode the cycle is
    no issue cycle, and what is not yet due stays in flight (R48, R49; of scoreboard mode log 6). -/
def Sys2Proof.Spec.HeldWordWaits : Prop :=
  ∀ (s : State) (i : Instr), i.kind ≠ .event → s.joint = false → s.canIssue = true → issueBad s.curCl s.myCl i = none →
    (s.tick i).fullPush i = false → (s.tick i).holds i = true →
    ∃ t, exec i s = .next t ∧ t.myCl.pc = s.myCl.pc ∧ SameOutside s t ∧ (s.myCl.flight = [] → t.mine = s.mine) ∧
      (s.myCl.exposed = true → t.myCl.icyc = s.myCl.icyc ∧ ∀ f, f ∈ s.myCl.flight → s.myCl.icyc + 1 < f.due → f ∈ t.myCl.flight)

/-- What issue does before a word acts: a false guard passes, a failed check traps with its sub-code, a held word waits (R48, R119, R131, R132). -/
def Obligations.IssueChecks : Prop := FalseGuardPasses ∧ MalformedTraps ∧ HeldWordWaits

namespace Sys2Proof.Spec

open Sys2Proof Sys2Proof.Machine

/-- A core can enter the handler of a trap that waits: nothing is outstanding, no cluster waits at a phase or lmode, no cluster's cause is fatal, no
    cluster is in the handler, and the record's 1,024 bytes are THREAD (R296, R297). -/
structure MayEnter (k : Core) (x : Ctx) : Prop where
  drained : k.drained = true
  steady : ∀ c i, (k.cl c).wait = some i → (∀ h n, i ≠ .phase h n) ∧ (∀ h e, i ≠ .lmode h e)
  mild : ∀ c t, (k.cl c).trapped = some t → t.cause ≠ .handle ∧ t.cause ≠ .watchdog
  outside : k.inh = false
  record : x.trloc + 1024 ≤ 0x280000 ∧ ∀ a, x.trloc ≤ a → a < x.trloc + 1024 → k.owner' (a / 4096) = 0

end Sys2Proof.Spec

/-- trap and bkpt retire and then raise TRAP or BKPT in their cluster with the code in TRAP_INFO and TRAP_PC at the next word; a bkpt at which an attached
    debugger has asked for a halt only passes (R159, R298, R304; log 3). -/
def Sys2Proof.Spec.TrapWords : Prop :=
  ∀ (s : State) (h : Hdr) (code : BitVec 10) (i : Instr) (cause : Cause), (i = .trap h code ∧ cause = .trap) ∨ (i = .bkpt h code ∧ cause = .bkpt) →
    Ready s i →
    (i = .trap h code ∨ (s.begun i).mine.debug = .off →
      ∃ w, Passed i (s.begun i) w ∧ RegsBut none (s.begun i) w ∧ PredsKept (s.begun i) w ∧
        exec i s = .next (w.trapHere s.curCl cause (pcPlus s.curCl (s.begun i).myCl.pc 2) (code.setWidth 64) [])) ∧
    (i = .bkpt h code → (s.begun i).mine.debug ≠ .off →
      ∃ t, exec i s = .next t ∧ t.mine.debug = .hit ∧ t.mine.trap = (s.begun i).mine.trap ∧ t.myCl.pc = pcPlus s.curCl (s.begun i).myCl.pc 2 ∧
        RegsBut none (s.begun i) t ∧ PredsKept (s.begun i) t ∧ SameOutside (s.begun i) t)

/-- A trap raised in a cluster of a running task is recorded with its cause, TRAP_PC and TRAP_INFO; the first of a core records OCNT of the four clusters,
    its origin and its operand, and discards the version; a later one adds its own cause only. No word of the core's task issues after it (R296). -/
def Sys2Proof.Spec.TrapRecorded : Prop :=
  ∀ (s : State) (core : CoreId) (c : Cluster) (cause : Cause) (pc : VAddr) (info : Word) (operand : List Byte),
    (s.core core.toNat).task.isSome = true → (∀ d, ((s.core core.toNat).cl d).flight = []) → ((s.core core.toNat).cl c).trapped = none →
    let k := s.core core.toNat
    let t := s.markTrap core.toNat c cause pc info operand
    ((t.core core.toNat).cl c).trapped = some { cause := cause, pc := pc, info := info } ∧
    (∀ n, n ≠ core.toNat → t.core n = s.core n) ∧ { t with cores := s.cores } = s ∧
    (∀ d, ((t.core core.toNat).cl d).pc = (k.cl d).pc ∧ ((t.core core.toNat).cl d).s = (k.cl d).s ∧ ((t.core core.toNat).cl d).p = (k.cl d).p) ∧
    (k.trap = none → (t.core core.toNat).version = [] ∧
      ∃ st, (t.core core.toNat).trap = some st ∧ st.origin = c ∧ st.ocnt = [k.ocnt .A, k.ocnt .V, k.ocnt .T, k.ocnt .S]) ∧
    (∀ st, k.trap = some st → (t.core core.toNat).trap = some st) ∧
    (∀ d i, i.kind ≠ .event →
      exec i { t with cur := core, curCl := d, joint := false } = .next { t with cur := core, curCl := d, joint := false })

/-- trap and bkpt raise their traps after retiring, and a trap is recorded with its cause, PC and information, the first of a core with its origin; no word of its core issues after it (R159, R296, R298, R304). -/
def Obligations.TrapsRaised : Prop := TrapWords ∧ TrapRecorded

/-- Handler entry (R296, R298): once nothing is outstanding, while the clock runs and no debugger halts the task (R20, R304), every cluster starts at its HPC in scoreboard mode with its loop stack kept, its TRAP
    registers hold its cause, the address and the information of its trap, INH is set, and no scratchpad byte outside the record changes. -/
def Sys2Proof.Spec.HandlerEntered : Prop :=
  ∀ (s : State) (core : CoreId) (t : TrapSt), (s.core core.toNat).trap = some t → s.power.stopped = false → (s.core core.toNat).halted = false →
    MayEnter (s.core core.toNat) (s.ctx (s.core core.toNat).ctxNum) →
    ∃ u, exec (.handlerEntry core) s = .next u ∧ (u.core core.toNat).inh = true ∧ (u.core core.toNat).trap = none ∧
      (∀ c, let x := (s.core core.toNat).cl c
            let y := (u.core core.toNat).cl c
        y.pc = ((s.ctx (s.core core.toNat).ctxNum).desc.hpc.getD c.num 0).setWidth 48 ∧ y.exposed = false ∧ y.loops = x.loops ∧ y.s = x.s ∧ y.p = x.p ∧
        y.trapped = none ∧
        y.trapPc = (match x.trapped with | some e => e.pc.setWidth 64 | none => x.pc.setWidth 64) ∧
        y.trapInfo = (match x.trapped with | some e => e.info | none => 0) ∧
        y.trapCause.toNat % 256 = (match x.trapped with | some e => e.cause.code | none => 0) ∧ y.trapCause.getLsbD 15 = true) ∧
      (∀ a, a < (s.ctx (s.core core.toNat).ctxNum).trloc ∨ (s.ctx (s.core core.toNat).ctxNum).trloc + 1024 ≤ a →
        (u.core core.toNat).spByte a = (s.core core.toNat).spByte a) ∧
      u.mem = s.mem ∧ (∀ n, n ≠ core.toNat → u.core n = s.core n)

/-- A trap that meets a cluster already in the handler, or whose cause is HANDLE or WATCHDOG, is fatal to its context: the context becomes FAULTED, the core's task
    stops and its interrupt is raised, while the clock runs and no debugger halts the task (R20, R297, R304). -/
def Sys2Proof.Spec.FatalTrap : Prop :=
  ∀ (s : State) (core : CoreId) (t : TrapSt), (s.core core.toNat).trap = some t → (s.core core.toNat).task.isSome = true →
    s.power.stopped = false → (s.core core.toNat).halted = false →
    ((s.ctx (s.core core.toNat).ctxNum).desc.cores.getLsbD core.toNat = true) →
    ((s.core core.toNat).inh = true ∨ ∃ c e, ((s.core core.toNat).cl c).trapped = some e ∧ (e.cause = .handle ∨ e.cause = .watchdog)) →
    ∃ u, exec (.handlerEntry core) s = .next u ∧ (u.ctx (s.core core.toNat).ctxNum).st = .faulted ∧ (u.core core.toNat).task = none ∧
      u.irq.getLsbD (192 + (s.core core.toNat).ctxNum) = true

/-- The handler is entered once nothing is outstanding; a second trap or a fatal cause faults the context (R296, R297, R298). -/
def Obligations.Handler : Prop := HandlerEntered ∧ FatalTrap

/-- A copy of a task-level word waits where it stands, with what was in flight written, and nothing else changes (R32, R49; log 6). -/
def Sys2Proof.Spec.CopiesWait : Prop :=
  ∀ (s : State) (h : Hdr) (d a b : Reg) (cc : BitVec 3) (lv : BitVec 2) (num : BitVec 8) (i : Instr),
    i = .yield h ∨ i = .tend h ∨ i = .waita h a b cc ∨ i = .bwait h d a lv num ∨ i = .rprobe h d a b → Ready s i →
    ∃ t, exec i s = .next t ∧ t.myCl.wait = some i ∧ t.myCl.pc = (s.begun i).myCl.pc ∧ SameOutside (s.begun i) t ∧
      ((s.begun i).myCl.flight = [] → t = (s.begun i).upMyCl fun x => { x with wait := some i, need := 0 })

/-- eret: outside a handler it raises PRIV; inside, it waits where it stands; and the last of the four copies makes every cluster resume at its TRAP_PC with INH
    clear, when the loop stacks are those of the entry and each TRAP_PC is a word's address (R160, R300). -/
def Sys2Proof.Spec.EretReturns : Prop :=
  ∀ (s : State) (h : Hdr), Ready s (.eret h) →
    let u := s.begun (.eret h)
    (u.mine.inh = false → exec (.eret h) s = .next (u.trapHere s.curCl .priv u.myCl.pc 0 (wordImage s.curCl (.eret h)))) ∧
    (u.mine.inh = true → (∃ c, c ≠ s.curCl ∧ (u.mine.cl c).wait = none) →
      ∃ t, exec (.eret h) s = .next t ∧ t.myCl.wait = some (.eret h) ∧ t.myCl.pc = u.myCl.pc ∧ SameOutside u t ∧
        (u.myCl.flight = [] → t = u.upMyCl fun x => { x with wait := some (.eret h), need := 0 })) ∧
    (u.mine.inh = true → (∀ c, c ≠ s.curCl → ∃ g, (u.mine.cl c).wait = some (.eret g)) →
      u.mine.hloops = [u.mine.a.loops, u.mine.v.loops, u.mine.t.loops, u.mine.sc.loops] →
      (∀ c, badTarget c (u.mine.cl c).trapPc = false) → u.myCl.flight = [] →
      ∃ t, exec (.eret h) s = .next t ∧ t.mine.inh = false ∧
        (∀ c, (t.mine.cl c).pc = ((u.mine.cl c).trapPc).setWidth 48 ∧ (t.mine.cl c).wait = none ∧ (t.mine.cl c).s = (u.mine.cl c).s ∧
          (t.mine.cl c).loops = (u.mine.cl c).loops))

/-- Copies of task-level words wait where they stand, and eret returns when the fourth copy issues (R32, R160, R300). -/
def Obligations.TaskLevelWords : Prop := CopiesWait ∧ EretReturns

/-- phase and lmode: one that names the present split or mode only passes; any other waits until its drain is over, a phase with its number noted
    behind those of its bundle (R50, R85, R164, R165). What was in flight is written, but behind an lmode (log 6). -/
def Sys2Proof.Spec.ModeWordsWait : Prop :=
  ∀ (s : State) (h : Hdr) (n : BitVec 3) (e : Bool),
    (Ready s (.phase h n) →
      let u := s.begun (.phase h n)
      (u.mine.steps = n → u.mine.phaseReq = [] →
        ∃ t, exec (.phase h n) s = .next t ∧ Passed (.phase h n) u t ∧ RegsBut none u t) ∧
      (u.mine.steps ≠ n ∨ u.mine.phaseReq ≠ [] →
        ∃ t, exec (.phase h n) s = .next t ∧ t.myCl.wait = some (.phase h n) ∧ t.myCl.pc = u.myCl.pc ∧ t.mine.phaseReq = u.mine.phaseReq ++ [(s.curCl, n)] ∧
          SameOutside u t ∧ (u.myCl.flight = [] → t = (u.upMyCl fun x => { x with wait := some (.phase h n), need := 0 }).upMine fun k =>
            { k with phaseReq := k.phaseReq ++ [(s.curCl, n)] }))) ∧
    (Ready s (.lmode h e) →
      ((s.begun (.lmode h e)).myCl.exposed = e →
        ∃ t, exec (.lmode h e) s = .next t ∧ Passed (.lmode h e) (s.begun (.lmode h e)) t ∧ RegsBut none (s.begun (.lmode h e)) t) ∧
      ((s.begun (.lmode h e)).myCl.exposed ≠ e →
        exec (.lmode h e) s = .next ((s.begun (.lmode h e)).upMyCl fun x => { x with wait := some (.lmode h e), need := 0 })))

/-- A waiting lmode acts once its cluster's loads and stores and the core's tile steps are done and the clock runs: the mode changes, eight issue cycles
    pass, the PC moves past it, and the registers stay (R20, R50). -/
def Sys2Proof.Spec.LmodeActs : Prop :=
  ∀ (s : State) (core : CoreId) (c : Cluster) (h : Hdr) (e : Bool), ((s.core core.toNat).cl c).wait = some (.lmode h e) →
    ((s.core core.toNat).cl c).flight = [] → ((s.core core.toNat).cl c).loadQ = [] → ((s.core core.toNat).cl c).storeQ = [] →
    ((s.core core.toNat).cl c).rets = [] → (s.core core.toNat).tsCount = 0 → (s.core core.toNat).nests = [] → (s.core core.toNat).trap = none →
    s.power.stopped = false →
    ∃ t, exec (.lmodeSwitch core c) s = .next t ∧ ((t.core core.toNat).cl c).exposed = e ∧ ((t.core core.toNat).cl c).wait = none ∧
      ((t.core core.toNat).cl c).pc = pcPlus c ((s.core core.toNat).cl c).pc 2 ∧ ((t.core core.toNat).cl c).icyc = ((s.core core.toNat).cl c).icyc + 8 ∧
      ((t.core core.toNat).cl c).s = ((s.core core.toNat).cl c).s ∧ ((t.core core.toNat).cl c).p = ((s.core core.toNat).cl c).p ∧
      (∀ d, d ≠ c → (t.core core.toNat).cl d = (s.core core.toNat).cl d) ∧ (∀ n, n ≠ core.toNat → t.core n = s.core n) ∧ t.mem = s.mem

/-- The first phase that waits acts once the loads and stores of all four clusters are done and the clock runs: STEPS takes the number, the tiles that pass to
    or from the L1 change owner, and the L1 is empty, provided the tiles it takes are THREAD; one that names the present split only completes. Its word
    retires, and the next phase of its bundle is first (R20, R85, R165). -/
def Sys2Proof.Spec.PhaseActs : Prop :=
  ∀ (s : State) (core : CoreId) (c : Cluster) (n : BitVec 3) (r : List (Cluster × BitVec 3)), (s.core core.toNat).phaseReq = (c, n) :: r →
    let k := s.core core.toNat
    (∀ d, (k.cl d).loadQ = [] ∧ (k.cl d).storeQ = [] ∧ (k.cl d).rets = []) → k.trap = none → s.power.stopped = false →
    (n ≠ k.steps → n.toNat ≤ 4 → k.steps.toNat ≤ 4 →
      (∀ i, (k.steps.toNat < n.toNat → 640 - 32 * n.toNat ≤ i ∧ i < 640 - 32 * k.steps.toNat → k.owner' i = 0)) →
      ∃ t, exec (.phaseSplitChange core) s = .next t ∧ (t.core core.toNat).steps = n ∧ (t.core core.toNat).phaseReq = r ∧
        (t.core core.toNat).l1 = [] ∧
        (∀ i, 640 - 32 * n.toNat ≤ i → i < 640 - 32 * k.steps.toNat → (t.core core.toNat).owner' i = 5) ∧
        (∀ i, 640 - 32 * k.steps.toNat ≤ i → i < 640 - 32 * n.toNat → (t.core core.toNat).owner' i = 0) ∧
        (∀ i, i < 640 - 32 * n.toNat → i < 640 - 32 * k.steps.toNat → (t.core core.toNat).owner' i = k.owner' i) ∧
        (∀ d, ((t.core core.toNat).cl d).s = (k.cl d).s) ∧
        (∀ h, (k.cl c).wait = some (.phase h n) → ((t.core core.toNat).cl c).wait = none ∧
          ((t.core core.toNat).cl c).pc = pcPlus c (k.cl c).pc (Instr.phase h n).words)) ∧
    (n = k.steps → ∃ t, exec (.phaseSplitChange core) s = .next t ∧ (t.core core.toNat).steps = k.steps ∧ (t.core core.toNat).phaseReq = r ∧
      (t.core core.toNat).l1 = k.l1 ∧ (∀ i, (t.core core.toNat).owner' i = k.owner' i) ∧ (∀ d, ((t.core core.toNat).cl d).s = (k.cl d).s) ∧
      (∀ h, (k.cl c).wait = some (.phase h n) → ((t.core core.toNat).cl c).wait = none ∧
        ((t.core core.toNat).cl c).pc = pcPlus c (k.cl c).pc (Instr.phase h n).words))

/-- lmode and phase wait for their drains and then change the mode and the split (R50, R85, R164, R165). -/
def Obligations.ModeWords : Prop := ModeWordsWait ∧ LmodeActs ∧ PhaseActs

namespace Sys2Proof.Spec

open Sys2Proof Sys2Proof.Machine

/-! Memory words and queues. -/

/-- A global access at page offset `x` of `n` bytes with alignment `al` passes: aligned, within the page, and through a valid handle with the permission (R243). -/
def globalOk (h : BitVec 128) (x al n : Nat) (load : Bool) : Prop :=
  x % al = 0 ∧ x + n ≤ 2 ^ 21 ∧ h.getLsbD 63 = true ∧ (if load then h.getLsbD 62 else h.getLsbD 61) = true

/-- A scratchpad access of `n` bytes at `x` passes: aligned to its size, within the scratchpad, every byte in a THREAD tile (R82, R83, R243). -/
def localOk (k : Core) (x n : Nat) : Prop :=
  x % n = 0 ∧ x + n ≤ 0x280000 ∧ ∀ j, j < n → k.owner' ((x + j) / 4096) = 0

/-- The local address of a scratchpad ld or st (R243). -/
def scratchAddr (u : State) (a b : Reg) (m : MemLit) : Nat := ((u.reg a).toNat + (u.reg b).toNat + m.off.toNat) % 2 ^ 64

/-- The page offset of a global ld, st or dgld (R243, R261). -/
def offsetOf (u : State) (b : Reg) (off : BitVec 21) : Nat := ((u.reg b).toNat + off.toNat) % 2 ^ 64

/-- The first `n` bytes of a register, lowest first, as a store writes them. -/
def storeData (v : Word) (n : Nat) : List (Option Byte) := (List.range n).map fun j => some (.ofNat 8 (v.toNat / 256 ^ j))

/-- The barrier a level and number name on a core (R10, R341; the model's numbering). -/
def barrierOf (u : State) (lv : BitVec 2) (num : BitVec 8) : Nat := barKey u.me lv.toNat num.toNat

/-- The placement tag that a word of a barrier carries: that of what its quad holds, 0 with no group there or for a barrier of no quad (R328). -/
def placementTag (u : State) (key : Nat) : Nat :=
  if key < 1024 then (match sget none u.quads (key / 16) with | some q => q.tag | none => 0) else 0

/-- What a word that enters a queue puts into it, when its operands pass its checks: the alias class, the pushes the entry holds back, and the entry (R244 to R250,
    R261 to R264, R337, R338). -/
inductive QueueEntry (u : State) : Instr → BitVec 2 → BitVec 2 → LoadKind ⊕ StoreKind → Prop
  | ld (h : Hdr) (d a b : Reg) (m : MemLit) : m.sp = true → globalOk (u.mine.handle a) (offsetOf u b m.off) (2 ^ m.wd.toNat) (2 ^ m.wd.toNat) true →
      QueueEntry u (.ld h d a b m) m.ac (h.k.setWidth 2) (.inl (.ld (u.mine.handle a) (offsetOf u b m.off) (2 ^ m.wd.toNat) d m.pp m.pd))
  | st (h : Hdr) (d a b : Reg) (m : MemLit) : m.sp = true → u.versioned = false →
      globalOk (u.mine.handle a) (offsetOf u b m.off) (2 ^ m.wd.toNat) (2 ^ m.wd.toNat) false →
      QueueEntry u (.st h d a b m) m.ac 0 (.inr (.st (u.mine.handle a) (offsetOf u b m.off) (storeData (u.reg d) (2 ^ m.wd.toNat))))
  | amo (h : Hdr) (d a b : Reg) (m : AtomLit) : u.versioned = false →
      globalOk (u.mine.handle a) (u.reg m.o).toNat (if m.wd = 2 then 4 else 8) (if m.wd = 2 then 4 else 8) false →
      QueueEntry u (.amo h d a b m) m.ac (if m.res then h.k.setWidth 2 else 0)
        (.inr (.amo (u.mine.handle a) (u.reg m.o).toNat m d (u.reg b) (u.reg d)))
  | red (h : Hdr) (d a b : Reg) (m : AtomLit) : u.versioned = false →
      globalOk (u.mine.handle a) (u.reg m.o).toNat (if m.wd = 2 then 4 else 8) (if m.wd = 2 then 4 else 8) false →
      QueueEntry u (.red h d a b m) m.ac 0 (.inr (.red (u.mine.handle a) (u.reg m.o).toNat m (u.reg b)))
  | release (h : Hdr) (scope : BitVec 3) : QueueEntry u (.release h scope) 0 (h.k.setWidth 2) (.inr (.release scope))
  | acquire (h : Hdr) (scope : BitVec 3) : QueueEntry u (.acquire h scope) 0 (h.k.setWidth 2) (.inl (.acquire scope))
  | dgld (h : Hdr) (d a b : Reg) (ac : BitVec 2) (off : BitVec 21) : globalOk (u.mine.handle a) (offsetOf u b off) 1 1 true →
      QueueEntry u (.dgld h d a b ac off) ac (h.k.setWidth 2) (.inl (.dgld (u.mine.handle a) (offsetOf u b off) d))
  | dgq (h : Hdr) (d a b : Reg) (ac : BitVec 2) (cpy : Bool) (l : Reg) (test : BitVec 4) :
      globalOk (u.mine.handle a) (u.reg b).toNat 512 0x8000 true → (cpy = true → localOk u.mine (u.reg l).toNat 1024) →
      QueueEntry u (.dgq h d a b ac cpy l test) ac (h.k.setWidth 2)
        (.inl (.dgq (u.mine.handle a) (u.reg b).toNat test (if cpy then some (u.reg l).toNat else none) d))
  | dgseal (h : Hdr) (a b : Reg) (ac : BitVec 2) (n : BitVec 12) : globalOk (u.mine.handle a) (u.reg b).toNat 512 (512 * (n.toNat + 1)) false →
      QueueEntry u (.dgseal h a b ac n) ac 0 (.inr (.dgseal (u.mine.handle a) (u.reg b).toNat (n.toNat + 1)))
  | cflush (h : Hdr) (d a b : Reg) (ac : BitVec 2) (scope : BitVec 3) :
      0 < (u.reg d).toNat → (u.reg b).toNat + (u.reg d).toNat ≤ 2 ^ 21 → (u.mine.handle a).getLsbD 63 = true →
      QueueEntry u (.cflush h d a b ac scope) ac 0 (.inr (.cflush (u.mine.handle a) (u.reg b).toNat (u.reg d).toNat scope))
  | cinv (h : Hdr) (d a b : Reg) (ac : BitVec 2) (scope : BitVec 3) :
      0 < (u.reg d).toNat → (u.reg b).toNat + (u.reg d).toNat ≤ 2 ^ 21 → (u.mine.handle a).getLsbD 63 = true →
      QueueEntry u (.cinv h d a b ac scope) ac 0 (.inr (.cinv (u.mine.handle a) (u.reg b).toNat (u.reg d).toNat scope))
  | signal (h : Hdr) (d a b : Reg) (self : Bool) :
      QueueEntry u (.signal h d a b self) 0 0 (.inr (.signal (if self then u.me else (u.reg d).toNat) (u.reg a).toNat (u.reg b)))
  | binit (h : Hdr) (d a : Reg) (lv : BitVec 2) (num : BitVec 8) : u.barAllowed u.me (barrierOf u lv num) = true →
      QueueEntry u (.binit h d a lv num) 0 (h.k.setWidth 2) (.inr (.binit (barrierOf u lv num) (u.reg a) d (placementTag u (barrierOf u lv num))))
  | barv (h : Hdr) (d : Reg) (lv : BitVec 2) (num : BitVec 8) : u.versioned = false → u.barAllowed u.me (barrierOf u lv num) = true →
      QueueEntry u (.barv h d lv num) 0 (h.k.setWidth 2) (.inr (.barv (barrierOf u lv num) (.ofNat 3 (barScope (barrierOf u lv num))) d (placementTag u (barrierOf u lv num))))

/-- The issuing clusters differ in nothing but the PC, the queues and their counter, the outgoing tokens, and what is in flight and needs. -/
def SameBesideQueues (s t : State) : Prop :=
  { t.myCl with pc := s.myCl.pc, loadQ := s.myCl.loadQ, storeQ := s.myCl.storeQ, nseq := s.myCl.nseq, outL := s.myCl.outL, outR := s.myCl.outR,
                need := s.myCl.need, popped := s.myCl.popped, flight := s.myCl.flight } = s.myCl

end Sys2Proof.Spec

/-- The register result `v` of the word `i`, of latency `lat`: written at once, with no other register changed, or in flight, with no register changed (R45, R48,
    R49; log 6, log 22). -/
def Sys2Proof.Spec.Result (i : Instr) (u t : State) (lat : Nat) (d : Reg) (v : Word) : Prop :=
  (u.atOnce i lat → t.reg d = (if d = 0 then 0 else v) ∧ RegsBut (some d) u t) ∧
  (¬ u.atOnce i lat → Sent i u t lat (.sreg d v) ∧ RegsBut none u t)

/-- A scratchpad ld that passes its checks and meets no poison: its register takes the bytes at a + b + offset, lowest first, zero-extended, at once in scoreboard
    mode and three issue cycles later in exposed mode; nothing else changes (R49, R243, R244; log 6). -/
def Sys2Proof.Spec.ScratchLoad : Prop :=
  ∀ (s : State) (h : Hdr) (d a b : Reg) (m : MemLit), Ready s (.ld h d a b m) → m.sp = false →
    let u := s.begun (.ld h d a b m)
    let x := scratchAddr u a b m
    localOk u.mine x (2 ^ m.wd.toNat) → (∀ j, j < 2 ^ m.wd.toNat → sget false u.mine.spPoison (x + j) = false) →
    ∃ t v, exec (.ld h d a b m) s = .next t ∧ Result (.ld h d a b m) u t 3 d v ∧
      (∀ j, j < 8 → v.toNat / 256 ^ j % 256 = if j < 2 ^ m.wd.toNat then (u.mine.spByte (x + j)).toNat else 0) ∧
      Passed (.ld h d a b m) u t ∧ PredsKept u t

/-- A scratchpad st that passes its checks: the store of its register's bytes at a + b + offset is in flight, due three issue cycles later, and the scratchpad,
    the registers, the predicates, other cores and memory stay (R191, R243, R244). -/
def Sys2Proof.Spec.ScratchStore : Prop :=
  ∀ (s : State) (h : Hdr) (d a b : Reg) (m : MemLit), Ready s (.st h d a b m) → m.sp = false →
    let u := s.begun (.st h d a b m)
    let x := scratchAddr u a b m
    localOk u.mine x (2 ^ m.wd.toNat) →
    ∃ t, exec (.st h d a b m) s = .next t ∧
      { due := u.myCl.icyc + 3, what := .sp x (storeData (u.reg d) (2 ^ m.wd.toNat)), need := 0 } ∈ t.myCl.flight ∧ t.mine.sp = u.mine.sp ∧
      t.myCl.pc = pcPlus u.curCl u.myCl.pc 2 ∧ SameOutside u t ∧ RegsBut none u t ∧ PredsKept u t

/-- An issue cycle writes the bytes of a scratchpad store that is due, and no other byte of the scratchpad; one that is not due waits, but a load of scoreboard
    mode that reads its bytes issues in the cycle by which they are written (R191, R244). -/
def Sys2Proof.Spec.StoreDue : Prop :=
  ∀ (s : State) (i : Instr) (n a : Nat) (bs : List (Option Byte)), s.myCl.flight = [{ due := n, what := .sp a bs, need := 0 }] →
    let m := if s.myCl.exposed = false ∧ ∃ r ∈ spReads s.mine s.curCl i, r.1 < a + bs.length ∧ a < r.1 + r.2 then max n (s.myCl.icyc + 1) else s.myCl.icyc + 1
    (s.tick i).myCl.icyc = m ∧ RegsBut none s (s.tick i) ∧
    (n ≤ m → (s.tick i).myCl.flight = [] ∧
      ∀ y, (s.tick i).mine.spByte y = if a ≤ y then (match bs[y - a]? with | some (some b) => b | _ => s.mine.spByte y) else s.mine.spByte y) ∧
    (m < n → (s.tick i).myCl.flight = s.myCl.flight ∧ (s.tick i).mine.sp = s.mine.sp)

/-- A scratchpad ld or st whose address is misaligned or beyond the scratchpad raises ALIGN with its address, and one that meets a tile that is not THREAD raises
    OWNER; nothing is loaded or stored (R82, R83, R243, R299). -/
def Sys2Proof.Spec.ScratchTraps : Prop :=
  ∀ (s : State) (h : Hdr) (d a b : Reg) (m : MemLit) (i : Instr), i = .ld h d a b m ∨ i = .st h d a b m → Ready s i → m.sp = false →
    let u := s.begun i
    let x := scratchAddr u a b m
    (¬ (x % 2 ^ m.wd.toNat = 0 ∧ x + 2 ^ m.wd.toNat ≤ 0x280000) →
      exec i s = .next (u.trapHere u.curCl .align u.myCl.pc 0 (toBytes 8 x ++ [0]))) ∧
    (x % 2 ^ m.wd.toNat = 0 → x + 2 ^ m.wd.toNat ≤ 0x280000 → u.mine.owner' (x / 4096) ≠ 0 →
      exec i s = .next (u.trapHere u.curCl .owner u.myCl.pc 0 (toBytes 8 x ++ [.ofNat 8 (u.mine.owner' (x / 4096)).toNat])))

/-- Scalar loads and stores of the scratchpad, when a store's bytes are written, and the ALIGN and OWNER traps (R82, R83, R191, R243, R244). -/
def Obligations.ScratchAccess : Prop := ScratchLoad ∧ ScratchStore ∧ StoreDue ∧ ScratchTraps

/-- A global ld or st whose offset is misaligned or beyond the page raises ALIGN; one through a handle that is not valid or lacks the permission raises HANDLE
    (R243, R297). -/
def Sys2Proof.Spec.GlobalTraps : Prop :=
  ∀ (s : State) (h : Hdr) (d a b : Reg) (m : MemLit) (i : Instr) (load : Bool), (i = .ld h d a b m ∧ load = true) ∨ (i = .st h d a b m ∧ load = false) →
    Ready s i → m.sp = true →
    let u := s.begun i
    let x := offsetOf u b m.off
    (¬ (x % 2 ^ m.wd.toNat = 0 ∧ x + 2 ^ m.wd.toNat ≤ 2 ^ 21) → exec i s = .next (u.trapHere u.curCl .align u.myCl.pc 0 (toBytes 8 x ++ [0]))) ∧
    (x % 2 ^ m.wd.toNat = 0 → x + 2 ^ m.wd.toNat ≤ 2 ^ 21 →
      ((u.mine.handle a).getLsbD 63 = false ∨ (if load then (u.mine.handle a).getLsbD 62 else (u.mine.handle a).getLsbD 61) = false) →
      exec i s = .next (u.trapHere u.curCl .handle u.myCl.pc 0 []))

/-- A word that enters a queue puts one entry at its end, with the next number of its cluster, and changes nothing else: no register, no predicate, no byte of memory
    (R244, R246, R247, R249, R250, R261 to R264, R163, R337, R338). -/
def Sys2Proof.Spec.QueueWordEnters : Prop :=
  ∀ (s : State) (i : Instr) (ac push : BitVec 2) (kind : LoadKind ⊕ StoreKind), Ready s i → QueueEntry (s.begun i) i ac push kind →
    ∃ t, exec i s = .next t ∧
      (match kind with
       | .inl l => t.myCl.storeQ = (s.begun i).myCl.storeQ ∧
           ∃ e, t.myCl.loadQ = (s.begun i).myCl.loadQ ++ [e] ∧ e.kind = l ∧ e.ac = ac ∧ e.push = push ∧ e.seq = (s.begun i).myCl.nseq
       | .inr q => t.myCl.loadQ = (s.begun i).myCl.loadQ ∧
           ∃ e, t.myCl.storeQ = (s.begun i).myCl.storeQ ++ [e] ∧ e.kind = q ∧ e.ac = ac ∧ e.push = push ∧ e.seq = (s.begun i).myCl.nseq) ∧
      t.myCl.nseq = (s.begun i).myCl.nseq + 1 ∧ t.myCl.pc = pcPlus s.curCl (s.begun i).myCl.pc 2 ∧
      SameOutside (s.begun i) t ∧ SameCore (s.begun i) t ∧ SameBesideQueues (s.begun i) t

/-- mark enters both queues of its cluster under one number (R247). -/
def Sys2Proof.Spec.MarkEnters : Prop :=
  ∀ (s : State) (h : Hdr), Ready s (.mark h) →
    let u := s.begun (.mark h)
    ∃ t l q, exec (.mark h) s = .next t ∧ t.myCl.loadQ = u.myCl.loadQ ++ [l] ∧ t.myCl.storeQ = u.myCl.storeQ ++ [q] ∧
      l.kind = .mark ∧ q.kind = .mark ∧ l.seq = u.myCl.nseq ∧ q.seq = u.myCl.nseq ∧ t.myCl.nseq = u.myCl.nseq + 1 ∧
      SameOutside u t ∧ SameCore u t ∧ SameBesideQueues u t

/-- In a versioned kernel a global st or red that passes its checks, and does not overfill a slice, is held in the version: it joins the updates in order, and no queue
    and no byte of memory changes (R40, R42). -/
def Sys2Proof.Spec.VersionHolds : Prop :=
  ∀ (s : State) (h : Hdr) (d a b : Reg) (m : MemLit) (r : AtomLit) (i : Instr) (e : VEnt),
    (i = .st h d a b m ∧ m.sp = true ∧
      e = { h := (s.begun i).mine.handle a, off := offsetOf (s.begun i) b m.off, upd := .bytes (storeData ((s.begun i).reg d) (2 ^ m.wd.toNat)) } ∧
      globalOk ((s.begun i).mine.handle a) (offsetOf (s.begun i) b m.off) (2 ^ m.wd.toNat) (2 ^ m.wd.toNat) false) ∨
    (i = .red h d a b r ∧
      e = { h := (s.begun i).mine.handle a, off := ((s.begun i).reg r.o).toNat, upd := .op r ((s.begun i).reg b) 0 } ∧
      globalOk ((s.begun i).mine.handle a) ((s.begun i).reg r.o).toNat (if r.wd = 2 then 4 else 8) (if r.wd = 2 then 4 else 8) false) →
    Ready s i → (s.begun i).versioned = true → (s.begun i).versionFull ((s.begun i).mine.version ++ [e]) = none →
    ∃ t, exec i s = .next t ∧ t.mine.version = (s.begun i).mine.version ++ [e] ∧ t.myCl.loadQ = (s.begun i).myCl.loadQ ∧
      t.myCl.storeQ = (s.begun i).myCl.storeQ ∧ SameOutside (s.begun i) t ∧ RegsBut none (s.begun i) t ∧ PredsKept (s.begun i) t

namespace Sys2Proof.Spec

open Sys2Proof Sys2Proof.Machine

/-- The entry after the head is no mark, so that nothing retires with the head (R247). -/
def noMark (r : List StoreEnt) : Prop := ∀ e l, r = e :: l → e.kind ≠ .mark

/-- The entry after the head of a load queue is no mark. -/
def noMarkL (r : List LoadEnt) : Prop := ∀ e l, r = e :: l → e.kind ≠ .mark

/-- Byte `o` of an access's page can be read and written in its place: nothing holds it, its tier is there, its line is neither lost nor in need of a correction, its
    frame neither moves nor has its accesses counted, and no digest record waits to be written to its plane (R96, R108, R281, R363, R382, R410). -/
structure PlainLine (s : State) (acc : Acc) (o : Nat) : Prop where
  free : s.isHeld acc o = false
  there : s.reach acc o = true
  clean : (s.line (s.lineNo acc o)).poisoned = false
  good : s.unfound acc o = false
  firm : sget false s.weak (s.lineNo acc o) = false
  still : ∀ f, acc.frame = some f → (s.frame f).st ≠ .inMotion ∧ (s.frame f).hoten = false
  records : ∀ d ∈ s.digests, d.2.dirty = false

/-- No cache holds bytes of a frame's line that are not home: no L1 of core `k` a dirty one, and no die's L2 any (R89, R91). -/
structure Uncached (s : State) (k l : Nat) : Prop where
  l1 : ∀ b ∈ (s.core k).l1, lineOf b.1 = l → b.2.dirty = false
  l2 : ∀ die, ∀ b ∈ s.l2Of die, lineOf b.1 ≠ l

/-- The bytes at a device-physical address can be read and written in their place, and no L2 holds any of their line. -/
structure PlainAt (u : State) (a : Nat) : Prop where
  line : PlainLine u (u.physAcc a) (a % 2 ^ 21)
  alone : ∀ f, (u.physAcc a).frame = some f → ∀ die, ∀ b ∈ u.l2Of die, lineOf b.1 ≠ lineOf (byteKey f (a % 2 ^ 21))

/-- Where the byte at a device-physical address is stored. -/
def placeOfAddr (u : State) (a : Nat) : Nat := u.spot (u.physAcc a) (a % 2 ^ 21)

/-- Memory differs in the `n` bytes from `a` on alone, which hold `v`, lowest byte first. -/
def Stored (s t : State) (a n v : Nat) : Prop :=
  ∀ x, t.memByte x = if a ≤ x ∧ x < a + n then .ofNat 8 (v / 256 ^ (x - a)) else s.memByte x

/-- A barrier after a clean arrival (R335). -/
def arrived (b : Bar) : Bar :=
  let n := if b.st = 2 then b.arrived + 1 else 1
  if n = b.expect then
    { b with episode := (b.episode + 1) % 2 ^ 16, tlast := b.taint, taint := false, arrived := 0, st := if b.taint then 4 else 3 }
  else { b with st := 2, arrived := n }

/-- The new value of an integer atomic operation on `w` bits (R124, R249): 0 add, 1 min, 2 max, 3 and, 4 or, 5 xor, 6 exchange, 7 compare and exchange. -/
def atomValue (op w : Nat) (uns : Bool) (old v cmp : BitVec 64) : Nat :=
  let o := old.toNat % 2 ^ w
  let x := v.toNat % 2 ^ w
  match op with
  | 0 => (o + x) % 2 ^ w
  | 1 => if uns then min o x else if (BitVec.ofNat w o).toInt ≤ (BitVec.ofNat w x).toInt then o else x
  | 2 => if uns then max o x else if (BitVec.ofNat w x).toInt ≤ (BitVec.ofNat w o).toInt then o else x
  | 3 => o &&& x
  | 4 => o ||| x
  | 5 => o ^^^ x
  | 6 => x
  | _ => if o = cmp.toNat % 2 ^ w then x else o

end Sys2Proof.Spec

/-- A result on its way, not poisoned and waiting for no way, whose pushes find space, reaches its register, leaves the list, and changes no other register of the
    cluster (R43, R45, R245). -/
def Sys2Proof.Spec.ResultDelivered : Prop :=
  ∀ (s : State) (core : CoreId) (c : Cluster) (e : RetEnt) (r : List RetEnt), ((s.core core.toNat).cl c).rets = e :: r → e.ways = none → e.poisoned = false →
    (s.core core.toNat).roomFor c e.push = true →
    ∃ t, exec (.loadReturn core c) s = .next t ∧ ((t.core core.toNat).cl c).rets = r ∧
      ((t.core core.toNat).cl c).reg e.d = (if e.d = 0 then 0 else e.val) ∧
      (∀ q, q ≠ e.d → ((t.core core.toNat).cl c).reg q = ((s.core core.toNat).cl c).reg q) ∧
      ((t.core core.toNat).cl c).p = ((s.core core.toNat).cl c).p ∧ ((t.core core.toNat).cl c).pc = ((s.core core.toNat).cl c).pc ∧
      (∀ n, n ≠ core.toNat → t.core n = s.core n) ∧ { t with cores := s.cores } = s

/-- The scalar load at the head of the load queue, with no result before it, no earlier store to its bytes and space for its pushes, returns: the bytes of the access go to its register, zero-extended;
    poisoned bytes with poison-to-predicate write zero and clear the predicate instead (R245). -/
def Sys2Proof.Spec.LoadReturns : Prop :=
  ∀ (s : State) (core : CoreId) (c : Cluster) (e : LoadEnt) (r : List LoadEnt) (h : BitVec 128) (off n : Nat) (d : Reg) (pp : Bool) (pd : Pred),
    let x := (s.core core.toNat).cl c
    x.rets = [] → x.loadQ = e :: r → noMarkL r → e.kind = .ld h off n d pp pd → x.loadFree e = true → s.holdsAt h off = false →
    (s.core core.toNat).roomFor c e.push = true →
    let data := (s.coreRead core.toNat h (s.ctx (s.core core.toNat).ctxNum).kdom off n).2
    ((∀ b ∈ data, b.2 = false) →
      ∃ t, exec (.loadReturn core c) s = .next t ∧ ((t.core core.toNat).cl c).loadQ = r ∧
        ((t.core core.toNat).cl c).reg d = (if d = 0 then 0 else .ofNat 64 (ofBytes (data.map (·.1)))) ∧
        (∀ q, q ≠ d → ((t.core core.toNat).cl c).reg q = x.reg q) ∧ ((t.core core.toNat).cl c).p = x.p) ∧
    ((∃ b ∈ data, b.2 = true) → pp = true →
      ∃ t, exec (.loadReturn core c) s = .next t ∧ ((t.core core.toNat).cl c).loadQ = r ∧ ((t.core core.toNat).cl c).reg d = 0 ∧
        (pd ≠ 0 → ((t.core core.toNat).cl c).pbit pd = false) ∧ (∀ q, q ≠ d → ((t.core core.toNat).cl c).reg q = x.reg q))

/-- A bit of a digest record that the spec reserves, for records of a kind (R104, R105). -/
def Sys2Proof.Spec.reservedBit (kind j : Nat) : Bool := decide (122 ≤ j) || (kind == 1 && decide (80 ≤ j ∧ j < 96)) || (kind == 3 && decide (64 ≤ j ∧ j < 96))

/-- What dgld and dgq read of a block: zero from a page of kind NONE, UNKNOWN alone where the block has no record, and else the record's 16 bytes, reserved bits as zero; shown where the home holds no record
    and the plane's line can be read (R7, R104, R105, R108). -/
def Sys2Proof.Spec.RecordRead : Prop :=
  ∀ (s : State) (h : BitVec 128) (off : Nat),
    let t := s.loadRecAt h off
    let r := t.readRec h off
    let key := s.recKey (s.frameAcc (hFrame h) (hAttr h 0)) off
    ((hAttr h 0).kind = 0 → r = 0) ∧
    ((hAttr h 0).kind ≠ 0 → key = none → r = BitVec.ofNat 128 (2 ^ 114)) ∧
    (∀ k, (hAttr h 0).kind ≠ 0 → key = some k → s.digests = [] →
      let cell := k / 128 * 128
      let acc := (State.planeAcc cell).1
      let o := (State.planeAcc cell).2
      let w := ofBytes (s.memBytes (s.stored cell + k % 128) 16)
      s.cellHeld cell = false → s.cellReach cell = true → s.unfound acc o = false → (s.line (s.lineNo acc o)).poisoned = false →
      t.mem = s.mem ∧ ∀ j, j < 128 → r.getLsbD j = (w.testBit j && !reservedBit (w / 2 ^ 116 % 8) j))

/-- The dgld or dgq at the head of the load queue returns, once its pushes find space: dgld the 16 bytes of the record to two registers, dgq one bit for each of 64 blocks whose record passes the
    test, with the records copied to the scratchpad where the word names one (R45, R261, R262). -/
def Sys2Proof.Spec.DigestLoadsReturn : Prop :=
  ∀ (s : State) (core : CoreId) (c : Cluster) (e : LoadEnt) (r : List LoadEnt) (h : BitVec 128) (off : Nat) (d : Reg) (test : BitVec 4),
    let x := (s.core core.toNat).cl c
    x.rets = [] → x.loadQ = e :: r → noMarkL r → x.loadFree e = true → (s.core core.toNat).roomFor c e.push = true →
    (e.kind = .dgld h off d → let v := (s.loadRecAt h off).readRec h off
      ∃ t, exec (.loadReturn core c) s = .next t ∧ ((t.core core.toNat).cl c).loadQ = r ∧
      (d ≠ 0 → d ≠ 31 → ((t.core core.toNat).cl c).reg d = v.setWidth 64 ∧ ((t.core core.toNat).cl c).reg (d + 1) = (v >>> 64).setWidth 64) ∧
      (∀ q, q ≠ d → q ≠ d + 1 → ((t.core core.toNat).cl c).reg q = x.reg q)) ∧
    (∀ cp, e.kind = .dgq h off test cp d → let recs := (s.readRecs h off).2
      recs.length = 64 ∧ ∃ t, exec (.loadReturn core c) s = .next t ∧ ((t.core core.toNat).cl c).loadQ = r ∧
      (d ≠ 0 → ∀ j, j < 64 → (((t.core core.toNat).cl c).reg d).getLsbD j = (DRec.ofBits (recs.getD j 0)).test test.toNat) ∧
      (∀ a, cp = some a → ∀ j, j < 1024 → (t.core core.toNat).spByte (a + j) = .ofNat 8 ((recs.getD (j / 16) 0).toNat / 256 ^ (j % 16))) ∧
      (∀ q, q ≠ d → ((t.core core.toNat).cl c).reg q = x.reg q))

/-- An acquire at the head of the load queue, once every result before it has returned and its pushes find space, drops the L1's clean bytes unless its scope is the core, and leaves the
    queue; registers stay (R90, R247). -/
def Sys2Proof.Spec.AcquireCompletes : Prop :=
  ∀ (s : State) (core : CoreId) (c : Cluster) (e : LoadEnt) (r : List LoadEnt) (scope : BitVec 3),
    let k := s.core core.toNat
    (k.cl c).loadQ = e :: r → noMarkL r → e.kind = .acquire scope → (k.cl c).rets = [] → k.roomFor c e.push = true →
    (∀ q ∈ (k.cl c).storeQ, q.seq < e.seq → ∀ h off m d v cmp, q.kind = .amo h off m d v cmp → m.res = false) →
    ∃ t, exec (.acquireDone core c) s = .next t ∧ ((t.core core.toNat).cl c).loadQ = r ∧
      (t.core core.toNat).l1 = (if scope = 0 then k.l1 else k.l1.filter fun b => b.2.dirty) ∧
      ((t.core core.toNat).cl c).s = (k.cl c).s ∧ t.mem = s.mem ∧ (∀ n, n ≠ core.toNat → t.core n = s.core n)

/-- A release or cflush at the head of the store queue, once its pushes find space, completes and leaves the queue, with no register changed (R90, R247, R264). At core scope nothing else changes. Beyond it no
    byte that it covers is dirty in the core's L1 any longer, and the L1 holds what it held. At quad and die scope the die's L2 has every such byte, marked as the core's, and no
    byte of memory changes where no line has to leave the L2. At dev and sys scope the die's L2 has no byte left that it covers and the core has not sent home, where no home holds an access. -/
def Sys2Proof.Spec.ReleaseCompletes : Prop :=
  ∀ (s : State) (core : CoreId) (c : Cluster) (e : StoreEnt) (r : List StoreEnt) (scope : BitVec 3) (covers : Nat → Prop),
    let k := s.core core.toNat
    let x := k.cl c
    let die := core.toNat / 32
    x.storeQ = e :: r → noMark r → x.storeFree e = true → (k.l1.map (·.1)).Nodup → k.roomFor c e.push = true →
    (e.kind = .release scope ∧ (∀ b, covers b)) ∨
      (∃ h off n, e.kind = .cflush h off n scope ∧ ∀ b, covers b ↔ byteKey (hFrame h) off ≤ b ∧ b < byteKey (hFrame h) off + n) →
    ∃ t, exec (.releaseDone core c) s = .next t ∧ ((t.core core.toNat).cl c).storeQ = r ∧ ((t.core core.toNat).cl c).s = x.s ∧
      (t.core core.toNat).l1.map (fun b => (b.1, b.2.val)) = k.l1.map (fun b => (b.1, b.2.val)) ∧
      (scope = 0 → (t.core core.toNat).l1 = k.l1 ∧ t.l2 = s.l2 ∧ t.mem = s.mem) ∧
      (1 ≤ scope.toNat → ∀ b ∈ (t.core core.toNat).l1, covers b.1 → b.2.dirty = false) ∧
      (1 ≤ scope.toNat → scope.toNat ≤ 2 →
        (∀ b ∈ k.l1, b.2.dirty = true → covers b.1 → ∃ y ∈ s.l2Of die, lineOf y.1 = lineOf b.1) →
        t.mem = s.mem ∧ ∀ b ∈ k.l1, b.2.dirty = true → covers b.1 →
          ∃ q, sfind (t.l2Of die) b.1 = some q ∧ q.val = b.2.val ∧ q.writers.getLsbD (core.toNat % 32) = true) ∧
      (3 ≤ scope.toNat → (∀ cell, s.cellHeld cell = false) →
        ∀ b ∈ t.l2Of die, covers b.1 → b.2.writers.getLsbD (core.toNat % 32) = false)

/-- At dev and sys scope a release, or a cflush of the line, brings the bytes home: where the dirty bytes of the core's L1 lie on one line that can be written in its place, no L2 holds bytes of that line or any dirty byte, and the
    line's set of the die's L2 has room, memory takes each of them, and no other byte of memory changes (R90, R91, R264). -/
def Sys2Proof.Spec.ReleaseReachesHome : Prop :=
  ∀ (s : State) (core : CoreId) (c : Cluster) (e : StoreEnt) (r : List StoreEnt) (scope : BitVec 3) (l : Nat) (attr : PAttr),
    let k := s.core core.toNat
    let x := k.cl c
    let acc := s.frameAcc (128 * l / 2 ^ 21) attr
    let o := 128 * l % 2 ^ 21
    x.storeQ = e :: r → noMark r → x.storeFree e = true → (k.l1.map (·.1)).Nodup → k.roomFor c e.push = true → 3 ≤ scope.toNat →
    (e.kind = .release scope ∨ ∃ h off n, e.kind = .cflush h off n scope ∧ byteKey (hFrame h) off ≤ 128 * l ∧ 128 * l + 128 ≤ byteKey (hFrame h) off + n) →
    (∀ b ∈ k.l1, b.2.dirty = true → lineOf b.1 = l ∧ b.2.attr = attr) → (∀ die, ∀ b ∈ s.l2Of die, lineOf b.1 ≠ l ∧ b.2.dirty = false) →
    fullSet (s.l2Of (core.toNat / 32)) 262144 16 l = none → PlainLine s acc o →
    ∃ t, exec (.releaseDone core c) s = .next t ∧ (∀ b ∈ k.l1, b.2.dirty = true → t.memByte (s.spot acc o + b.1 % 128) = b.2.val) ∧
      (∀ y, (∀ b ∈ k.l1, b.2.dirty = true → y ≠ s.spot acc o + b.1 % 128) → t.memByte y = s.memByte y)

/-- The amo or red at the head of the store queue, with no earlier load of its bytes before it, a line that can be read and written in its place, and no cache with bytes of the line that are not home, is
    performed at home: its bytes in memory become the operation's new value and no other byte of memory changes; an amo with a result sends the old value on its way; registers stay
    (R91, R249, R250). -/
def Sys2Proof.Spec.AtomicsPerform : Prop :=
  ∀ (s : State) (core : CoreId) (c : Cluster) (e : StoreEnt) (r : List StoreEnt) (h : BitVec 128) (off : Nat) (m : AtomLit),
    let x := (s.core core.toNat).cl c
    let acc := s.frameAcc (hFrame h) (hAttr h (s.ctx (s.core core.toNat).ctxNum).kdom)
    let w := if m.wd = 2 then 4 else 8
    let at' := s.spot acc off
    let old := ofBytes (s.memBytes at' w)
    x.storeQ = e :: r → noMark r → x.storeFree e = true → off % w = 0 → PlainLine s acc off → Uncached s core.toNat (lineOf (byteKey (hFrame h) off)) →
    (∀ d v cmp, e.kind = .amo h off m d v cmp →
      ∃ t, exec (.atomicPerform core c) s = .next t ∧ ((t.core core.toNat).cl c).storeQ = r ∧ ((t.core core.toNat).cl c).s = x.s ∧
        Stored s t at' w (atomNew m old v.toNat cmp.toNat) ∧
        (m.res = true → ∃ q, ((t.core core.toNat).cl c).rets = x.rets ++ [q] ∧ q.d = d ∧ q.val = .ofNat 64 old ∧ q.poisoned = false) ∧
        (m.res = false → ((t.core core.toNat).cl c).rets = x.rets)) ∧
    (∀ v, e.kind = .red h off m v →
      ∃ t, exec (.reductionPerform core c) s = .next t ∧ ((t.core core.toNat).cl c).storeQ = r ∧ ((t.core core.toNat).cl c).s = x.s ∧
        Stored s t at' w (atomNew m old v.toNat 0) ∧ ((t.core core.toNat).cl c).rets = x.rets)

/-- The same on a poisoned line that can be reached: no byte of memory changes, where no digest record waits to be written to its plane; an amo with a result sends it on its way as poisoned, and a red is dropped with one
    record of class 1, which joins the device's own writes (R249, R380, R381; log 69). -/
def Sys2Proof.Spec.AtomicsOnPoison : Prop :=
  ∀ (s : State) (core : CoreId) (c : Cluster) (e : StoreEnt) (r : List StoreEnt) (h : BitVec 128) (off : Nat) (m : AtomLit),
    let x := (s.core core.toNat).cl c
    let acc := s.frameAcc (hFrame h) (hAttr h (s.ctx (s.core core.toNat).ctxNum).kdom)
    let w := if m.wd = 2 then 4 else 8
    x.storeQ = e :: r → noMark r → x.storeFree e = true → off % w = 0 → Uncached s core.toNat (lineOf (byteKey (hFrame h) off)) →
    s.isHeld acc off = false → s.reach acc off = true → (s.line (s.lineNo acc off)).poisoned = true → sget false s.weak (s.lineNo acc off) = false →
    (s.frame (hFrame h)).hoten = false → (∀ d ∈ s.digests, d.2.dirty = false) →
    (∀ d v cmp, e.kind = .amo h off m d v cmp → m.res = true →
      ∃ t q, exec (.atomicPerform core c) s = .next t ∧ ((t.core core.toNat).cl c).storeQ = r ∧ t.mem = s.mem ∧ t.todo = s.todo ∧
        ((t.core core.toNat).cl c).rets = x.rets ++ [q] ∧ q.d = d ∧ q.poisoned = true) ∧
    (∀ v, e.kind = .red h off m v →
      ∃ t q, exec (.reductionPerform core c) s = .next t ∧ ((t.core core.toNat).cl c).storeQ = r ∧ t.mem = s.mem ∧
        t.todo = s.todo ++ [.record q] ∧ q.cls = 1 ∧ q.sev = 2 ∧ q.addr = hFrame h + 2 ^ 28 * (off / 128))

/-- The value an integer atomic makes: addition, signed or unsigned minimum and maximum, the logical operations, exchange, and compare and exchange, on 32 or 64 bits (R249). -/
def Sys2Proof.Spec.AtomicValue : Prop :=
  ∀ (m : AtomLit) (old v cmp : Word), m.fp = false → m.op.toNat ≤ 7 → old.toNat < 2 ^ (if m.wd = 2 then 32 else 64) →
    atomNew m old.toNat v.toNat cmp.toNat = atomValue m.op.toNat (if m.wd = 2 then 32 else 64) m.uns old v cmp

/-- Atomics and reductions at home, on poisoned lines too, and the values the integer ones make (R249, R250). -/
def Obligations.Atomics : Prop := AtomicsPerform ∧ AtomicsOnPoison ∧ AtomicValue

/-- The signal at the head of the store queue writes its word to the target's scratchpad, and nothing else of the target's scratchpad; one with a misaligned or absent address, a core
    beyond its context, or a tile that is not THREAD writes no scratchpad byte (R163). -/
def Obligations.SignalDelivers : Prop :=
  ∀ (s : State) (core : CoreId) (c : Cluster) (e : StoreEnt) (r : List StoreEnt) (target addr : Nat) (v : Word),
    let x := (s.core core.toNat).cl c
    x.storeQ = e :: r → noMark r → x.storeFree e = true → e.kind = .signal target addr v →
    let good := addr % 8 = 0 ∧ addr < 0x280000 ∧ target < 256 ∧ (s.ctx (s.core core.toNat).ctxNum).desc.cores.getLsbD target = true ∧
      (s.core target).owner' (addr / 4096) = 0
    (good → ∃ t, exec (.signalDeliver core c) s = .next t ∧ ((t.core core.toNat).cl c).storeQ = r ∧
      (∀ j, j < 8 → ((t.core target).spByte (addr + j)).toNat = v.toNat / 256 ^ j % 256) ∧
      (∀ y, y < addr ∨ addr + 8 ≤ y → (t.core target).spByte y = (s.core target).spByte y) ∧
      (∀ n, n ≠ target → n ≠ core.toNat → t.core n = s.core n) ∧ t.mem = s.mem) ∧
    (¬ good → ∃ t, exec (.signalDeliver core c) s = .next t ∧ ((t.core core.toNat).cl c).storeQ = r ∧ ∀ n, (t.core n).sp = (s.core n).sp)

/-- The binit at the head of the store queue, of the present placement of its quad, arms its barrier with its count and returns 0; it returns 1 from a barrier that is COUNTING, and 2 for a
    count of 0 or above 65,535, and then leaves the barrier as it was (R335, R337). -/
def Sys2Proof.Spec.BinitPerforms : Prop :=
  ∀ (s : State) (core : CoreId) (c : Cluster) (e : StoreEnt) (r : List StoreEnt) (key : Nat) (count : Word) (d : Reg),
    let x := (s.core core.toNat).cl c
    x.storeQ = e :: r → noMark r → x.storeFree e = true → e.kind = .binit key count d (placementTag s key) →
    let bad := count.toNat = 0 ∨ 65535 < count.toNat
    let code := if bad then 2 else if (s.bar key).st = 2 then 1 else 0
    ∃ t q, exec (.binitPerform core c) s = .next t ∧ ((t.core core.toNat).cl c).rets = x.rets ++ [q] ∧ q.d = d ∧ q.val = .ofNat 64 code ∧
      ((t.core core.toNat).cl c).storeQ = r ∧ (code ≠ 0 → t.barriers = s.barriers) ∧
      (code = 0 → (t.bar key).st = 1 ∧ (t.bar key).expect = count.toNat ∧ (t.bar key).episode = (s.bar key).episode ∧
        ((s.bar key).st = 0 → (t.bar key).arrived = 0 ∧ (t.bar key).taint = false ∧ (t.bar key).tlast = false)) ∧
      (∀ j, j ≠ key → t.bar j = s.bar j)

/-- An arrival counts at its barrier (R335, R338): a barv's, once its release is done, returns the episode before it, with bit 63 set and nothing counted when the barrier is
    IDLE; an engine's clean arrival at a die or device barrier of its context counts alike. A barv of an earlier placement of its quad reaches no barrier (R328). -/
def Sys2Proof.Spec.ArrivalCounts : Prop :=
  (∀ (s : State) (core : CoreId) (c : Cluster) (e : StoreEnt) (r : List StoreEnt) (key : Nat) (scope : BitVec 3) (d : Reg) (tag : Nat),
    let x := (s.core core.toNat).cl c
    x.storeQ = e :: r → noMark r → x.storeFree e = true → e.kind = .barv key scope d tag → (s.core core.toNat).halted = false →
    ((s.bar key).st = 2 → (s.bar key).arrived < (s.bar key).expect) →
    ∃ t q, exec (.barrierArrival (.thread core c)) s = .next t ∧ ((t.core core.toNat).cl c).rets = x.rets ++ [q] ∧ q.d = d ∧
      ((t.core core.toNat).cl c).storeQ = r ∧
      (tag = placementTag s key → (s.bar key).st = 0 → t.barriers = s.barriers ∧ q.val = .ofNat 64 (2 ^ 63 + (s.bar key).episode)) ∧
      (tag = placementTag s key → (s.bar key).st ≠ 0 → t.bar key = arrived (s.bar key) ∧ q.val = .ofNat 64 (s.bar key).episode) ∧
      (tag ≠ placementTag s key → t.barriers = s.barriers ∧ q.val.getLsbD 63 = true) ∧ (∀ j, j ≠ key → t.bar j = s.bar j)) ∧
  (∀ (s : State) (a : Arrival) (r : List Arrival), s.arrivals = a :: r → 1024 ≤ a.key → a.tainted = false → s.barOwned a.ctx.toNat a.key = true →
    (s.bar a.key).st ≠ 0 → ((s.bar a.key).st = 2 → (s.bar a.key).arrived < (s.bar a.key).expect) →
    ∃ t, exec (.barrierArrival .engine) s = .next t ∧ t.arrivals = r ∧ t.bar a.key = arrived (s.bar a.key) ∧ (∀ j, j ≠ a.key → t.bar j = s.bar j))

/-- binit arms a barrier, and arrivals count at it (R335, R337, R338). -/
def Obligations.Barriers : Prop := BinitPerforms ∧ ArrivalCounts

namespace Sys2Proof.Spec

open Sys2Proof Sys2Proof.Machine

/-- The word `i` has sent the value `v` on its way to register `d` and passed: the result list of its cluster has one more entry, and no register, predicate or queue of
    the cluster changes. -/
def Sends (i : Instr) (u t : State) (d : Reg) (v : Word) : Prop :=
  (∃ q, t.myCl.rets = u.myCl.rets ++ [q] ∧ q.d = d ∧ q.val = v ∧ q.ways = none ∧ q.poisoned = false) ∧
  t.myCl.pc = pcPlus u.curCl u.myCl.pc i.words ∧ RegsBut none u t ∧ PredsKept u t ∧ t.myCl.loadQ = u.myCl.loadQ ∧ t.myCl.storeQ = u.myCl.storeQ

/-- The word lstat returns (R371). -/
def linkStatus (x : Link) : Word :=
  .ofNat 64 ((match x.st with | .down => 0 | .training => 1 | .up => 2 | .degraded => 3 | .quarantined => 4) + 2 ^ 8 * x.lanes.toNat + 2 ^ 38 * x.peer.toNat
    + 2 ^ 48 * x.errc.toNat)

/-- The word pheat returns (R366). -/
def frameHeat (e : Frame) : Word :=
  .ofNat 64 (2 ^ 16 * (match e.st with | .unmapped => 0 | .resident => 1 | .inMotion => 2 | .committing => 3) + 2 ^ 19 * e.tier.toNat + 2 ^ 21 * e.wmark.toNat
    + 2 ^ 36 * b2n e.parked + 2 ^ 37 * e.last.toNat + 2 ^ 40 * e.pcnt.toNat + 2 ^ 48 * e.hot.toNat)

/-- The code pmig returns for a frame and a tier (R365), `free` saying that the frame's engine has a slot. -/
def motionCode (s : State) (f : Nat) (tier : BitVec 2) : Nat :=
  let e := s.frame f
  let r := s.ring tier.toNat e.ilv.toNat
  if e.st = .unmapped then 5
  else if e.st ≠ .resident then 1
  else if tier = e.tier then 2
  else if r.tail = r.head then 3
  else if s.freeSlot f = none then 4
  else 0

/-- The code qapp returns in bits [63:62] (R311). -/
def appendCode (s : State) (n q : Nat) : Nat :=
  let x := s.queue q
  if 16384 ≤ q ∨ x.ctx ≠ n then 3
  else if x.devapp = false ∨ ¬ (x.st = .idle ∨ x.st = .active ∨ x.st = .blocked) then 2
  else if (x.tail - x.head).toNat = x.size then 1
  else 0

end Sys2Proof.Spec

/-- xlat: a page that the core's buffer holds for the context's ASID and generation gives its handle and a true predicate, any other address an all-zero handle and a false predicate, written at once in scoreboard mode and in
    flight, due six issue cycles later, in exposed mode; no scalar register changes (R49, R241; log 6). -/
def Sys2Proof.Spec.XlatTranslates : Prop :=
  ∀ (s : State) (h : Hdr) (d a : Reg) (pd : Pred), Ready s (.xlat h d a pd) →
    let u := s.begun (.xlat h d a pd)
    let x := u.ctx u.mine.ctxNum
    let page := (u.reg a).toNat / 2 ^ 21
    ∃ t hd hit, exec (.xlat h d a pd) s = .next t ∧ t.myCl.pc = pcPlus u.curCl u.myCl.pc 2 ∧ RegsBut none u t ∧ SameOutside u t ∧
      (∀ e, page < 2 ^ 27 → (u.mine.rtb.find? fun e => e.asid == x.asid && e.gen == x.gen && e.vpage.toNat == page) = some e → hd = e.h ∧ hit = true) ∧
      ((∀ e ∈ u.mine.rtb, ¬ (e.asid = x.asid ∧ e.gen = x.gen ∧ e.vpage.toNat = page)) ∨ 2 ^ 27 ≤ page → hd = 0 ∧ hit = false) ∧
      (∀ r, r ≠ d → t.mine.handle r = u.mine.handle r) ∧ (∀ q, q ≠ pd → t.myCl.pmask q = u.myCl.pmask q) ∧
      (u.atOnce (.xlat h d a pd) 6 → t.mine.handle d = hd ∧ (pd ≠ 0 → t.myCl.pbit pd = hit)) ∧
      (¬ u.atOnce (.xlat h d a pd) 6 → t.mine.handle d = u.mine.handle d ∧ PredsKept u t ∧ Sent (.xlat h d a pd) u t 6 (.handle d hd) ∧
        Sent (.xlat h d a pd) u t 6 (.pred pd (predLanes u.curCl) (spread hit)))

/-- owng gives tiles that are all THREAD to its class, once the stores before it have written (none is in flight here); a range that is empty or leaves the scratchpad raises ALIGN, and a tile that
    is not THREAD raises OWNER, with no tile given; ownw passes once its tiles are THREAD, ownt puts its request at the end of the core's list (R251). -/
def Obligations.TileWords : Prop :=
  ∀ (s : State) (h : Hdr) (a b : Reg) (cls : BitVec 3),
    (Ready s (.owng h a b cls) →
      let u := s.begun (.owng h a b cls)
      let t0 := (u.reg a).toNat
      let n := (u.reg b).toNat
      ((n = 0 ∨ 640 < t0 + n) → exec (.owng h a b cls) s = .next (u.trapHere u.curCl .align u.myCl.pc 0 (toBytes 8 ((4096 * t0) % 2 ^ 64) ++ [0]))) ∧
      (0 < n → t0 + n ≤ 640 → u.myCl.flight = [] → (∀ i, t0 ≤ i → i < t0 + n → u.mine.owner' i = 0) →
        ∃ t, exec (.owng h a b cls) s = .next t ∧ (∀ i, t0 ≤ i → i < t0 + n → t.mine.owner' i = cls) ∧
          (∀ i, i < t0 ∨ t0 + n ≤ i → t.mine.owner' i = u.mine.owner' i) ∧ RegsBut none u t ∧ PredsKept u t ∧ SameOutside u t ∧
          t.mine.sp = u.mine.sp) ∧
      (0 < n → t0 + n ≤ 640 → (∃ i, t0 ≤ i ∧ i < t0 + n ∧ u.mine.owner' i ≠ 0) →
        ∃ operand, exec (.owng h a b cls) s = .next (u.trapHere u.curCl .owner u.myCl.pc 0 operand))) ∧
    (Ready s (.ownw h a b) →
      let u := s.begun (.ownw h a b)
      0 < (u.reg b).toNat → (u.reg a).toNat + (u.reg b).toNat ≤ 640 →
        ∃ t, exec (.ownw h a b) s = .next t ∧ Passed (.ownw h a b) u t ∧ RegsBut none u t ∧ PredsKept u t) ∧
    (Ready s (.ownt h a b) →
      let u := s.begun (.ownt h a b)
      0 < (u.reg b).toNat → (u.reg a).toNat + (u.reg b).toNat ≤ 640 →
        ∃ t r, exec (.ownt h a b) s = .next t ∧ t.mine.ownt = u.mine.ownt ++ [r] ∧ r.first = (u.reg a).toNat ∧ r.n = (u.reg b).toNat ∧
          (∀ i, t.mine.owner' i = u.mine.owner' i) ∧ RegsBut none u t ∧ PredsKept u t ∧ SameOutside u t)

/-- cpq, gath and scat append one command to the core's copy chain: the 64-byte block goes to the entry's place with gath's and scat's operation in its first byte and an ended link, the entry
    becomes the tail, and the word's register takes the command's number, at once in scoreboard mode and four issue cycles later in exposed mode (R49, R252; log 6). -/
def Sys2Proof.Spec.CopyAppends : Prop :=
  ∀ (s : State) (h : Hdr) (d a b : Reg) (i : Instr) (op : Option Byte),
    (i = .cpq h d a b ∧ op = none) ∨ (i = .gath h d a b ∧ op = some 1) ∨ (i = .scat h d a b ∧ op = some 2) → Ready s i →
    let u := s.begun i
    let x := (u.reg a).toNat
    let y := (u.reg b).toNat
    x % 64 = 0 → x + 64 ≤ 0x280000 → y % 64 = 0 → y + 64 ≤ 0x280000 → u.mine.owner' (y / 4096) = 0 → u.mine.owner' (x / 4096) = 1 →
    (∀ t, u.mine.cpTail = some t → t = x ∨ t + 64 ≤ x ∨ x + 64 ≤ t) →
    ∃ t, exec i s = .next t ∧ Result i u t 4 d (.ofNat 64 u.mine.cpNext) ∧ PredsKept u t ∧ SameOutside u t ∧
      t.mine.cpTail = some x ∧ t.mine.cpNext = u.mine.cpNext + 1 ∧
      (∃ c, t.mine.cp = u.mine.cp ++ [c] ∧ c.seq = u.mine.cpNext ∧ c.addr = x ∧ c.entry = none) ∧
      (∀ j, j < 64 → t.mine.spByte (x + j) =
        if 4 ≤ j ∧ j < 8 then 0xFF else match op with | some o => if j = 0 then o else u.mine.spByte (y + j) | none => u.mine.spByte (y + j)) ∧
      (∀ p, u.mine.cpTail = some p → p ≠ x → ∀ j, j < 4 → t.mine.spByte (p + 4 + j) = .ofNat 8 (x / 256 ^ j))

/-- cptail appends as many commands as it names, whose entries are linked after the tail: the register takes the last number, as cpq's does, and the tail the word's address
    (R49, R252; log 6). -/
def Sys2Proof.Spec.CptailAppends : Prop :=
  ∀ (s : State) (h : Hdr) (d a : Reg) (n : BitVec 8), Ready s (.cptail h d a n) →
    let u := s.begun (.cptail h d a n)
    ∃ t, exec (.cptail h d a n) s = .next t ∧ Result (.cptail h d a n) u t 4 d (.ofNat 64 (u.mine.cpNext + n.toNat - 1)) ∧
      t.mine.cpNext = u.mine.cpNext + n.toNat ∧ t.mine.cpTail = some (u.reg a).toNat ∧ (∃ l, t.mine.cp = u.mine.cp ++ l ∧ l.length = n.toNat ∧
        ∀ j c, l[j]? = some c → c.seq = u.mine.cpNext + j) ∧
      t.mine.sp = u.mine.sp ∧ PredsKept u t ∧ SameOutside u t

/-- cpq, gath, scat and cptail append commands to the copy chain (R252). -/
def Obligations.CopyWords : Prop := CopyAppends ∧ CptailAppends

/-- lstat and pheat send the state of a link, all ones for a number above 28, or of the handle's frame; an invalid handle raises HANDLE (R366, R371). -/
def Sys2Proof.Spec.StatusWords : Prop :=
  ∀ (s : State) (h : Hdr) (d a : Reg),
    (Ready s (.lstat h d a) →
      let u := s.begun (.lstat h d a)
      ∃ t, exec (.lstat h d a) s = .next t ∧ SameOutside u t ∧
        Sends (.lstat h d a) u t d (if 28 < (u.reg a).toNat then .allOnes 64 else linkStatus (u.link (u.reg a).toNat))) ∧
    (Ready s (.pheat h d a) →
      let u := s.begun (.pheat h d a)
      ((u.mine.handle a).getLsbD 63 = true → ∃ t, exec (.pheat h d a) s = .next t ∧ SameOutside u t ∧
        Sends (.pheat h d a) u t d (frameHeat (u.frame (hFrame (u.mine.handle a))))) ∧
      ((u.mine.handle a).getLsbD 63 = false → exec (.pheat h d a) s = .next (u.trapHere u.curCl .handle u.myCl.pc 0 [])))

/-- pmig sends the frame and its code: with code 0 the frame is IN_MOTION to the location that the head of the tier's ring holds, read where the ring's bytes lie in their place, and with any other code no frame changes; a handle that is
    not valid raises HANDLE; its abort form ends a motion with LAST 2 and code 0,
    and otherwise changes no frame and sends 7 while it commits and 6 when it does not move (R364, R365). -/
def Sys2Proof.Spec.MotionWords : Prop :=
  ∀ (s : State) (h : Hdr) (d a : Reg) (tier : BitVec 2),
    (Ready s (.pmig h d a tier) →
      let u := s.begun (.pmig h d a tier)
      let f := hFrame (u.mine.handle a)
      let r := u.ring tier.toNat (u.frame f).ilv.toNat
      let slot := r.cfg.toNat / 2 ^ 12 % 2 ^ 40 * 2 ^ 12 + 8 * (r.head.toNat % 2 ^ (r.cfg.toNat % 16))
      ((u.mine.handle a).getLsbD 63 = false → exec (.pmig h d a tier) s = .next (u.trapHere u.curCl .handle u.myCl.pc 0 [])) ∧
      ((u.mine.handle a).getLsbD 63 = true →
      ∃ t, exec (.pmig h d a tier) s = .next t ∧ Sends (.pmig h d a tier) u t d (.ofNat 64 (f + 2 ^ 56 * motionCode u f tier)) ∧
        (motionCode u f tier = 0 → (t.frame f).st = .inMotion ∧ (t.frame f).wmark = 0 ∧ (t.frame f).loc = (u.frame f).loc ∧
          (t.ring tier.toNat (u.frame f).ilv.toNat).head = r.head + 1 ∧
          (PlainAt u slot → (t.frame f).dest.toNat = ofBytes (u.memBytes (placeOfAddr u slot) 8) / 2 ^ 21 % 2 ^ 31)) ∧
        (motionCode u f tier ≠ 0 → SameOutside u t))) ∧
    (Ready s (.pmigAbort h d a) →
      let u := s.begun (.pmigAbort h d a)
      let f := hFrame (u.mine.handle a)
      ((u.mine.handle a).getLsbD 63 = false → exec (.pmigAbort h d a) s = .next (u.trapHere u.curCl .handle u.myCl.pc 0 [])) ∧
      ((u.mine.handle a).getLsbD 63 = true →
      ∃ t, exec (.pmigAbort h d a) s = .next t ∧
        ((u.frame f).st = .inMotion → Sends (.pmigAbort h d a) u t d (.ofNat 64 f) ∧ (t.frame f).st = .resident ∧ (t.frame f).last = 2 ∧
          (t.frame f).loc = (u.frame f).loc) ∧
        ((u.frame f).st = .committing → Sends (.pmigAbort h d a) u t d (.ofNat 64 (f + 2 ^ 56 * 7)) ∧ SameOutside u t) ∧
        ((u.frame f).st ≠ .inMotion → (u.frame f).st ≠ .committing → Sends (.pmigAbort h d a) u t d (.ofNat 64 (f + 2 ^ 56 * 6)) ∧ SameOutside u t)))

/-- lstat and pheat report links and frames; pmig starts a motion to the location at the head of its ring, and ends motions; a handle that is not valid raises HANDLE (R364, R365, R366, R371). -/
def Obligations.LinksAndFrames : Prop := StatusWords ∧ MotionWords

namespace Sys2Proof.Spec

open Sys2Proof Sys2Proof.Machine

/-- A release of the issuing core at dev scope finds nothing to do, and no version waits for a commit (R40, R90). -/
structure NothingToRelease (u : State) : Prop where
  plain : u.versioned = false
  l1 : ∀ b ∈ u.mine.l1, b.2.dirty = false
  l2 : ∀ b ∈ u.l2Of (u.me / 32), b.2.writers.getLsbD (u.me % 32) = false

/-- The device-physical address of a record (R312). -/
def recordAt (x : Ctx) (r : Nat) : Nat := x.rpool.toNat / 2 ^ 24 % 2 ^ 28 * 2 ^ 24 + 256 * r

/-- The place in its record, the size and the value of the field that lpatch's FIELD selects (R313, R317). -/
def patchOf (field v : Nat) : Nat × Nat × Nat :=
  if field < 16 then (128 + 8 * field, 8, v) else if field < 22 then (40 + 4 * (field - 16), 4, v - 1) else (88, 8, v)

/-- The first failing check of R316 on the fields of a record `v` of a context, besides the state of the record and poison; 0 when every check passes. -/
def armVerdict (x : Ctx) (v : Nat) : Nat :=
  let shape := v / 2 ^ 256 % 2 ^ 64
  let w (i : Nat) : Nat := shape / 2 ^ (6 * i) % 64
  let e (i : Nat) : Nat := v / 2 ^ (320 + 32 * i) % 2 ^ 32 + 1
  let g := shape / 2 ^ 36 % 8
  let z := shape / 2 ^ 40 % 8
  let tt := v / 2 ^ 576 % 2 ^ 64
  let kc := v / 2 ^ 640 % 2 ^ 64
  if (∃ i ∈ List.range 6, 32 < w i ∨ 2 ^ w i < e i) ∨ 64 < w 0 + w 1 + w 2 + w 3 + w 4 + w 5 then 2
  else if 6 < g ∨ (z ≠ 7 ∧ (z < g ∨ 6 ≤ z)) ∨ 1024 < ((List.range g).map e).prod then 3
  else if v / 2 ^ 512 % 2 ^ 32 = 0 then 4
  else if ∃ c ∈ Cluster.all, badTarget c (.ofNat 64 (v / 2 ^ (64 * c.num) % 2 ^ 64)) = true then 5
  else if 4 < shape / 2 ^ 44 % 8 ∨ shape / 2 ^ 49 ≠ 0 ∨ shape / 2 ^ 43 % 2 ≠ 0 ∨ shape / 2 ^ 39 % 2 ≠ 0 ∨ v / 2 ^ 544 % 2 ^ 32 ≠ 0 ∨ v / 2 ^ 768 % 2 ^ 256 ≠ 0
      ∨ 2 ^ 48 ≤ tt ∨ tt % 128 ≠ 0 ∨ kc / 2 ^ 30 % 2 ^ 33 ≠ 0 ∨ kc % 8 ≠ 0 ∨ (2 ^ 63 ≤ kc ∧ x.desc.cores.getLsbD (kc / 2 ^ 22 % 256) = false) then 6
  else if ∃ q ∈ List.range 64, ∀ j ∈ List.range 4, x.desc.cores.getLsbD (4 * q + j) = true then 0
  else 8

/-- The bytes of a record in memory, as one number. -/
def recordBytes (u : State) (a : Nat) : Nat := ofBytes (u.memBytes (placeOfAddr u a) 128 ++ u.memBytes (placeOfAddr u (a + 128)) 128)

end Sys2Proof.Spec

/-- lpatch acts on a record of the context and sends its code: 7 for a number beyond the pool, 1 unless the record is BLANK or PATCHED, 2 for an extent out of range, and otherwise 0, with the record PATCHED; no other
    record changes. Where nothing waits for its release and the field's bytes can be written in their place, the field takes the value in memory, and no other byte of memory changes (R315, R317). -/
def Sys2Proof.Spec.LpatchPatches : Prop :=
  ∀ (s : State) (h : Hdr) (d a b : Reg) (field : BitVec 5), Ready s (.lpatch h d a b field) →
    let u := s.begun (.lpatch h d a b field)
    let n := u.mine.ctxNum
    let r := (u.reg a).toNat
    let v := (u.reg b).toNat
    let open' := (u.record n r).st = .blank ∨ (u.record n r).st = .patched
    let code := if 65536 ≤ r then 7 else if ¬ open' then 1 else if 16 ≤ field.toNat ∧ field.toNat < 22 ∧ (v = 0 ∨ 2 ^ 32 < v) then 2 else 0
    let p := patchOf field.toNat v
    let at' := recordAt (u.ctx n) r + p.1
    ∃ t, exec (.lpatch h d a b field) s = .next t ∧ Sends (.lpatch h d a b field) u t d (.ofNat 64 code) ∧
      (code = 0 → (t.record n r).st = .patched) ∧ (code ≠ 0 → t.recs = u.recs) ∧
      (∀ m, m ≠ recKeyOf n r → sget Rec.reset t.recs m = sget Rec.reset u.recs m) ∧
      (code = 0 → NothingToRelease u → PlainAt u at' → Stored u t (placeOfAddr u at') p.2.1 p.2.2) ∧
      (code ≠ 0 → NothingToRelease u → t.mem = u.mem)

/-- larm acts on a record of the context and sends its code: 7 for a number beyond the pool, and 1 unless the record is BLANK or PATCHED. Where nothing waits for its release and the record's two lines can be read in their
    place, it sends the first failing check of R316 on the record's bytes, and with code 0 the record is ARMED with those bytes as its image, and no byte of memory changes. No other record changes (R315, R316, R317). -/
def Sys2Proof.Spec.LarmArms : Prop :=
  ∀ (s : State) (h : Hdr) (d a : Reg), Ready s (.larm h d a) →
    let u := s.begun (.larm h d a)
    let n := u.mine.ctxNum
    let r := (u.reg a).toNat
    let open' := (u.record n r).st = .blank ∨ (u.record n r).st = .patched
    let at' := recordAt (u.ctx n) r
    let v := recordBytes u at'
    (65536 ≤ r → ∃ t, exec (.larm h d a) s = .next t ∧ Sends (.larm h d a) u t d 7 ∧ t.recs = u.recs) ∧
    (r < 65536 → ¬ open' → ∃ t, exec (.larm h d a) s = .next t ∧ Sends (.larm h d a) u t d 1 ∧ t.recs = u.recs) ∧
    (r < 65536 → open' → NothingToRelease u → PlainAt u at' → PlainAt u (at' + 128) →
      ∃ t, exec (.larm h d a) s = .next t ∧ Sends (.larm h d a) u t d (.ofNat 64 (armVerdict (u.ctx n) v)) ∧ t.mem = u.mem ∧
        (armVerdict (u.ctx n) v = 0 → t.record n r = { st := .armed, image := .ofNat 2048 v }) ∧ (armVerdict (u.ctx n) v ≠ 0 → t.recs = u.recs) ∧
        (∀ m, m ≠ recKeyOf n r → sget Rec.reset t.recs m = sget Rec.reset u.recs m))

/-- qapp reads its block at issue and appends it to a queue of the context: it sends the entry's number, with TAIL moved on, or code 3, 2 or 1 in bits [63:62] with no queue changed for a queue that is not the context's, does
    not take appends, or is full. Where nothing waits for its release and the slot's bytes can be written in their place, the slot takes the block, and no other byte of memory changes. A block that is misaligned or beyond the
    scratchpad raises ALIGN (R311). -/
def Sys2Proof.Spec.QappAppends : Prop :=
  ∀ (s : State) (h : Hdr) (d a b : Reg), Ready s (.qapp h d a b) →
    let u := s.begun (.qapp h d a b)
    let x := (u.reg b).toNat
    let q := (u.reg a).toNat
    let code := appendCode u u.mine.ctxNum q
    let slot := (u.queue q).qbase.toNat / 2 ^ 12 % 2 ^ 40 * 4096 + 64 * ((u.queue q).tail.toNat % (u.queue q).size)
    (¬ (x % 64 = 0 ∧ x + 64 ≤ 0x280000) → exec (.qapp h d a b) s = .next (u.trapHere u.curCl .align u.myCl.pc 0 (toBytes 8 x ++ [0]))) ∧
    (x % 64 = 0 → x + 64 ≤ 0x280000 → u.mine.owner' (x / 4096) = 0 →
      ∃ t, exec (.qapp h d a b) s = .next t ∧ (∀ j, j ≠ q → t.queue j = u.queue j) ∧
        (code = 0 → Sends (.qapp h d a b) u t d (.ofNat 64 ((u.queue q).tail + 1).toNat) ∧ (t.queue q).tail = (u.queue q).tail + 1 ∧
          (t.queue q).st = (if (u.queue q).st = .idle then .active else (u.queue q).st) ∧ (t.queue q).head = (u.queue q).head) ∧
        (code = 0 → NothingToRelease u → PlainAt u slot → Stored u t (placeOfAddr u slot) 64 (ofBytes (u.mine.spRead x 64))) ∧
        (code ≠ 0 → Sends (.qapp h d a b) u t d (.ofNat 64 (2 ^ 62 * code)) ∧ t.queues = u.queues) ∧
        (code ≠ 0 → NothingToRelease u → t.mem = u.mem))

/-- lpatch, larm and qapp act on records and queues of the context, and on the record's and the ring's bytes (R311, R315, R316, R317). That an arm passes a KCDST with EN 0 is log 41, and that it tests its entry PCs within their pages log 68 (both DEDUCED). -/
def Obligations.RecordsAndQueues : Prop := LpatchPatches ∧ LarmArms ∧ QappAppends

/-- cway starts the conversion of the ways it names: from cache to storage through FLUSHING, from storage to cache through ZEROING; a way in its mode already or in conversion stays; its result waits for them.
    A mask that names one of ways 0 to 2, or a slice above 15, raises ILLOP 0x0E, and a context that may not convert ways raises PRIV (R93, R265). -/
def Obligations.CwayConverts : Prop :=
  ∀ (s : State) (h : Hdr) (d a b : Reg) (mode : Bool), Ready s (.cway h d a b mode) →
    let u := s.begun (.cway h d a b mode)
    let sl := (u.reg a).toNat
    (16 ≤ sl ∨ (u.reg b).toNat % 8 ≠ 0 →
      exec (.cway h d a b mode) s = .next (u.trapHere u.curCl .illop u.myCl.pc 0x0E (wordImage u.curCl (.cway h d a b mode)))) ∧
    (sl < 16 → (u.reg b).toNat % 8 = 0 → (u.ctx u.mine.ctxNum).desc.config.getLsbD 56 = true →
      ∃ t q, exec (.cway h d a b mode) s = .next t ∧ t.myCl.rets = u.myCl.rets ++ [q] ∧ q.d = d ∧
        (∃ rep, q.ways = some (sl, rep, mode) ∧
          ∀ w, w < 16 → rep.getLsbD w = ((u.reg b).getLsbD w && (u.way sl w == .cache || u.way sl w == .storage))) ∧
        (∀ w, w < 16 → t.way sl w = if (u.reg b).getLsbD w then (match u.way sl w, mode with | .cache, true => .flushing | .storage, false => .zeroC | x, _ => x)
          else u.way sl w) ∧
        (∀ c w, c < 16 → w < 16 → c ≠ sl → t.way c w = u.way c w) ∧ RegsBut none u t ∧ PredsKept u t) ∧
    (sl < 16 → (u.reg b).toNat % 8 = 0 → (u.ctx u.mine.ctxNum).desc.config.getLsbD 56 = false →
      exec (.cway h d a b mode) s = .next (u.trapHere u.curCl .priv u.myCl.pc 0 (wordImage u.curCl (.cway h d a b mode))))

/-- tinv and its all-pages form: after it, no core of the context holds a translation of the pages for the context's ASID and generation, no walk cache an entry of the ASID, no live handle of a running task of the context, on whichever
    core, to a page of them is valid, and the scalar registers stay; a count of 0 invalidates nothing (R351). -/
def Sys2Proof.Spec.TinvInvalidates : Prop :=
  ∀ (s : State) (h : Hdr) (a b : Reg) (i : Instr) (first count : Nat),
    (i = .tinv h a b ∧ first = ((s.begun i).reg a).toNat / 2 ^ 21 ∧ count = ((s.begun i).reg b).toNat) ∨ (i = .tinvAll h ∧ first = 0 ∧ count = 2 ^ 27) →
    Ready s i →
    let u := s.begun i
    let x := u.ctx u.mine.ctxNum
    ∃ t, exec i s = .next t ∧
      (∀ k, k < 256 → x.desc.cores.getLsbD k = true → ∀ e ∈ (t.core k).rtb, ¬ (e.asid = x.asid ∧ e.gen = x.gen ∧ first ≤ e.vpage.toNat ∧ e.vpage.toNat < first + count)) ∧
      (∀ k, (u.core k).task.isSome = true → (u.core k).ctxNum = u.mine.ctxNum →
        ∀ r, first ≤ hVpage ((t.core k).handle r) → hVpage ((t.core k).handle r) < first + count → ((t.core k).handle r).getLsbD 63 = false) ∧
      (count ≠ 0 → ∀ e ∈ t.walkCache, e.2.1 ≠ x.asid) ∧
      (count = 0 → t.walkCache = u.walkCache ∧ ∀ k r, (t.core k).handle r = (u.core k).handle r) ∧
      RegsBut none u t ∧ PredsKept u t ∧ t.myCl.pc = pcPlus u.curCl u.myCl.pc 2

/-- xlat reads the translation buffer; tinv takes pages out of it and out of the walk caches, and clears the handles that name them on every core of the context (R241, R351). -/
def Obligations.TranslationWords : Prop := XlatTranslates ∧ TinvInvalidates

namespace Sys2Proof.Spec

open Sys2Proof Sys2Proof.Machine

/-! Vector words. -/

/-- A result of a vector word: the register and the port it takes, and its elements with the flags they raise; none where the word does not write. -/
structure VOut where
  d : Nat
  port : Nat
  el : Nat → Option (Nat × Fl)

/-- A vector word that writes vector registers with exact values: the registers it reads, whether it may leave a part of its destination as it was (R168), the
    width of its elements, and its results. -/
structure VWord where
  reads : List Nat
  part : Bool
  w : Nat
  outs : List VOut

/-- Every flag that the elements of a word raise. -/
def VWord.flags (v : VWord) : Fl :=
  (v.outs.flatMap fun o => (List.range (2048 / v.w)).map fun k => match o.el k with | some e => e.2 | none => 0).foldl (· ||| ·) 0

/-- Element `k` of width `w` of a register. -/
def elemOf (v : VReg) (w k : Nat) : Nat := v.toNat / 2 ^ (w * k) % 2 ^ w

/-- The lane of element `k` of width `w` is active (R117, R167). -/
def activeEl (x : Cl) (h : Hdr) (w k : Nat) : Bool := (guardMask x h).getLsbD (w * k / 32)

/-- The guard leaves some lane inactive. -/
def partialGuard (x : Cl) (h : Hdr) : Bool := decide (guardMask x h ≠ BitVec.allOnes 64)

/-- A value in an element of an integer type: wrapped, or clamped to the type's range with IS (R172). -/
def fitTo (t : Nat) (sat : Bool) (v : Int) : Nat × Fl :=
  let w := typeWidth t
  let lo : Int := if t = 1 then 0 else -(2 ^ (w - 1))
  let hi : Int := if t = 1 then 255 else 2 ^ (w - 1) - 1
  if sat = true ∧ v < lo then (wrapTo w lo, flIS) else if sat = true ∧ hi < v then (wrapTo w hi, flIS) else (wrapTo w v, 0)

/-- An element of class 0 from the elements a and b of its sources (R172); of an n8, vsar shifts zeros in (log 31). -/
def intElement (i : Instr) (t : Nat) (sat : Bool) (a b : Nat) : Option (Nat × Fl) :=
  let w := typeWidth t
  let x := intVal t a
  let y := intVal t b
  match i with
  | .vadd _ _ => some (fitTo t sat (x + y))
  | .vsub _ _ => some (fitTo t sat (x - y))
  | .vmul _ _ => some (fitTo t sat (x * y))
  | .vmulh _ _ => some (wrapTo w (x * y / 2 ^ w), 0)
  | .vmin _ _ => some (if x ≤ y then a else b, 0)
  | .vmax _ _ => some (if x ≤ y then b else a, 0)
  | .vabs _ _ => some (fitTo t sat (if x < 0 then -x else x))
  | .vneg _ _ => some (fitTo t sat (-x))
  | .vand _ _ => some (a &&& b, 0)
  | .vor _ _ => some (a ||| b, 0)
  | .vxor _ _ => some (a ^^^ b, 0)
  | .vshl _ _ => some (
      if b < w then fitTo t sat (x * 2 ^ b)
      else if sat = false ∨ x = 0 then (0, 0)
      else if x < 0 then (2 ^ (w - 1), flIS) else (if t = 1 then 255 else 2 ^ (w - 1) - 1, flIS))
  | .vshr _ _ => some (if b < w then a / 2 ^ b else 0, 0)
  | .vsar _ _ => some (if b < w then wrapTo w (x / 2 ^ b) else if x < 0 then 2 ^ w - 1 else 0, 0)
  | _ => none

/-- An element of class 1 that does not round, or of class 7, from the elements a and b of its sources (R65, R173, R183). -/
def plainElement (i : Instr) (o : VOps) (a b : Nat) : Option (Nat × Fl) :=
  let t := o.typ.toNat
  let w := typeWidth t
  let nan (e : Nat) (r : Nat) : Nat × Fl :=
    if ((fmtOf t).decode e).isNan then ((fmtOf t).dnan, if ((fmtOf t).decode e).sig then flIV else 0) else (r, 0)
  match i with
  | .vfmin _ _ => some (fminmax t false a b)
  | .vfmax _ _ => some (fminmax t true a b)
  | .vfabs _ _ => some (nan a (a % 2 ^ (w - 1)))
  | .vfneg _ _ => some (nan a (if a < 2 ^ (w - 1) then a + 2 ^ (w - 1) else a - 2 ^ (w - 1)))
  | .vbext _ _ =>
    let len := o.c.toNat % 32 + 1
    let v := a / 2 ^ (o.c.toNat / 32 % 32) % 2 ^ len
    some (if t = 1 ∨ v < 2 ^ (len - 1) then v else v + 2 ^ w - 2 ^ len, 0)
  | .vfunnel _ _ => some ((a * 2 ^ w + b) / 2 ^ (o.c.toNat % 64) % 2 ^ w, 0)
  | .vpopc _ _ => some (((List.range w).filter a.testBit).length, 0)
  | .vclz _ _ => some (((List.range w).filter fun j => decide (a < 2 ^ j)).length, 0)
  | _ => none

/-- An element of a float word that rounds, from those of A, B and the third name (R61, R173). -/
def roundedElement (i : Instr) (t rm a b c : Nat) : Option (Nat × Fl) :=
  let f := fmtOf t
  match i with
  | .vfadd _ _ => some (f.fadd rm (f.decode a) (f.decode b))
  | .vfsub _ _ => some (f.fadd rm (f.decode a) (FVal.neg (f.decode b)))
  | .vfmul _ _ => some (f.fmul rm (f.decode a) (f.decode b))
  | .vfma _ _ => some (f.ffma rm (f.decode a) (f.decode b) (f.decode c))
  | _ => none

/-- An element of a permute (R182): `k` of `n` elements of width `w`, A and B the sources, `s` the scalar register's value. -/
def permElement (i : Instr) (o : VOps) (A B : VReg) (s : Word) (k : Nat) : Option Nat :=
  let w := typeWidth o.typ.toNat
  let n := 2048 / w
  match i with
  | .vperm _ _ => some (elemOf A w (elemOf B w k % n))
  | .vbcast _ _ => some (elemOf A w (o.c.toNat % 512))
  | .vbcastScalar _ _ => some (s.toNat % 2 ^ w)
  | .vslide _ _ =>
    let j : Int := k + signedOf 10 o.c.toNat
    some (if j < 0 then elemOf B w (n + j).toNat else if j < n then elemOf A w j.toNat else elemOf B w (j - n).toNat)
  | _ => none

/-- An element of a special function of class 4 (R73 to R75, R180); where R74 allows several results the choice is free (log 12). -/
def specialElement (i : Instr) (rm free a : Nat) : Option (Nat × Fl) :=
  match i with
  | .vexp2 _ _ => some (vexp2F free a)
  | .vlog2 _ _ => some (vlog2F free a)
  | .vrcp _ _ => some (vrcpF rm a)
  | .vrsqrt _ _ => some (vrsqrtF free a)
  | _ => none

/-- The identity and the node of a reduction (R72, R181). -/
def reduction (i : Instr) (o : VOps) : Option (Nat × (Nat → Nat → Nat × Fl)) :=
  let t := o.typ.toNat
  let lo : Int := if t = 1 then 0 else -(2 ^ (typeWidth t - 1))
  let hi : Int := if t = 1 then 255 else 2 ^ (typeWidth t - 1) - 1
  match i with
  | .vredadd _ _ => some (if isInt t then (0, fun a b => fitTo 3 o.sat (intVal 3 a + intVal 3 b))
      else (0x80000000, fun a b => fmtF32.fadd o.rm.toNat (fmtF32.decode a) (fmtF32.decode b)))
  | .vredmax _ _ => some (if isInt t then (wrapTo 32 lo, fun a b => (if intVal 3 a < intVal 3 b then b else a, 0)) else (0xFF800000, fminmax 7 true))
  | .vredmin _ _ => some (if isInt t then (wrapTo 32 hi, fun a b => (if intVal 3 b < intVal 3 a then b else a, 0)) else (0x7F800000, fminmax 7 false))
  | _ => none

/-- One level of the tree of R72 over nodes with the flags raised below them. -/
def pairUp (op : Nat → Nat → Nat × Fl) : List (Nat × Fl) → List (Nat × Fl)
  | a :: b :: r => ((op a.1 b.1).1, a.2 ||| b.2 ||| (op a.1 b.1).2) :: pairUp op r
  | l => l

/-- The root of the tree of R72. -/
def treeOf (op : Nat → Nat → Nat × Fl) (l : List (Nat × Fl)) : Nat × Fl :=
  ((List.range (Nat.log2 l.length)).foldl (fun l _ => pairUp op l) l).headD (0, 0)

/-- The vector words that write vector registers with exact values, as the tables of the manual have them: R129, R130, R170, R172, R173, R175, R177, R180, R181, R182,
    R183, R184. -/
def vecWord (u : State) (i : Instr) : Option (Hdr × VWord) :=
  let x := u.myCl
  let val (n : Nat) : VReg := (u.mine.vname n).val
  let port (lo d : Nat) : Nat := if d % 2 = 0 then lo else lo + 1
  let each (h : Hdr) (o : VOps) (reads : List Nat) (p : Nat) (f : Nat → Nat × Fl) : Hdr × VWord :=
    let w := typeWidth o.typ.toNat
    (h, { reads := reads, part := partialGuard x h, w := w,
          outs := [{ d := o.dn x, port := p, el := fun k => if activeEl x h w k then some (f k) else none }] })
  match i with
  | .vadd h o | .vsub h o | .vmul h o | .vmulh h o | .vmin h o | .vmax h o | .vabs h o | .vneg h o | .vand h o | .vor h o | .vxor h o | .vshl h o | .vshr h o
  | .vsar h o =>
    let t := o.typ.toNat
    let w := typeWidth t
    let imm := o.c.getLsbD 24
    let b (k : Nat) : Nat := if imm then wrapTo w (if t = 1 then ((o.c.toNat % 2 ^ 16 : Nat) : Int) else signedOf 16 o.c.toNat) else elemOf (val (o.bn x)) w k
    let unary := match i with | .vabs _ _ | .vneg _ _ => true | _ => false
    some (each h o (if imm || unary then [o.an x] else [o.an x, o.bn x]) (port 0 (o.dn x))
      fun k => (intElement i t o.sat (elemOf (val (o.an x)) w k) (b k)).getD (0, 0))
  | .vfadd h o | .vfsub h o | .vfmul h o | .vfma h o =>
    let t := o.typ.toNat
    let w := typeWidth t
    let third := match i with | .vfma _ _ => true | _ => false
    let cst := o.c.toNat / 2 ^ 12 % 8
    let two (st n : Nat) : Nat := if st = 5 then 448 + (n - 448 + 1) % 64 else if n < 512 then (n + 1) % 512 else 512 + (n - 512 + 1) % 64
    let out (a b c d p : Nat) : VOut :=
      { d := d, port := p, el := fun k => if activeEl x h w k then
          roundedElement i t o.rm.toNat (elemOf (val a) w k) (elemOf (val b) w k) (elemOf (val c) w k) else none }
    let a := o.an x
    let b := o.bn x
    let c := o.cn x
    let d := o.dn x
    some (h, if o.w2 then
        { reads := [a, two o.as.toNat a, b, two o.bs.toNat b] ++ (if third then [c, two cst c] else []), part := partialGuard x h, w := w,
          outs := [out a b c d 2, out (two o.as.toNat a) (two o.bs.toNat b) (two cst c) (two o.ds.toNat d) 3] }
      else { reads := [a, b] ++ (if third then [c] else []), part := partialGuard x h, w := w, outs := [out a b c d (port 2 d)] })
  | .vfmin h o | .vfmax h o | .vfunnel h o =>
    let w := typeWidth o.typ.toNat
    some (each h o [o.an x, o.bn x] (port (match i with | .vfunnel _ _ => 0 | _ => 2) (o.dn x))
      fun k => (plainElement i o (elemOf (val (o.an x)) w k) (elemOf (val (o.bn x)) w k)).getD (0, 0))
  | .vfabs h o | .vfneg h o | .vbext h o | .vpopc h o | .vclz h o =>
    let w := typeWidth o.typ.toNat
    some (each h o [o.an x] (port (match i with | .vfabs _ _ | .vfneg _ _ => 2 | _ => 0) (o.dn x))
      fun k => (plainElement i o (elemOf (val (o.an x)) w k) 0).getD (0, 0))
  | .vsel h o =>
    let w := typeWidth o.typ.toNat
    some (each h o [o.an x, o.bn x] (port 0 (o.dn x)) fun k =>
      (if (x.pmask (.ofNat 4 o.c.toNat)).getLsbD (w * k / 32) = !o.c.getLsbD 4 then elemOf (val (o.an x)) w k else elemOf (val (o.bn x)) w k, 0))
  | .vcvt h o =>
    let src := o.c.toNat % 16
    let ws := typeWidth src
    let wd := typeWidth o.typ.toNat
    let part := o.c.toNat / 16 % 8
    let n := 2048 / max ws wd
    some (h, { reads := [o.an x], part := partialGuard x h || decide (wd < ws), w := wd,
               outs := [{ d := o.dn x, port := 5, el := fun k =>
                 let conv (j : Nat) := convert src o.typ.toNat o.rm.toNat o.sat (elemOf (val (o.an x)) ws j)
                 if !activeEl x h wd k then none
                 else if wd < ws then (if part * n ≤ k ∧ k < part * n + n then some (conv (k - part * n)) else none)
                 else some (conv (part * n + k)) }] })
  | .vexp2 h o | .vlog2 h o | .vrcp h o | .vrsqrt h o =>
    some (h, { reads := [o.an x], part := partialGuard x h, w := 32,
               outs := [{ d := o.dn x, port := 4, el := fun k => if activeEl x h 32 k then
                 specialElement i o.rm.toNat (Config.ulpChoice u.seq k) (elemOf (val (o.an x)) 32 k) else none }] })
  | .vredadd h o | .vredmax h o | .vredmin h o =>
    let t := o.typ.toNat
    let w := typeWidth t
    let r := (reduction i o).getD (0, fun _ _ => (0, 0))
    let wide (e : Nat) : Nat × Fl := if isInt t then (wrapTo 32 (intVal t e), 0) else if t = 7 then (e, 0) else fmtF32.round 0 (fvalOf t e)
    let root := treeOf r.2 ((List.range (2048 / w)).map fun k => if activeEl x h w k then wide (elemOf (val (o.an x)) w k) else (r.1, 0))
    some (h, { reads := [o.an x], part := false, w := 32,
               outs := [{ d := o.dn x, port := 6, el := fun k => some (if k = 0 then root else (0, 0)) }] })
  | .vperm h o | .vslide h o =>
    some (each h o [o.an x, o.bn x] 6 fun k => ((permElement i o (val (o.an x)) (val (o.bn x)) 0 k).getD 0, 0))
  | .vbcast h o => some (each h o [o.an x] 6 fun k => ((permElement i o (val (o.an x)) 0 0 k).getD 0, 0))
  | .vbcastScalar h o => some (each h o [] 6 fun k => ((permElement i o 0 0 (u.reg (.ofNat 5 (o.c.toNat / 2 ^ 16))) k).getD 0, 0))
  | .vmov h o =>
    if (u.mine.vname (o.an x)).bounded then none
    else some (h, { reads := [], part := partialGuard x h, w := 32,
                    outs := [{ d := o.dn x, port := port 0 (o.dn x), el := fun k => if activeEl x h 32 k then some (elemOf (val (o.an x)) 32 k, 0) else none }] })
  | .vmovMaskToV h o =>
    let el (k : Nat) : Option (Nat × Fl) := some (if k < 2 then (x.pmask (.ofNat 4 o.c.toNat)).toNat / 2 ^ (32 * k) % 2 ^ 32 else 0, 0)
    some (h, { reads := [], part := false, w := 32, outs := [{ d := o.dn x, port := port 0 (o.dn x), el := el }] })
  | .vsets h o =>
    let k0 := o.c.toNat % 64
    if activeEl x h 32 k0 then
      some (h, { reads := [], part := true, w := 32,
                 outs := [{ d := o.dn x, port := port 0 (o.dn x), el := fun k =>
                   if k = k0 then some ((u.reg (.ofNat 5 (o.c.toNat / 2 ^ 16))).toNat % 2 ^ 32, 0) else none }] })
    else none
  | _ => none

/-- What a vector word leaves alone: everything outside its core, the other clusters, the scratchpad and the rest of its core, its cluster's scalar registers and loops, every
    vector register but `ds`, and the latches of every port but `ports`; what is in flight is said apart. A result of port 7 is counted by the vldg that have still to return (R171). -/
structure VKept (i : Instr) (u t : State) (ds ports : List Nat) : Prop where
  outside : SameOutside u t
  clusters : ∀ c, c ≠ u.curCl → { t.mine.cl c with loadQ := (u.mine.cl c).loadQ } = u.mine.cl c
  loads : ∀ c, (t.mine.cl c).loadQ = if c = .V ∧ 7 ∈ ports then (u.mine.cl c).loadQ.map LoadEnt.passed else (u.mine.cl c).loadQ
  core : { t.mine with a := u.mine.a, v := u.mine.v, t := u.mine.t, sc := u.mine.sc, toRight := u.mine.toRight, toLeft := u.mine.toLeft,
                       vr := u.mine.vr, q := u.mine.q, latch := u.mine.latch, bypass := u.mine.bypass } = u.mine
  cluster : { t.myCl with pc := u.myCl.pc, p := u.myCl.p, outL := u.myCl.outL, outR := u.myCl.outR, popped := u.myCl.popped, aflags := u.myCl.aflags,
                          icyc := u.myCl.icyc, flight := u.myCl.flight, need := u.myCl.need, loadQ := u.myCl.loadQ } = u.myCl
  names : ∀ n, n < 576 → n ∉ ds → t.mine.vname n = u.mine.vname n
  latches : ∀ n, 576 ≤ n → (n - 576) / 8 ∉ ports → t.mine.vname n = u.mine.vname n
  pc : t.myCl.pc = pcPlus u.curCl u.myCl.pc i.words

/-- The result in `d` has entered the latch of port `p`, whose older values have moved one place on (R171). -/
def latched (u t : State) (p d : Nat) : Prop :=
  t.mine.vname (576 + 8 * p) = t.mine.vname d ∧ ∀ a, a < 7 → t.mine.vname (576 + 8 * p + (a + 1)) = u.mine.vname (576 + 8 * p + a)

/-- The results `l`, due `lat` issue cycles after the one of `x`, put in order behind `fl`; each waits for the space of the pushes `m` (R45, R49). -/
def inFlight (x : Cl) (lat : Nat) (m : BitVec 2) (l : List RegVal) (fl : List InFlight) : List InFlight :=
  l.foldl (fun fl v => insertFlight { due := x.icyc + lat, what := v, need := m } fl) fl

/-- The pushes of a word, as a result of its own (R45). -/
def pushesLast (m : BitVec 2) : List RegVal := if m = 0 then [] else [.pushes m]

/-- The pushes of a scratchpad store, made when it writes (R45, R191). -/
def storePushesLast (m : BitVec 2) : List RegVal := if m = 0 then [] else [.storePushes m]

/-- Flags that a word raises, as a result of its own. -/
def flagsLast (f : Fl) : List RegVal := if f = 0 then [] else [.flags f]

/-- The results `l` of a vector word, of latency `lat`, are in flight with its pushes behind them, and no register, predicate, flag or latch has changed (R45, R49). -/
structure VSent (i : Instr) (u t : State) (lat : Nat) (l : List RegVal) : Prop where
  flight : t.myCl.flight = inFlight u.myCl lat (pushesOf i) (l ++ pushesLast (pushesOf i)) u.myCl.flight
  flags : t.myCl.aflags = u.myCl.aflags
  preds : PredsKept u t
  kept : VKept i u t [] []

/-- A result that writes the elements `el`, of width `w`, into register `d` as exact values, and then enters the latch of a port (R168, R171). -/
def WritesElements (r : RegVal) (d port w : Nat) (el : Nat → Option Nat) : Prop :=
  ∃ m x, r = .vreg d m x false 0 false (some port) ∧
    ∀ (old : VReg) (k : Nat), k < 2048 / w → elemOf ((old &&& ~~~m) ||| (x &&& m)) w k = match el k with | some e => e % 2 ^ w | none => elemOf old w k

/-- The flags of a result. -/
def flagsOf : RegVal → Fl
  | .flags f => f
  | _ => 0

/-- The latency of a vector word that computes (R170). -/
def vecLatency : Instr → Nat
  | .vmul _ _ | .vmulh _ _ | .vcvt _ _ | .vperm _ _ => 3
  | .vfadd _ _ | .vfsub _ _ | .vfmul _ _ | .vfma _ _ | .vamax _ _ | .vqcvt _ _ | .vbadd _ _ | .vbmul _ _ => 4
  | .vfmin _ _ | .vfmax _ _ | .vfabs _ _ | .vfneg _ _ | .vbcast _ _ | .vbcastScalar _ _ | .vslide _ _ => 2
  | .vbext _ _ | .vfunnel _ _ | .vpopc _ _ | .vclz _ _ | .vgets _ _ | .vaccept _ _ => 2
  | .vexp2 _ _ | .vlog2 _ _ | .vrcp _ _ | .vrsqrt _ _ => 8
  | .vredadd _ _ | .vredmax _ _ | .vredmin _ _ | .vld _ _ => 6
  | .vldx _ _ => 10
  | _ => 1

/-- Bit l of the lanes that a vector word writes into a predicate, with the flags of that lane (R65, R174, R176, R184). -/
def vecPred (u : State) (i : Instr) : Option (Hdr × List Nat × Pred × (Nat → Bool × Fl)) :=
  let x := u.myCl
  let compare (h : Hdr) (o : VOps) (f : Nat → Nat → Bool × Fl) :=
    let w := typeWidth o.typ.toNat
    let n := 32 / w
    let at' (e : Nat) := f (elemOf (u.mine.vname (o.an x)).val w e) (elemOf (u.mine.vname (o.bn x)).val w e)
    some (h, [o.an x, o.bn x], (.ofNat 4 o.c.toNat : Pred), fun l =>
      (if o.c.getLsbD 4 then (List.range n).any (fun j => (at' (n * l + j)).1) else (List.range n).all (fun j => (at' (n * l + j)).1),
       ((List.range n).map fun j => (at' (n * l + j)).2).foldl (· ||| ·) 0))
  let logic (h : Hdr) (o : VOps) (f : Bool → Bool → Bool) :=
    some (h, ([] : List Nat), (.ofNat 4 (o.c.toNat / 256) : Pred), fun l =>
      (f ((x.pmask (.ofNat 4 (o.c.toNat / 16))).getLsbD l) ((x.pmask (.ofNat 4 o.c.toNat)).getLsbD l), (0 : Fl)))
  match i with
  | .vcmpEq h o => compare h o fun a b => (decide (a = b), 0)
  | .vcmpNe h o => compare h o fun a b => (decide (a ≠ b), 0)
  | .vcmpLt h o => compare h o fun a b => (decide (intVal o.typ.toNat a < intVal o.typ.toNat b), 0)
  | .vcmpLe h o => compare h o fun a b => (decide (intVal o.typ.toNat a ≤ intVal o.typ.toNat b), 0)
  | .vcmpLo h o => compare h o fun a b => (decide (a < b), 0)
  | .vcmpLs h o => compare h o fun a b => (decide (a ≤ b), 0)
  | .vfcmpEq h o => compare h o (fcmp o.typ.toNat 0)
  | .vfcmpNe h o => compare h o (fcmp o.typ.toNat 1)
  | .vfcmpLt h o => compare h o (fcmp o.typ.toNat 2)
  | .vfcmpLe h o => compare h o (fcmp o.typ.toNat 3)
  | .vplogAnd h o => logic h o (fun a b => a && b)
  | .vplogOr h o => logic h o (fun a b => a || b)
  | .vplogXor h o => logic h o (fun a b => a != b)
  | .vplogAndn h o => logic h o (fun a b => a && !b)
  | .vmovMaskToP h o => some (h, [o.an x], .ofNat 4 o.c.toNat, fun l => ((u.mine.vname (o.an x)).val.getLsbD l, 0))
  | _ => none

/-- A source of a bounded word (R79, R192): its value and its bound, +0 for an exact one; none for a bounded latch. -/
def boundedSrc (u : State) (n : Nat) : Option (VReg × Nat) :=
  let v := u.mine.vname n
  if v.bounded then (if n < 512 then some (v.val, v.bound.toNat) else none) else some (v.val, 0)

/-- The largest magnitude, as an f32 pattern without its sign, of the active lanes. -/
def largest (x : Cl) (h : Hdr) (f : Nat → Nat) : Nat :=
  ((List.range 64).map fun k => if activeEl x h 32 k then f k % 2 ^ 31 else 0).foldl max 0

/-- The bounded words (R80, R184, R192): the value in each lane, the bound when every active result is finite, and the port's first number. -/
def boundedWord (u : State) (i : Instr) : Option (Hdr × Nat × (Nat → Nat) × Nat × Nat) :=
  let x := u.myCl
  let fin (h : Hdr) (f : Nat → Nat) (b : Nat) : Nat := if 0x7F800000 ≤ largest x h f then 0x7F800000 else b
  let grown (w m : Nat) : Nat := upF32 (FVal.add 0 (fmtF32.decode w) (ulpVal m)).1
  match i with
  | .vbadd h o =>
    match boundedSrc u (o.an x), boundedSrc u (o.bn x) with
    | some a, some b =>
      let f (k : Nat) : Nat := (fmtF32.fadd o.rm.toNat (fmtF32.decode (elemOf a.1 32 k)) (fmtF32.decode (elemOf b.1 32 k))).1
      some (h, o.dn x, f, fin h f (grown (upAdd a.2 b.2) (largest x h f)), 2)
    | _, _ => none
  | .vbmul h o =>
    match boundedSrc u (o.an x), (u.mine.vname (o.bn x)).bounded with
    | some a, false =>
      let e (k : Nat) : Nat := elemOf (u.mine.vname (o.bn x)).val 32 k
      let f (k : Nat) : Nat := (fmtF32.fmul o.rm.toNat (fmtF32.decode (elemOf a.1 32 k)) (fmtF32.decode (e k))).1
      some (h, o.dn x, f, fin h f (grown (upMul a.2 (largest x h e)) (largest x h f)), 2)
    | _, _ => none
  | .vbmax h o =>
    match boundedSrc u (o.an x), boundedSrc u (o.bn x) with
    | some a, some b =>
      let f (k : Nat) : Nat := (fminmax 7 true (elemOf a.1 32 k) (elemOf b.1 32 k)).1
      some (h, o.dn x, f, fin h f (max a.2 b.2), 0)
    | _, _ => none
  | .vmov h o =>
    let v := u.mine.vname (o.an x)
    if v.bounded ∧ o.an x < 512 then some (h, o.dn x, fun k => elemOf v.val 32 k, v.bound.toNat, 0) else none
  | _ => none

end Sys2Proof.Spec

/-- Every vector word that computes exact elements. Where its results are written at once, each element of its destination whose lane is active takes the value of the manual's table, every other bit of it and
    every other register stays, its flags join AFLAGS, its tag is clear, and its result enters its port's latch. In exposed mode, and where the word pushes and cannot retire as it issues (log 6, log 22), exactly these writes are in flight, due the
    latency of R170 later, and nothing else changes. A bounded source, or a bounded destination written in part, raises ILLTYPE, and nothing is written (R49, R79, R130, R167, R168, R170, R171, R172, R173, R175, R177, R181, R182, R183). -/
def Sys2Proof.Spec.VectorWritten : Prop :=
  ∀ (s : State) (i : Instr) (h : Hdr) (v : VWord), Ready s i → vecWord (s.begun i) i = some (h, v) →
    let u := s.begun i
    let bad := (∃ n ∈ v.reads, (u.mine.vname n).bounded = true) ∨ (v.part = true ∧ ∃ o ∈ v.outs, (u.mine.vname o.d).bounded = true)
    (bad → exec i s = .next (u.trapHere u.curCl .illtype u.myCl.pc 0 (wordImage u.curCl i))) ∧
    (¬ bad → u.atOnce i (vecLatency i) →
      ∃ t, exec i s = .next t ∧
        (∀ o ∈ v.outs, (t.mine.vname o.d).bounded = false ∧ latched u t o.port o.d ∧
          ∀ k, k < 2048 / v.w → elemOf (t.mine.vname o.d).val v.w k = match o.el k with | some e => e.1 % 2 ^ v.w | none => elemOf (u.mine.vname o.d).val v.w k) ∧
        t.myCl.aflags = u.myCl.aflags ||| v.flags ∧ PredsKept u t ∧ t.myCl.flight = u.myCl.flight ∧ VKept i u t (v.outs.map (·.d)) (v.outs.map (·.port))) ∧
    (¬ bad → ¬ u.atOnce i (vecLatency i) →
      ∃ t l, exec i s = .next t ∧ VSent i u t (vecLatency i) l ∧ (l.map flagsOf).foldl (· ||| ·) 0 = v.flags ∧
        (∀ o ∈ v.outs, ∃ r ∈ l, WritesElements r o.d o.port v.w fun k => (o.el k).map (·.1)) ∧
        ∀ r ∈ l, (∃ o ∈ v.outs, WritesElements r o.d o.port v.w fun k => (o.el k).map (·.1)) ∨ ∃ f, r = .flags f)

/-- An issue cycle of exposed mode writes a vector result that is due and whose pushes find space: its bits of the register change, its tag clears, and the register's new value enters the latch; one that is not due, or
    finds no space, stays in flight and nothing changes (R45, R49, R168, R171). -/
def Sys2Proof.Spec.VectorResultDue : Prop :=
  ∀ (s : State) (i : Instr) (n d p : Nat) (m v : VReg) (q : BitVec 2), s.curCl = .V → s.myCl.exposed = true → d < 576 → p < 8 →
    s.myCl.flight = [{ due := n, what := .vreg d m v false 0 false (some p), need := q }] →
    let t := s.tick i
    t.myCl.icyc = s.myCl.icyc + 1 ∧
    (n ≤ s.myCl.icyc + 1 → s.mine.hasRoom .V q = true → t.myCl.flight = [] ∧ (t.mine.vname d).bounded = false ∧
      (t.mine.vname d).val = ((s.mine.vname d).val &&& ~~~m) ||| (v &&& m) ∧ latched s t p d ∧ ∀ r, r < 576 → r ≠ d → t.mine.vname r = s.mine.vname r) ∧
    (s.myCl.icyc + 1 < n ∨ s.mine.hasRoom .V q = false → t.myCl.flight = s.myCl.flight ∧ ∀ r, t.mine.vname r = s.mine.vname r)

/-- The vector words that write vector registers with exact values: their values, flags, tags, latches and latencies, written at once or in flight (R49, R79, R130, R167, R168, R170 to R173, R175, R177, R181 to R183; log 6, log 22; of conversions between f16 and bf16, log 56). -/
def Obligations.VectorResult : Prop := VectorWritten ∧ VectorResultDue

/-- The vector words that write a predicate or a scalar register: compares, vplog and the mask move write the active lanes of their predicate and keep the others; vgets writes a lane to its scalar register,
    sign-extended for i32; a vsets whose lane is not active writes nothing. In exposed mode, and where the word pushes and cannot retire as it issues (log 6, log 22), these writes are in flight, due the latency of R170 later. A bounded source raises
    ILLTYPE (R49, R65, R79, R167, R170, R174, R176, R184). -/
def Obligations.VectorToPredicate : Prop :=
  (∀ (s : State) (i : Instr) (h : Hdr) (reads : List Nat) (p : Pred) (f : Nat → Bool × Fl), Ready s i → vecPred (s.begun i) i = some (h, reads, p, f) →
    let u := s.begun i
    let fl := ((List.range 64).map fun l => if (guardMask u.myCl h).getLsbD l then (f l).2 else 0).foldl (· ||| ·) 0
    ((∃ n ∈ reads, (u.mine.vname n).bounded = true) → exec i s = .next (u.trapHere u.curCl .illtype u.myCl.pc 0 (wordImage u.curCl i))) ∧
    ((∀ n ∈ reads, (u.mine.vname n).bounded = false) → u.atOnce i 1 →
      ∃ t, exec i s = .next t ∧ p ≠ 0 ∧
        (∀ l, l < 64 → (t.myCl.pmask p).getLsbD l = if (guardMask u.myCl h).getLsbD l then (f l).1 else (u.myCl.pmask p).getLsbD l) ∧
        (∀ q, q ≠ p → t.myCl.pmask q = u.myCl.pmask q) ∧ t.myCl.aflags = u.myCl.aflags ||| fl ∧ t.myCl.flight = u.myCl.flight ∧ VKept i u t [] []) ∧
    ((∀ n ∈ reads, (u.mine.vname n).bounded = false) → ¬ u.atOnce i 1 →
      ∃ t x, exec i s = .next t ∧ p ≠ 0 ∧ VSent i u t 1 (.pred p (guardMask u.myCl h) x :: flagsLast fl) ∧
        ∀ l, l < 64 → (guardMask u.myCl h).getLsbD l = true → x.getLsbD l = (f l).1)) ∧
  (∀ (s : State) (h : Hdr) (o : VOps), Ready s (.vgets h o) →
    let u := s.begun (.vgets h o)
    let a := u.mine.vname (o.an u.myCl)
    let d : Reg := .ofNat 5 (o.c.toNat / 2 ^ 16)
    let e := elemOf a.val 32 (o.c.toNat % 64)
    (a.bounded = true → exec (.vgets h o) s = .next (u.trapHere u.curCl .illtype u.myCl.pc 0 (wordImage u.curCl (.vgets h o)))) ∧
    (a.bounded = false →
      ∃ t, exec (.vgets h o) s = .next t ∧ Result (.vgets h o) u t 2 d (.ofInt 64 (if o.typ = 3 then signedOf 32 e else (e : Int))) ∧
        Passed (.vgets h o) u t ∧ PredsKept u t)) ∧
  (∀ (s : State) (h : Hdr) (o : VOps), Ready s (.vsets h o) →
    let u := s.begun (.vsets h o)
    activeEl u.myCl h 32 (o.c.toNat % 64) = false →
      ∃ t, exec (.vsets h o) s = .next t ∧ VKept (.vsets h o) u t [] [] ∧ PredsKept u t ∧ t.myCl.aflags = u.myCl.aflags ∧
        (u.atOnce (.vsets h o) 1 → t.myCl.flight = u.myCl.flight) ∧ (¬ u.atOnce (.vsets h o) 1 → VSent (.vsets h o) u t 1 []))

namespace Sys2Proof.Spec

open Sys2Proof Sys2Proof.Machine

/-- Element `k` of the block of a vamax or vqcvt of source type `t` in register `n`, and the lane that holds it (R178). -/
def blockAt (u : State) (t n k : Nat) : Nat × Nat :=
  if t = 7 then (elemOf (u.mine.vname (if k < 64 then n else if n < 512 then (n + 1) % 512 else 512 + (n - 512 + 1) % 64)).val 32 (k % 64), k % 64)
  else (elemOf (u.mine.vname n).val 16 k, k / 2)

/-- The registers of a block (R178). -/
def blockRegs (t n : Nat) : List Nat := if t = 7 then [n, if n < 512 then (n + 1) % 512 else 512 + (n - 512 + 1) % 64] else [n]

/-- The scale of R76 of the magnitudes of a block: 1.0 for a block of zeros, the default NaN if one is NaN. -/
def scaleFor (l : List FVal) : Nat :=
  if l.any FVal.isNan then fmtF32.dnan
  else match l.foldl (fun a b => if (fvAbs a).lt (fvAbs b) then fvAbs b else fvAbs a) (.fin false 0 0) with
    | .nan _ => fmtF32.dnan
    | .inf _ => 0x7F800000
    | .fin _ m e => if m = 0 then 0x3F800000 else max (fmtF32.fdiv 0 (.fin false m e) (.fin false 448 0)).1 0x00800000

end Sys2Proof.Spec

/-- vamax writes the scale of its block to the active lanes of D and pushes it into the bypass as it issues, whose oldest entry a third one discards with QG. In exposed mode, and where the word pushes (log 6, log 22), the writes are in flight, due four
    issue cycles later. A bounded source, or a bounded D written in part, raises ILLTYPE (R49, R76, R78, R79, R168, R178). -/
def Sys2Proof.Spec.ScalePushed : Prop :=
  ∀ (s : State) (h : Hdr) (o : VOps), Ready s (.vamax h o) →
    let i : Instr := .vamax h o
    let u := s.begun i
    let t := o.typ.toNat
    let d := o.dn u.myCl
    let act := (List.range 128).filter fun k => (guardMask u.myCl h).getLsbD (blockAt u t (o.an u.myCl) k).2
    let els := act.map fun k => fvalOf t (blockAt u t (o.an u.myCl) k).1
    let q := scaleFor els
    let e : BitVec 32 × Nat := (.ofNat 32 q, u.myCl.icyc + 3)
    let fl := (if els.any FVal.sig then flIV else 0) ||| (if u.mine.bypass.length = 2 then flQG else 0)
    let bad := (∃ n ∈ blockRegs t (o.an u.myCl), (u.mine.vname n).bounded = true) ∨ (partialGuard u.myCl h = true ∧ (u.mine.vname d).bounded = true)
    (bad → exec i s = .next (u.trapHere u.curCl .illtype u.myCl.pc 0 (wordImage u.curCl i))) ∧
    (¬ bad → ∃ v, exec i s = .next v ∧
      (u.mine.bypass.length < 2 → v.mine.bypass = u.mine.bypass ++ [e]) ∧ (∀ a b, u.mine.bypass = [a, b] → v.mine.bypass = [b, e]) ∧
      (u.atOnce i 4 → (v.mine.vname d).bounded = false ∧ latched u v 5 d ∧
        (∀ k, k < 64 → elemOf (v.mine.vname d).val 32 k = if activeEl u.myCl h 32 k then q else elemOf (u.mine.vname d).val 32 k) ∧
        (u.mine.bypass.length ≤ 2 → v.myCl.aflags = u.myCl.aflags ||| fl) ∧ PredsKept u v ∧ v.myCl.flight = u.myCl.flight ∧ VKept i u v [d] [5]) ∧
      (¬ u.atOnce i 4 → u.mine.bypass.length ≤ 2 → ∃ r, VSent i u v 4 (r :: flagsLast fl) ∧
        WritesElements r d 5 32 fun k => if activeEl u.myCl h 32 k then some q else none))

/-- vqcvt pops the oldest scale, in scoreboard mode once it is poppable; an empty bypass, and in exposed mode a scale that is not yet poppable, is a gap: 1.0 and QG. It writes the quotients as e4m3 to the active lanes of one half of D; in exposed mode,
    and where the word pushes (log 6, log 22), these writes are in flight, due four issue cycles later. A bounded source or D raises ILLTYPE (R49, R76, R77, R78, R79, R168, R179). Where it waits for a scale, nothing is in flight here. -/
def Sys2Proof.Spec.ScalePopped : Prop :=
  ∀ (s : State) (h : Hdr) (o : VOps), Ready s (.vqcvt h o) →
    let i : Instr := .vqcvt h o
    let u0 := s.begun i
    let t := o.c.toNat % 16
    let d := o.dn u0.myCl
    let part := if o.c.getLsbD 4 then 128 else 0
    let got := match u0.mine.bypass with | e :: _ => if u0.myCl.exposed = false ∨ e.2 ≤ u0.myCl.icyc then some e else none | [] => none
    let cyc := match got with | some e => max u0.myCl.icyc e.2 | none => u0.myCl.icyc
    let q := match got with | some e => e.1.toNat | none => 0x3F800000
    let u := u0.upMyCl fun x => { x with icyc := cyc }
    let v (j : Nat) := fvalOf t (blockAt u t (o.an u.myCl) (j - part)).1
    let res (j : Nat) := toE4m3 (fmtF32.decode (fmtF32.fdiv 0 (v j) (fmtF32.decode q)).1)
    let writes (j : Nat) : Bool := activeEl u.myCl h 8 j && decide (part ≤ j ∧ j < part + 128)
    let fl := ((List.range 256).map fun j => if writes j then ((res j).2 &&& flES) ||| (if (v j).sig then flIV else 0) else 0).foldl (· ||| ·) 0 ||| (if got = none then flQG else 0)
    let bad := (∃ n ∈ blockRegs t (o.an u.myCl), (u.mine.vname n).bounded = true) ∨ (u.mine.vname d).bounded = true
    (bad → exec i s = .next (u0.trapHere u0.curCl .illtype u0.myCl.pc 0 (wordImage u0.curCl i))) ∧
    (¬ bad → (u.myCl.flight = [] ∨ cyc = u0.myCl.icyc) → ∃ w, exec i s = .next w ∧
      w.mine.bypass = (if got = none then u.mine.bypass else u.mine.bypass.tail) ∧
      (u.atOnce i 4 → (w.mine.vname d).bounded = false ∧ latched u w 5 d ∧
        (∀ j, j < 256 → elemOf (w.mine.vname d).val 8 j = if writes j then (res j).1 % 256 else elemOf (u.mine.vname d).val 8 j) ∧
        w.myCl.aflags = u.myCl.aflags ||| fl ∧ PredsKept u w ∧ w.myCl.flight = u.myCl.flight ∧ VKept i u w [d] [5]) ∧
      (¬ u.atOnce i 4 → ∃ r, VSent i u w 4 (r :: flagsLast fl) ∧ WritesElements r d 5 8 fun j => if writes j then some (res j).1 else none))

/-- vamax writes the scale of its block and pushes it into the bypass, from which vqcvt pops it for its quotients; bounded operands raise ILLTYPE (R49, R76, R77, R78, R79, R168, R178, R179). -/
def Obligations.ScaleBypass : Prop := ScalePushed ∧ ScalePopped

/-- The bounded words: the active lanes of D take the values of R80, D is tagged, its bound is that of R80 (of an infinite bound times 0, log 56) or, under a partial guard, the larger of it and D's own; no flag is set. In exposed mode, and where the word
    pushes (log 6, log 22), the write is in flight, due the latency of R170 later (R49, R79, R80, R168, R170, R184, R192). -/
def Sys2Proof.Spec.BoundedWritten : Prop :=
  ∀ (s : State) (i : Instr) (h : Hdr) (d : Nat) (f : Nat → Nat) (b port : Nat), Ready s i → boundedWord (s.begun i) i = some (h, d, f, b, port) → d < 512 →
    let u := s.begun i
    ∃ t, exec i s = .next t ∧ t.myCl.aflags = u.myCl.aflags ∧ PredsKept u t ∧
      (u.atOnce i (vecLatency i) → (t.mine.vname d).bounded = true ∧
        (t.mine.vname d).bound.toNat = (if partialGuard u.myCl h = true ∧ (u.mine.vname d).bounded = true then max b (u.mine.vname d).bound.toNat else b) % 2 ^ 32 ∧
        (∀ k, k < 64 → elemOf (t.mine.vname d).val 32 k = if activeEl u.myCl h 32 k then f k % 2 ^ 32 else elemOf (u.mine.vname d).val 32 k) ∧
        latched u t (port + d % 2) d ∧ t.myCl.flight = u.myCl.flight ∧ VKept i u t [d] [port + d % 2]) ∧
      (¬ u.atOnce i (vecLatency i) → ∃ m x, VSent i u t (vecLatency i) [.vreg d m x true (.ofNat 32 b) (partialGuard u.myCl h) (some (port + d % 2))] ∧
        ∀ (old : VReg) (k : Nat), k < 64 → elemOf ((old &&& ~~~m) ||| (x &&& m)) 32 k = if activeEl u.myCl h 32 k then f k % 2 ^ 32 else elemOf old 32 k)

/-- Bounded operands that raise ILLTYPE: a bounded latch as a source, a bounded B of vbmul, q0 to q63 as D of a bounded result, and a bounded D of a vaccept that writes it in part (R79, R168, R184, R192, R193). -/
def Sys2Proof.Spec.BoundedTraps : Prop :=
  ∀ (s : State) (i : Instr) (h : Hdr) (o : VOps), Ready s i →
    let u := s.begun i
    let latch (n : Nat) : Prop := 512 ≤ n ∧ (u.mine.vname n).bounded = true
    (i = .vbadd h o ∨ i = .vbmax h o) ∧ (latch (o.an u.myCl) ∨ latch (o.bn u.myCl) ∨ 512 ≤ o.dn u.myCl) ∨
      i = .vbmul h o ∧ (latch (o.an u.myCl) ∨ (u.mine.vname (o.bn u.myCl)).bounded = true ∨ 512 ≤ o.dn u.myCl) ∨
      i = .vmov h o ∧ (u.mine.vname (o.an u.myCl)).bounded = true ∧ (512 ≤ o.an u.myCl ∨ 512 ≤ o.dn u.myCl) ∨
      i = .vaccept h o ∧ latch (o.an u.myCl) →
    exec i s = .next (u.trapHere u.curCl .illtype u.myCl.pc 0 (wordImage u.curCl i))

/-- vaccept writes its source as exact values when the bound is at most the threshold, or the threshold is +infinity, and otherwise clears its predicate and nothing else; at once, or in flight and due two issue cycles later (R49, R81, R168, R193; log 6,
    log 22). -/
def Sys2Proof.Spec.AcceptDecides : Prop :=
  ∀ (s : State) (h : Hdr) (o : VOps), Ready s (.vaccept h o) →
    let i : Instr := .vaccept h o
    let u := s.begun i
    let d := o.dn u.myCl
    let pc : Pred := .ofNat 4 o.c.toNat
    let w := (u.reg (.ofNat 5 (o.c.toNat / 2 ^ 16))).toNat % 2 ^ 32
    let lim := fmtF32.decode w
    ∀ a, boundedSrc u (o.an u.myCl) = some a →
      let ok := w = 0x7F800000 ∨ lim.isNan = false ∧ ((fmtF32.decode a.2).lt lim = true ∨ (fmtF32.decode a.2).eq lim = true)
      let bad := partialGuard u.myCl h = true ∧ (u.mine.vname d).bounded = true
      (ok → bad → exec i s = .next (u.trapHere u.curCl .illtype u.myCl.pc 0 (wordImage u.curCl i))) ∧
      (ok → ¬ bad → u.atOnce i 2 →
        ∃ t, exec i s = .next t ∧ (t.mine.vname d).bounded = false ∧ latched u t (d % 2) d ∧
          (∀ k, k < 64 → elemOf (t.mine.vname d).val 32 k = if activeEl u.myCl h 32 k then elemOf a.1 32 k else elemOf (u.mine.vname d).val 32 k) ∧
          t.myCl.aflags = u.myCl.aflags ∧ PredsKept u t ∧ t.myCl.flight = u.myCl.flight ∧ VKept i u t [d] [d % 2]) ∧
      (ok → ¬ bad → ¬ u.atOnce i 2 →
        ∃ t r, exec i s = .next t ∧ VSent i u t 2 [r] ∧ WritesElements r d (d % 2) 32 fun k => if activeEl u.myCl h 32 k then some (elemOf a.1 32 k) else none) ∧
      (¬ ok → ∃ t, exec i s = .next t ∧ (∀ q, q ≠ pc → t.myCl.pmask q = u.myCl.pmask q) ∧ VKept i u t [] [] ∧
        (u.atOnce i 2 → t.myCl.pmask pc = 0 ∧ t.myCl.flight = u.myCl.flight) ∧ (¬ u.atOnce i 2 → VSent i u t 2 [.pred pc allLanes 0]))

/-- The bounded words and vaccept: their values, tags and bounds, written at once or in flight, and the operands that raise ILLTYPE (R49, R79, R80, R81, R168, R170, R184, R192, R193; of an infinite bound times 0, log 56). -/
def Obligations.BoundedResult : Prop := BoundedWritten ∧ BoundedTraps ∧ AcceptDecides

namespace Sys2Proof.Spec

open Sys2Proof Sys2Proof.Machine

/-- The scratchpad address of a vector word: SB plus 32 times OFF (R185, R186). -/
def vecAddr (u : State) (o : VOps) : Nat := ((u.reg (.ofNat 5 (o.c.toNat / 2 ^ 20))).toNat + 32 * (o.c.toNat % 2 ^ 7)) % 2 ^ 64

/-- The bytes a vector word moves: 256, 128, 64 or 32 (R185). -/
def vecLen (o : VOps) : Nat := 256 / 2 ^ (o.c.toNat / 2 ^ 7 % 4)

/-- The predicate that PD names (R185). -/
def vecPd (o : VOps) : Pred := .ofNat 4 (o.c.toNat / 2 ^ 9)

/-- The first `n` bytes of a vector register that a store moves: those in active lanes (R186). -/
def lanesStored (u : State) (h : Hdr) (b n : Nat) : List (Option Byte) :=
  (List.range n).map fun j => if activeEl u.myCl h 8 j then some (.ofNat 8 (elemOf (u.mine.vname b).val 8 j)) else none

/-- The scratchpad address of a lane of an indexed word (R187). -/
def laneAddr (u : State) (o : VOps) (l : Nat) : Nat := (vecAddr u o + elemOf (u.mine.vname (o.an u.myCl)).val 32 l) % 2 ^ 64

end Sys2Proof.Spec

/-- vld and vldx: the active lanes of D take the bytes of the manual, zero past the length, with a poisoned lane zero and cleared in PD. vld writes at once, or is in flight for port 7 and due six issue cycles later; vldx, whose latency of ten an lmode could overtake, is
    always in flight (R49, R50, R167, R170, R186, R187, R189; log 6, log 22). -/
def Sys2Proof.Spec.VectorLoads : Prop :=
  ∀ (s : State) (h : Hdr) (o : VOps) (i : Instr) (byte : Nat → Nat × Bool), Ready s i →
    let u := s.begun i
    let d := o.dn u.myCl
    let marked (a : Nat) : Nat × Bool := ((u.mine.spByte a).toNat, sget false u.mine.spPoison a)
    let bad (l : Nat) : Bool := activeEl u.myCl h 32 l && (List.range 4).any fun j => (byte (4 * l + j)).2
    let el (k : Nat) : Option Nat := if activeEl u.myCl h 8 k then some (if bad (k / 4) then 0 else (byte k).1) else none
    let poisoned := (List.range 64).any bad
    (i = .vld h o ∧ localOk u.mine (vecAddr u o) (vecLen o) ∧
        (∀ k, byte k = if k < vecLen o then marked (vecAddr u o + k) else (0, false))) ∨
      (i = .vldx h o ∧ (∀ l, l < 64 → activeEl u.myCl h 32 l = true → localOk u.mine (laneAddr u o l) 4) ∧ (u.mine.vname (o.an u.myCl)).bounded = false ∧
        (∀ k, byte k = if activeEl u.myCl h 8 k then marked (laneAddr u o (k / 4) + k % 4) else (0, false))) →
    (partialGuard u.myCl h = true → (u.mine.vname d).bounded = false) → (vecPd o = 0 → poisoned = false) →
    ∃ t, exec i s = .next t ∧ t.myCl.aflags = u.myCl.aflags ∧
      (u.atOnce i (vecLatency i) → (t.mine.vname d).bounded = false ∧ latched u t 7 d ∧ t.myCl.flight = u.myCl.flight ∧ VKept i u t [d] [7] ∧
        (∀ k, k < 256 → elemOf (t.mine.vname d).val 8 k = (el k).getD (elemOf (u.mine.vname d).val 8 k)) ∧
        (∀ l, l < 64 → vecPd o ≠ 0 → (t.myCl.pmask (vecPd o)).getLsbD l = ((u.myCl.pmask (vecPd o)).getLsbD l && !bad l)) ∧
        (∀ q, q ≠ vecPd o → t.myCl.pmask q = u.myCl.pmask q)) ∧
      (¬ u.atOnce i (vecLatency i) → ∃ r m, VSent i u t (vecLatency i) (r :: if poisoned then [.pred (vecPd o) m 0] else []) ∧ WritesElements r d 7 8 el ∧
        ∀ l, l < 64 → m.getLsbD l = bad l)

/-- vst, and vstx lane by lane in ascending order: the bytes of the active lanes are in flight in either mode, due three issue cycles later, and until then no byte of the scratchpad changes (R167, R186, R187, R191). -/
def Sys2Proof.Spec.VectorStores : Prop :=
  ∀ (s : State) (h : Hdr) (o : VOps) (i : Instr) (l : List RegVal), Ready s i →
    let u := s.begun i
    let b := u.mine.vname (o.bn u.myCl)
    (i = .vst h o ∧ localOk u.mine (vecAddr u o) (vecLen o) ∧ l = [.sp (vecAddr u o) (lanesStored u h (o.bn u.myCl) (vecLen o))]) ∨
      (i = .vstx h o ∧ (∀ l, l < 64 → activeEl u.myCl h 32 l = true → localOk u.mine (laneAddr u o l) 4) ∧ (u.mine.vname (o.an u.myCl)).bounded = false ∧
        l = ((List.range 64).filter fun l => activeEl u.myCl h 32 l).map fun l => .sp (laneAddr u o l) (storeData (.ofNat 64 (elemOf b.val 32 l)) 4)) →
    b.bounded = false →
    ∃ t, exec i s = .next t ∧
      t.myCl.flight = inFlight u.myCl 3 (pushesOf i) (storePushesLast (pushesOf i)) (inFlight u.myCl 3 0 l u.myCl.flight) ∧ t.mine.sp = u.mine.sp ∧
      t.myCl.aflags = u.myCl.aflags ∧ PredsKept u t ∧ VKept i u t [] []

/-- The traps of vld, vldx, vst and vstx, and their order: ILLTYPE for a bounded index, a bounded source of a store, or a bounded D written in part; ALIGN for the first address that is misaligned or beyond the scratchpad; OWNER for the first that lies in a tile which is not
    THREAD; and POISON for a load with poisoned bytes in active lanes and PD naming p0. The record has the address or the lanes, and nothing is loaded or stored (R79, R82, R83, R168, R186, R187, R189, R299). -/
def Sys2Proof.Spec.VectorAccessTraps : Prop :=
  ∀ (s : State) (h : Hdr) (o : VOps) (i : Instr) (load indexed : Bool),
    (i = .vld h o ∧ load = true ∧ indexed = false) ∨ (i = .vldx h o ∧ load = true ∧ indexed = true) ∨ (i = .vst h o ∧ load = false ∧ indexed = false) ∨
      (i = .vstx h o ∧ load = false ∧ indexed = true) → Ready s i →
    let u := s.begun i
    let n := if indexed then 4 else vecLen o
    let at' : List Nat := if indexed then ((List.range 64).filter fun l => activeEl u.myCl h 32 l).map fun l => laneAddr u o l else [vecAddr u o]
    let poisoned (l : Nat) : Bool := activeEl u.myCl h 32 l && (List.range 4).any fun j =>
      if indexed then sget false u.mine.spPoison (laneAddr u o l + j) else decide (4 * l + j < n) && sget false u.mine.spPoison (vecAddr u o + (4 * l + j))
    let bad := (indexed = true ∧ (u.mine.vname (o.an u.myCl)).bounded = true) ∨ (load = false ∧ (u.mine.vname (o.bn u.myCl)).bounded = true) ∨
      (load = true ∧ partialGuard u.myCl h = true ∧ (u.mine.vname (o.dn u.myCl)).bounded = true)
    let askew := at'.find? fun a => decide (a % n ≠ 0 ∨ 0x280000 < a + n)
    let foreign := at'.find? fun a => decide (u.mine.owner' (a / 4096) ≠ 0)
    (bad → exec i s = .next (u.trapHere u.curCl .illtype u.myCl.pc 0 (wordImage u.curCl i))) ∧
    (¬ bad → ∀ a, askew = some a → exec i s = .next (u.trapHere u.curCl .align u.myCl.pc 0 (toBytes 8 a ++ [0]))) ∧
    (¬ bad → askew = none → ∀ a, foreign = some a →
      exec i s = .next (u.trapHere u.curCl .owner u.myCl.pc 0 (toBytes 8 a ++ [.ofNat 8 (u.mine.owner' (a / 4096)).toNat]))) ∧
    (¬ bad → askew = none → foreign = none → load = true → vecPd o = 0 → (∃ l, l < 64 ∧ poisoned l = true) →
      ∃ m : Mask, (∀ l, l < 64 → m.getLsbD l = poisoned l) ∧
        exec i s = .next (u.trapHere u.curCl .poison u.myCl.pc 0 (toBytes 16 0 ++ toBytes 8 (vecAddr u o) ++ toBytes 8 m.toNat)))

/-- Vector loads and stores of the scratchpad: what they load, what they put in flight, and when they trap (R49, R79, R82, R83, R167, R168, R170, R186, R187, R189, R191, R299). -/
def Obligations.VectorMemory : Prop := VectorLoads ∧ VectorStores ∧ VectorAccessTraps

namespace Sys2Proof.Spec

open Sys2Proof Sys2Proof.Machine

/-- The handle register of a vector word (R185). -/
def vecHandle (u : State) (o : VOps) : BitVec 128 := u.mine.handle (.ofNat 5 (o.c.toNat / 2 ^ 15))

/-- vldg and vstg that pass their checks enter the load and the store queue, and change no register; in a versioned kernel a vstg joins the version
    instead (R40, R186, R246). -/
def VectorGlobal : Prop :=
  ∀ (s : State) (h : Hdr) (o : VOps),
    (Ready s (.vldg h o) →
      let u := s.begun (.vldg h o)
      let d := o.dn u.myCl
      let x := vecAddr u o
      let n := vecLen o
      globalOk (vecHandle u o) x n n true → (partialGuard u.myCl h = true → (u.mine.vname d).bounded = false) →
      ∃ t e, exec (.vldg h o) s = .next t ∧ t.myCl.loadQ = u.myCl.loadQ ++ [e] ∧ t.myCl.storeQ = u.myCl.storeQ ∧ t.myCl.nseq = u.myCl.nseq + 1 ∧
        e.kind = .vldg (vecHandle u o) x n d (guardMask u.myCl h) (vecPd o) 0 ∧ e.ac = .ofNat 2 (o.c.toNat / 2 ^ 13) ∧ e.push = h.k.setWidth 2 ∧ e.seq = u.myCl.nseq ∧
        (∀ m, t.mine.vname m = u.mine.vname m) ∧ SameOutside u t ∧ SameCore u t ∧ SameBesideQueues u t ∧ t.myCl.pc = pcPlus u.curCl u.myCl.pc 1) ∧
    (Ready s (.vstg h o) →
      let u := s.begun (.vstg h o)
      let x := vecAddr u o
      let n := vecLen o
      globalOk (vecHandle u o) x n n false → (u.mine.vname (o.bn u.myCl)).bounded = false →
      (u.versioned = false →
        ∃ t e, exec (.vstg h o) s = .next t ∧ t.myCl.storeQ = u.myCl.storeQ ++ [e] ∧ t.myCl.loadQ = u.myCl.loadQ ∧ t.myCl.nseq = u.myCl.nseq + 1 ∧
          e.kind = .st (vecHandle u o) x (lanesStored u h (o.bn u.myCl) (vecLen o)) ∧ e.ac = .ofNat 2 (o.c.toNat / 2 ^ 13) ∧ e.push = 0 ∧ e.seq = u.myCl.nseq ∧
          SameOutside u t ∧ SameCore u t ∧ SameBesideQueues u t ∧ t.myCl.pc = pcPlus u.curCl u.myCl.pc 1) ∧
      (u.versioned = true → let e : VEnt := { h := vecHandle u o, off := x, upd := .bytes (lanesStored u h (o.bn u.myCl) (vecLen o)) }
        u.versionFull (u.mine.version ++ [e]) = none →
        ∃ t, exec (.vstg h o) s = .next t ∧ t.mine.version = u.mine.version ++ [e] ∧ t.myCl.loadQ = u.myCl.loadQ ∧ t.myCl.storeQ = u.myCl.storeQ ∧
          SameOutside u t ∧ RegsBut none u t ∧ PredsKept u t))

/-- The vldg at the head of V's load queue returns, once its pushes find space (R45): the active lanes of its register take the bytes of the access, and zero past its length, and it
    enters the latch of port 7 behind the `newer` results that later words have written there; a lane that received poison is zero and cleared in PD (R186, R189). -/
def VectorReturns : Prop :=
  ∀ (s : State) (core : CoreId) (e : LoadEnt) (r : List LoadEnt) (h : BitVec 128) (off n d : Nat) (active : Mask) (pd : Pred) (newer : Nat),
    let k := s.core core.toNat
    k.v.loadQ = e :: r → noMarkL r → e.kind = .vldg h off n d active pd newer → k.v.loadFree e = true → s.holdsAt h off = false → k.roomFor .V e.push = true → n ≤ 256 → d < 576 →
    let data := (s.coreRead core.toNat h (s.ctx k.ctxNum).kdom off n).2
    let bad (l : Nat) : Bool := (List.range 4).any fun j => match data[4 * l + j]? with | some b => b.2 | none => false
    (pd = 0 → ∀ l, l < 64 → active.getLsbD l = true → bad l = false) →
    ∃ t, exec (.vldgReturn core) s = .next t ∧ (t.core core.toNat).v.loadQ = r ∧ ((t.core core.toNat).vname d).bounded = false ∧
      (newer ≤ 7 → (t.core core.toNat).vname (632 + newer) = (t.core core.toNat).vname d) ∧
      (∀ a, a < 8 → a < newer → (t.core core.toNat).vname (632 + a) = k.vname (632 + a)) ∧ (∀ a, newer ≤ a → a < 7 → (t.core core.toNat).vname (632 + (a + 1)) = k.vname (632 + a)) ∧
      (∀ j, j < 256 → elemOf ((t.core core.toNat).vname d).val 8 j =
        if active.getLsbD (j / 4) then (if bad (j / 4) then 0 else match data[j]? with | some b => b.1.toNat | none => 0) else elemOf (k.vname d).val 8 j) ∧
      (∀ m, m < 576 → m ≠ d → (t.core core.toNat).vname m = k.vname m) ∧
      (∀ l, l < 64 → pd ≠ 0 → ((t.core core.toNat).v.pmask pd).getLsbD l = ((k.v.pmask pd).getLsbD l && !(active.getLsbD l && bad l))) ∧
      (∀ q, q ≠ pd → (t.core core.toNat).v.pmask q = k.v.pmask q) ∧ (t.core core.toNat).v.s = k.v.s

/-- The store at the head of the store queue is performed: its valid bytes are dirty in the core's L1, or, where the core has none, in the L2 of its die, marked as the core's. Where each of their lines is in that cache or its
    set has a free way, no other byte of either cache changes, nor any byte of memory (R89, R90, R91, R244, R246). -/
def StoresPerform : Prop :=
  ∀ (s : State) (core : CoreId) (c : Cluster) (e : StoreEnt) (r : List StoreEnt) (h : BitVec 128) (off : Nat) (bs : List (Option Byte)),
    let k := s.core core.toNat
    let die := core.toNat / 32
    let cell (j : Nat) := byteKey (hFrame h) (off + j)
    let stored (a : Nat) : Prop := ∃ j b, bs[j]? = some (some b) ∧ a = cell j
    (k.cl c).storeQ = e :: r → noMark r → e.kind = .st h off bs → (k.cl c).storeFree e = true → bs.length ≤ 256 →
    (∀ j, j < bs.length → if k.hasL1 then k.l1Full (cell j / 128) = none else fullSet (s.l2Of die) 262144 16 (cell j / 128) = none) →
    ∃ t, moveBody s (.storePerform core c) = .next t ∧ ((t.core core.toNat).cl c).storeQ = r ∧ ((t.core core.toNat).cl c).s = (k.cl c).s ∧ t.mem = s.mem ∧
      (∀ m, m ≠ core.toNat → t.core m = s.core m) ∧
      (k.hasL1 = true → t.l2 = s.l2 ∧
        (∀ j b, bs[j]? = some (some b) → sfind (t.core core.toNat).l1 (cell j) = some { val := b, dirty := true, attr := hAttr h (s.ctx k.ctxNum).kdom }) ∧
        (∀ a, ¬ stored a → sfind (t.core core.toNat).l1 a = sfind k.l1 a)) ∧
      (k.hasL1 = false → (t.core core.toNat).l1 = k.l1 ∧
        (∀ j b, bs[j]? = some (some b) → ∃ q, sfind (t.l2Of die) (cell j) = some q ∧ q.val = b ∧ q.attr = hAttr h (s.ctx k.ctxNum).kdom ∧
          q.writers.getLsbD (core.toNat % 32) = true ∧ ∀ n, n < 32 → n ≠ core.toNat % 32 → q.writers.getLsbD n = (match sfind (s.l2Of die) (cell j) with | some o => o.writers.getLsbD n | none => false)) ∧
        (∀ a, ¬ stored a → sfind (t.l2Of die) a = sfind (s.l2Of die) a))

/-- The cinv at the head of the store queue is performed: the core's L1 loses the bytes of the range that are not dirty and keeps every other. At core scope nothing else changes; beyond it no dirty byte of the range, nor any byte of its
    line, is left in the die's L2. Where the L2's dirty bytes of the range's lines all lie on one line, which can be written in its place and of which no other L2 holds a byte, memory takes each of them, and no other byte of memory changes (R264). -/
def CinvPerforms : Prop :=
  ∀ (s : State) (core : CoreId) (c : Cluster) (e : StoreEnt) (r : List StoreEnt) (h : BitVec 128) (off n : Nat) (scope : BitVec 3),
    let k := s.core core.toNat
    let die := core.toNat / 32
    let first := byteKey (hFrame h) off
    let within (b : Nat) : Prop := first ≤ b ∧ b < first + n
    (k.cl c).storeQ = e :: r → noMark r → e.kind = .cinv h off n scope → (k.cl c).storeFree e = true →
    ∃ t, moveBody s (.storePerform core c) = .next t ∧ ((t.core core.toNat).cl c).storeQ = r ∧ ((t.core core.toNat).cl c).s = (k.cl c).s ∧
      (∀ b, b ∈ (t.core core.toNat).l1 ↔ b ∈ k.l1 ∧ (b.2.dirty = true ∨ ¬ within b.1)) ∧
      (scope = 0 → t.l2 = s.l2 ∧ t.mem = s.mem) ∧
      (1 ≤ scope.toNat → ∀ b ∈ s.l2Of die, b.2.dirty = true → within b.1 → ∀ y ∈ t.l2Of die, lineOf y.1 ≠ lineOf b.1) ∧
      (1 ≤ scope.toNat → ∀ l attr, let acc := s.frameAcc (128 * l / 2 ^ 21) attr
        let o := 128 * l % 2 ^ 21
        first < 128 * l + 128 → 128 * l < first + n → (∀ b ∈ s.l2Of die, b.2.dirty = true → lineOf b.1 = l ∧ b.2.attr = attr) → ((s.l2Of die).map (·.1)).Nodup →
        (∀ d, d ≠ die → ∀ b ∈ s.l2Of d, lineOf b.1 ≠ l) → PlainLine s acc o →
        (∀ b ∈ s.l2Of die, b.2.dirty = true → t.memByte (s.spot acc o + b.1 % 128) = b.2.val) ∧
        (∀ y, (∀ b ∈ s.l2Of die, b.2.dirty = true → y ≠ s.spot acc o + b.1 % 128) → t.memByte y = s.memByte y))

end Sys2Proof.Spec

/-- What acquires, releases, flushes, invalidations and plain stores do to the caches, and that what a release or flush covers reaches its home at dev and sys scope (R89, R90, R91, R244, R246, R247, R264). -/
def Obligations.Fences : Prop := AcquireCompletes ∧ ReleaseCompletes ∧ ReleaseReachesHome ∧ StoresPerform ∧ CinvPerforms

/-- What a returning load writes: results on their way, scalar and vector loads with their poison, records and query masks (R43, R186, R189, R245, R261, R262). -/
def Obligations.LoadsReturn : Prop := ResultDelivered ∧ LoadReturns ∧ VectorReturns ∧ RecordRead ∧ DigestLoadsReturn

/-- Words of global memory: their traps, the entry each puts into a queue of its cluster, mark in both queues, and the updates that a versioned kernel holds in the version (R40, R42, R186, R243, R244, R246, R247, R249, R250, R261). -/
def Obligations.GlobalWords : Prop := GlobalTraps ∧ QueueWordEnters ∧ VectorGlobal ∧ MarkEnters ∧ VersionHolds

namespace Sys2Proof.Spec

open Sys2Proof Sys2Proof.Machine

/-! Tensor and crossbar words. -/

/-- The four tasks of the running task's quartet: its ordinal's place in its group, by fours (R220, R329). -/
def fullQuartet (t : Task) : Prop := 4 * ((t.ord - BitVec.ofNat 32 t.first).toNat / 4) + 4 ≤ t.gsize

/-- The running task's quartet has its four tasks. -/
def wideGroup (u : State) : Prop := ∀ t, u.mine.task = some t → fullQuartet t

/-- The entry that a T word puts into the tile-step queue when it passes its checks (R194, R200, R202, R203, R205, R206, R208, R210 to R212, R217, R218, R220). -/
inductive TileEntry (u : State) : Instr → BitVec 2 → TileKind → Prop
  | mma (h : Hdr) (o : MOps) : (o.qj = true → u.mine.task.isSome = true ∧ wideGroup u) → o.wb = u.mine.tailActive → TileEntry u (.mma h o) 0 (.mma o)
  | mms (h : Hdr) (o : MOps) : (o.qj = true → u.mine.task.isSome = true ∧ wideGroup u) → o.wb = u.mine.tailActive → TileEntry u (.mms h o) 0 (.mms o)
  | mzero (h : Hdr) (o : MOps) : TileEntry u (.mzero h o) 0 (.mzero o)
  | mstore (h : Hdr) (o : MOps) : TileEntry u (.mstore h o) 0 (.mstore o)
  | mload (h : Hdr) (o : MOps) : TileEntry u (.mload h o) 0 (.mload o)
  | mwldWindow (h : Hdr) (td : BitVec 8) (w : BitVec 4) (wb : Bool) (noff : BitVec 16) : wb ≠ u.mine.tailActive →
      TileEntry u (.mwldWindow h td w wb noff) 0 (.mwldWindow td w wb noff)
  | mwldRange (h : Hdr) (td : BitVec 8) (rows : BitVec 11) (wb : Bool) (koff noff : BitVec 16) : wb ≠ u.mine.tailActive →
      TileEntry u (.mwldRange h td rows wb koff noff) 0 (.mwldRange td rows wb koff noff)
  | mwswap (h : Hdr) (wb : Bool) : wb ≠ u.mine.tailActive → TileEntry u (.mwswap h wb) 0 (.mwswap wb)
  | tdset (h : Hdr) (td : BitVec 8) (a : Reg) : (u.reg a).toNat % 128 = 0 → TileEntry u (.tdset h td a) 0 (.tdset td (u.reg a).toNat)
  | tdget (h : Hdr) (td : BitVec 8) (a : Reg) : (u.reg a).toNat % 128 = 0 → TileEntry u (.tdget h td a) 0 (.tdget td (u.reg a).toNat)
  | twin (h : Hdr) (td : BitVec 8) (w : BitVec 4) (a b : Reg) (lv : BitVec 2) :
      TileEntry u (.twin h td w a b lv) 0 (.twin td w lv (.ofNat 16 (u.reg a).toNat) (.ofNat 32 (u.reg b).toNat))
  | twinGet (h : Hdr) (w : BitVec 4) (a b : Reg) : TileEntry u (.twinGet h w a b) (h.k.setWidth 2) (.twinGet w a b)
  | tcut (h : Hdr) (td : BitVec 8) (w : BitVec 4) (budget : BitVec 12) (level : BitVec 2) (span : BitVec 10) :
      TileEntry u (.tcut h td w budget level span) 0 (.tcut td w (budget.toNat + 1) level (span.toNat + 1))
  | tcocut (h : Hdr) (td : BitVec 8) (w l : BitVec 4) (dim : BitVec 2) : TileEntry u (.tcocut h td w l dim) 0 (.tcocut td w l dim)
  | tmerge (h : Hdr) (wd wa wb : BitVec 4) (mode : Bool) (otd : BitVec 8) : TileEntry u (.tmerge h wd wa wb mode otd) 0 (.tmerge wd wa wb mode otd)
  | tnext (h : Hdr) (w : BitVec 4) : TileEntry u (.tnext h w) 0 (.tnext w)

/-- The sub-code of the WINDOW that a matrix word meets at issue: 0x09 for a .q step in a quartet of fewer than four tasks, 0x07 for a bank that is not the one its place in the queue
    calls for, with the bank's number (R210, R217, R218, R220). -/
inductive TileWindow (u : State) : Instr → List (BitVec 4) → Nat → Prop
  | small (h : Hdr) (o : MOps) (t : Task) (i : Instr) (ws : List (BitVec 4)) : i = .mma h o ∧ ws = [] ∨ i = .mms h o ∧ ws = [o.aw, o.bw] → o.qj = true →
      u.mine.task = some t → ¬ fullQuartet t → TileWindow u i ws 9
  | step (h : Hdr) (o : MOps) (i : Instr) (ws : List (BitVec 4)) : i = .mma h o ∧ ws = [] ∨ i = .mms h o ∧ ws = [o.aw, o.bw] → (o.qj = true → wideGroup u) →
      u.mine.task.isSome = true → o.wb ≠ u.mine.tailActive → TileWindow u i ws (7 + 256 * (if o.wb then 1 else 0))
  | fillW (h : Hdr) (td : BitVec 8) (w : BitVec 4) (noff : BitVec 16) :
      TileWindow u (.mwldWindow h td w u.mine.tailActive noff) [w] (7 + 256 * (if u.mine.tailActive then 1 else 0))
  | fillR (h : Hdr) (td : BitVec 8) (rows : BitVec 11) (koff noff : BitVec 16) :
      TileWindow u (.mwldRange h td rows u.mine.tailActive koff noff) [] (7 + 256 * (if u.mine.tailActive then 1 else 0))
  | swap (h : Hdr) : TileWindow u (.mwswap h u.mine.tailActive) [] (7 + 256 * (if u.mine.tailActive then 1 else 0))

/-- A word that gives an operation to a unit of its core has passed: nothing outside the core, no other cluster, no register, no predicate and no memory of the core changes; its own cluster only moves on and
    pushes. -/
structure Handed (i : Instr) (u t : State) : Prop where
  outside : SameOutside u t
  clusters : ∀ c, c ≠ u.curCl → t.mine.cl c = u.mine.cl c
  cluster : { t.myCl with pc := u.myCl.pc, outL := u.myCl.outL, outR := u.myCl.outR, popped := u.myCl.popped, flight := u.myCl.flight, need := u.myCl.need } = u.myCl
  store : t.mine.sp = u.mine.sp ∧ t.mine.acc = u.mine.acc ∧ t.mine.win = u.mine.win ∧ t.mine.bank = u.mine.bank ∧ t.mine.tds = u.mine.tds ∧ t.mine.active = u.mine.active
  pc : t.myCl.pc = pcPlus u.curCl u.myCl.pc i.words

end Sys2Proof.Spec

/-- A T word that passes its checks puts one operation at the end of the tile-step queue, under the next step number, and for a .q step the next number among the task's joint steps (R220), with its register operands as they are at issue; mwswap changes which bank is active at the queue's tail; nothing else
    changes. A .q step in a small quartet and a word that names the wrong bank raise WINDOW (R194, R196, R200, R202, R203, R205, R208, R210, R211, R217, R218, R220). -/
def Sys2Proof.Spec.TileWordEnters : Prop :=
  (∀ (s : State) (i : Instr) (push : BitVec 2) (kind : TileKind), Ready s i → TileEntry (s.begun i) i push kind →
    let u := s.begun i
    ∃ t, exec i s = .next t ∧ t.mine.tq = u.mine.tq ++ [{ step := u.mine.tsteps, joint := u.mine.jsteps, kind := kind, push := push, done := false }] ∧
      t.mine.tsteps = u.mine.tsteps + 1 ∧ t.mine.jsteps = u.mine.jsteps + (if kind.joint then 1 else 0) ∧ t.mine.nests = u.mine.nests ∧ t.mine.xq = u.mine.xq ∧
      t.mine.tailActive = (match kind with | .mwswap wb => wb | _ => u.mine.tailActive) ∧ Handed i u t) ∧
  (∀ (s : State) (i : Instr) (ws : List (BitVec 4)) (sub : Nat), Ready s i → TileWindow (s.begun i) i ws sub →
    let u := s.begun i
    exec i s = .next (u.trapHere u.curCl .window u.myCl.pc (.ofNat 64 (sub + u.mine.tsteps % 2 ^ 16 * 2 ^ 48))
      (ws.flatMap fun w => toBytes 32 (sget 0 u.mine.win w.toNat).toNat)))

/-- Entries at the end of a core's tile-step queue, numbered on, and the joint ones among them too (R194, R196, R220). -/
def Sys2Proof.Spec.queued (k : Core) (l : List TileKind) : List TileOp :=
  k.tq ++ l.zipIdx.map fun e => { step := k.tsteps + e.2, joint := k.jsteps + (l.take e.2).countP (·.joint), kind := e.1, push := 0, done := false }

/-- mnset writes one entry of the shadow at issue and no other, and its queue entry stands at the end of the queue, or behind the steps that nests have still to place; mgo takes the shadow's levels and its template into a nest, with an entry of its own,
    and waits behind the nests there are; a nest with a COUNT of 0 places nothing; nothing else changes (R194, R214, R215; that both act at issue, log 33). -/
def Sys2Proof.Spec.NestWords : Prop :=
  (∀ (s : State) (h : Hdr) (level : BitVec 3) (a b : Reg), Ready s (.mnset h level a b) →
    let i := Instr.mnset h level a b
    let u := s.begun i
    let x := (u.reg b).toNat
    ∃ t, exec i s = .next t ∧
      sget NestLevel.reset t.mine.shadow level.toNat = { count := .ofNat 16 (u.reg a).toNat, dk := .ofNat 16 x, dm := .ofNat 16 (x / 2 ^ 16), dn := .ofNat 16 (x / 2 ^ 32), dacc := .ofNat 3 (x / 2 ^ 48) } ∧
      (∀ l, l ≠ level.toNat → sget NestLevel.reset t.mine.shadow l = sget NestLevel.reset u.mine.shadow l) ∧
      (u.mine.nests = [] → t.mine.nests = [] ∧ t.mine.tq = queued u.mine [.mnset] ∧ t.mine.tsteps = u.mine.tsteps + 1) ∧
      (∀ l n, u.mine.nests = l ++ [n] → t.mine.nests = l ++ [{ n with after := n.after + 1 }] ∧ t.mine.tq = u.mine.tq ∧ t.mine.tsteps = u.mine.tsteps) ∧ Handed i u t) ∧
  (∀ (s : State) (h : Hdr) (levels klevel : BitVec 3) (o : MOps), Ready s (.mgo h levels klevel (some o)) →
    let i := Instr.mgo h levels klevel (some o)
    let u := s.begun i
    let ls := (List.range (levels.toNat + 1)).map fun l => sget NestLevel.reset u.mine.shadow l
    let nest (entered : Bool) : Nest := { levels := ls, klevel := klevel.toNat, tmpl := o, next := 0, entered := entered, after := 0 }
    (o.qj = true → u.mine.task.isSome = true ∧ wideGroup u) →
    ∃ t, exec i s = .next t ∧
      (u.mine.nests = [] → t.mine.tq = queued u.mine [.mgo] ∧ t.mine.tsteps = u.mine.tsteps + 1 ∧ t.mine.nests = (if ls.any fun l => l.count == 0 then [] else [nest true])) ∧
      (u.mine.nests ≠ [] → t.mine.tq = u.mine.tq ∧ t.mine.tsteps = u.mine.tsteps ∧ t.mine.nests = u.mine.nests ++ [nest false]) ∧
      t.mine.shadow = u.mine.shadow ∧ Handed i u t)

/-- T words put operations into the tile-step queue, or trap, and mnset and mgo set up nests (log 33); a WINDOW raised at issue names the step's number too (log 35; DEDUCED) (R194, R196, R200, R202, R203, R205, R208, R210, R211, R214, R215, R218). -/
def Obligations.TensorWords : Prop := TileWordEnters ∧ NestWords

namespace Sys2Proof.Spec

open Sys2Proof Sys2Proof.Machine

/-- The fields of a window from bit 0 on, reserved ones too (R201): TD, LEVEL, EMPTY, SPLIT, ERROR, CV, reserved, SERIAL, START, END, COUNT, reserved, RBLK, reserved, QPOS, QEND, PPOS. -/
def winFields (v : BitVec 256) : List Nat :=
  ([(0, 8), (8, 2), (10, 1), (11, 1), (12, 1), (13, 1), (14, 2), (16, 16), (32, 32), (64, 32), (96, 13), (109, 19), (128, 16), (144, 16), (160, 32), (192, 32), (224, 32)] : List (Nat × Nat)).map
    fun f => v.toNat / 2 ^ f.1 % 2 ^ f.2

/-- Nothing but core `k` differs. -/
def OnlyCore (k : Nat) (s t : State) : Prop := (∀ n, n ≠ k → t.core n = s.core n) ∧ { t with cores := s.cores } = s

/-- The head of a core's tile-step queue has executed and waits for its completion. -/
def HeadDone (k : Core) (op : TileOp) (rest : List TileOp) : Prop := k.tq = { op with done := true } :: rest

/-- The extent a field gives: 0 stands for 128 (R134). -/
def span (n : BitVec 8) : Nat := if n = 0 then 128 else n.toNat

/-- A dense scratchpad descriptor of element type `t` (R198): base, first stride, second stride. -/
structure Dense (k : Core) (td t : Nat) (base s0 s1 d0 d1 : Nat) : Prop where
  held : ∃ d, sfind k.tds td = some d ∧ tdInvalid d.toNat = false ∧ tdSparse d.toNat = false ∧ tdLoc d.toNat = 1 ∧ tdType d.toNat = t ∧ base = d.toNat / 2 ^ 64 % 2 ^ 64 ∧
    d0 = d.toNat / 2 ^ 128 % 2 ^ 32 ∧ d1 = d.toNat / 2 ^ 160 % 2 ^ 32 ∧ s0 = d.toNat / 2 ^ 256 % 2 ^ 32 ∧ s1 = d.toNat / 2 ^ 288 % 2 ^ 32

/-- Scratchpad that a tensor unit may read. -/
def tensorOk (k : Core) (a n : Nat) : Prop := a + n ≤ 0x280000 ∧ ∀ j, j < n → k.owner' ((a + j) / 4096) = 3 ∧ sget false k.spPoison (a + j) = false

end Sys2Proof.Spec

/-- The head of the tile-step queue executes and waits for its completion, while the clock runs (R20) and no tile's owner is on its way (R251): twin and tnext set their window, twin.get reads one into two registers of T, mzero clears its accumulator, mload reads one, mwswap makes its bank the active one once no fill into it is outstanding, and tdget
    writes a descriptor; only its core changes (R194, R200, R202, R206, R212, R218). -/
def Obligations.TileStepExecutes : Prop :=
  ∀ (s : State) (core : CoreId) (op : TileOp) (rest : List TileOp), (s.core core.toNat).tq = op :: rest → op.done = false → s.power.stopped = false → (s.core core.toNat).ownPending = false →
    let k := s.core core.toNat
    let runs (p : Core → Prop) : Prop := ∃ t, exec (.tileStepExecute core) s = .next t ∧ HeadDone (t.core core.toNat) op rest ∧ OnlyCore core.toNat s t ∧ p (t.core core.toNat)
    let keepsWins (c : Core) (w : BitVec 4) : Prop := ∀ n, n ≠ w.toNat → sget 0 c.win n = sget 0 k.win n
    (∀ td w lv rblk start, op.kind = .twin td w lv rblk start → runs fun c =>
      winFields (sget 0 c.win w.toNat) = [td.toNat, lv.toNat, 0, 0, 0, 0, 0, 0, start.toNat, start.toNat, 0, 0, rblk.toNat, 0, 0, 0, 0] ∧ keepsWins c w ∧ c.sp = k.sp ∧ c.acc = k.acc) ∧
    (∀ w, op.kind = .tnext w → runs fun c =>
      (match winFields (sget 0 k.win w.toNat) with
       | [td, lv, _, split, _, cv, _, _, _, e, count, _, rblk, _, _, qend, ppos] =>
         let back := if split = 1 then 2 ^ 32 - 1 else 0
         let e' := (e + back) % 2 ^ 32
         winFields (sget 0 c.win w.toNat) = [td, lv, 0, 0, 0, cv, 0, 0, e', e', 0, 0, rblk, 0, (qend + back) % 2 ^ 32, qend, (ppos + count) % 2 ^ 32]
       | _ => False) ∧ keepsWins c w ∧ c.sp = k.sp ∧ c.acc = k.acc) ∧
    (∀ w a b, op.kind = .twinGet w a b → a ≠ b → runs fun c =>
      (a ≠ 0 → c.t.reg a = (sget 0 k.win w.toNat).setWidth 64) ∧ (b ≠ 0 → c.t.reg b = (sget 0 k.win w.toNat >>> 64).setWidth 64) ∧
      (∀ r, r ≠ a → r ≠ b → c.t.reg r = k.t.reg r) ∧ c.win = k.win) ∧
    (∀ o, op.kind = .mzero o → runs fun c =>
      (∀ n, n < 16384 → sget 0 c.acc (16384 * o.acc.toNat + n) = 0) ∧
      (∀ n, n < 16384 * o.acc.toNat ∨ 16384 * o.acc.toNat + 16384 ≤ n → sget 0 c.acc n = sget 0 k.acc n) ∧ c.sp = k.sp ∧ c.win = k.win) ∧
    (∀ o base s0 s1 d0 d1, op.kind = .mload o → Dense k o.otd.toNat o.oty.toNat base s0 s1 d0 d1 → (o.oty = 3 ∨ o.oty = 7) → span o.m ≤ 128 → span o.n ≤ 128 →
      o.moff.toNat + span o.m ≤ d1 → o.noff.toNat + span o.n ≤ d0 →
      (∀ i j, i < span o.m → j < span o.n → tensorOk k (base + (o.moff.toNat + i) * s1 + (o.noff.toNat + j) * s0) 4) → runs fun c =>
      (∀ i j, i < span o.m → j < span o.n → (sget 0 c.acc (16384 * o.acc.toNat + 128 * i + j)).toNat =
        ofBytes (k.spRead (base + (o.moff.toNat + i) * s1 + (o.noff.toNat + j) * s0) 4)) ∧
      (∀ n, (∀ i j, i < span o.m → j < span o.n → n ≠ 16384 * o.acc.toNat + 128 * i + j) → sget 0 c.acc n = sget 0 k.acc n) ∧ c.sp = k.sp ∧ c.win = k.win) ∧
    (∀ wb, op.kind = .mwswap wb → (∀ f ∈ k.ws, f.wb ≠ wb) → runs fun c => c.active = wb ∧ c.bank = k.bank ∧ c.acc = k.acc) ∧
    (∀ td a d, op.kind = .tdget td a → sfind k.tds td.toNat = some d → tensorOk k a 128 → runs fun c =>
      (∀ j, j < 128 → (c.spByte (a + j)).toNat = d.toNat / 256 ^ j % 256) ∧ (∀ y, y < a ∨ a + 128 ≤ y → c.spByte y = k.spByte y) ∧ c.win = k.win ∧ c.acc = k.acc)

namespace Sys2Proof.Spec

open Sys2Proof Sys2Proof.Machine

/-! Values of the matrix engine, the cutter and the merge unit. -/

/-- A little-endian number of `n` bytes of scratchpad. -/
def spNum (k : Core) (a n : Nat) : Nat := ofBytes (k.spRead a n)

/-- A dense scratchpad tensor of two dimensions (R198): its base, strides and extents, and SCALE_G. -/
structure Tens where
  base : Nat
  s0 : Nat
  s1 : Nat
  d0 : Nat
  d1 : Nat
  g : Nat

/-- The address of an element. -/
def Tens.at' (x : Tens) (i1 i0 : Nat) : Nat := x.base + i1 * x.s1 + i0 * x.s0

/-- A descriptor of a core describes the tensor, with element type `t`. -/
structure TensHeld (k : Core) (td t : Nat) (x : Tens) : Prop where
  dense : Dense k td t x.base x.s0 x.s1 x.d0 x.d1
  scale : ∃ d, sfind k.tds td = some d ∧ d.toNat / 2 ^ 20 % 8 = x.g

/-- An element lies in the tensor and may be read. -/
def Tens.reads (x : Tens) (k : Core) (i1 i0 n : Nat) : Prop := i1 < x.d1 ∧ i0 < x.d0 ∧ tensorOk k (x.at' i1 i0) n

/-- The pattern of an element of `n` bytes. -/
def Tens.num (x : Tens) (k : Core) (i1 i0 n : Nat) : Nat := spNum k (x.at' i1 i0) n

/-- The bytes of an element of a type (R57). -/
def bytesOf (t : BitVec 4) : Nat := typeWidth t.toNat / 8

/-- The bank that a step names: its metadata (R216). -/
def bankOf (k : Core) (o : MOps) : BankMeta := if o.wb then k.meta1 else k.meta0

/-- The pattern in a row and a column of the bank that a step names (R216). -/
def bankNum (k : Core) (o : MOps) (row col : Nat) : Nat :=
  ofBytes ((List.range (bytesOf o.bty)).map fun x => sget 0 k.bank ((if o.wb then 131072 else 0) + (128 * row + col) * bytesOf o.bty + x))

/-- The type pairs of R209. -/
def pairAccepted (o : MOps) : Prop := (o.aty, o.bty) ∈ ([(4, 4), (0, 0), (1, 0), (5, 5), (6, 6)] : List (BitVec 4 × BitVec 4))

/-- One chunk into a cell: `l` its pairs of patterns, in ascending k, `sa` and `sb` its scales. An integer chunk adds its exact sum to the cell, and wraps or clamps (R70). A floating-point one rounds its exact sum once, scales it where the type is e4m3, and adds it
    under the word's mode; the first chunk of an overwriting step adds nothing (R67, R68; of both infinities beside a NaN, log 56). -/
def chunkInto (o : MOps) (l : List (Nat × Nat)) (sa sb : Nat) (first : Bool) (old : Nat) : Nat × Fl :=
  let f := fmtF32
  if o.aty.toNat ≤ 1 then
    fitTo 3 o.sat ((l.map fun e => intVal o.aty.toNat e.1 * intVal o.bty.toNat e.2).foldl (· + ·) 0 + if first then 0 else signedOf 32 old)
  else
    let x := l.foldl (fun (st : ExSum × Fl) e => let p := FVal.mul (fvalOf o.aty.toNat e.1) (fvalOf o.bty.toNat e.2); (st.1.add p.1, st.2 ||| p.2)) (ExSum.zero, 0)
    let t := f.round 0 x.1.val.1
    let g := f.fmul 0 (f.decode sa) (f.decode sb)
    let u := if o.aty = 4 then f.fmul o.rm.toNat (f.decode t.1) (f.decode g.1) else (t.1, 0)
    let r := if first then (u.1, 0) else f.fadd o.rm.toNat (f.decode old) (f.decode u.1)
    (r.1, x.2 ||| x.1.val.2 ||| t.2 ||| (if o.aty = 4 then g.2 else 0) ||| u.2 ||| r.2)

/-- A cell after a step: `terms` its terms (k, a, b) in ascending k, taken chunk by chunk of 128 absolute k indices, `sc` the scales of a chunk (R66, R69). The flags are those that the T cluster can set (R61). -/
def cellAfter (o : MOps) (terms : List (Nat × Nat × Nat)) (sc : Nat → Nat × Nat) (old : Nat) : Nat × Fl :=
  let r := ((terms.map fun e => e.1 / 128).eraseDups).foldl (fun (st : Nat × Bool × Fl) c =>
    let x := chunkInto o ((terms.filter fun e => e.1 / 128 == c).map (·.2)) (sc c).1 (sc c).2 st.2.1 st.1
    (x.1, false, st.2.2 ||| x.2)) (old, o.am == 0, 0)
  (r.1, r.2.2 &&& 0x65)

/-- The cell of an accumulator. -/
def accKey (o : MOps) (i j : Nat) : Nat := 16384 * o.acc.toNat + 128 * i + j

/-- A step that is no joint one stands at the head of a core's queue and may execute, on the active bank with its B type, which is not poisoned (R194, R209, R210). -/
structure StepReady (s : State) (core : CoreId) (op : TileOp) (rest : List TileOp) (o : MOps) : Prop where
  runs : s.power.stopped = false ∧ (s.core core.toNat).ownPending = false
  head : (s.core core.toNat).tq = op :: rest ∧ op.done = false
  shape : (op.kind = .mma o ∨ op.kind = .mms o) ∧ o.qj = false ∧ pairAccepted o ∧ o.wb = (s.core core.toNat).active
  bank : (bankOf (s.core core.toNat) o).typ = o.bty ∧ (bankOf (s.core core.toNat) o).poisoned = false ∧ o.noff.toNat + span o.n ≤ 128

/-- The scales of an e4m3 step are there for a row and a chunk, and for a chunk and a column (R67, R198). -/
def scalesRead (k : Core) (o : MOps) (SA SB : Tens) (row col c : Nat) : Prop :=
  SA.reads k (row / 2 ^ SA.g) c 4 ∧ SB.reads k (c / 2 ^ SB.g) (((bankOf k o).nbase + col) / 128) 4

/-- Those scales; a step of other types has none. -/
def scalesAt (k : Core) (o : MOps) (SA SB : Tens) (row col c : Nat) : Nat × Nat :=
  if o.aty = 4 then (SA.num k (row / 2 ^ SA.g) c 4, SB.num k (c / 2 ^ SB.g) (((bankOf k o).nbase + col) / 128) 4) else (0, 0)

/-- The flags of a step's cells. -/
def cellFlags (m n : Nat) (f : Nat → Nat → Nat × Fl) : Fl := ((List.range m).flatMap fun i => (List.range n).map fun j => (f i j).2).foldl (· ||| ·) 0

/-- A dense step of any accepted pair of types executes: every cell of rows 0 to m - 1 and columns 0 to n - 1 takes the value that R66 to R70 give it, every other cell stays, and the cells' flags join AFLAGS (R61, R66 to R68, R70, R71, R198, R209, R210). -/
def DenseStep : Prop :=
  ∀ (s : State) (core : CoreId) (op : TileOp) (rest : List TileOp) (o : MOps) (A SA SB : Tens), StepReady s core op rest o → op.kind = .mma o →
    let k := s.core core.toNat
    let m := bankOf k o
    let ks := (List.range (span o.k)).map (o.koff.toNat + ·)
    let row (i : Nat) : Nat := o.moff.toNat + i
    let col (j : Nat) : Nat := o.noff.toNat + j
    let new (i j : Nat) : Nat × Fl := cellAfter o (ks.map fun kk => (kk, A.num k (row i) kk (bytesOf o.aty), bankNum k o (kk - m.kbase) (col j)))
      (scalesAt k o SA SB (row i) (col j)) (sget 0 k.acc (accKey o i j)).toNat
    TensHeld k o.atd.toNat o.aty.toNat A → o.moff.toNat + span o.m ≤ A.d1 → o.koff.toNat + span o.k ≤ A.d0 →
    (∀ i kk, i < span o.m → kk ∈ ks → tensorOk k (A.at' (row i) kk) (bytesOf o.aty)) → m.kbase ≤ o.koff.toNat → o.koff.toNat + span o.k ≤ m.kbase + m.rows →
    (o.aty = 4 → TensHeld k o.sa.toNat 7 SA ∧ TensHeld k o.sb.toNat 7 SB ∧ ∀ i j kk, i < span o.m → j < span o.n → kk ∈ ks → scalesRead k o SA SB (row i) (col j) (kk / 128)) →
    ∃ t, exec (.tileStepExecute core) s = .next t ∧ HeadDone (t.core core.toNat) op rest ∧ OnlyCore core.toNat s t ∧
      (∀ i j, i < span o.m → j < span o.n → sget 0 (t.core core.toNat).acc (accKey o i j) = .ofNat 32 (new i j).1) ∧
      (∀ n, (∀ i j, i < span o.m → j < span o.n → n ≠ accKey o i j) → sget 0 (t.core core.toNat).acc n = sget 0 k.acc n) ∧
      (t.core core.toNat).t.aflags = k.t.aflags ||| cellFlags (span o.m) (span o.n) new ∧ (t.core core.toNat).sp = k.sp ∧ (t.core core.toNat).win = k.win

/-- A sparse A of R199: its element type and base, its blocks and K, the format of level 2, and where its arrays lie. -/
structure SparseA where
  typ : Nat
  base : Nat
  blocks : Nat
  kdim : Nat
  fmt : Nat
  pos1 : Nat
  crd1 : Nat
  pos2 : Nat
  crd2 : Nat

/-- A descriptor of a core describes the sparse A (R197, R199). -/
def SparseHeld (k : Core) (td : Nat) (x : SparseA) : Prop :=
  ∃ d, sfind k.tds td = some d ∧ tdInvalid d.toNat = false ∧ tdLoc d.toNat = 1 ∧ tdLevels d.toNat = true ∧ (1 ≤ x.fmt ∧ x.fmt ≤ 3) ∧
    x = { typ := tdType d.toNat, base := d.toNat / 2 ^ 64 % 2 ^ 64, blocks := d.toNat / 2 ^ 448 % 2 ^ 32, kdim := d.toNat / 2 ^ 544 % 2 ^ 32, fmt := d.toNat / 2 ^ 28 % 4,
          pos1 := d.toNat / 2 ^ 480 % 2 ^ 32, crd1 := d.toNat / 2 ^ 512 % 2 ^ 32, pos2 := d.toNat / 2 ^ 576 % 2 ^ 32, crd2 := d.toNat / 2 ^ 608 % 2 ^ 32 }

/-- The column number at a column position. -/
def SparseA.col (x : SparseA) (k : Core) (q : Nat) : Nat := spNum k (x.crd1 + 4 * q) 4

/-- The first entry position of a column position; for SINGLETON the position itself. -/
def SparseA.first (x : SparseA) (k : Core) (q : Nat) : Nat := if x.fmt = 2 then q else spNum k (x.pos2 + 4 * q) 4

/-- The entries of a column position. -/
def SparseA.count (x : SparseA) (k : Core) (q : Nat) : Nat := if x.fmt = 2 then 1 else spNum k (x.pos2 + 4 * q + 4) 4 - x.first k q

/-- The row of the `i`-th entry of a column position: a byte, or the i-th set bit of its mask. -/
def SparseA.row (x : SparseA) (k : Core) (q i : Nat) : Nat :=
  if x.fmt = 3 then ((List.range 128).filter fun b => (spNum k (x.crd2 + 16 * q) 16).testBit b).getD i 0 else spNum k (x.crd2 + x.first k q + i) 1

/-- A column position is well formed, and its number and positions can be read (R199). -/
structure ColumnOk (x : SparseA) (k : Core) (q : Nat) : Prop where
  number : tensorOk k (x.crd1 + 4 * q) 4 ∧ x.col k q < x.kdim
  span : x.fmt ≠ 2 → tensorOk k (x.pos2 + 4 * q) 8 ∧ x.first k q ≤ spNum k (x.pos2 + 4 * q + 4) 4
  mask : x.fmt = 3 → tensorOk k (x.crd2 + 16 * q) 16 ∧ ((List.range 128).filter fun b => (spNum k (x.crd2 + 16 * q) 16).testBit b).length = x.count k q

/-- A row block: its column positions are `lo` to `hi` - 1 (R199). -/
def BlockAt (x : SparseA) (k : Core) (b lo hi : Nat) : Prop :=
  tensorOk k (x.pos1 + 4 * b) 8 ∧ lo = spNum k (x.pos1 + 4 * b) 4 ∧ hi = spNum k (x.pos1 + 4 * b + 4) 4 ∧ lo ≤ hi

/-- A field of a window: `n` bits from bit `lo` on (R201). -/
def winField (v : BitVec 256) (lo n : Nat) : Nat := v.toNat / 2 ^ lo % 2 ^ n

/-- The entries (row, column, position) of `n` column positions from `q` on, from entry position `p` on. -/
def entriesFrom (x : SparseA) (k : Core) (q n p : Nat) : List (Nat × Nat × Nat) :=
  (List.range n).flatMap fun c => (List.range (x.count k (q + c))).filterMap fun i =>
    if p ≤ x.first k (q + c) + i then some (x.row k (q + c) i, x.col k (q + c), x.first k (q + c) + i) else none

/-- A sparse step executes: on an EMPTY window it changes no cell. Otherwise every cell of the block takes its terms, the window's COUNT entries of its row from PPOS on against the bank, chunk by chunk; a cell without a term stays, and so does every cell outside the
    columns; the cells' flags join AFLAGS. Shown where the entries lie in `n` well-formed columns from QPOS on (R61, R66 to R71, R199, R207, R209, R211). -/
def SparseStep : Prop :=
  ∀ (s : State) (core : CoreId) (op : TileOp) (rest : List TileOp) (o : MOps) (X : SparseA) (SA SB : Tens) (lo hi n : Nat), StepReady s core op rest o → op.kind = .mms o →
    let k := s.core core.toNat
    let m := bankOf k o
    let v := sget 0 k.win o.aw.toNat
    let q := winField v 160 32
    let p := winField v 224 32
    let b := winField v 128 16
    let ents := (entriesFrom X k q n p).take (winField v 96 13)
    let col (j : Nat) : Nat := o.noff.toNat + j
    let new (i j : Nat) : Nat × Fl := cellAfter o ((ents.filter fun e => e.1 == i).map fun e => (e.2.1, spNum k (X.base + e.2.2 * bytesOf o.aty) (bytesOf o.aty), bankNum k o (e.2.1 - m.kbase) (col j)))
      (scalesAt k o SA SB (128 * b + i) (col j)) (sget 0 k.acc (accKey o i j)).toNat
    winField v 16 16 ≠ 0 → winField v 16 16 = winField (sget 0 k.win o.bw.toNat) 16 16 →
    (winField v 10 1 = 1 → ∃ t, exec (.tileStepExecute core) s = .next t ∧ HeadDone (t.core core.toNat) op rest ∧ OnlyCore core.toNat s t ∧
      (t.core core.toNat).acc = k.acc ∧ (t.core core.toNat).t.aflags = k.t.aflags) ∧
    (winField v 10 1 = 0 → SparseHeld k (winField v 0 8) X → X.typ = o.aty.toNat → BlockAt X k b lo hi → lo ≤ q → q + n ≤ hi →
      (∀ c, c < n → ColumnOk X k (q + c) ∧ (c + 1 < n → X.col k (q + c) < X.col k (q + c + 1))) →
      (0 < n → X.first k q ≤ p ∧ (p < X.first k q + X.count k q ∨ (X.count k q = 0 ∧ p = X.first k q))) → winField v 96 13 ≤ (entriesFrom X k q n p).length →
      ents.Pairwise (fun e f => e.2.1 = f.2.1 → e.1 < f.1) →
      (∀ e ∈ ents, e.1 < 128 ∧ (X.fmt ≠ 3 → tensorOk k (X.crd2 + e.2.2) 1) ∧ tensorOk k (X.base + e.2.2 * bytesOf o.aty) (bytesOf o.aty) ∧ m.kbase ≤ e.2.1 ∧ e.2.1 < m.kbase + m.rows) →
      (o.aty = 4 → TensHeld k o.sa.toNat 7 SA ∧ TensHeld k o.sb.toNat 7 SB ∧ ∀ e ∈ ents, ∀ j, j < span o.n → scalesRead k o SA SB (128 * b + e.1) (col j) (e.2.1 / 128)) →
      ∃ t, exec (.tileStepExecute core) s = .next t ∧ HeadDone (t.core core.toNat) op rest ∧ OnlyCore core.toNat s t ∧
        (∀ i j, i < 128 → j < span o.n → sget 0 (t.core core.toNat).acc (accKey o i j) = .ofNat 32 (new i j).1) ∧
        (∀ x, (∀ i j, i < 128 → j < span o.n → x ≠ accKey o i j) → sget 0 (t.core core.toNat).acc x = sget 0 k.acc x) ∧
        (t.core core.toNat).t.aflags = k.t.aflags ||| cellFlags 128 (span o.n) new ∧ (t.core core.toNat).sp = k.sp ∧ (t.core core.toNat).win = k.win)

/-- An mstore executes: each element of its output takes the cell's value, converted to the output type, and no other byte of scratchpad changes, where no two elements overlap; the conversions' flags join AFLAGS, and the accumulators stay (R61 to R63, R198, R212). -/
def StoreStep : Prop :=
  ∀ (s : State) (core : CoreId) (op : TileOp) (rest : List TileOp) (o : MOps) (T : Tens),
    let k := s.core core.toNat
    let w := bytesOf o.oty
    let at' (i j : Nat) : Nat := T.at' (o.moff.toNat + i) (o.noff.toNat + j)
    let new (i j : Nat) : Nat × Fl := convert (if o.oty.toNat ≤ 3 then 3 else 7) o.oty.toNat o.rm.toNat o.sat (sget 0 k.acc (accKey o i j)).toNat
    let inside (i j : Nat) : Prop := i < span o.m ∧ j < span o.n
    s.power.stopped = false → k.ownPending = false → k.tq = op :: rest → op.done = false → op.kind = .mstore o → o.oty.toNat ≤ 7 →
    TensHeld k o.otd.toNat o.oty.toNat T → o.moff.toNat + span o.m ≤ T.d1 → o.noff.toNat + span o.n ≤ T.d0 →
    (∀ i j, inside i j → at' i j + w ≤ 0x280000 ∧ ∀ x, x < w → k.owner' ((at' i j + x) / 4096) = 3) →
    (∀ i j i' j', inside i j → inside i' j' → (i, j) ≠ (i', j') → at' i j + w ≤ at' i' j' ∨ at' i' j' + w ≤ at' i j) →
    ∃ t, exec (.tileStepExecute core) s = .next t ∧ HeadDone (t.core core.toNat) op rest ∧ OnlyCore core.toNat s t ∧
      (∀ i j x, inside i j → x < w → (t.core core.toNat).spByte (at' i j + x) = .ofNat 8 ((new i j).1 / 256 ^ x) ∧ sget false (t.core core.toNat).spPoison (at' i j + x) = false) ∧
      (∀ y, (∀ i j x, inside i j → x < w → y ≠ at' i j + x) → (t.core core.toNat).spByte y = k.spByte y) ∧
      (t.core core.toNat).t.aflags = k.t.aflags ||| (cellFlags (span o.m) (span o.n) new &&& 0x65) ∧ (t.core core.toNat).acc = k.acc ∧ (t.core core.toNat).win = k.win

/-- A tcut executes on a well-formed block (R199). It starts at its cursors, where CV is set and TD and LEVEL are its own, and otherwise at the first column at or after START; of the columns below the limit it takes the `n` next ones that stay within the budget, or, where the first with entries alone exceeds it, the
    budget's part of that one, with SPLIT. The window's fields are those of R203, its serial is the cut counter's value, which advances, and nothing else changes (R201, R203, R204). -/
def CutStep : Prop :=
  ∀ (s : State) (core : CoreId) (op : TileOp) (rest : List TileOp) (td : BitVec 8) (w : BitVec 4) (budget width : Nat) (X : SparseA) (lo hi n : Nat),
    let k := s.core core.toNat
    let v := sget 0 k.win w.toNat
    let b := winField v 128 16
    let start := winField v 32 32
    let kept := winField v 13 1 = 1 ∧ winField v 0 8 = td.toNat ∧ winField v 8 2 = 1
    let q0 := if kept then winField v 160 32 else lo + ((List.range (hi - lo)).filter fun c => X.col k (lo + c) < start).length
    let p0 := if kept then winField v 224 32 else X.first k q0
    let lim := min X.kdim (start + width)
    let within (q : Nat) : Prop := q < hi ∧ X.col k q < lim
    let left (q : Nat) : Nat := X.first k q + X.count k q - max p0 (X.first k q)
    let sum (c : Nat) : Nat := ((List.range c).map fun i => left (q0 + i)).foldl (· + ·) 0
    let q := q0 + n
    s.power.stopped = false → k.ownPending = false → k.tq = op :: rest → op.done = false → op.kind = .tcut td w budget 1 width → 0 < budget → budget ≤ 4096 →
    SparseHeld k td.toNat X → b < X.blocks → BlockAt X k b lo hi → lo ≤ q0 → q0 ≤ hi → (∀ c, lo ≤ c → c < hi → ColumnOk X k c ∧ (c + 1 < hi → X.col k c < X.col k (c + 1))) →
    (X.fmt ≠ 2 → tensorOk k (X.pos2 + 4 * hi) 4) → (q0 < hi → p0 ≤ X.first k q0 + X.count k q0) →
    (∀ c, c < n → within (q0 + c)) → sum n ≤ budget → (within q → budget < sum n + left q) →
    ∃ t, exec (.tileStepExecute core) s = .next t ∧ HeadDone (t.core core.toNat) op rest ∧ OnlyCore core.toNat s t ∧
      (t.core core.toNat).cut = (if k.cut = 0xFFFF then 1 else k.cut + 1) ∧ (∀ x, x ≠ w.toNat → sget 0 (t.core core.toNat).win x = sget 0 k.win x) ∧
      (t.core core.toNat).sp = k.sp ∧ (t.core core.toNat).acc = k.acc ∧
      let fields (empty split endC count qend : Nat) : Prop :=
        winFields (sget 0 (t.core core.toNat).win w.toNat) = [td.toNat, 1, empty, split, 0, 1, 0, k.cut.toNat, start, endC, count, 0, b, 0, q0, qend, p0]
      (within q → sum n = 0 → fields 0 1 (X.col k q + 1) budget (q + 1)) ∧
      (within q → sum n ≠ 0 → fields 0 0 (X.col k q) (sum n) q) ∧
      (¬ within q → fields (if sum n = 0 then 1 else 0) 0 lim (sum n) q)

/-- A tcocut executes: the partner takes the leader's range, count, serial and EMPTY; a sparse partner, or one that is neither in scratchpad nor in global memory, raises WINDOW 0x04 for its window, and a leader that is not cut WINDOW 0x02 for the leader (R196, R201, R205). -/
def PartnerStep : Prop :=
  ∀ (s : State) (core : CoreId) (op : TileOp) (rest : List TileOp) (td : BitVec 8) (w l : BitVec 4) (dim : BitVec 2) (d : BitVec 1024),
    let k := s.core core.toNat
    let v := sget 0 k.win l.toNat
    let start := winField v 32 32
    let endC := winField v 64 32
    let fits := tdSparse d.toNat = false ∧ (tdLoc d.toNat = 1 ∨ tdLoc d.toNat = 2)
    s.power.stopped = false → k.ownPending = false → k.tq = op :: rest → op.done = false → op.kind = .tcocut td w l dim → sfind k.tds td.toNat = some d →
    (¬ fits → exec (.tileStepExecute core) s = .next (s.queueFault core.toNat op (.window 4 w.toNat))) ∧
    (fits → tdInvalid d.toNat = false → winField v 16 16 = 0 → exec (.tileStepExecute core) s = .next (s.queueFault core.toNat op (.window 2 l.toNat))) ∧
    (fits → tdInvalid d.toNat = false → winField v 16 16 ≠ 0 → start ≤ endC →
      ∃ t, exec (.tileStepExecute core) s = .next t ∧ HeadDone (t.core core.toNat) op rest ∧ OnlyCore core.toNat s t ∧
        winFields (sget 0 (t.core core.toNat).win w.toNat) =
          [td.toNat, dim.toNat, winField v 10 1, 0, 0, 0, 0, winField v 16 16, start, endC, (endC - start) % 2 ^ 13, 0, 0, 0, start, endC, 0] ∧
        (∀ x, x ≠ w.toNat → sget 0 (t.core core.toNat).win x = sget 0 k.win x) ∧ (t.core core.toNat).sp = k.sp ∧ (t.core core.toNat).acc = k.acc)

/-- A merge of two rising streams of (coordinate, position), at most `lim` records (coordinate, position in the first, position in the second, all ones for a stream without it): the records, what is left of the streams, and whether the limit stopped it (R208). -/
def mergeOf (both : Bool) : Nat → Nat → List (Nat × Nat) → List (Nat × Nat) → List (Nat × Nat × Nat) × List (Nat × Nat) × List (Nat × Nat) × Bool
  | 0, _, a, b => ([], a, b, false)
  | n + 1, lim, a, b =>
    if (both ∧ (a = [] ∨ b = [])) ∨ (a = [] ∧ b = []) then ([], a, b, false)
    else if lim = 0 then ([], a, b, true)
    else
      let none' := 2 ^ 32 - 1
      let put (r : Nat × Nat × Nat) (x : List (Nat × Nat × Nat) × List (Nat × Nat) × List (Nat × Nat) × Bool) := (r :: x.1, x.2)
      match a, b with
      | [], [] => ([], a, b, false)
      | x :: ra, [] => put (x.1, x.2, none') (mergeOf both n (lim - 1) ra b)
      | [], y :: rb => put (y.1, none', y.2) (mergeOf both n (lim - 1) a rb)
      | x :: ra, y :: rb =>
        if x.1 = y.1 then put (x.1, x.2, y.2) (mergeOf both n (lim - 1) ra rb)
        else if x.1 < y.1 then (if both then mergeOf both n lim ra b else put (x.1, x.2, none') (mergeOf both n (lim - 1) ra b))
        else (if both then mergeOf both n lim a rb else put (y.1, none', y.2) (mergeOf both n (lim - 1) a rb))

/-- The coordinate at a position of a window's level: of a dense tensor and of levels 0 and 3 the position, of level 1 a word, of level 2 a byte or a set bit of the mask of the column that holds the position (R199, R208). -/
inductive CoordAt (k : Core) (d level p : Nat) : Nat → Prop
  | dense : tdSparse d = false ∨ level = 0 ∨ level = 3 → CoordAt k d level p p
  | word (X : SparseA) : level = 1 → tdSparse d = true → X.crd1 = d / 2 ^ 512 % 2 ^ 32 → tensorOk k (X.crd1 + 4 * p) 4 → CoordAt k d level p (X.col k p)
  | byte (c : Nat) : level = 2 → tdSparse d = true → d / 2 ^ 28 % 4 ≠ 3 → c = d / 2 ^ 608 % 2 ^ 32 → tensorOk k (c + p) 1 →
      CoordAt k d level p (spNum k (c + p) 1)
  | bit (td : Nat) (X : SparseA) (q n : Nat) : level = 2 → SparseHeld k td X → sfind k.tds td = some (.ofNat 1024 d) → X.fmt = 3 → tensorOk k (X.pos1 + 4 * X.blocks) 4 →
      n = spNum k (X.pos1 + 4 * X.blocks) 4 → q < n → (∀ r, r ≤ q → tensorOk k (X.pos2 + 4 * r) 8) → (∀ r, r < q → ¬ (X.first k r ≤ p ∧ p < spNum k (X.pos2 + 4 * r + 4) 4)) →
      X.first k q ≤ p → p < spNum k (X.pos2 + 4 * q + 4) 4 → tensorOk k (X.crd2 + 16 * q) 16 →
      ((List.range 128).filter fun b => (spNum k (X.crd2 + 16 * q) 16).testBit b).length = X.count k q → CoordAt k d level p (X.row k q (p - X.first k q))

/-- A window's coordinates from QPOS to QEND - 1, strictly rising, each with its position (R208). -/
structure Stream (k : Core) (w : BitVec 4) (l : List (Nat × Nat)) : Prop where
  held : ∃ d, sfind k.tds (winField (sget 0 k.win w.toNat) 0 8) = some d ∧ tdInvalid d.toNat = false ∧ tdLoc d.toNat = 1 ∧ (tdSparse d.toNat = false ∨ tdLevels d.toNat = true) ∧
    ∀ e ∈ l, CoordAt k d.toNat (winField (sget 0 k.win w.toNat) 8 2) e.2 e.1
  places : l.map (·.2) = (List.range (winField (sget 0 k.win w.toNat) 192 32 - winField (sget 0 k.win w.toNat) 160 32)).map (winField (sget 0 k.win w.toNat) 160 32 + ·)
  rising : l.Pairwise fun e f => e.1 < f.1

/-- A tmerge of two rising streams executes: its records stand at O td's BASE, 16 bytes each, and no other byte of scratchpad changes; WD takes the count, the range and O td, with SPLIT where the limit of min(4096, DIM0) records stopped it, and WA and WB then go on behind what was consumed (R201, R208; that a record holds the position
    in the stream's array, log 78). -/
def MergeStep : Prop :=
  ∀ (s : State) (core : CoreId) (op : TileOp) (rest : List TileOp) (wd wa wb : BitVec 4) (mode : Bool) (otd : BitVec 8) (A B : List (Nat × Nat)) (d : BitVec 1024),
    let k := s.core core.toNat
    let base := d.toNat / 2 ^ 64 % 2 ^ 64
    let r := mergeOf (!mode) (A.length + B.length + 1) (min 4096 (d.toNat / 2 ^ 128 % 2 ^ 32)) A B
    let recs := r.1
    let full := r.2.2.2
    let after (x : Nat) : List Nat :=
      let f := winFields (sget 0 k.win x)
      let f := if full ∧ x = wa.toNat then f.set 14 (f.getD 14 0 + (A.length - r.2.1.length)) else f
      if full ∧ x = wb.toNat then f.set 14 (winField (sget 0 k.win x) 160 32 + (B.length - r.2.2.1.length)) else f
    s.power.stopped = false → k.ownPending = false → k.tq = op :: rest → op.done = false → op.kind = .tmerge wd wa wb mode otd → Stream k wa A → Stream k wb B →
    sfind k.tds otd.toNat = some d → tdInvalid d.toNat = false → tdLoc d.toNat = 1 →
    (recs ≠ [] → base + 16 * recs.length ≤ 0x280000 ∧ ∀ x, x < 16 * recs.length → k.owner' ((base + x) / 4096) = 3) →
    ∃ t, exec (.tileStepExecute core) s = .next t ∧ HeadDone (t.core core.toNat) op rest ∧ OnlyCore core.toNat s t ∧
      (∀ j e, recs[j]? = some e → spNum (t.core core.toNat) (base + 16 * j) 16 = e.1 % 2 ^ 32 + 2 ^ 32 * (e.2.1 % 2 ^ 32) + 2 ^ 64 * (e.2.2 % 2 ^ 32)) ∧
      (∀ y, y < base ∨ base + 16 * recs.length ≤ y → (t.core core.toNat).spByte y = k.spByte y) ∧
      (∀ x, x ≠ wd.toNat → winFields (sget 0 (t.core core.toNat).win x) = after x) ∧
      (match after wd.toNat with
       | [_, lv, _, _, _, cv, _, serial, _, _, _, _, rblk, _, qpos, qend, ppos] =>
         winFields (sget 0 (t.core core.toNat).win wd.toNat) = [otd.toNat, lv, if recs = [] then 1 else 0, if full then 1 else 0, 0, cv, 0, serial,
           (match recs.head? with | some e => e.1 | none => 0), (match recs.getLast? with | some e => (e.1 + 1) % 2 ^ 32 | none => 0), recs.length, 0, rblk, 0, qpos, qend, ppos]
       | _ => False) ∧ (t.core core.toNat).acc = k.acc

/-- A dense i8 matrix step of wrapping sums executes: cell (i, j) of its accumulator becomes, or grows by, the sum over k of A's element in row moff + i and the bank's element in column noff + j, every other cell stays, and no flag is set
    (R66, R70, R198, R210). -/
def IntegerProduct : Prop :=
  ∀ (s : State) (core : CoreId) (op : TileOp) (rest : List TileOp) (o : MOps) (base s0 s1 d0 d1 : Nat),
    let k := s.core core.toNat
    let m := if o.wb then k.meta1 else k.meta0
    let a (i kk : Nat) : Int := (k.spByte (base + (o.moff.toNat + i) * s1 + (o.koff.toNat + kk) * s0)).toInt
    let b (kk j : Nat) : Int := (sget 0 k.bank ((if o.wb then 131072 else 0) + 128 * (o.koff.toNat + kk - m.kbase) + (o.noff.toNat + j))).toInt
    s.power.stopped = false → k.ownPending = false → k.tq = op :: rest → op.done = false → op.kind = .mma o → o.qj = false → o.aty = 0 → o.bty = 0 → o.sat = false → o.wb = k.active → m.typ = 0 → m.poisoned = false →
    Dense k o.atd.toNat 0 base s0 s1 d0 d1 → o.moff.toNat + span o.m ≤ d1 → o.koff.toNat + span o.k ≤ d0 →
    m.kbase ≤ o.koff.toNat → o.koff.toNat + span o.k ≤ m.kbase + m.rows → o.noff.toNat + span o.n ≤ 128 →
    (∀ i kk, i < span o.m → kk < span o.k → tensorOk k (base + (o.moff.toNat + i) * s1 + (o.koff.toNat + kk) * s0) 1) →
    ∃ t, exec (.tileStepExecute core) s = .next t ∧ HeadDone (t.core core.toNat) op rest ∧ OnlyCore core.toNat s t ∧
      (∀ i j, i < span o.m → j < span o.n → sget 0 (t.core core.toNat).acc (16384 * o.acc.toNat + 128 * i + j) =
        .ofInt 32 ((if o.am = 0 then 0 else (sget 0 k.acc (16384 * o.acc.toNat + 128 * i + j)).toInt) +
          ((List.range (span o.k)).map fun kk => a i kk * b kk j).foldl (· + ·) 0)) ∧
      (∀ n, (∀ i j, i < span o.m → j < span o.n → n ≠ 16384 * o.acc.toNat + 128 * i + j) → sget 0 (t.core core.toNat).acc n = sget 0 k.acc n) ∧
      (t.core core.toNat).sp = k.sp ∧ (t.core core.toNat).t.aflags = k.t.aflags

end Sys2Proof.Spec

/-- What the matrix engine, the cutter and the merge unit compute: dense steps of every type pair, the i8 one in plain integers too, sparse steps, mstore, tcut, tcocut and tmerge (R61, R62, R66 to R71, R198, R199, R203 to R205, R208 to R212; log 56, log 78). -/
def Obligations.MatrixProduct : Prop := IntegerProduct ∧ DenseStep ∧ SparseStep ∧ StoreStep ∧ CutStep ∧ PartnerStep ∧ MergeStep

/-- The tile-step queue, the nests and the fills move: an executed head completes, with its pushes and CSEL; a nest places its next step with the offsets of its index vector, and after its last step the entries that wait behind it; an mwld at the head is handed to the weight-stream engine and leaves the queue; the oldest fill starts with its handle, and completes with its bank, its metadata and SEQ_WS; four agreeing heads of a quad that are the tasks' joint steps of one number execute as one
    step, and four that disagree all raise WINDOW 0x09 (R194, R213, R215, R217, R219, R220, R259). -/
def Obligations.TileUnitsMove : Prop :=
  (∀ (s : State) (core : CoreId) (op : TileOp) (rest : List TileOp), let k := s.core core.toNat
    k.tq = op :: rest → op.done = true → op.push = 0 → s.power.stopped = false →
    (op.kind.csel.toNat / 64 = 0 ∨ op.kind.csel.toNat / 64 = 1 ∨ (op.kind.csel.toNat / 64 = 2 ∧ ∀ m, k.roomFor .T m = true)) →
    ∃ t, exec (.tileStepComplete core) s = .next t ∧ (t.core core.toNat).tq = rest ∧
      (op.kind.csel.toNat / 64 = 0 → OnlyCore core.toNat s t ∧ (∀ d, (t.core core.toNat).fifoTo .T d = k.fifoTo .T d)) ∧
      (op.kind.csel.toNat / 64 = 1 → ∃ a, t.arrivals = s.arrivals ++ [a] ∧ a.key = 16 * (core.toNat / 4) + op.kind.csel.toNat % 16 ∧ a.ctx = .ofNat 6 k.ctxNum ∧ a.tag = placementTag s a.key ∧ a.tainted = false) ∧
      (op.kind.csel.toNat / 64 = 2 → OnlyCore core.toNat s t ∧
        let d : Dir := if op.kind.csel.getLsbD 0 then .right else .left
        (t.core core.toNat).fifoTo .T d = k.fifoTo .T d ++ [some (.ofNat 64 (op.step % 2 ^ 16))])) ∧
  (∀ (s : State) (core : CoreId) (n : Nest) (r : List Nest), let k := s.core core.toNat
    k.nests = n :: r → k.tsCount < 32 → s.power.stopped = false → n.next < (n.levels.map (·.count.toNat)).foldl (· * ·) 1 →
    let last := decide (n.next + 1 = (n.levels.map (·.count.toNat)).foldl (· * ·) 1)
    ∃ t, exec (.nestStepPlace core) s = .next t ∧ OnlyCore core.toNat s t ∧
      (t.core core.toNat).nests = (if last then (match r with | m :: l => { m with entered := true } :: l | [] => []) else { n with next := n.next + 1 } :: r) ∧
      ∃ o, (t.core core.toNat).tq = queued k (.mma o :: if last then List.replicate n.after .mnset ++ (match r with | m :: _ => if m.entered then [] else [.mgo] | [] => []) else []) ∧
        (t.core core.toNat).tsteps = k.tsteps + ((t.core core.toNat).tq.length - k.tq.length) ∧ (t.core core.toNat).jsteps = k.jsteps + (if o.qj then 1 else 0) ∧
        (let x := nestIndex n.levels n.next
         let sum (f : NestLevel → Nat) : Nat := ((n.levels.zip x).map fun e => f e.1 * e.2).foldl (· + ·) 0
         o.koff = n.tmpl.koff + .ofNat 16 (sum (·.dk.toNat)) ∧ o.moff = n.tmpl.moff + .ofNat 16 (sum (·.dm.toNat)) ∧ o.noff = n.tmpl.noff + .ofNat 16 (sum (·.dn.toNat)) ∧
         o.acc = n.tmpl.acc + .ofNat 3 (sum (·.dacc.toNat)) ∧ o.am = (if x.getD n.klevel 0 = 0 then n.tmpl.am else 1)) ∧
        { o with koff := n.tmpl.koff, moff := n.tmpl.moff, noff := n.tmpl.noff, acc := n.tmpl.acc, am := n.tmpl.am } = n.tmpl) ∧
  (∀ (s : State) (core : CoreId) (op : TileOp) (rest : List TileOp) (td : BitVec 8) (wb : Bool) (koff rows : Nat) (noff : BitVec 16) (d : BitVec 1024), let k := s.core core.toNat
    let dim0 := d.toNat / 2 ^ 128 % 2 ^ 32
    let dim1 := d.toNat / 2 ^ 160 % 2 ^ 32
    let nr := min rows (dim1 - koff)
    let nc := min 128 (dim0 - noff.toNat)
    let width := typeWidth (tdType d.toNat) / 8
    k.tq = op :: rest → op.done = false → s.power.stopped = false → k.ownPending = false →
    ((∃ n o, op.kind = .mwldRange td n wb o noff ∧ rows = n.toNat ∧ koff = o.toNat) ∨
      (∃ w, op.kind = .mwldWindow td w wb noff ∧ let v := sget 0 k.win w.toNat
        winField v 0 8 = td.toNat ∧ koff = winField v 32 32 ∧ winField v 32 32 ≤ winField v 64 32 ∧ rows = winField v 64 32 - winField v 32 32)) →
    sfind k.tds td.toNat = some d → tdInvalid d.toNat = false → tdSparse d.toNat = false → tdLoc d.toNat = 2 → tdType d.toNat ∈ [0, 4, 5, 6] → rows ≤ 1024 / width →
    (nr = 0 ∨ nc = 0 ∨ d.toNat / 2 ^ 64 % 2 ^ 64 + (koff + nr - 1) * (d.toNat / 2 ^ 288 % 2 ^ 32) + (noff.toNat + nc - 1) * (d.toNat / 2 ^ 256 % 2 ^ 32) + width ≤ 2 ^ 21) →
    ∃ t, exec (.tileStepExecute core) s = .next t ∧ OnlyCore core.toNat s t ∧ (t.core core.toNat).tq = rest ∧ (t.core core.toNat).wsNext = k.wsNext + 1 ∧
      (t.core core.toNat).ws = k.ws ++ [{ seq := k.wsNext, ctx := .ofNat 6 k.ctxNum, h := 0, desc := d, wb := wb, koff := koff, rows := rows, noff := noff.toNat, started := false, aborted := false }]) ∧
  (∀ (s : State) (core : CoreId) (f : Fill) (r : List Fill), let k := s.core core.toNat
    let h := k.handle (tdH f.desc.toNat)
    k.ws = f :: r → f.started = false → f.aborted = false → s.engineMayStart core.toNat f.ctx.toNat = true → h.getLsbD 63 = true → h.getLsbD 62 = true →
    ∃ t, exec (.weightFillStart core) s = .next t ∧ (t.core core.toNat).ws = { f with started := true, h := h } :: r ∧ OnlyCore core.toNat s t) ∧
  (∀ (s : State) (core : CoreId) (f : Fill) (r : List Fill), let k := s.core core.toNat
    let read := s.fillRows f
    k.ws = f :: r → f.started = true → f.aborted = false → (∀ b ∈ read.2, b.2 = false) →
    ∃ t, exec (.weightFillComplete core) s = .next t ∧ (t.core core.toNat).ws = r ∧
      (if f.wb then (t.core core.toNat).meta1 else (t.core core.toNat).meta0) =
        { kbase := f.koff, nbase := f.noff, rows := f.rows, typ := .ofNat 4 (f.desc.toNat % 16), poisoned := false } ∧
      (∀ j b, read.2[j]? = some b → sget 0 (t.core core.toNat).bank ((if f.wb then 131072 else 0) + j) = b.1) ∧
      (k.seqCtx = some f.ctx.toNat → (t.core core.toNat).seqWs = .ofNat 64 f.seq) ∧ t.mem = read.1.mem) ∧
  (∀ (s : State) (quad : BitVec 6) (heads : List (TileOp × MOps × Bool)),
    ((List.range 4).filterMap fun q => (s.core (4 * quad.toNat + q)).jointHead) = heads → heads.length = 4 → s.oneQuartet quad.toNat = true → (∀ h ∈ heads, ∀ g ∈ heads, h.1.joint = g.1.joint) → s.power.stopped = false → (∀ h ∈ heads, h.2.2 = false) →
    ((∃ h ∈ heads, ∃ g ∈ heads, jointFields h.2.1 false ≠ jointFields g.2.1 false) →
      exec (.jointStepExecute quad) s = .next (s.jointFaults quad.toNat heads ((List.range 4).map fun q => (q, QErr.window 9 0)))) ∧
    ((∀ h ∈ heads, ∀ g ∈ heads, jointFields h.2.1 false = jointFields g.2.1 false) →
      let rows := Machine.gather (fun q => match heads[q]? with | some (_, o, _) => jointRows (4 * quad.toNat + q) q o false | none => pure ([], [])) s
      let kks := (rows.2.1.flatMap (·.2)).eraseDups
      let cols := Machine.gather (fun q => match heads[q]? with | some (_, o, _) => jointCols (4 * quad.toNat + q) q o kks | none => pure []) rows.1
      rows.2.2 = [] → cols.2.2 = [] →
      ∃ t, exec (.jointStepExecute quad) s = .next t ∧ t = jointWrite quad.toNat heads (rows.2.1.flatMap (·.1)) cols.2.1.flatten cols.1 ∧
        ∀ q, q < 4 → ∃ op r, (t.core (4 * quad.toNat + q)).tq = op :: r ∧ op.done = true))

namespace Sys2Proof.Spec

open Sys2Proof Sys2Proof.Machine

/-- The operation that a class 5 word puts into the queue of its pair, the arrays it acts on, CSEL and the pushes it holds back (R225, R229, R233 to R237). -/
inductive XbarEntry (u : State) : Instr → Nat → List Nat → BitVec 8 → BitVec 2 → XKind → Prop
  | xprog (h : Hdr) (p : BitVec 3) (a b : Reg) (csel : BitVec 8) : XbarEntry u (.xprog h p a b csel) p.toNat [2 * p.toNat, 2 * p.toNat + 1] csel 0 (.xprog a b)
  | xverify (h : Hdr) (p : BitVec 3) (a : Reg) (tol : BitVec 4) (csel : BitVec 8) :
      XbarEntry u (.xverify h p a tol csel) p.toNat [2 * p.toNat, 2 * p.toNat + 1] csel 0 (.xverify a tol)
  | xcal (h : Hdr) (xb : BitVec 4) (csel : BitVec 8) : XbarEntry u (.xcal h xb csel) (xb.toNat / 2) [xb.toNat] csel 0 (.xcal xb)
  | xmvm (h : Hdr) (p : BitVec 3) (d : BitVec 10) (a b : Reg) (planes : BitVec 3) (sgn : Bool) (rm : BitVec 2) (csel : BitVec 8) :
      XbarEntry u (.xmvm h p d a b planes sgn rm csel) p.toNat [2 * p.toNat, 2 * p.toNat + 1] csel 0
        (.xmvm d.toNat (u.reg a).toNat (.ofNat 32 (u.reg b).toNat) (planes.toNat + 1) sgn rm)
  | xstat (h : Hdr) (xb : BitVec 4) (d : Reg) (field : BitVec 4) (col : BitVec 9) :
      XbarEntry u (.xstat h xb d field col) (xb.toNat / 2) [xb.toNat] 0 (h.k.setWidth 2) (.xstat xb d field col)

end Sys2Proof.Spec

/-- A class 5 word on arrays of its context puts one operation at the end of its pair's queue; on an array that another context holds, or none, it raises PRIV; xerase takes its array for the context. Nothing else changes
    (R225, R227, R233, R236, R237, R305). -/
def Obligations.XbarWordEnters : Prop :=
  (∀ (s : State) (i : Instr) (p : Nat) (arrays : List Nat) (csel : BitVec 8) (push : BitVec 2) (kind : XKind), Ready s i → XbarEntry (s.begun i) i p arrays csel push kind →
    let u := s.begun i
    let own (n : Nat) : Prop := (sget XArr.reset u.mine.xb n).owner = some (.ofNat 6 u.mine.ctxNum)
    ((∀ n ∈ arrays, own n) → ∃ t, exec i s = .next t ∧
      sget [] t.mine.xq p = sget [] u.mine.xq p ++ [{ num := u.mine.xcount, order := u.mine.xorder, csel := csel, push := push, kind := kind, started := false }] ∧
      (∀ q, q ≠ p → sget [] t.mine.xq q = sget [] u.mine.xq q) ∧ t.mine.xcount = u.mine.xcount + 1 ∧ t.mine.xorder = u.mine.xorder + 1 ∧
      t.mine.xb = u.mine.xb ∧ t.mine.tq = u.mine.tq ∧ Handed i u t) ∧
    ((∃ n ∈ arrays, ¬ own n) → exec i s = .next (u.trapHere u.curCl .priv u.myCl.pc 0 (wordImage u.curCl i)))) ∧
  (∀ (s : State) (h : Hdr) (xb : BitVec 4) (csel : BitVec 8), Ready s (.xerase h xb csel) →
    let i := Instr.xerase h xb csel
    let u := s.begun i
    ∃ t, exec i s = .next t ∧
      sget [] t.mine.xq (xb.toNat / 2) = sget [] u.mine.xq (xb.toNat / 2) ++ [{ num := u.mine.xcount, order := u.mine.xorder, csel := csel, push := 0, kind := .xerase xb, started := false }] ∧
      (sget XArr.reset t.mine.xb xb.toNat).owner = some (.ofNat 6 u.mine.ctxNum) ∧ (∀ n, n ≠ xb.toNat → sget XArr.reset t.mine.xb n = sget XArr.reset u.mine.xb n) ∧
      { sget XArr.reset t.mine.xb xb.toNat with owner := (sget XArr.reset u.mine.xb xb.toNat).owner } = sget XArr.reset u.mine.xb xb.toNat ∧ Handed i u t)

namespace Sys2Proof.Spec

open Sys2Proof Sys2Proof.Machine

/-- Array `n` of a core. -/
def arrayOf (c : Core) (n : Nat) : XArr := sget XArr.reset c.xb n

/-- The value of a crossbar's field (R237); the status word packs STATE, LASTOP and ERRC. -/
def xstatValue (a : XArr) (field : BitVec 4) (col : BitVec 9) : Word :=
  let state : Nat := match a.st with | .unknown => 0 | .erased => 1 | .programmed => 2 | .ready => 3 | .drifted => 4 | .faulty => 5
  match field.toNat with
  | 0 => .ofNat 64 (state + 2 ^ 8 * a.lastop.toNat + 2 ^ 32 * a.errc.toNat)
  | 1 => .ofNat 64 a.epsRel.toNat
  | 2 => .ofNat 64 a.ecal.toNat
  | 3 => .ofNat 64 a.eAbs.toNat
  | 4 => .ofNat 64 a.l1max.toNat
  | 5 => .ofNat 64 a.sw.toNat
  | 6 => .ofNat 64 a.referr.toNat
  | 7 => a.tcal
  | 8 => a.tdrift
  | 9 => .ofNat 64 (sget 0 a.gain col.toNat).toNat
  | 10 => .ofNat 64 (sget 0 a.offset col.toNat).toNat
  | _ => .ofNat 64 (sget 0 a.ref col.toNat).toNat

/-- Weight W[j, i] of a pair: 16 times the high cell's level and the low cell's (R221). -/
def pairWeight (hi lo : XArr) (j i : Nat) : Int := 16 * (sget 0 hi.cells (512 * j + i)).toInt + (sget 0 lo.cells (512 * j + i)).toNat

/-- z[j] of R229. -/
def productSum (hi lo : XArr) (xs : List Int) (j : Nat) : Int := ((List.range 512).map fun i => pairWeight hi lo j i * xs.getD i 0).foldl (· + ·) 0

/-- The part of a product's bound that does not depend on its results: up(up(up(ε_rel w1) xmax) + eabs) of R230. -/
def productError (hi lo : XArr) (sx : Nat) (xs : List Int) : Nat :=
  let w1 := upF32 (FVal.mul (f32Val hi.sw.toNat) (intFVal hi.l1max.toNat)).1
  let xmax := upF32 (FVal.mul (f32Val (sx % 2 ^ 31)) (intFVal ((xs.map Int.natAbs).foldl max 0))).1
  let e := upF32 (FVal.add 0 (FVal.mul (intFVal 16) (f32Val hi.eAbs.toNat)).1 (f32Val lo.eAbs.toNat)).1
  let eabs := upBound (FVal.mul (FVal.mul (f32Val (sx % 2 ^ 31)) (f32Val hi.sw.toNat)).1 (f32Val e)).1
  upAdd (upMul (upMul (max hi.epsRel.toNat lo.epsRel.toNat) w1) xmax) eabs

/-- β of R230 from the results. -/
def productBound (err sx : Nat) (ys : List Nat) : Nat :=
  if 0x7F800000 ≤ sx % 2 ^ 31 ∨ ∃ y ∈ ys, 0x7F800000 ≤ y % 2 ^ 31 then 0x7F800000
  else upF32 (FVal.add 0 (f32Val err) (ulpVal ((ys.map fun y => y % 2 ^ 31).foldl max 0))).1

/-- y is SX SW (z + n/d) rounded, for finite factors ms 2^es and mw 2^ew, and infinite where that overflows; SX SW n/d is at most `err` where that is
    finite (R229, R230). -/
def Estimates (neg : Bool) (m : Nat) (e : Int) (rm err : Nat) (z : Int) (y : Nat) : Prop :=
  ∃ (n : Int) (d : Nat), 0 < d ∧
    (∀ sg ml el, f32Val err = .fin sg ml el → m * 2 ^ e.toNat * n.natAbs * 2 ^ (-el).toNat ≤ ml * 2 ^ el.toNat * 2 ^ (-e).toNat * d) ∧
    let v := z * d + n
    let g := neg != decide (v < 0)
    let r := fmtF32.roundRat rm g (m * 2 ^ e.toNat * v.natAbs) (2 ^ (-e).toNat * d)
    y = if r.2 &&& flOF ≠ 0 then 0x7F800000 + (if g then 2 ^ 31 else 0) else r.1

/-- How an array moves with a product whose row raises nothing: it takes its measured REFERR, and drifts above half its margin (R224, R229). -/
def Judged (a b : XArr) (us : Nat) : Prop :=
  ∃ r : BitVec 32, r.getLsbD 31 = false ∧ a.st = .ready ∧ (f32Val r.toNat).isNan = false ∧ (f32Val a.ecal.toNat).lt (f32Val r.toNat) = false ∧
    let half := (FVal.mul (f32Val a.ecal.toNat) (.fin false 1 (-1))).1
    b = if half.lt (f32Val r.toNat) = true then { a with st := .drifted, tdrift := .ofNat 64 us, referr := r } else { a with referr := r }

/-- What CSEL and the pushes of a class 5 operation do at its completion (R45, R213, R228): one arrival at a barrier of the core's quad; a token with
    the operation's number toward V or S; the pushes that its word asked for. -/
def Signals (s : State) (core : Nat) (op : XOp) (t : State) : Prop :=
  let k := s.core core
  let m := t.core core
  (op.csel.toNat / 64 = 1 → ∃ a, t.arrivals = s.arrivals ++ [a] ∧ a.key = 16 * (core / 4) + op.csel.toNat % 16 ∧ a.ctx = .ofNat 6 k.ctxNum ∧ a.tag = placementTag s a.key ∧ a.tainted = false) ∧
  (op.csel.toNat / 64 ≠ 1 → t.arrivals = s.arrivals) ∧
  ∀ d : Dir,
    (op.csel.toNat / 64 = 2 → d = (if op.csel.getLsbD 0 then .right else .left) → m.fifoTo .T d = k.fifoTo .T d ++ [some (.ofNat 64 (op.num % 2 ^ 16))]) ∧
    ((op.csel.toNat / 64 ≠ 2 ∨ d ≠ (if op.csel.getLsbD 0 then .right else .left)) →
      let pushed := match d with | .left => op.push.getLsbD 1 | .right => op.push.getLsbD 0
      m.fifoTo .T d = k.fifoTo .T d ++ (if pushed then [outgoing k.t d] else []) ∧ outgoing m.t d = if pushed then none else outgoing k.t d)

end Sys2Proof.Spec

/-- The crossbars' operations start and complete: a head that is not started starts, and so does a product behind one product at work; xcal on an array that cannot be calibrated raises XDRIFT 0x07 instead, and xprog 0x06 for a bad scale and 0x05 for an array that is not ERASED; an operation that completes leaves its queue, and CSEL and its word's pushes act; xstat returns the field it names; xerase leaves its array ERASED with every cell at level 0; xverify counts the weights it misreads; xprog leaves the pair PROGRAMMED with its scale and L1MAX when every cell is within tolerance and FAULTY when one
    is not; xcal leaves its array READY with an ECAL of at most 2^-7, twice that for EPS_REL and its time, or FAULTY; and xmvm writes its eight registers, each lane an estimate of its sum within the error of R230, scaled and rounded, and each register with the bound β, and judges its arrays, or raises XDRIFT (R221, R223, R224, R225, R226, R228, R229, R230, R233, R234, R235, R236, R237); which of these a part shows is free (logs 13, 14), and a bound that is no number is +∞ (log 56). -/
def Obligations.XbarOperations : Prop :=
  ∀ (s : State) (core : CoreId) (p : BitVec 3) (op : XOp) (rest : List XOp),
    let k := s.core core.toNat
    let hi := 2 * p.toNat
    let lo := 2 * p.toNat + 1
    let room (c : Core) : Prop := (op.csel.toNat / 64 = 2 → ∀ m, c.roomFor .T m = true) ∧ c.roomFor .T op.push = true
    sget [] k.xq p.toNat = op :: rest → s.power.stopped = false → k.ownPending = false →
    let completes (i : Instr) (f : Core → Prop) : Prop := ∃ t, exec i s = .next t ∧ sget [] (t.core core.toNat).xq p.toNat = rest ∧ Signals s core.toNat op t ∧
      (∀ n, n ≠ core.toNat → t.core n = s.core n) ∧ f (t.core core.toNat)
    let fault (e : XErr) : State := s.xbarFault core.toNat p.toNat op e
    (op.started = false →
      (∀ kind, ((∃ xb, op.kind = .xerase xb ∧ kind = op.kind) ∨ (∃ xb d f c, op.kind = .xstat xb d f c ∧ kind = op.kind) ∨
          (∃ xb, op.kind = .xcal xb ∧ kind = op.kind ∧ ((arrayOf k xb.toNat).st = .programmed ∨ (arrayOf k xb.toNat).st = .ready ∨ (arrayOf k xb.toNat).st = .drifted)) ∨
          (∃ d addr sx planes sgn rm bs, op.kind = .xmvm d addr sx planes sgn rm ∧ k.xbarRead addr 512 (64 * planes) = .ok bs ∧
            kind = .xmvmRun d sx rm ((List.range 512).map (planeVal bs planes sgn))) ∨
          (∃ a tol bs, op.kind = .xverify a tol ∧ k.xbarRead (k.t.reg a).toNat 4096 0x40000 = .ok bs ∧ kind = .xverifyRun tol bs) ∨
          (∃ a b bs, op.kind = .xprog a b ∧ k.xbarRead (k.t.reg a).toNat 4096 0x40000 = .ok bs ∧ 0 < (k.t.reg b).toNat % 2 ^ 32 ∧ (k.t.reg b).toNat % 2 ^ 32 < 0x7F800000 ∧
            (arrayOf k hi).st = .erased ∧ (arrayOf k lo).st = .erased ∧ kind = .xprogRun (.ofNat 32 (k.t.reg b).toNat) bs)) →
        ∃ t, exec (.xbarOpStart core p) s = .next t ∧ sget [] (t.core core.toNat).xq p.toNat = { op with kind := kind, started := true } :: rest ∧ OnlyCore core.toNat s t ∧
          (t.core core.toNat).xb = k.xb) ∧
      (∀ xb, op.kind = .xcal xb → ((arrayOf k xb.toNat).st = .unknown ∨ (arrayOf k xb.toNat).st = .erased ∨ (arrayOf k xb.toNat).st = .faulty) →
        exec (.xbarOpStart core p) s = .next (fault (.drift 7 xb.toNat))) ∧
      (∀ a b bs, op.kind = .xprog a b → k.xbarRead (k.t.reg a).toNat 4096 0x40000 = .ok bs → let sw := (k.t.reg b).toNat % 2 ^ 32
        ((sw = 0 ∨ 0x7F800000 ≤ sw) → exec (.xbarOpStart core p) s = .next (fault (.drift 6 hi))) ∧
        (0 < sw → sw < 0x7F800000 → (arrayOf k hi).st ≠ .erased → exec (.xbarOpStart core p) s = .next (fault (.drift 5 hi))) ∧
        (0 < sw → sw < 0x7F800000 → (arrayOf k hi).st = .erased → (arrayOf k lo).st ≠ .erased → exec (.xbarOpStart core p) s = .next (fault (.drift 5 lo))))) ∧
    (op.started = true → (op.csel.toNat / 64 = 2 → op.push = 0) → room k →
      (∀ e xs sx rm q addr sf planes sgn rn r bs l, op.kind = .xmvmRun e sx rm xs → rest = r :: l → r.started = false → r.kind = .xmvm q addr sf planes sgn rn →
        k.xbarRead addr 512 (64 * planes) = .ok bs →
        ∃ t, exec (.xbarOpStart core p) s = .next t ∧ OnlyCore core.toNat s t ∧ (t.core core.toNat).xb = k.xb ∧
          sget [] (t.core core.toNat).xq p.toNat = op :: { r with kind := .xmvmRun q sf rn ((List.range 512).map (planeVal bs planes sgn)), started := true } :: l) ∧
      (∀ xb d field col, op.kind = .xstat xb d field col → completes (.xstatComplete core p) fun c =>
        c.xb = k.xb ∧ (∀ r, r ≠ d → c.t.reg r = k.t.reg r) ∧ c.t.reg d = if d = 0 then 0 else xstatValue (arrayOf k xb.toNat) field col) ∧
      (∀ xb, op.kind = .xerase xb → completes (.xeraseComplete core p) fun c =>
        (arrayOf c xb.toNat).st = .erased ∧ (arrayOf c xb.toNat).cells = [] ∧ (arrayOf c xb.toNat).lastop = 3 ∧ (arrayOf c xb.toNat).errc = 0 ∧ (arrayOf c xb.toNat).owner = (arrayOf k xb.toNat).owner ∧
        ∀ n, n ≠ xb.toNat → arrayOf c n = arrayOf k n) ∧
      (∀ tol bs, op.kind = .xverifyRun tol bs → completes (.xverifyComplete core p) fun c =>
        let bad := ((List.range bs.length).filter fun n =>
          decide ((tol.toNat : Int) < ((16 * (sget 0 (arrayOf k hi).cells n).toInt + (sget 0 (arrayOf k lo).cells n).toNat - (bs.getD n 0).toInt).natAbs : Int))).length
        arrayOf c hi = { arrayOf k hi with errc := .ofNat 32 bad, lastop := 4 } ∧ arrayOf c lo = { arrayOf k lo with errc := .ofNat 32 bad, lastop := 4 } ∧
        ∀ n, n ≠ hi → n ≠ lo → arrayOf c n = arrayOf k n) ∧
      (∀ sw bs, op.kind = .xprogRun sw bs → completes (.xprogComplete core p) fun c =>
        (((arrayOf c hi).st = .programmed ∧ (arrayOf c lo).st = .programmed ∧ (arrayOf c hi).sw = sw ∧ (arrayOf c lo).sw = sw ∧ (arrayOf c hi).errc = 0 ∧ (arrayOf c lo).errc = 0 ∧
            (arrayOf c hi).l1max = .ofNat 32 (l1Max bs) ∧
            ∀ n, n < bs.length → sget 0 (arrayOf c hi).cells n = (bs.getD n 0).sshiftRight 4 ∧ sget 0 (arrayOf c lo).cells n = bs.getD n 0 &&& 0x0F) ∨
          ((arrayOf c hi).st = .faulty ∧ (arrayOf c lo).st = .faulty)) ∧ (arrayOf c hi).lastop = 1 ∧ (arrayOf c lo).lastop = 1 ∧ ∀ n, n ≠ hi → n ≠ lo → arrayOf c n = arrayOf k n) ∧
      (∀ xb, op.kind = .xcal xb → completes (.xcalComplete core p) fun c => let a := arrayOf c xb.toNat
        ((a.st = .ready ∧ a.ecal.toNat ≤ 0x3C000000 ∧ a.epsRel = .ofNat 32 (upF32 (FVal.mul (f32Val a.ecal.toNat) (intFVal 2)).1) ∧ a.tcal = .ofNat 64 s.us ∧ a.referr = 0) ∨ a.st = .faulty) ∧
        a.lastop = 2 ∧ a.cells = (arrayOf k xb.toNat).cells ∧ ∀ n, n ≠ xb.toNat → arrayOf c n = arrayOf k n) ∧
      (∀ d sx rm xs, op.kind = .xmvmRun d sx rm xs → d + 8 ≤ 512 → xs.length = 512 →
        ((arrayOf k hi).st = .ready → (arrayOf k lo).st = .ready →
          (completes (.xmvmComplete core p) fun c =>
            Judged (arrayOf k hi) (arrayOf c hi) s.us ∧ Judged (arrayOf k lo) (arrayOf c lo) s.us ∧ (∀ n, n ≠ hi → n ≠ lo → arrayOf c n = arrayOf k n) ∧
            (∀ n, n < d ∨ d + 8 ≤ n → c.vname n = k.vname n) ∧
            ∃ ys : List Nat, ys.length = 512 ∧
              let err := productError (arrayOf k hi) (arrayOf k lo) sx.toNat xs
              (∀ j, j < 512 → (c.vname (d + j / 64)).val.extractLsb' (32 * (j % 64)) 32 = .ofNat 32 (ys.getD j 0) ∧
                (c.vname (d + j / 64)).bounded = true ∧ (c.vname (d + j / 64)).bound = .ofNat 32 (productBound err sx.toNat ys)) ∧
              ∀ neg ms es mw ew, f32Val sx.toNat = .fin neg ms es → f32Val (arrayOf k hi).sw.toNat = .fin false mw ew →
                ∀ j, j < 512 → Estimates neg (ms * mw) (es + ew) rm.toNat err (productSum (arrayOf k hi) (arrayOf k lo) xs j) (ys.getD j 0)) ∨
          ∃ n, (n = hi ∨ n = lo) ∧ exec (.xmvmComplete core p) s = .next ((s.driftPair core.toNat p.toNat).xbarFault core.toNat p.toNat op (.drift 2 n))) ∧
        (∀ sub, ((arrayOf k hi).st = .drifted ∧ sub = 1) ∨ ((arrayOf k hi).st = .faulty ∧ sub = 4) ∨
            (((arrayOf k hi).st = .unknown ∨ (arrayOf k hi).st = .erased ∨ (arrayOf k hi).st = .programmed) ∧ sub = 3) →
          exec (.xmvmComplete core p) s = .next ((s.driftPair core.toNat p.toNat).xbarFault core.toNat p.toNat op (.drift sub hi)))))

namespace Sys2Proof.Spec

open Sys2Proof Sys2Proof.Machine

/-! Tasks and continuations. -/

/-- The four clusters of a core wait at copies of kind `n`, and nothing holds their action: a task runs, untrapped and not halted, nothing is outstanding, and the limit of 64 continuations holds no wait (R32, R39). -/
structure CopiesReady (k : Core) (n : Nat) : Prop where
  copies : ∀ c, (k.cl c).copyAt = n
  runs : k.task.isSome = true ∧ k.trap = none ∧ k.halted = false
  idle : k.drained = true ∧ ∀ c, (k.cl c).flight = []
  unheld : k.waitHeld = false ∨ k.conts.length < 64

/-- The FIFOs that the four copies push have space (R45). -/
def CopiesPush (k : Core) : Prop := ∀ c i h, (k.cl c).wait = some i → i.hdr? = some h → k.hasRoom c h.pushes = true

/-- Every cluster has moved past the copy it waited at, with its registers as they were but `d` of A. -/
def MovedOn (d : Reg) (k m : Core) : Prop :=
  ∀ c, (∀ i, (k.cl c).wait = some i → (m.cl c).pc = pcPlus c (k.cl c).pc i.words) ∧ (m.cl c).wait = none ∧
    ∀ r, c ≠ .A ∨ r ≠ d → (m.cl c).reg r = (k.cl c).reg r

/-- The tiles of the slot that CSLOT and CMASK ask for are THREAD tiles (R35). -/
def slotFree (k : Core) : Prop := k.slotOk (slotTile k.cslot) (slotSize k.cmask) = true

/-- The task has been set aside to wait: the core has no task, and one more continuation, whose slot is being saved (R38). -/
def SetAside (k m : Core) (t : Task) (on : Nat → WaitOn) : Prop :=
  m.task = none ∧ m.inh = false ∧ ∃ e, m.conts = k.conts ++ [e] ∧ e.saving = true ∧ e.ready = false ∧ e.task = t ∧ e.on = on e.slot.toNat ∧ (∀ x ∈ k.conts, x.slot ≠ e.slot)

end Sys2Proof.Spec

/-- The task-level action, of an unversioned task: tend ends it and counts it in its group; yield goes on, or stops the clusters for a pending pre-emption; waita, bwait and rprobe go on when they are satisfied (a waita stops for a pre-emption there too), with the result of bwait and rprobe in their register, and otherwise
    set the task aside; where a pre-emption is asked a wait does not act, and once the save has begun none of the four does; copies that disagree raise ILLOP 0x0A in every cluster (R32, R33, R38, R51, R161, R162, R242, R330, R340, R397). -/
def Obligations.TaskLevelActs : Prop :=
  ∀ (s : State) (core : CoreId) (tk : Task),
    let k := s.core core.toNat
    let asked := k.preempt.getLsbD tk.ctx.toNat
    let saving := (s.ctx tk.ctx.toNat).saving
    k.task = some tk → tk.ver = false → s.power.stopped = false →
    let acts (p : State → Core → Prop) : Prop := ∃ t, exec (.taskLevelAction core) s = .next t ∧ p t (t.core core.toNat)
    (∀ n, CopiesReady k n → ((1 ≤ n ∧ n ≤ 5 ∧ saving = true) ∨ (3 ≤ n ∧ n ≤ 5 ∧ asked = true)) → exec (.taskLevelAction core) s = .next s) ∧
    (CopiesReady k 1 → k.inh = false → saving = false → acts fun t m =>
      m.task = none ∧ m.toRight = [] ∧ m.toLeft = [] ∧ t.launches = (s.taskDone tk).launches ∧ t.mem = s.mem ∧ ∀ n, n ≠ core.toNat → t.core n = s.core n) ∧
    (CopiesReady k 2 → saving = false → acts fun t m =>
      m.task = some tk ∧ MovedOn 0 k m ∧ OnlyCore core.toNat s t ∧ (asked = true → ∀ c, (m.cl c).stopped = true) ∧ (asked = false → ∀ c, (m.cl c).stopped = (k.cl c).stopped)) ∧
    (∀ h a b cc, CopiesReady k 3 → asked = false → saving = false → k.a.wait = some (.waita h a b cc) → slotFree k → (k.a.reg a).toNat % 8 = 0 → (k.a.reg a).toNat < 0x280000 →
      k.owner' ((k.a.reg a).toNat / 4096) = 0 →
      let word : Word := .ofNat 64 (ofBytes (k.spRead (k.a.reg a).toNat 8))
      (ccHolds cc.toNat word (k.a.reg b) = true → acts fun t m => m.task = some tk ∧ MovedOn 0 k m ∧ OnlyCore core.toNat s t) ∧
      (ccHolds cc.toNat word (k.a.reg b) = false → k.conts.length < 64 → CopiesPush k → acts fun t m =>
        SetAside k m tk (fun _ => .word (k.a.reg a).toNat cc b (k.a.reg b)) ∧ OnlyCore core.toNat s t)) ∧
    (∀ h d a lv num, CopiesReady k 4 → asked = false → saving = false → k.a.wait = some (.bwait h d a lv num) → slotFree k → s.barAllowed core.toNat (barKey core.toNat lv.toNat num.toNat) = true →
      let b := s.bar (barKey core.toNat lv.toNat num.toNat)
      let gone := (b.episode + 2 ^ 16 - (k.a.reg a).toNat % 2 ^ 16) % 2 ^ 16
      ((b.st = 0 ∨ (1 ≤ gone ∧ gone ≤ 32767)) → acts fun t m => m.task = some tk ∧ MovedOn d k m ∧
        (d ≠ 0 → m.a.reg d = .ofNat 64 (b.episode % 2 ^ 16 + 2 ^ 62 * (if b.st = 0 then 1 else 0) + 2 ^ 63 * (if b.tlast then 1 else 0))) ∧ t.barriers = s.barriers) ∧
      (b.st ≠ 0 → (gone = 0 ∨ 32767 < gone) → k.conts.length < 64 → CopiesPush k → acts fun t m =>
        SetAside k m tk (fun _ => .barrier (barKey core.toNat lv.toNat num.toNat) (256 * lv.toNat + num.toNat) (.ofNat 16 (k.a.reg a).toNat) d) ∧ OnlyCore core.toNat s t)) ∧
    (∀ h d a b, CopiesReady k 5 → asked = false → saving = false → k.a.wait = some (.rprobe h d a b) → slotFree k → k.rtb.length ≤ 512 →
      let base := (k.a.reg a).toNat / 2 ^ 21
      let n := min (k.a.reg b).toNat 512
      (∀ j, j < n → base + j < 2 ^ 27 ∧ ∃ e ∈ k.rtb, e.asid = (s.ctx k.ctxNum).asid ∧ e.gen = (s.ctx k.ctxNum).gen ∧ e.vpage.toNat = base + j) → acts fun t m =>
      m.task = some tk ∧ MovedOn d k m ∧ (d ≠ 0 → m.a.reg d = .ofNat 64 n) ∧ t.mem = s.mem) ∧
    ((∀ c, (k.cl c).copyAt ≠ 0) → (∃ c, (k.cl c).copyAt ≠ k.a.copyAt) → k.trap = none → k.halted = false → k.inh = false → k.drained = false → k.waitHeld = false →
      (∀ c, (k.cl c).trapped = none) → (∀ c, (k.cl c).flight = []) → acts fun _ m =>
      ∀ c, (m.cl c).trapped = some { cause := .illop, pc := (k.cl c).pc, info := 0x0A })

/-- A continuation's wait is evaluated: satisfied, it becomes ready and enters the ready queue; a save writes its slot, with each cluster's PC and scalar registers where R35 puts them; a held wait acts once a continuation has left; a ready continuation starts on a free core with the PCs and registers of its
    slot, but for the register of a bwait, which holds its result (R35, R36, R37, R38, R39, R162, R340). -/
def Obligations.ContinuationsMove : Prop :=
  ∀ (s : State) (core : CoreId),
    let k := s.core core.toNat
    (∀ e, k.conts = [e] → e.saving = false → e.ready = false →
      (∀ a cc b v, e.on = .word a cc b v →
        (ccHolds cc.toNat (k.spWord a) (k.spWord (4096 * e.tile.toNat + 0x100 + 8 * b.toNat)) = true → ∃ t, exec (.waitEvaluate core e.slot) s = .next t ∧ OnlyCore core.toNat s t ∧
          (t.core core.toNat).ready = k.ready ++ [.cont e.slot] ∧ ∃ f, (t.core core.toNat).conts = [f] ∧ f.ready = true ∧ f.slot = e.slot) ∧
        (ccHolds cc.toNat (k.spWord a) (k.spWord (4096 * e.tile.toNat + 0x100 + 8 * b.toNat)) = false → ∃ t, exec (.waitEvaluate core e.slot) s = .next t ∧ OnlyCore core.toNat s t ∧
          (t.core core.toNat).ready = k.ready ∧ (t.core core.toNat).conts = [e]))) ∧
    (∀ e, k.conts = [e] → e.saving = true → s.power.stopped = false → ∃ t, exec (.continuationSaveDone core) s = .next t ∧ (∃ f, (t.core core.toNat).conts = [f] ∧ f.saving = false ∧ f.slot = e.slot) ∧
      (t.core core.toNat).toRight = [] ∧ (t.core core.toNat).toLeft = [] ∧
      (∀ c, (t.core core.toNat).spWord (4096 * e.tile.toNat + 8 * c.num) = (k.cl c).pc.setWidth 64) ∧
      (∀ c r, (t.core core.toNat).spWord (4096 * e.tile.toNat + 0x100 + 256 * c.num + 8 * r.toNat) = (k.cl c).reg r)) ∧
    (k.conts.length < 64 → 3 ≤ k.a.copyAt → k.a.copyAt ≤ 5 → ∃ t, exec (.waitHoldRelease core) s = .next t ∧ exec (.taskLevelAction core) s = .next t) ∧
    (∀ e r, k.conts = [e] → k.ready = .cont e.slot :: r → s.mayTake core.toNat e.task.ctx.toNat = true → (∀ t d b n w p f g, e.on ≠ .probe t d b n w p f g) →
      let m (c : Cluster) (q : Reg) : Word := k.spWord (4096 * e.tile.toNat + 0x100 + 256 * c.num + 8 * q.toNat)
      ∃ t, exec (.continuationStart core) s = .next t ∧ (t.core core.toNat).task = some e.task ∧ (t.core core.toNat).conts = [] ∧
        (∀ c, ((t.core core.toNat).cl c).pc = (k.spWord (4096 * e.tile.toNat + 8 * c.num)).setWidth 48 ∧ ((t.core core.toNat).cl c).wait = none) ∧
        (∀ a cc b v, e.on = .word a cc b v → ∀ c q, q ≠ 0 → ((t.core core.toNat).cl c).reg q = m c q) ∧
        (∀ key lvnum ep d, e.on = .barrier key lvnum ep d → d ≠ 0 → (t.core core.toNat).a.reg d = e.result) ∧
        (t.core core.toNat).sp = k.sp ∧ ∀ n, n ≠ core.toNat → t.core n = s.core n)

/-- A new task starts on a free core in the state of R30: its PCs, its parameters in s16 to s31 and every other register and predicate clear, in scoreboard mode with no loop, no handle, no window and no token, after an acquire at dev scope; its group is RUNNING (R30, R39, R315, R320, R330). -/
def Obligations.TaskStarts : Prop :=
  ∀ (s : State) (core : CoreId) (tk : Task) (r : List ReadyEnt),
    let k := s.core core.toNat
    k.ready = .task tk :: r → k.readyCont = none → s.mayTake core.toNat tk.ctx.toNat = true → k.steps = tk.steps → tk.params.length ≤ 16 →
    ∃ t, exec (.taskStart core) s = .next t ∧
      (let m := t.core core.toNat
       m.task = some tk ∧ m.inh = false ∧ m.version = [] ∧ m.toRight = [] ∧ m.toLeft = [] ∧ m.h = [] ∧ m.win = [] ∧ m.sp = k.sp ∧ m.l1 = k.l1.filter (·.2.dirty) ∧
       ∀ c, (m.cl c).pc = tk.pcs.getD c.num 0 ∧ (m.cl c).exposed = false ∧ (m.cl c).loops = [] ∧ (m.cl c).aflags = 0 ∧ (m.cl c).wait = none ∧
         (∀ q : Reg, q.toNat < 16 → (m.cl c).reg q = 0) ∧ (∀ q : Reg, 16 ≤ q.toNat → (m.cl c).reg q = tk.params.getD (q.toNat - 16) 0) ∧
         (∀ p : Pred, p ≠ 0 → (m.cl c).pmask p = 0)) ∧
      t.mem = s.mem ∧ (∀ l ∈ t.launches, l.id = tk.launch → ∀ g ∈ l.groups, g.first = tk.first → g.st ≠ .placed)

/-- A cluster that has run for more than W cycles since its last pre-emption point raises WATCHDOG with the count and W, and one that has not does nothing; a core that stands at its points for a pre-emption does not count, and none counts while the clock is stopped. A breakpoint at a cluster's PC halts its core where it is, with every register as it was; a resumed core goes on with its watchdogs' counts
    standing where they stood. The debug window reads the register image of the core that DBGSEL names (R20, R53, R292, R303, R304). -/
def Obligations.WatchdogAndDebugger : Prop :=
  ∀ (s : State) (core : CoreId) (c : Cluster),
    let k := s.core core.toNat
    (s.power.stopped = true → exec (.watchdog core c) s = .next s) ∧
    (∀ tk, k.task = some tk → k.halted = false → s.power.stopped = false → (k.preempt.getLsbD tk.ctx.toNat = false ∨ k.atPoint = false) →
      let n := s.cycle - (k.cl c).wdogFrom
      (tk.w.toNat < n → exec (.watchdog core c) s = .next (s.raise core.toNat c .watchdog (k.cl c).pc (.ofNat 64 (n % 2 ^ 32 + 2 ^ 32 * tk.w.toNat)) [])) ∧
      (n ≤ tk.w.toNat → exec (.watchdog core c) s = .next s)) ∧
    (({ s with cur := core, curCl := c } : State).canIssue = true → (∃ e ∈ (k.cl c).dbgbp, e.2.getLsbD 63 = true ∧ e.2.setWidth 48 = (k.cl c).pc) → (∀ d, (k.cl d).flight = []) →
      ∃ t, exec (.debugHalt core c) s = .next t ∧ t.core core.toNat = { k with halted := true, haltedAt := s.cycle } ∧ OnlyCore core.toNat s t) ∧
    (k.halted = true → ∃ t, exec (.debugResume core) s = .next t ∧ (t.core core.toNat).halted = false ∧ OnlyCore core.toNat s t ∧
      ∀ d, ((t.core core.toNat).cl d) = { k.cl d with wdogFrom := (k.cl d).wdogFrom + (s.cycle - k.haltedAt) }) ∧
    (∃ t, exec (.debugWindowAccess false (.ofNat 24 (8 * c.num)) 0) s = .next t ∧ t.hostRead = toBytes 8 ((s.core s.dbgsel.toNat).cl c).pc.toNat ∧ t.cores = s.cores ∧ t.mem = s.mem)

namespace Sys2Proof.Spec

open Sys2Proof Sys2Proof.Machine

/-! Lines at home, the copy engine, and requests from outside. -/

/-- Way 0 holds a record's line, or takes it: the line that its set holds is clean, and the plane's line is sound and in reach (R92, R108). -/
def RecordNear (s : State) (k : Nat) : Prop :=
  (s.way0 k).isSome = true ∨ (s.cellHeld (k / 128 * 128) = false ∧ s.cellReach (k / 128 * 128) = true ∧ PlainLine s (State.planeAcc (k / 128 * 128)).1 (State.planeAcc (k / 128 * 128)).2)

/-- Every other record is as it was: those of a record's own line, and those of other sets of way 0 (R92, R108). -/
def OthersStand (k : Nat) (s t : State) : Prop := ∀ j, j % 16 = 0 → j ≠ k → (j / 128 = k / 128 ∨ way0Key j ≠ way0Key k) → t.recBits j = s.recBits j

/-- A die's L2 writes its dirty bytes of a line home, and drops the line: memory takes them and keeps its other bytes, and the L2 keeps its other lines (R91). -/
def HomeWrites : Prop :=
  ∀ (s : State) (die : BitVec 3) (line k0 : Nat) (b : L2Byte),
    let acc := s.frameAcc (line / 2 ^ 14) b.attr
    let o := 128 * line % 2 ^ 21
    let x := s.spot acc o
    ((s.l2Of die.toNat).find? fun e => e.1 / 128 == line && e.2.writers != 0) = some (k0, b) → (∀ d, d ≠ die.toNat → ∀ e ∈ s.l2Of d, e.1 / 128 ≠ line) → PlainLine s acc o →
    ∃ t, exec (.homeWrite die line) s = .next t ∧ (∀ e ∈ t.l2Of die.toNat, e.1 / 128 ≠ line) ∧ (∀ a, a / 128 ≠ line → a < 2 ^ 49 → sfind (t.l2Of die.toNat) a = sfind (s.l2Of die.toNat) a) ∧
      (∀ i, i < 128 → t.memByte (x + i) = match sfind (s.l2Of die.toNat) (128 * line + i) with | some y => if y.writers = 0 then s.memByte (x + i) else y.val | none => s.memByte (x + i)) ∧
      (∀ y, y < x ∨ x + 128 ≤ y → t.memByte y = s.memByte y) ∧ t.cores = s.cores

/-- A read of a line changes nothing while its data is sound, but for the count of the home's base die when it needs a correction; it marks an uncorrectable line poisoned, once, and, where the block has one record, sets POISON in it and adds to its GEN (R107, R382, R410). -/
def LinesFound : Prop :=
  ∀ (s : State) (line : Nat),
    let acc := (s.lineAcc line).1
    let o := (s.lineAcc line).2
    let l := s.lineNo acc o
    (s.unfound acc o = false → sget false s.weak l = false → exec (.homeRead line) s = .next s) ∧
    (s.unfound acc o = false → sget false s.weak l = true → ∃ t, exec (.homeRead line) s = .next t ∧ sget 0 t.cecnt (acc.slice o) = sget 0 s.cecnt (acc.slice o) + 1 ∧
      (∀ d, d ≠ acc.slice o → sget 0 t.cecnt d = sget 0 s.cecnt d) ∧ t.lines = s.lines ∧ t.cores = s.cores ∧ t.mem = s.mem) ∧
    (s.unfound acc o = true → s.other acc o = none →
      (∀ k, s.recKey acc o = some k → RecordNear s k ∧ s.lineNo (State.planeAcc (k / 128 * 128)).1 (State.planeAcc (k / 128 * 128)).2 ≠ l) →
      ∃ t, exec (.homeRead line) s = .next t ∧ (t.line l).poisoned = true ∧ t.unfound acc o = false ∧
        (∀ j, j ≠ l → t.line j = s.line j) ∧ t.cores = s.cores ∧ t.mem = s.mem ∧
        (∀ k, s.recKey acc o = some k → OthersStand k s t ∧
          t.recBits k = DRec.toBits { s.digestRec k with gen := ((s.digestRec k).gen + 1) % 2 ^ 16, poison := true }))

/-- A domain when a patrol pass that it began as ROTATING ends: ACTIVE, with its current key only (R384, R385). -/
def rotated (k : Kd) : Kd :=
  if k.st = .rotating then { st := .active, key0 := if k.cur then none else k.key0, key1 := if k.cur then k.key1 else none, cur := k.cur } else k

/-- A patrol visit of a line of HBM, LPDDR or CXL memory that is not SHARED puts it under the current key of its domain; the visit that completes a pass over all of them ends the ROTATING states the pass began with and no other; a failing tag is counted by the line's base die (R384, R385). -/
def PatrolVisits : Prop :=
  ∀ (s : State) (line : Nat),
    let acc := (s.lineAcc line).1
    let o := (s.lineAcc line).2
    let l := s.lineNo acc o
    let v : State := { s with patrolled := sset false s.patrolled line true }
    s.patrols line = true → s.cellHeld (128 * line) = false → s.cellReach (128 * line) = true →
    (∀ (g : Tag) (n : Nat), (s.line l).key = some g → (s.line l).poisoned = false → s.unfound acc o = false → sget false s.weak l = false → s.curKey g.kd = some n →
      (v.passOver = false →
        ∃ t, exec (.patrolVisit line) s = .next t ∧ (t.line l).key = some { g with serial := some n } ∧ (t.line l).poisoned = false ∧ sget false t.patrolled line = true ∧
          (∀ j, j ≠ l → t.line j = s.line j) ∧ t.mem = s.mem ∧ t.kds = s.kds ∧ t.cores = s.cores ∧ t.tagFailCnt = s.tagFailCnt) ∧
      (v.passOver = true →
        ∃ t, exec (.patrolVisit line) s = .next t ∧ (t.line l).key = some { g with serial := some n } ∧ t.patrolled = [] ∧ t.mem = s.mem ∧
          ∀ q, t.kd q = if s.patrolKds.getLsbD q then rotated (s.kd q) else s.kd q)) ∧
    (s.tagFails acc o = true → ∃ t, exec (.patrolVisit line) s = .next t ∧ sget 0 t.tagFailCnt (acc.slice o) = sget 0 s.tagFailCnt (acc.slice o) + 1)

/-- A back-invalidate of a line of CXL memory that can be reached: its slice drops it and no die's L2 keeps a clean byte of it; where the port's memory is shared its block's record becomes UNKNOWN and its GEN grows, else no record changes; memory keeps its bytes; a line found uncorrectable there is marked poisoned (R107, R375, R410). -/
def BackInvalidates : Prop :=
  ∀ (s : State) (line : Nat),
    let acc := (s.lineAcc line).1
    let o := (s.lineAcc line).2
    let l := s.lineNo acc o
    let shared := (s.link (24 + (128 * line - 2 ^ 46) / 2 ^ 44)).shared
    tierOf (128 * line) = some 2 → s.cellReach (128 * line) = true → s.other acc o = none →
    (s.unfound acc o = false → sget false s.weak l = false → (∀ k, shared = true → s.recKey acc o = some k → RecordNear s k) →
      ∃ t, exec (.backInvalidate line) s = .next t ∧ t.mem = s.mem ∧ t.lines = s.lines ∧ t.cores = s.cores ∧ t.slices = serase s.slices line ∧
        (∀ f, acc.frame = some f → ∀ die, die < 8 → ∀ e ∈ t.l2Of die, e.1 / 128 = byteKey f o / 128 → e.2.writers ≠ 0) ∧
        (shared = false → t.digests = s.digests) ∧
        (∀ k, shared = true → s.recKey acc o = some k → OthersStand k s t ∧
          t.recBits k = DRec.toBits { s.digestRec k with gen := ((s.digestRec k).gen + 1) % 2 ^ 16, unknown := true })) ∧
    (s.unfound acc o = true → s.recKey acc o = none → ∃ t, exec (.backInvalidate line) s = .next t ∧ (t.line l).poisoned = true ∧ t.mem = s.mem)

/-- The dgseal at the head of the store queue seals its next block over sound bytes, and stands for the blocks left, or leaves the queue with its last; no byte of memory changes (R106, R263). -/
def SealsBlock : Prop :=
  ∀ (s : State) (core : CoreId) (c : Cluster) (e : StoreEnt) (r : List StoreEnt) (h : BitVec 128) (off left k : Nat),
    let x := (s.core core.toNat).cl c
    let a := hAttr h (s.ctx (s.core core.toNat).ctxNum).kdom
    let acc := s.frameAcc (hFrame h) a
    x.storeQ = e :: r → noMark r → x.storeFree e = true → e.kind = .dgseal h off left → s.holdsAt h off = false → off % 512 = 0 → s.recKey acc off = some k →
    RecordNear s k → (∀ j, j < 4 → PlainLine s acc (off + 128 * j) ∧ s.way0 (acc.cell (off + 128 * j)) = none) →
    ∃ t, exec (.dgsealEntry core c) s = .next t ∧ t.mem = s.mem ∧ OthersStand k s t ∧
      t.recBits k = DRec.toBits { s.digestRec k with kind := a.kind.toNat, etype := a.etype.toNat, valid := true, loose := false, unknown := false, poison := false,
                                                     lo := sealLo s.dseed.toNat a.kind.toNat a.etype.toNat ((List.range 4).flatMap fun j => s.memBytes (s.spot acc (off + 128 * j)) 128) } ∧
      ((t.core core.toNat).cl c).s = x.s ∧
      (left ≤ 1 → ((t.core core.toNat).cl c).storeQ = r) ∧
      (1 < left → ((t.core core.toNat).cl c).storeQ = { e with kind := .dgseal h (off + 512) (left - 1) } :: r)

end Sys2Proof.Spec

/-- What the home slices do of themselves: a die's L2 writes a line home, a read finds data that is corrected or cannot be, the patrol re-encrypts, a back-invalidate and a seal change a block's record
    (R91, R106, R107, R263, R375, R382, R384, R385, R410). -/
def Obligations.LinesAtHome : Prop := HomeWrites ∧ LinesFound ∧ PatrolVisits ∧ BackInvalidates ∧ SealsBlock

namespace Sys2Proof.Spec

open Sys2Proof Sys2Proof.Machine

/-- A command as its start leaves it: its entry and its handles, its index entries where its check finds no fault, and whether its completion record, its flag word and its status bitmap lie in
    tiles of their owners (R255, R276; log 58). -/
def startedAs (s : State) (core : Nat) (cmd : CopyCmd) (e st : Nat) : CopyCmd :=
  let c := s.core core
  let n := (ceN1 e + 7) / 8
  { cmd with
    entry := some (.ofNat 512 e), handles := c.h, elems := if st = 0 then s.elemsNow core cmd.ctx.toNat e else [],
    complOk := decide (cmd.addr < 0x280000 ∧ ceCompl e + 16 ≤ 0x280000 ∧ c.owned 0 (ceCompl e) 16 = true),
    flagOk := decide (ceFlag e = true ∧ (flagPlace core e).1 ∈ (s.ctx cmd.ctx.toNat).coreList ∧ (flagPlace core e).2 + 8 ≤ 0x280000 ∧ (s.core (flagPlace core e).1).owned 0 (flagPlace core e).2 8 = true),
    bitsOk := decide (ceOp e = 1 ∧ ceDs2 e + n ≤ 0x280000 ∧ c.owned 1 (ceDs2 e) n = true),
    status := .ofNat 8 st }

/-- The first command of a chain not started is read, checked and started with its handles and, where its check finds no fault, its index entries, when the engine may start it, no tile's owner is on its way, fewer than 16 are in flight, its SSTART and FENCE hold nothing
    back and its handles are good (R255). -/
def CopyStarts : Prop :=
  ∀ (s : State) (core : CoreId) (before after : List CopyCmd) (cmd : CopyCmd),
    let c := s.core core.toNat
    let e := ofBytes (c.spRead cmd.addr 64)
    let st := s.startStatus core.toNat cmd e
    let run := startedAs s core.toNat cmd e st
    c.cp = before ++ cmd :: after → (∀ x ∈ before, x.entry ≠ none) → cmd.entry = none → before.length < 16 → s.engineMayStart core.toNat cmd.ctx.toNat = true → c.ownPending = false →
    (ceSstart e = true → cmd.released = true) → (ceFence e = true → before = []) → (st = 8 ∨ badHandle run e = none) →
    ∃ t, exec (.copyEntryStart core) s = .next t ∧ OnlyCore core.toNat s t ∧
      t.core core.toNat = { c with cp := before ++ run :: after }

/-- The value of a completion record: status, number, bytes, count and first unit (R258). -/
def recordValue (status seq bytes count first : Nat) : Nat :=
  status + 2 ^ 8 * (seq % 2 ^ 16) + 2 ^ 24 * (bytes % 2 ^ 40) + 2 ^ 64 * (count % 2 ^ 32) + 2 ^ 96 * (first % 2 ^ 32)

/-- A command has left its core's chain with its completion record at COMPL (R257, R258). -/
def Completed (m : Core) (cmd : CopyCmd) (e value : Nat) : Prop :=
  (∀ x ∈ m.cp, ¬ (x.seq = cmd.seq ∧ x.ctx = cmd.ctx)) ∧ ∀ j, j < 16 → m.spByte (ceCompl e + j) = .ofNat 8 (value / 256 ^ j)

/-- A started command completes, its record's tile found good at the start (R276). One that is aborted or found bad at its start writes its status for every unit and moves nothing; a copy of one row within the core's scratchpad moves its bytes and writes status 0
    (R255 to R258). -/
def CopyCompletes : Prop :=
  ∀ (s : State) (core : CoreId) (cmd : CopyCmd) (img : BitVec 512),
    let c := s.core core.toNat
    let e := img.toNat
    (c.cp.find? fun x => x.seq == cmd.seq && x.entry.isSome) = some cmd → cmd.entry = some img → cmd.complOk = true → cmd.flagOk = false →
    ceArr e = false → ceRet e = false → ceGen e = false →
    (cmd.bitsOk = false → (cmd.aborted = true ∨ cmd.status ≠ 0) → s.replies = [] →
      let st := if cmd.aborted then 8 else cmd.status.toNat
      ∃ t, exec (.copyEntryComplete core cmd.seq) s = .next t ∧ Completed (t.core core.toNat) cmd e (recordValue st cmd.seq 0 (ceUnits e) 0) ∧
        (∀ y, y < ceCompl e ∨ ceCompl e + 16 ≤ y → (t.core core.toNat).spByte y = c.spByte y) ∧ OnlyCore core.toNat s t) ∧
    (cmd.aborted = false → cmd.status = 0 → cmd.elems = [] → ceOp e = 0 → ceCrc e = false → ceN1 e = 1 → ceN2 e = 1 → epSpace (ceSrc e) = 0 → epSpace (ceDst e) = 0 →
      (∀ j, j < ceLen e → sget false c.spPoison (epAddr (ceSrc e) + j) = false) → (ceCompl e + 16 ≤ epAddr (ceDst e) ∨ epAddr (ceDst e) + ceLen e ≤ ceCompl e) →
      ∃ t, exec (.copyEntryComplete core cmd.seq) s = .next t ∧ Completed (t.core core.toNat) cmd e (recordValue 0 cmd.seq (ceLen e) 0 0) ∧
        (∀ j, j < ceLen e → (t.core core.toNat).spByte (epAddr (ceDst e) + j) = c.spByte (epAddr (ceSrc e) + j)) ∧
        (∀ y, (y < epAddr (ceDst e) ∨ epAddr (ceDst e) + ceLen e ≤ y) → (y < ceCompl e ∨ ceCompl e + 16 ≤ y) → (t.core core.toNat).spByte y = c.spByte y) ∧ OnlyCore core.toNat s t)

/-- The tiles of an ownt return to THREAD when what their class had issued before it has completed, and the request ends with its last tile; other tiles stay (R251). -/
def TilesReturn : Prop :=
  ∀ (s : State) (core : CoreId) (r : OwntReq), (s.core core.toNat).ownt = [r] → (s.core core.toNat).ownPending = false →
    ∃ t, exec (.owntReturn core) s = .next t ∧ OnlyCore core.toNat s t ∧ (t.core core.toNat).sp = (s.core core.toNat).sp ∧
      (∀ i, r.first ≤ i → i < r.first + r.n → (t.core core.toNat).owner' i = if s.classDone core.toNat r i then 0 else (s.core core.toNat).owner' i) ∧
      (∀ i, i < r.first ∨ r.first + r.n ≤ i → (t.core core.toNat).owner' i = (s.core core.toNat).owner' i) ∧
      ((∀ i, r.first ≤ i → i < r.first + r.n → (t.core core.toNat).owner' i = 0 ∨ (t.core core.toNat).owner' i = 5) → (t.core core.toNat).ownt = []) ∧
      (∀ i, r.first ≤ i → i < r.first + r.n → (t.core core.toNat).owner' i ≠ 0 → (t.core core.toNat).owner' i ≠ 5 → (t.core core.toNat).ownt = [r])

end Sys2Proof.Spec

/-- The copy engine: a command of the chain starts, completes with its record, and the tiles that ownt asked back return (R251, R255 to R258). What a command keeps from its start, its handles and index entries, is log 58 (DEDUCED). -/
def Obligations.CopyEngine : Prop := CopyStarts ∧ CopyCompletes ∧ TilesReturn

namespace Sys2Proof.Spec

open Sys2Proof Sys2Proof.Machine

/-- A request of another module for this device. A remote element is served through a valid export entry that allows it (R377, R378): a read changes no memory, a write puts its bytes at the page offset and nowhere else, an element of a failed check changes no memory and is noted against its command; the
    last of a command, or its arrival request, makes the entry's arrival, tainted if one failed, when the entry asks for one (R379). A reply is kept for the bytes of the element it answers. A request for another device changes nothing. -/
def RemoteElements : Prop :=
  ∀ (s : State) (q : RemoteReq),
    let e := q.entry.toNat
    let n := match q.kind with | .read => q.len | _ => q.data.length
    let asks := q.kind = .read ∨ q.kind = .write ∨ q.kind = .red
    let ok := s.exportOk e (match q.kind with | .read => false | _ => true) = true ∧ q.off.toNat + n ≤ 2 ^ 21
    let acc := s.exportAcc e
    let x := s.spot acc q.off.toNat
    (q.dst ≠ s.devid → exec (.remoteElementServe q) s = .next s) ∧
    (q.dst = s.devid → asks → ¬ ok → q.last = false → ∃ t, exec (.remoteElementServe q) s = .next t ∧ sget false t.remoteFailed (reqKey q) = true ∧ { t with remoteFailed := s.remoteFailed } = s) ∧
    (q.dst = s.devid → asks → ok → q.last = false → q.off.toNat % 128 + n ≤ 128 → 0 < n → PlainLine s acc q.off.toNat → s.l2 = [] →
      (∀ k, s.recKey acc q.off.toNat = some k → s.lineNo (State.planeAcc (k / 128 * 128)).1 (State.planeAcc (k / 128 * 128)).2 ≠ s.lineNo acc q.off.toNat) →
      ∃ t, exec (.remoteElementServe q) s = .next t ∧ t.cores = s.cores ∧ t.arrivals = s.arrivals ∧ t.remoteFailed = s.remoteFailed ∧
        (q.kind = .read → { t with slices := s.slices, digests := s.digests } = s) ∧
        (q.kind = .write ∨ (q.kind = .red ∧ q.op = 0) → (∀ j, j < n → t.memByte (x + j) = q.data.getD j 0) ∧ ∀ y, y < x ∨ x + n ≤ y → t.memByte y = s.memByte y) ∧
        (q.kind = .red → q.op ≠ 0 → n = 4 → (∀ y, y < x ∨ x + 4 ≤ y → t.memByte y = s.memByte y) ∧
          ofBytes (t.memBytes x 4) = atomNew (scatLit q.op.toNat q.fp) (ofBytes (s.memBytes x 4)) (ofBytes q.data) 0 % 2 ^ 32)) ∧
    (q.dst = s.devid → asks → ¬ ok → q.last = true → bit (sget 0 s.exports e).toNat 127 = true → bit (sget 0 s.exports e).toNat 124 = true → bits (sget 0 s.exports e).toNat 123 122 = 2 →
      ∃ t, exec (.remoteElementServe q) s = .next t ∧ t.mem = s.mem ∧ t.cores = s.cores ∧ sget false t.remoteFailed (reqKey q) = false ∧
        t.arrivals = s.arrivals ++ [{ key := 2048 + bits (sget 0 s.exports e).toNat 121 114, ctx := .ofNat 6 (bits (sget 0 s.exports e).toNat 69 64), tag := 0, tainted := true }]) ∧
    (q.dst = s.devid → q.kind = .reply → ∃ t, exec (.remoteElementServe q) s = .next t ∧
      sfind t.replies (replyKey q.src.toNat q.tag.toNat e q.off.toNat) = some (max q.len q.data.length, some q.data) ∧ { t with replies := s.replies } = s) ∧
    (q.dst = s.devid → q.kind = .arrival → bit (sget 0 s.exports e).toNat 127 = true → bit (sget 0 s.exports e).toNat 124 = true → bits (sget 0 s.exports e).toNat 123 122 = 2 →
      ∃ t, exec (.remoteElementServe q) s = .next t ∧ t.mem = s.mem ∧ t.cores = s.cores ∧ sget false t.remoteFailed (reqKey q) = false ∧
        t.arrivals = s.arrivals ++ [{ key := 2048 + bits (sget 0 s.exports e).toNat 121 114, ctx := .ofNat 6 (bits (sget 0 s.exports e).toNat 69 64), tag := 0,
                                      tainted := sget false s.remoteFailed (reqKey q) }])

/-- A flit received on a Salmus link with traffic, of at most 224 bytes of payload: a good one is served as the bytes of its element, and one whose CRC fails is dropped and counted in ERRC, which stops at 0xFFFF; an element of this device that it carried is noted as failed against its command, or the bytes of a reply as lost. A longer one is no flit. Its sequence number has no effect (R376, R379; log 51). -/
def SalmusFlits : Prop :=
  ∀ (s : State) (l : BitVec 5) (q : RemoteReq), l.toNat < 24 → s.linkUp l.toNat = true →
    (224 < q.data.length → ∀ ok, exec (.salmusFlitReceive l ok q) s = .next s) ∧
    (q.data.length ≤ 224 →
      (∃ t, exec (.salmusFlitReceive l true q) s = .next t ∧ exec (.remoteElementServe q) s = .next t) ∧
      (∃ t, exec (.salmusFlitReceive l false q) s = .next t ∧ (t.link l.toNat).errc.toNat = min ((s.link l.toNat).errc.toNat + 1) 0xFFFF ∧
        (t.link l.toNat).st = (s.link l.toNat).st ∧ (∀ j, j ≠ l.toNat → t.link j = s.link j) ∧
        { t with links := s.links, remoteFailed := s.remoteFailed, replies := s.replies } = s ∧
        (q.dst ≠ s.devid ∨ q.kind = .arrival → t.remoteFailed = s.remoteFailed ∧ t.replies = s.replies) ∧
        (q.dst = s.devid → q.kind = .read ∨ q.kind = .write ∨ q.kind = .red → sget false t.remoteFailed (reqKey q) = true ∧ t.replies = s.replies) ∧
        (q.dst = s.devid → q.kind = .reply →
          sfind t.replies (replyKey q.src.toNat q.tag.toNat q.entry.toNat q.off.toNat) = some (max q.len q.data.length, none) ∧ t.remoteFailed = s.remoteFailed)))

/-- The host's window, with no write posted before and the PCIe link up: a read within a line answers the bytes of its place and the line's poison mark, and a write puts its bytes there and nowhere else, or stays posted while its home holds it; until the start record is written, and after a step of a turnover has failed, a read
    answers all ones and a write is dropped, and while the link is down neither does anything (R369, R372, R386, R390). -/
def WindowAccesses : Prop :=
  ∀ (s : State) (off : BitVec 36),
    let a := bits s.win.toNat 51 36 * 2 ^ 36 + off.toNat
    let kd : BitVec 8 := .ofNat 8 (s.win.toNat % 256)
    let acc := s.winAcc kd a
    let x := s.spot acc (a % 2 ^ 21)
    (∀ n : BitVec 4, (s.started = false ∨ s.turnstat.toNat / 16 % 16 ≠ 0) → ∃ t, exec (.bar2Read off n) s = .next t ∧ t.hostRead = List.replicate n.toNat 0xFF ∧ t.hostReadPoisoned = false ∧
      t.mem = s.mem ∧ t.cores = s.cores) ∧
    (∀ data, (s.started = false ∨ s.turnstat.toNat / 16 % 16 ≠ 0) → exec (.bar2Write off data) s = .next s) ∧
    (∀ n data, s.answers = true → s.linkUp 28 = false → exec (.bar2Read off n) s = .next s ∧ exec (.bar2Write off data) s = .next s) ∧
    (∀ n : BitVec 4, s.answers = true → s.linkUp 28 = true → s.posted = [] → 0 < n.toNat → a % 128 + n.toNat ≤ 128 → s.winHeld a n.toNat = false → s.reach acc (a % 2 ^ 21) = true →
      s.unfound acc (a % 2 ^ 21) = false → sget false s.weak (x / 128) = false → (∀ f, acc.frame = some f → (s.frame f).hoten = false) → s.way0 (acc.cell (a % 2 ^ 21)) = none →
      ∃ t, exec (.bar2Read off n) s = .next t ∧ t.hostRead = s.memBytes x n.toNat ∧ t.hostReadPoisoned = (s.line (x / 128)).poisoned ∧
        { t with hostRead := s.hostRead, hostReadPoisoned := s.hostReadPoisoned, slices := s.slices } = s) ∧
    (∀ data : List Byte, s.answers = true → s.linkUp 28 = true → s.posted = [] → data ≠ [] → a % 128 + data.length ≤ 128 → s.winHeld a data.length = false → PlainLine s acc (a % 2 ^ 21) → s.l2 = [] →
      ∃ t, exec (.bar2Write off data) s = .next t ∧ t.cores = s.cores ∧ t.posted = [] ∧ (∀ j, j < data.length → t.memByte (x + j) = data.getD j 0) ∧
        ∀ y, y < x ∨ x + data.length ≤ y → t.memByte y = s.memByte y) ∧
    (∀ data : List Byte, s.answers = true → s.linkUp 28 = true → s.posted = [] → s.winHeld a data.length = true →
      ∃ t, exec (.bar2Write off data) s = .next t ∧ t.posted = [(a, kd, data)] ∧ { t with posted := s.posted } = s)

end Sys2Proof.Spec

/-- Requests from outside: remote elements, Salmus flits, and the host's window (R372, R376 to R379, R390). That failures are kept by command and entry, and that a lost flit shows which bytes it carried, is log 51 (DEDUCED). -/
def Obligations.OutsideRequests : Prop := RemoteElements ∧ SalmusFlits ∧ WindowAccesses

namespace Sys2Proof.Spec

open Sys2Proof Sys2Proof.Machine

/-! Commands turned away, the dispatcher, contexts. -/

/-- Nothing happens but that one error-log record of class `cls` joins the device's own writes, with the wall time (R380, R381; log 69). -/
def Recorded (cls : Nat) (s t : State) : Prop := ∃ r : LogRec, r.cls = cls ∧ r.us = s.us ∧ t = { s with todo := s.todo ++ [.record r] }

/-- When the device's own writes are made, a record enters the error log's ring at HEAD, in the layout of R381 with HEAD as its number, when the log is enabled and the ring is not full; otherwise LOST counts it, stopping at its greatest value; a place that holds its accesses
    holds the record back (R380, R381; log 69). -/
def RecordsWritten : Prop :=
  ∀ (s : State) (r : LogRec), s.todo = [.record r] → s.heldHit = false →
    let e := s.elog
    let a := bits e.base.toNat 51 12 * 4096 + 64 * (e.head.toNat % e.size)
    let shut := e.cfg.getLsbD 63 = false ∨ (e.head - e.tail).toNat = e.size
    (shut → s.flushTodo = { s with todo := [], elog := { e with lost := if e.lost = .allOnes 32 then e.lost else e.lost + 1 } }) ∧
    (¬ shut → s.isHeld (s.physAcc a) (a % 2 ^ 21) = true → s.flushTodo = s) ∧
    (¬ shut → PlainAt s a → s.recKey (s.physAcc a) (a % 2 ^ 21) = none →
      let t := s.flushTodo
      t.todo = [] ∧ t.elog = { e with head := e.head + 1 } ∧ t.cores = s.cores ∧
      t.memBytes (placeOfAddr s a) 64 = toBytes 8 e.head.toNat ++ [BitVec.ofNat 8 r.cls, BitVec.ofNat 8 r.sev] ++ toBytes 2 r.unit
        ++ toBytes 4 (match r.ck with | some (c, k) => c + 256 * k | none => 0xFFFFFFFF) ++ toBytes 8 r.addr ++ toBytes 8 r.us ++ (r.detail ++ List.replicate 32 0).take 32 ∧
      ∀ y, y < placeOfAddr s a ∨ placeOfAddr s a + 64 ≤ y → t.memByte y = s.memByte y)

/-- The candidates of a choice: launches that can be dispatched, or whose SAVED context can be restored (R321, R325). -/
def candidates (s : State) : List Launch := s.launches.filter fun x => s.dispatchable x || s.restorable x

/-- The dispatcher's choice, no claim standing, of the one candidate with the least effective class (R322 to R325): a SAVED context asks for its restore; on the lowest free quad of its cores its next group is placed, under a new tag and with the quad's barriers reset; with no free
    quad the launch keeps a claim, and the context that may yield is pre-empted, or goes on being so (log 76). With no candidate nothing happens. -/
def DispatcherChooses : Prop :=
  ∀ (s : State), s.claims = [] →
    (candidates s = [] → ∃ t, exec .dispatchChoice s = .next t ∧ t = s) ∧
    (∀ l, l ∈ candidates s → (∀ x ∈ candidates s, x = l ∨ s.effClass l < s.effClass x) →
      let n := l.ctx.toNat
      let first := (l.superstep * recGroups l.image.toNat + l.nextGroup) * recGroupSize l.image.toNat
      ((s.ctx n).st = .saved → ∃ t, exec .dispatchChoice s = .next t ∧ (t.ctx n).restoring = true ∧ (t.ctx n).st = .saved ∧ t.cores = s.cores ∧ t.quads = s.quads) ∧
      (∀ q, (s.ctx n).st ≠ .saved → (q < 64 ∧ hasQuad (s.ctx n) q = true ∧ sget none s.quads q = none) →
        (∀ p, p < q → hasQuad (s.ctx n) p = true → sget none s.quads p ≠ none) →
        ∃ t, exec .dispatchChoice s = .next t ∧ sget none t.quads q = some { launch := l.id, first := first, tag := s.nextTag } ∧
          (∀ p, p ≠ q → sget none t.quads p = sget none s.quads p) ∧ t.nextTag = s.nextTag + 1 ∧ (∀ b, b < 16 → q < 64 → sget 0 t.barriers (16 * q + b) = 0) ∧
          (∃ m ∈ t.launches, m.id = l.id ∧ m.nextGroup = l.nextGroup + 1 ∧ ∃ g ∈ m.groups, g.first = first ∧ g.quad = q) ∧ t.mem = s.mem ∧
          ((s.record n l.recNo).st = .queued → (t.record n l.recNo).st = .dispatching)) ∧
      ((s.ctx n).st ≠ .saved → (∀ q, q < 64 → hasQuad (s.ctx n) q = true → sget none s.quads q ≠ none) →
        ∃ t, exec .dispatchChoice s = .next t ∧ t.claims = [l.id] ∧ t.quads = s.quads ∧ t.launches = s.launches ∧ t.mem = s.mem ∧
          (s.victim l = none → t.cores = s.cores ∧ t.ctxs = s.ctxs) ∧
          (∀ m, s.victim l = some m → (t.ctx m).st = .preempting ∧ ((s.ctx m).st = .preempting → t.cores = s.cores ∧ t.ctxs = s.ctxs))))

/-- A draining group whose quad is quiet is DONE, and its quad is free; a FAULTED group whose quad is quiet frees its quad, and its launch's record is FAULTED (R315, R330). -/
def GroupsEnd : Prop :=
  ∀ (s : State) (quad : BitVec 6) (l : Launch) (g : Group), s.groupOn quad.toNat = some (l, g) → s.quadQuiet quad.toNat = true →
    (g.st = .draining → ∃ t, exec (.groupDone quad) s = .next t ∧ sget none t.quads quad.toNat = none ∧ (∀ p, p ≠ quad.toNat → sget none t.quads p = sget none s.quads p) ∧
      (∀ m ∈ t.launches, m.id = l.id → ∀ x ∈ m.groups, x.first = g.first → x.st = .done ∧ x.freed = true) ∧ t.cores = s.cores ∧ t.recs = s.recs ∧ t.mem = s.mem) ∧
    (g.st = .faulted → (s.ctx l.ctx.toNat).st ≠ .sealing →
      ∃ t, exec (.groupQuadFree quad) s = .next t ∧ sget none t.quads quad.toNat = none ∧ (∀ p, p ≠ quad.toNat → sget none t.quads p = sget none s.quads p) ∧
        (t.record l.ctx.toNat l.recNo).st = .faulted ∧ (∀ m ∈ t.launches, m.id = l.id → ∀ x ∈ m.groups, x.first = g.first → x.freed = true) ∧ t.cores = s.cores ∧ t.mem = s.mem)

/-- No byte that a core of the context wrote is dirty in its L1 any longer. -/
def Released (s t : State) (n : Nat) : Prop := ∀ k ∈ (s.ctx n).coreList, ∀ b ∈ (t.core k).l1, b.2.dirty = false

/-- When every task of a superstep has ended, the writes of the launch's cores are released, while its context's engines may start entries, and the next superstep begins with no group placed (here with no command waiting in a chain, which the barrier could start); after the last one the completion signal is written where KCDST names a THREAD word of the context, and the record is RETIRED, next in the order of retirement
    (R28, R29, R291, R315, R319). -/
def StepsEnd : Prop :=
  ∀ (s : State) (id : Nat) (l : Launch), s.launch id = some l → s.launchLive l = true → l.stepDone = true →
    (l.superstep + 1 < recSupersteps l.image.toNat → (s.ctx l.ctx.toNat).enginesRun = true → (∀ k ∈ (s.ctx l.ctx.toNat).coreList, splitCp (s.core k).cp = none) →
      ∃ t, exec (.superstepRelease id) s = .next t ∧ Released s t l.ctx.toNat ∧ (∃ m ∈ t.launches, m.id = id ∧ m.superstep = l.superstep + 1 ∧ m.nextGroup = 0 ∧ m.groups = []) ∧
        t.recs = s.recs ∧ t.quads = s.quads) ∧
    (recSupersteps l.image.toNat ≤ l.superstep + 1 → (s.ctx l.ctx.toNat).st ≠ .sealing →
      ∃ t, exec (.kernelRetire id) s = .next t ∧ Released s t l.ctx.toNat ∧ (t.record l.ctx.toNat l.recNo).st = .retired ∧ (∀ m ∈ t.launches, m.id = id → m.retiredNo = s.retiredNext) ∧
        let kc := recKcdst l.image.toNat
        let k := bits kc 29 22
        let a := bits kc 21 0
        (bit kc 63 = false → ∀ j, (t.core j).sp = (s.core j).sp) ∧
        (bit kc 63 = true → a % 8 = 0 → a < 0x280000 → k ∈ (s.ctx l.ctx.toNat).coreList → (s.core k).owner' (a / 4096) = 0 →
          ∀ j, j < 8 → (t.core k).spByte (a + j) = .ofNat 8 (recKcval l.image.toNat / 256 ^ j)))

end Sys2Proof.Spec

/-- The dispatcher: choices and placement, and the ends of groups, supersteps and kernels (R28, R29, R315, R319, R321 to R325, R328, R330; of a claim, log 76, DEDUCED). -/
def Obligations.Dispatching : Prop := DispatcherChooses ∧ GroupsEnd ∧ StepsEnd

namespace Sys2Proof.Spec

open Sys2Proof Sys2Proof.Machine

/-- The host's context commands, each held in CTXCMD as it was written (R287), move a context between the states that R289 gives them, and are ignored with a record in the others; a pre-empt of a context that is being pre-empted or is saved does nothing. A pre-empt raises a request on every core of CORES; a seal faults the context's groups that are PLACED, RUNNING or DRAINING and leaves the others as they are (R330). That a pre-empt is ignored with a record in FREE, LOADING, FAULTED and SEALING and a restore in every state
    but SAVED is read from the table's other rows (log 59; DEDUCED), and so is the refusal of a load while a turnover is under way (R386; log 53). -/
def ContextCommands : Prop :=
  ∀ (s : State) (ctx : CtxId) (daddr : BitVec 52),
    let n := ctx.toNat
    let x := s.ctx n
    let load := s.ctxWrite 0 n daddr.toNat
    let preempt := s.ctxWrite 1 n 0
    let restore := s.ctxWrite 2 n 0
    let sealing := s.ctxWrite 3 n 0
    ((bits load.ctxcmd.toNat 5 0 = n ∧ bits load.ctxcmd.toNat 7 6 = 0 ∧ bits load.ctxcmd.toNat 51 8 = daddr.toNat / 256) ∧ bits preempt.ctxcmd.toNat 7 6 = 1 ∧
      bits restore.ctxcmd.toNat 7 6 = 2 ∧ bits sealing.ctxcmd.toNat 7 6 = 3) ∧
    (x.st = .free → s.turn = none → ∃ t, exec (.ctxLoad ctx daddr) s = .next t ∧ (t.ctx n).st = .loading ∧ (∀ m, m ≠ n → t.ctx m = s.ctx m) ∧ { t with ctxs := s.ctxs } = load) ∧
    (x.st ≠ .free ∨ s.turn ≠ none → ∃ t, exec (.ctxLoad ctx daddr) s = .next t ∧ Recorded 6 load t) ∧
    (x.st = .resident ∨ x.st = .running → ∃ t, exec (.ctxPreempt ctx) s = .next t ∧ (t.ctx n).st = .preempting ∧ (∀ m, m ≠ n → t.ctx m = s.ctx m) ∧
      (∀ k ∈ x.coreList, t.core k = { s.core k with preempt := (s.core k).preempt ||| BitVec.ofNat 64 (2 ^ n) }) ∧ (∀ k, k ∉ x.coreList → t.core k = s.core k) ∧
      { t with ctxs := s.ctxs, cores := s.cores } = preempt) ∧
    (x.st = .preempting ∨ x.st = .saved → exec (.ctxPreempt ctx) s = .next preempt) ∧
    (x.st = .free ∨ x.st = .loading ∨ x.st = .faulted ∨ x.st = .sealing → ∃ t, exec (.ctxPreempt ctx) s = .next t ∧ Recorded 6 preempt t) ∧
    (x.st = .saved → ∃ t, exec (.ctxRestore ctx) s = .next t ∧ (t.ctx n).restoring = true ∧ (t.ctx n).st = .saved ∧ { t with ctxs := s.ctxs } = restore) ∧
    (x.st ≠ .saved → ∃ t, exec (.ctxRestore ctx) s = .next t ∧ Recorded 6 restore t) ∧
    (x.st = .free ∨ x.st = .sealing → ∃ t, exec (.ctxSeal ctx) s = .next t ∧ Recorded 6 sealing t) ∧
    (x.st ≠ .free → x.st ≠ .sealing → ∃ t, exec (.ctxSeal ctx) s = .next t ∧ (t.ctx n).st = .sealing ∧ t.mem = s.mem ∧
      (∀ k tk, (t.core k).task = some tk → tk.ctx ≠ ctx) ∧ (∀ k, ∀ e ∈ (t.core k).conts, e.task.ctx ≠ ctx) ∧ (∀ k, ∀ c ∈ (t.core k).cp, c.ctx = ctx → c.aborted = true) ∧
      (∀ r, r < 65536 → (t.record n r).st = .blank) ∧
      (∀ q, (s.queue q).ctx = n → (s.queue q).st ≠ .disabled → (s.queue q).st ≠ .draining → (t.queue q).st = .error ∧ (t.queue q).err = 6) ∧
      t.launches.map (fun l => l.groups.map (·.st)) = s.launches.map (fun l => l.groups.map fun g =>
        if l.ctx = ctx ∧ (g.st = .placed ∨ g.st = .running ∨ g.st = .draining) then .faulted else g.st))

/-- The end of a load: with a descriptor that passes every check of R288 the context is RESIDENT with it, its rings at their start and its command numbers on its cores afresh; with one that fails, FREE with the check's code in LERR (R259, R288, R289, R301). -/
def ContextLoads : Prop :=
  ∀ (s : State) (ctx : CtxId),
    let n := ctx.toNat
    let x := s.ctx n
    let r := s.devRead x.daddr.toNat 256
    let d := Desc.ofImage (ofBytes r.2.1)
    let code := r.1.loadError n d (ofBytes r.2.1) r.2.2
    x.st = .loading → x.restoring = false → code < 256 →
    (code = 0 → ∃ t, exec (.contextLoadDone ctx) s = .next t ∧ (t.ctx n).st = .resident ∧ (t.ctx n).desc = d ∧ (t.ctx n).lerr = 0 ∧ (t.ctx n).cause = 0 ∧
      (t.ctx n).fqHead = 0 ∧ (t.ctx n).fqTail = 0 ∧ (t.ctx n).frHead = 0 ∧ (t.ctx n).frTail = 0 ∧ (t.ctx n).saved = [] ∧ (∀ m, m ≠ n → t.ctx m = s.ctx m) ∧
      ∀ k ∈ (t.ctx n).coreList, ((t.core k).useSeqs n).cpNext = 1 ∧ ((t.core k).useSeqs n).seqCp = 0 ∧ ((t.core k).useSeqs n).wsNext = 1 ∧ ((t.core k).useSeqs n).seqWs = 0) ∧
    (code ≠ 0 → ∃ t, exec (.contextLoadDone ctx) s = .next t ∧ (t.ctx n).st = .free ∧ (t.ctx n).lerr.toNat = code ∧ t.cores = s.cores ∧ (∀ m, m ≠ n → t.ctx m = s.ctx m))

/-- A save begins once every core of the context has stopped, the clocks running, with nothing left in flight; it ends once no engine entry is in flight, unless a core that a debugger has let go on has left its point, which it then reaches first; and then the context is SAVED, its quads are free, no core of CORES has a valid L1 byte or its request, and its cores hold no task
    and no continuation, with their registers kept (R52, R289, R291, R326). -/
def ContextSaves : Prop :=
  ∀ (s : State) (ctx : CtxId),
    let n := ctx.toNat
    let x := s.ctx n
    x.st = .preempting →
    (x.saving = false → s.power.stopped = false → (∀ k ∈ s.coresOf n, (s.core k).atPoint = true) →
      ∃ t, exec (.contextSaveStart ctx) s = .next t ∧ (t.ctx n).saving = true ∧ (t.ctx n).st = .preempting ∧ ∀ k ∈ s.coresOf n, (∀ c, (∀ f ∈ ((s.core k).cl c).flight, f.need = 0) → ((t.core k).cl c).flight = []) ∧
        ∀ tk, (s.core k).task = some tk → tk.ver = true → (t.core k).version = []) ∧
    (x.saving = false → s.power.stopped = true ∨ (∃ k ∈ s.coresOf n, (s.core k).atPoint = false) → exec (.contextSaveStart ctx) s = .next s) ∧
    (x.saving = true → (∃ k ∈ x.coreList, (∃ c ∈ (s.core k).cp, c.ctx = ctx ∧ c.entry.isSome = true) ∨ ∃ f ∈ (s.core k).ws, f.ctx = ctx ∧ f.started = true) →
      exec (.contextSaveDone ctx) s = .next s) ∧
    (x.saving = true → (∀ k ∈ x.coreList, (∀ c ∈ (s.core k).cp, c.ctx = ctx → c.entry = none) ∧ ∀ f ∈ (s.core k).ws, f.ctx = ctx → f.started = false) → (∃ k ∈ s.coresOf n, (s.core k).atPoint = false) →
      ∃ t, exec (.contextSaveDone ctx) s = .next t ∧ (t.ctx n).saving = false ∧ (t.ctx n).st = .preempting ∧ t.cores = s.cores ∧ t.mem = s.mem) ∧
    (x.saving = true → (∀ k ∈ x.coreList, (∀ c ∈ (s.core k).cp, c.ctx = ctx → c.entry = none) ∧ ∀ f ∈ (s.core k).ws, f.ctx = ctx → f.started = false) → (∀ k ∈ s.coresOf n, (s.core k).atPoint = true) →
      ∃ t, exec (.contextSaveDone ctx) s = .next t ∧ (t.ctx n).st = .saved ∧ (t.ctx n).saving = false ∧ (∀ q ∈ s.quadsOf n, sget none t.quads q.1 = none) ∧
        (∀ k ∈ x.coreList, (t.core k).l1 = []) ∧ (∀ k, (t.core k).preempt.getLsbD n = false) ∧
        ∀ k ∈ s.coresOf n, (t.core k).task = none ∧ (t.core k).conts = [] ∧ (t.core k).sp = [] ∧ (t.core k).h = [] ∧ (t.core k).xb = (s.core k).xb ∧
          ∃ m, (k, m) ∈ (t.ctx n).saved ∧ m.task = (s.core k).task ∧ m.h = (s.core k).h ∧ m.sp = (s.core k).sp ∧ ∀ c, (m.cl c).pc = ((s.core k).cl c).pc ∧ (m.cl c).s = ((s.core k).cl c).s)

/-- A restore begins once the cores that the save area's header names are free of others' tasks, the clocks running; its groups take their quads back under new placement tags. It ends with the context RUNNING if a core has a task again and RESIDENT if none has, with the scalar registers that its
    record holds (R289, R290, R292, R295, R326). -/
def ContextRestores : Prop :=
  ∀ (s : State) (ctx : CtxId),
    let n := ctx.toNat
    let x := s.ctx n
    let named := s.savedCores n
    (x.st = .saved → x.restoring = true → s.power.stopped = false → (∀ k ∈ named.2, (s.core k).freeOfOthers n = true) →
      ∃ t, exec (.contextRestoreStart ctx) s = .next t ∧ (t.ctx n).st = .loading ∧ t.cores = s.cores ∧ t.nextTag = s.nextTag + x.savedQuads.length ∧
        ∀ g, x.savedQuads = [g] → sget none t.quads g.quad = some { launch := g.launch, first := g.first, tag := s.nextTag }) ∧
    (x.st = .saved → (∃ k ∈ named.2, (s.core k).freeOfOthers n = false) → exec (.contextRestoreStart ctx) s = .next s) ∧
    (∀ k, x.st = .loading → x.restoring = true → s.power.stopped = false → named.2 = [k] →
      let kept := sget Core.reset x.saved k
      let img := (named.1.saveRead n (recordBase x k) 0x100000).2
      ∃ t, exec (.contextRestoreDone ctx) s = .next t ∧ (t.ctx n).restoring = false ∧ (t.ctx n).saved = [] ∧ (t.core k).task = kept.task ∧
        (t.ctx n).st = (if kept.task.isSome then .running else .resident) ∧
        (∀ c (r : Reg), r ≠ 0 → ((t.core k).cl c).reg r = .ofNat 64 (ofBytes ((img.drop (0x100 + 256 * c.num + 8 * r.toNat)).take 8))) ∧
        (∀ j, j ≠ k → (t.core j).task = (s.core j).task))

/-- A seal ends once nothing is outstanding on the context's cores: the context is FREE, no core translates for its ASID and generation, no array names it, its export entries are gone, and its cores that no other context uses are zeroed (R305). -/
def ContextSeals : Prop :=
  ∀ (s : State) (ctx : CtxId),
    let n := ctx.toNat
    let x := s.ctx n
    x.st = .sealing →
    ((∃ k ∈ s.coresOf n, (s.core k).drained = false) → exec (.contextSealDone ctx) s = .next s) ∧
    ((∀ k ∈ s.coresOf n, (s.core k).drained = true) →
      ∃ t, exec (.contextSealDone ctx) s = .next t ∧ (t.ctx n).st = .free ∧ (t.ctx n).desc = Desc.reset ∧
        (∀ k, ∀ e ∈ (t.core k).rtb, ¬ (e.asid = x.asid ∧ e.gen = x.gen)) ∧ (∀ k, ∀ a ∈ (t.core k).xb, a.2.owner ≠ some ctx) ∧
        (∀ e ∈ t.exports, bits e.2.toNat 69 64 ≠ n) ∧ (∀ r, r < 65536 → (t.record n r).st = .blank) ∧
        ∀ k ∈ x.coreList, s.usedByOthers n k = false → (t.core k).task = none ∧ (t.core k).sp = [] ∧ (t.core k).h = [] ∧ (t.core k).vr = [] ∧ (t.core k).acc = [] ∧ (t.core k).bank = [])

end Sys2Proof.Spec

/-- Contexts: the host's commands, and the ends of loads, saves, restores and seals (R52, R288 to R291, R295, R301, R305, R326, R330). That a pre-empt or a restore in a state that R289 gives it no row for is ignored with a record is log 59 (DEDUCED), and that a load is refused during a turnover log 53. -/
def Obligations.Contexts : Prop := ContextCommands ∧ ContextLoads ∧ ContextSaves ∧ ContextRestores ∧ ContextSeals

namespace Sys2Proof.Spec

open Sys2Proof Sys2Proof.Machine

/-! Translations, queues, records. -/

/-- The waiting probe of a core that has `page` to walk: its token, register, range and lists. -/
structure Probes (k : Core) (page : Nat) (e : Cont) (tok : BitVec 32) (d : Reg) (base n : Nat) (w p r f : List Nat) : Prop where
  conts : k.conts = [e]
  waits : e.saving = false ∧ e.ready = false
  on : e.on = .probe tok d base n w p r f
  asks : page ∈ w

/-- The one continuation of a core now probes with these lists, and it is ready exactly when no page is left to walk or to wait for (R242). -/
def ProbeNow (m : Core) (e : Cont) (tok : BitVec 32) (d : Reg) (base n : Nat) (w p r f : List Nat) : Prop :=
  ∃ g, m.conts = [g] ∧ g.slot = e.slot ∧ g.task = e.task ∧ g.on = .probe tok d base n w p r f ∧ (g.ready = true ↔ w = [] ∧ p = [])

/-- A walk that meets an entry with V = 0 posts one fault request, which names the probe's token and the page, in the ring, and the page then waits for the host; with the ring full nothing is posted and the page counts as refused (R301, R347). A walk that succeeds or fails otherwise takes the page off the walk: it enters the
    core's buffer or the list of failures. -/
def PagesWalk : Prop :=
  ∀ (s : State) (core : CoreId) (page : BitVec 27) (e : Cont) (tok : BitVec 32) (d : Reg) (base n : Nat) (w p r f : List Nat),
    let k := s.core core.toNat
    let c := e.task.ctx.toNat
    let x := s.ctx c
    let res := s.walk c (dieOf core.toNat) page.toNat
    let rest := w.filter (· != page.toNat)
    Probes k page.toNat e tok d base n w p r f → k.rtbFind x page.toNat = none →
    (res.2 = .fault →
      ((x.fqHead - x.fqTail).toNat ≠ x.frqSize →
        ∃ t, exec (.pageWalk core page) s = .next t ∧ (t.ctx c).fqHead = x.fqHead + 1 ∧ t.irq.getLsbD (192 + c) = true ∧ ProbeNow (t.core core.toNat) e tok d base n rest (p ++ [page.toNat]) r f) ∧
      ((x.fqHead - x.fqTail).toNat = x.frqSize →
        ∃ t, exec (.pageWalk core page) s = .next t ∧ (t.ctx c).fqHead = x.fqHead ∧ t.irq = s.irq ∧ ProbeNow (t.core core.toNat) e tok d base n rest p (r ++ [page.toNat]) f) ∧
      exec (.walkComplete core page) s = .next s) ∧
    (∀ h hen, res.2 = .page h hen → exec (.pageWalk core page) s = .next s ∧
      ∃ t, exec (.walkComplete core page) s = .next t ∧ ProbeNow (t.core core.toNat) e tok d base n rest p r f ∧
        (t.core core.toNat).rtb.head? = some { asid := x.asid, gen := x.gen, vpage := page, h := h } ∧ (t.ctx c).fqHead = x.fqHead) ∧
    (res.2 = .fail → exec (.pageWalk core page) s = .next s ∧
      ∃ t, exec (.walkComplete core page) s = .next t ∧ ProbeNow (t.core core.toNat) e tok d base n rest p r (f ++ [page.toNat]) ∧ (t.core core.toNat).rtb = k.rtb)

/-- The host's ring counts: FQTAIL is stored; FRTAIL is stored, and while the context is RESIDENT or RUNNING every reply that stands in the ring is consumed, so that FRHEAD reaches it; in any other state the replies stay (R301, R302). -/
def RingCounts : Prop :=
  ∀ (s : State) (ctx : CtxId) (v : BitVec 32),
    let n := ctx.toNat
    (∃ t, exec (.fqtailWrite ctx v) s = .next t ∧ t.ctx n = { s.ctx n with fqTail := v } ∧ (∀ m, m ≠ n → t.ctx m = s.ctx m) ∧ { t with ctxs := s.ctxs } = s) ∧
    ((s.ctx n).st = .resident ∨ (s.ctx n).st = .running → ∃ t, exec (.frtailWrite ctx v) s = .next t ∧ (t.ctx n).frTail = v ∧ (t.ctx n).frHead = v ∧ (∀ m, m ≠ n → t.ctx m = s.ctx m)) ∧
    ((s.ctx n).st ≠ .resident → (s.ctx n).st ≠ .running → ∃ t, exec (.frtailWrite ctx v) s = .next t ∧ t.ctx n = { s.ctx n with frTail := v } ∧ { t with ctxs := s.ctxs } = s)

/-- After an invalidation of pages [first, first + count) of an ASID, in the generations that `hit` names: no core translates them, no walk cache holds an entry of the ASID, and no live handle of a running task of such a context names one of them; translations and handles of other pages stay (R352). -/
def Invalidated (s t : State) (asid : BitVec 16) (hit : BitVec 8 → Bool) (first count : Nat) : Prop :=
  t.tinvDone = true ∧ (∀ e ∈ t.walkCache, e.2.1 ≠ asid) ∧ t.mem = s.mem ∧
  (∀ k, (t.core k).rtb = (s.core k).rtb.filter fun e => !(e.asid == asid && hit e.gen && e.inPages first count)) ∧
  (∀ k tk, (s.core k).task = some tk → (s.ctx tk.ctx.toNat).st ≠ .free → (s.ctx tk.ctx.toNat).asid = asid → hit (s.ctx tk.ctx.toNat).gen = true → ∀ r,
    (t.core k).handle r = if first ≤ hVpage ((s.core k).handle r) ∧ hVpage ((s.core k).handle r) < first + count then (s.core k).handle r &&& ~~~(BitVec.ofNat 128 (2 ^ 63)) else (s.core k).handle r)

/-- The host's invalidations, with no BAR 2 write posted: the range of TINVARG, every page of a generation, every page of all generations; a count of 0 invalidates nothing, and the reserved code is ignored with a record (R352). Behind a posted write they do not take place yet (R349). -/
def HostInvalidates : Prop :=
  ∀ (s : State) (asid : BitVec 16) (gen : BitVec 8),
    (s.posted ≠ [] → exec (.tinvRange asid gen) s = .next { s with tinvcmd := tinvWord 0 asid.toNat gen.toNat, heldHit := true } ∧
      exec (.tinvAsidGen asid gen) s = .next { s with tinvcmd := tinvWord 1 asid.toNat gen.toNat, heldHit := true } ∧
      exec (.tinvAsidAllGen asid) s = .next { s with tinvcmd := tinvWord 2 asid.toNat 0, heldHit := true }) ∧
    (s.posted = [] →
    (bits s.tinvarg.toNat 63 32 ≠ 0 → ∃ t, exec (.tinvRange asid gen) s = .next t ∧ t.tinvcmd = tinvWord 0 asid.toNat gen.toNat ∧ Invalidated s t asid (· == gen) (bits s.tinvarg.toNat 26 0) (bits s.tinvarg.toNat 63 32)) ∧
    (bits s.tinvarg.toNat 63 32 = 0 → exec (.tinvRange asid gen) s = .next { s with tinvcmd := tinvWord 0 asid.toNat gen.toNat, tinvDone := true }) ∧
    (∃ t, exec (.tinvAsidGen asid gen) s = .next t ∧ t.tinvcmd = tinvWord 1 asid.toNat gen.toNat ∧ Invalidated s t asid (· == gen) 0 (2 ^ 27)) ∧
    (∃ t, exec (.tinvAsidAllGen asid) s = .next t ∧ t.tinvcmd = tinvWord 2 asid.toNat 0 ∧ Invalidated s t asid (fun _ => true) 0 (2 ^ 27))) ∧
    (∃ t, exec .tinvcmdReserved s = .next t ∧ Recorded 6 { s with tinvcmd := tinvWord 3 0 0 } t) ∧ (∃ t, exec .reccmdReserved s = .next t ∧ Recorded 6 { s with reccmd := 0xC0000000 } t)

end Sys2Proof.Spec

/-- Translations: a waiting probe's walks, the fault rings, and the host's invalidations (R242, R301, R302, R347, R349, R352). -/
def Obligations.Translations : Prop := PagesWalk ∧ RingCounts ∧ HostInvalidates

namespace Sys2Proof.Spec

open Sys2Proof Sys2Proof.Machine

/-- No queue but `q` differs, and nothing outside the queues. -/
def OnlyQueue (q : Nat) (s t : State) : Prop := (∀ p, p ≠ q → t.queue p = s.queue p) ∧ { t with queues := s.queues } = s

/-- A count has reached another, as their difference on 32 bits below 2^31 (R306). -/
def hasReached (x n : BitVec 32) : Prop := (x - n).toNat < 2 ^ 31

/-- The host's queue writes (R306, R310, R311): QBASE and QCFG are taken in DISABLED only; an enable starts the queue at 0 in IDLE, or in ERROR 7, and is refused while a turnover is under way (R386; log 53); a drain stops it, and DISABLES it when nothing is pending, and a QCFG with EN 0 whose other fields differ from those held drains it with a record (log 79; DEDUCED); a tail moves forward by no more than the ring holds, or is ERROR 1. -/
def QueueCommands : Prop :=
  ∀ (s : State) (q : QueueId) (v : BitVec 64) (n : BitVec 32) (cfg : Bool),
    let x := s.queue q.toNat
    let y := v ||| 0x8000000000000000
    let bad := 10 < bits v.toNat 3 0 ∨ bits v.toNat 47 40 = 0 ∨ (s.ctx (bits v.toNat 55 50)).loaded = false ∨ (v.getLsbD 62 = true ∧ x.host = true)
    (x.st = .disabled → ∃ t, exec (.qbaseWrite q cfg v) s = .next t ∧ OnlyQueue q.toNat s t ∧ (t.queue q.toNat).st = .disabled ∧
      (cfg = false → (t.queue q.toNat).qbase = v &&& 0x800FFFFFFFFFF000 ∧ (t.queue q.toNat).qcfg = x.qcfg) ∧
      (cfg = true → (t.queue q.toNat).qcfg = v &&& 0x40FFFFFF0000000F ∧ (t.queue q.toNat).qbase = x.qbase)) ∧
    (x.st ≠ .disabled → ∃ t, exec (.qbaseWrite q cfg v) s = .next t ∧ Recorded 6 s t) ∧
    (x.st ≠ .disabled ∨ s.turn ≠ none → ∃ t, exec (.queueEnable q v) s = .next t ∧ Recorded 6 s t) ∧
    ((v ^^^ x.qcfg) &&& 0x40FFFFFF0000000F = 0 → s.qcfgClear q v = exec (.queueDrain q) s) ∧
    ((v ^^^ x.qcfg) &&& 0x40FFFFFF0000000F ≠ 0 → ∃ u, Recorded 6 s u ∧ s.qcfgClear q v = exec (.queueDrain q) u) ∧
    (x.st = .disabled → s.turn = none → ∃ t, exec (.queueEnable q v) s = .next t ∧ OnlyQueue q.toNat s t ∧ (t.queue q.toNat).qcfg = y &&& 0xC0FFFFFF0000000F ∧
      (bad → (t.queue q.toNat).st = .error ∧ (t.queue q.toNat).err = 7) ∧
      (¬ bad → (t.queue q.toNat).st = .idle ∧ (t.queue q.toNat).head = 0 ∧ (t.queue q.toNat).tail = 0 ∧ (t.queue q.toNat).cseq = 0 ∧ (t.queue q.toNat).err = 0)) ∧
    (x.st = .disabled ∨ x.st = .draining → exec (.queueDrain q) s = .next s) ∧
    (x.st ≠ .disabled → x.st ≠ .draining → ∃ t, exec (.queueDrain q) s = .next t ∧ OnlyQueue q.toNat s t ∧ (t.queue q.toNat).pending = x.pending ∧ (t.queue q.toNat).qcfg.getLsbD 63 = false ∧
      (t.queue q.toNat).st = if x.pending = [] then .disabled else .draining) ∧
    (x.st = .disabled ∨ x.st = .draining ∨ x.st = .error ∨ x.devapp = true → ∃ t, exec (.queueTailWrite q n) s = .next t ∧ Recorded 6 s t) ∧
    (x.st = .idle ∨ x.st = .active ∨ x.st = .blocked → x.devapp = false → ∃ t, exec (.queueTailWrite q n) s = .next t ∧ OnlyQueue q.toNat s t ∧
      (¬ hasReached n x.tail ∨ x.size < (n - x.head).toNat → (t.queue q.toNat).st = .error ∧ (t.queue q.toNat).err = 1 ∧ (t.queue q.toNat).tail = x.tail) ∧
      (hasReached n x.tail → (n - x.head).toNat ≤ x.size → (t.queue q.toNat).tail = n ∧ (t.queue q.toNat).head = x.head ∧
        (t.queue q.toNat).st = if x.st = .idle ∧ n ≠ x.tail then .active else x.st))

/-- The head entry of a queue is handed when its conditions hold: HEAD moves on, its record is QUEUED, and one launch of the record's image, with the entry's patches, joins the launches under the next number; the queue is BLOCKED while they do not hold, and in ERROR with its code for an entry that is poisoned or
    malformed (R307, R308, R310, R315). A ring in host memory is read over the PCIe link, and waits while that carries no traffic (R369). -/
def EntriesHanded : Prop :=
  ∀ (s : State) (q : QueueId),
    let x := s.queue q.toNat
    let j := x.head + 1
    let n := x.ctx
    let u := (s.readEntry x j).1
    let v := (s.readEntry x j).2.1
    let lost := (s.readEntry x j).2.2
    let rec0 := bits v 15 0
    x.st = .active ∨ x.st = .blocked → x.head ≠ x.tail →
    (x.host = true → s.linkUp 28 = false → exec (.queueHandEntry q) s = .next s) ∧
    (x.host = false ∨ s.linkUp 28 = true →
      (∀ c, (if lost then some 3 else u.entryBad q.toNat x j v) = some c →
        ∃ t, exec (.queueHandEntry q) s = .next t ∧ OnlyQueue q.toNat u t ∧ (t.queue q.toNat).st = .error ∧ (t.queue q.toNat).err = .ofNat 8 c ∧ (t.queue q.toNat).eidx = j) ∧
      (lost = false → u.entryBad q.toNat x j v = none → u.entryFree x j v = false → ∃ t, exec (.queueHandEntry q) s = .next t ∧ OnlyQueue q.toNat u t ∧ t.queue q.toNat = { x with st := .blocked }) ∧
      (lost = false → u.entryBad q.toNat x j v = none → u.entryFree x j v = true →
        ∃ t, exec (.queueHandEntry q) s = .next t ∧ (t.queue q.toNat).head = j ∧ (t.queue q.toNat).pending = x.pending ++ [j] ∧
          (t.queue q.toNat).st = (if j = x.tail then .idle else .active) ∧ (∀ p, p ≠ q.toNat → t.queue p = u.queue p) ∧
          (t.record n rec0).st = .queued ∧ (t.record n rec0).image = (u.record n rec0).image ∧ (t.ctx n).launchCnt = (u.ctx n).launchCnt + 1 ∧ t.nextLaunch = u.nextLaunch + 1 ∧
          (∃ l, t.launches = u.launches ++ [l] ∧ l.id = u.nextLaunch ∧ l.recNo = rec0 ∧ l.queue = q ∧ l.entry = j ∧ l.lser = (u.ctx n).launchCnt ∧ l.superstep = 0 ∧ l.groups = [] ∧ l.retiredNo = 0 ∧
            (bits v 22 20 = 0 → l.image = (u.record n rec0).image)) ∧ t.cores = u.cores ∧ t.mem = u.mem))

/-- The entry of a launch that has reached RETIRED, before every other of its queue that has, retires: its completion value is written, CSEQ covers it when every earlier entry has retired, its vector is raised when it asks, and its record is ARMED again or BLANK (R309, R315). Shown for the entry that CSEQ covers next, with
    none retired after it. While a value for host memory cannot be written, since the PCIe link carries no traffic, the entry waits (R369). -/
def EntriesRetire : Prop :=
  ∀ (s : State) (q : QueueId) (l : Launch) (pre post : List Launch),
    let x := s.queue q.toNat
    s.launches = pre ++ l :: post → (∀ y ∈ pre, y.queue ≠ q ∨ y.entry ≠ l.entry) → l.queue = q → l.retiredNo ≠ 0 → (∀ y ∈ s.launches, y.queue = q → y.retiredNo ≠ 0 → l.retiredNo ≤ y.retiredNo) →
    ((∃ a v, l.cpl = some (a, v) ∧ a.getLsbD 63 = true) → s.linkUp 28 = false → exec (.queueEntryRetire q l.entry) s = .next s) ∧
    ((∀ a v, l.cpl = some (a, v) → a.getLsbD 63 = true → s.linkUp 28 = true) → l.entry = x.cseq + 1 → x.retired = [] → x.st ≠ .draining →
      ∃ t, exec (.queueEntryRetire q l.entry) s = .next t ∧ (t.queue q.toNat).cseq = x.cseq + 1 ∧ (t.queue q.toNat).retired = [] ∧ l.entry ∉ (t.queue q.toNat).pending ∧ (t.queue q.toNat).head = x.head ∧
        (l.dropped = false → (t.record l.ctx.toNat l.recNo).st = (if recRearm l.image.toNat then .armed else .blank)) ∧ (∀ y ∈ t.launches, y.id ≠ l.id) ∧
        (l.intr = true → t.irq.getLsbD x.vec = true) ∧ (l.intr = false → t.irq = s.irq) ∧
        (∀ a v, l.cpl = some (a, v) → a.getLsbD 63 = true → ∀ j, j < 8 → t.hostByte (bits a.toNat 51 0 + j) = .ofNat 8 (v.toNat / 256 ^ j)) ∧
        (l.cpl = none → t.mem = s.mem ∧ t.hostMem = s.hostMem))

end Sys2Proof.Spec

/-- Queues: the host's writes, handing and retirement (R306 to R311, R315); of a QCFG with EN 0, log 79 (DEDUCED); of an enable during a turnover, log 53. -/
def Obligations.Queues : Prop := QueueCommands ∧ EntriesHanded ∧ EntriesRetire

namespace Sys2Proof.Spec

open Sys2Proof Sys2Proof.Machine

/-- RECSTAT after a command on record `r` of context `n` (R318): the record's state, the command's code, the context and the record. -/
def recStat (st : RecSt) (code n r : Nat) : Word := .ofNat 64 (st.code + 2 ^ 8 * code + 2 ^ 42 * n + 2 ^ 48 * r)

/-- The word of RECCMD (R318). -/
def recWord (op n r : Nat) : Word := .ofNat 64 (r + 2 ^ 24 * n + 2 ^ 30 * op)

/-- The checks that an arm makes of a record's fields are those of R316, in their order. -/
def ArmChecks : Prop := ∀ (x : Ctx) (v : BitVec 2048), armCode x v.toNat false false = armVerdict x v.toNat

/-- The host's record commands (R315, R316, R318), with no BAR 2 write posted: an arm of a record that is BLANK or PATCHED takes its image and ARMS it, or answers the first code of R316; a blank makes a PATCHED or ARMED record
    BLANK, and a FAULTED one, whose launch is gone then with its tasks and continuations, and leaves a record from QUEUED to RETIRED as it is, with an error-log record; a query changes nothing; each leaves its word in RECCMD and answers in RECSTAT. For a context in FREE or SEALING, and while a turnover is under way (R386; log 53), they are
    ignored with a record. -/
def RecordCommands : Prop :=
  ∀ (s : State) (ctx : CtxId) (r : BitVec 16), s.posted = [] →
    let n := ctx.toNat
    let x := s.ctx n
    let z := s.record n r.toNat
    let at' := recordAt x r.toNat
    let v := recordBytes s at'
    ((x.st = .free ∨ x.st = .sealing ∨ s.turn ≠ none) → ∀ i op, (i = .recArm ctx r ∧ op = 0) ∨ (i = .recBlank ctx r ∧ op = 1) ∨ (i = .recQuery ctx r ∧ op = 2) →
      ∃ t, exec i s = .next t ∧ Recorded 6 { s with reccmd := recWord op n r.toNat } t) ∧
    (x.st ≠ .free → x.st ≠ .sealing → s.turn = none →
      (∃ t, exec (.recQuery ctx r) s = .next t ∧ t = { s with reccmd := recWord 2 n r.toNat, recstat := recStat z.st 0 n r.toNat }) ∧
      (z.st = .blank ∨ z.st = .patched ∨ z.st = .armed → ∃ t, exec (.recBlank ctx r) s = .next t ∧ (t.record n r.toNat).st = .blank ∧ t.recstat = recStat .blank 0 n r.toNat ∧
        (∀ m j, (m ≠ n ∨ j ≠ r.toNat) → j < 65536 → t.record m j = s.record m j) ∧ { t with recs := s.recs, recstat := s.recstat, reccmd := s.reccmd } = s) ∧
      (z.st = .queued ∨ z.st = .dispatching ∨ z.st = .running ∨ z.st = .retired → ∃ u, Recorded 6 { s with reccmd := recWord 1 n r.toNat } u ∧
        exec (.recBlank ctx r) s = .next { u with recstat := recStat z.st 0 n r.toNat }) ∧
      (z.st = .faulted → ∃ t, exec (.recBlank ctx r) s = .next t ∧ (t.record n r.toNat).st = .blank ∧ t.recstat = recStat .blank 0 n r.toNat ∧ t.mem = s.mem ∧
        (s.launchOf n r.toNat = none → t.launches = s.launches ∧ t.cores = s.cores) ∧
        ∀ l, s.launchOf n r.toNat = some l → (∀ y ∈ t.launches, y.id ≠ l.id) ∧
          ∀ g ∈ l.groups, (g.st = .placed ∨ g.st = .running ∨ g.st = .draining) → ∀ j, j < 4 → let k := t.core (4 * g.quad + j)
            (∀ tk, k.task = some tk → ¬ (tk.launch = l.id ∧ tk.first = g.first)) ∧ (∀ e ∈ k.conts, ¬ (e.task.launch = l.id ∧ e.task.first = g.first)) ∧
            ∀ tk, .task tk ∈ k.ready → ¬ (tk.launch = l.id ∧ tk.first = g.first)) ∧
      (z.st ≠ .blank → z.st ≠ .patched → ∃ t, exec (.recArm ctx r) s = .next t ∧ t = { s with reccmd := recWord 0 n r.toNat, recstat := recStat z.st 1 n r.toNat }) ∧
      (z.st = .blank ∨ z.st = .patched → PlainAt s at' → PlainAt s (at' + 128) →
        ∃ t, exec (.recArm ctx r) s = .next t ∧ t.mem = s.mem ∧ t.cores = s.cores ∧ t.reccmd = recWord 0 n r.toNat ∧
          (armVerdict x v = 0 → t.record n r.toNat = { st := .armed, image := .ofNat 2048 v } ∧ t.recstat = recStat .armed 0 n r.toNat) ∧
          (armVerdict x v ≠ 0 → t.recs = s.recs ∧ t.recstat = recStat z.st (armVerdict x v) n r.toNat) ∧
          (∀ m j, (m ≠ n ∨ j ≠ r.toNat) → j < 65536 → t.record m j = s.record m j)))

/-- RPOOL is taken while every record of the context is BLANK, and otherwise the write is ignored with a record (R312). A barrier's BCFG is taken while the barrier is IDLE, and otherwise the write is ignored with a record (R334). -/
def PoolAndBarrierWrites : Prop :=
  ∀ (s : State) (ctx : CtxId) (v : BitVec 64) (dev : Bool) (num : BitVec 9),
    let n := ctx.toNat
    let key := if dev then 2048 + num.toNat % 256 else 1024 + num.toNat
    ((∀ e ∈ s.recs, e.1 / 65536 = n → e.2.st = .blank) → ∃ t, exec (.rpoolWrite ctx v) s = .next t ∧ t.ctx n = { s.ctx n with rpool := v &&& 0xFFFFFFF000000 } ∧ (∀ m, m ≠ n → t.ctx m = s.ctx m) ∧ { t with ctxs := s.ctxs } = s) ∧
    ((∃ e ∈ s.recs, e.1 / 65536 = n ∧ e.2.st ≠ .blank) → ∃ t, exec (.rpoolWrite ctx v) s = .next t ∧ Recorded 6 s t) ∧
    ((s.bar key).st = 0 → ∃ t, exec (.bcfgWrite dev num v) s = .next t ∧ sget 0 t.bcfg key = v &&& 0xBF ∧ (∀ j, j ≠ key → sget 0 t.bcfg j = sget 0 s.bcfg j) ∧ { t with bcfg := s.bcfg } = s) ∧
    ((s.bar key).st ≠ 0 → ∃ t, exec (.bcfgWrite dev num v) s = .next t ∧ Recorded 6 s t)

end Sys2Proof.Spec

/-- Launch records and the writes of RPOOL and BCFG (R312, R315, R316, R318, R334). That an arm passes a KCDST with EN 0 is log 41, that it tests its entry PCs within their pages log 68 (both DEDUCED), and that a command is refused during a turnover log 53. -/
def Obligations.RecordsAndPools : Prop := ArmChecks ∧ RecordCommands ∧ PoolAndBarrierWrites

namespace Sys2Proof.Spec

open Sys2Proof Sys2Proof.Machine

/-! Frames and their motion. -/

/-- A location a frame may take under a scheme (R354): in a tier, and in slice storage only under scheme 7 in a way that is STORAGE. -/
def locationCode (s : State) (loc : BitVec 31) (ilv : BitVec 3) : Nat :=
  match tierOf (loc.toNat * 2 ^ 21) with
  | none => 2
  | some 3 => if ilv = 7 ∧ s.way (wayOf (loc.toNat * 2 ^ 21)).1 (wayOf (loc.toNat * 2 ^ 21)).2 = .storage then 0 else 6
  | some _ => 0

/-- The word of FRMCMD, a field that the command does not use at 0 (R354). -/
def frmWord (op f : Nat) (loc : BitVec 31) (ilv : BitVec 3) : Word := .ofNat 64 (f + 2 ^ 28 * loc.toNat + 2 ^ 59 * ilv.toNat + 2 ^ 62 * op)

/-- A frame command, held in FRMCMD as it was written, has answered in FRMSTAT and changed nothing else. -/
def Answered (s t : State) (w : Word) (code : Nat) : Prop := t = { s with frmcmd := w, frmstat := .ofNat 8 code }

/-- Other frames stay where they are; an access of a ring may have counted at them. -/
def OthersStay (f : Nat) (s t : State) : Prop :=
  ∀ g, g ≠ f → (t.frame g).st = (s.frame g).st ∧ (t.frame g).loc = (s.frame g).loc ∧ (t.frame g).dest = (s.frame g).dest ∧ (t.frame g).ilv = (s.frame g).ilv

/-- The motion of a frame has ended as `last` says, and the frame is where it was, RESIDENT (R283, R361). -/
def Ended (s t : State) (f : Nat) (last : BitVec 3) : Prop :=
  (t.frame f).st = .resident ∧ (t.frame f).last = last ∧ (t.frame f).loc = (s.frame f).loc ∧ (t.frame f).tier = (s.frame f).tier ∧ (t.frame f).parked = false ∧
  OthersStay f s t ∧ t.cores = s.cores

/-- A frame is UNMAPPED, and no handle register names it with V set (R239, R354). -/
def Unmapped (s t : State) (f : Nat) : Prop :=
  (t.frame f).st = .unmapped ∧ (t.frame f).hoten = false ∧
  ∀ k r, (t.core k).handle r = if hFrame ((s.core k).handle r) = f then (s.core k).handle r &&& ~~~(BitVec.ofNat 128 (2 ^ 63)) else (s.core k).handle r

/-- The host's frame commands (R354, R361); each leaves its word in FRMCMD. That FRMSTAT has the codes in this order where several apply, and 0 for the unmap of a COMMITTING frame, is log 45 (DEDUCED). -/
def FrameCommands : Prop :=
  ∀ (s : State) (frame : FrameId) (loc : BitVec 31) (ilv : BitVec 3),
    let f := frame.toNat
    let e := s.frame f
    let map := frmWord 0 f loc ilv
    let unmap := frmWord 1 f 0 0
    let migrate := frmWord 2 f loc 0
    let abort := frmWord 3 f 0 0
    (s.fltlim.toNat ≤ f →
      (∃ t, exec (.frameMap frame loc ilv) s = .next t ∧ Answered s t map 5) ∧ (∃ t, exec (.frameUnmap frame) s = .next t ∧ Answered s t unmap 5) ∧
      (∃ t, exec (.frameMigrate frame loc) s = .next t ∧ Answered s t migrate 5) ∧ ∃ t, exec (.frameAbort frame) s = .next t ∧ Answered s t abort 5) ∧
    (f < s.fltlim.toNat →
      (e.st ≠ .unmapped → ∃ t, exec (.frameMap frame loc ilv) s = .next t ∧ Answered s t map 1) ∧
      (e.st = .unmapped → locationCode s loc ilv ≠ 0 → ∃ t, exec (.frameMap frame loc ilv) s = .next t ∧ Answered s t map (locationCode s loc ilv)) ∧
      (e.st = .unmapped → locationCode s loc ilv = 0 → ∃ t, exec (.frameMap frame loc ilv) s = .next t ∧ t.frmstat = 0 ∧ t.frmcmd = map ∧ (∀ g, g ≠ f → t.frame g = s.frame g) ∧ t.cores = s.cores ∧
        (t.frame f).st = .resident ∧ (t.frame f).loc = loc ∧ (t.frame f).ilv = ilv ∧ some (t.frame f).tier.toNat = tierOf (loc.toNat * 2 ^ 21) ∧ (t.frame f).hot = 0 ∧ (t.frame f).hoten = false ∧
        (t.frame f).last = 0) ∧
      (e.st = .unmapped → ∃ t, exec (.frameUnmap frame) s = .next t ∧ Answered s t unmap 1) ∧
      (e.st = .resident → ∃ t, exec (.frameUnmap frame) s = .next t ∧ t.frmstat = 0 ∧ t.frmcmd = unmap ∧ Unmapped s t f ∧ ∀ g, g ≠ f → t.frame g = s.frame g) ∧
      (e.st = .inMotion → ∃ t, exec (.frameUnmap frame) s = .next t ∧ t.frmstat = 0 ∧ t.frmcmd = unmap ∧ Unmapped s t f ∧ (t.frame f).last = 5 ∧ OthersStay f s t) ∧
      (e.st = .committing → ∃ t, exec (.frameUnmap frame) s = .next t ∧ t.frmstat = 0 ∧ t.frmcmd = unmap ∧ t.frame f = { e with unmapPending := true }) ∧
      (e.st ≠ .resident → ∃ t, exec (.frameMigrate frame loc) s = .next t ∧ Answered s t migrate 1) ∧
      (e.st = .resident → locationCode s loc e.ilv ≠ 0 → ∃ t, exec (.frameMigrate frame loc) s = .next t ∧ Answered s t migrate (locationCode s loc e.ilv)) ∧
      (e.st = .resident → locationCode s loc e.ilv = 0 → tierOf (loc.toNat * 2 ^ 21) = some e.tier.toNat → ∃ t, exec (.frameMigrate frame loc) s = .next t ∧ Answered s t migrate 3) ∧
      (e.st = .resident → locationCode s loc e.ilv = 0 → tierOf (loc.toNat * 2 ^ 21) ≠ some e.tier.toNat → s.freeSlot f = none → ∃ t, exec (.frameMigrate frame loc) s = .next t ∧ Answered s t migrate 4) ∧
      (∀ slot, e.st = .resident → locationCode s loc e.ilv = 0 → tierOf (loc.toNat * 2 ^ 21) ≠ some e.tier.toNat → s.freeSlot f = some slot →
        ∃ t, exec (.frameMigrate frame loc) s = .next t ∧ t.frmstat = 0 ∧ t.frmcmd = migrate ∧ (t.frame f).st = .inMotion ∧ (t.frame f).dest = loc ∧ (t.frame f).loc = e.loc ∧ (t.frame f).slot = slot ∧
          (t.frame f).wmark = 0 ∧ (t.frame f).bitmap = 0 ∧ (t.frame f).parked = s.unreachable { e with dest := loc } ∧ ∀ g, g ≠ f → t.frame g = s.frame g) ∧
      (e.st = .inMotion → ∃ t, exec (.frameAbort frame) s = .next t ∧ t.frmstat = 0 ∧ t.frmcmd = abort ∧ Ended s t f 2) ∧
      (e.st ≠ .inMotion → ∃ t, exec (.frameAbort frame) s = .next t ∧ Answered s t abort 1))

/-- A frame in motion whose stream runs: neither parked nor to be, and no end of it in sight. -/
structure Streams (s : State) (e : Frame) : Prop where
  moves : e.st = .inMotion
  runs : e.parked = false
  sound : s.destFenced e = false ∧ e.destLost = false
  near : s.unreachable e = false

/-- The two places of a frame in motion, for its forwarder. -/
def motionSrc (f : Nat) (e : Frame) : Acc := { base := e.loc.toNat * 2 ^ 21, ilv := e.ilv.toNat, attr := none, kd := none, frame := some f }
/-- The destination. -/
def motionDst (f : Nat) (e : Frame) : Acc := { motionSrc f e with base := e.dest.toNat * 2 ^ 21 }

/-- The steps of a motion (R282, R283, R361, R362, R367): the lowest line not yet copied goes to the destination and WMARK counts it; with every line copied the frame commits; at the commit's end it is RESIDENT at the destination, or UNMAPPED when an unmap waited. A destination that is fenced, lost to a write or out of reach
    ends the motion with LAST 4; a stream whose port carries no traffic parks, and one parked for 100 ms is aborted with LAST 3. The line copy, which takes the block's record with it (R109), is shown for lines that nothing holds and that hold sound data. That a destination out of reach at its copy gives LAST 4 is log 44 (DEDUCED). -/
def MotionSteps : Prop :=
  ∀ (s : State) (frame : FrameId),
    let f := frame.toNat
    let e := s.frame f
    let src := motionSrc f e
    let dst := motionDst f e
    (∀ i, Streams s e → i < 16384 → e.copied i = false → (∀ j, j < i → e.copied j = true) → s.isHeld src (128 * i) = false → s.isHeld dst (128 * i) = false →
      (s.reach dst (128 * i) = false → ∃ t, exec (.migrationLineCopy frame) s = .next t ∧ Ended s t f 4) ∧
      (let from' := s.spot src (128 * i)
       let to' := s.spot dst (128 * i)
       s.reach src (128 * i) = true → s.reach dst (128 * i) = true → s.unfound src (128 * i) = false → sget false s.weak (s.lineNo src (128 * i)) = false →
       (s.line (s.lineNo src (128 * i))).poisoned = false → (∀ d ∈ s.digests, d.2.dirty = false) → s.way0 (src.cell (128 * i)) = none → s.way0 (dst.cell (128 * i)) = none →
       (∀ k, (s.recKey dst (128 * i) = some k ∨ s.recKey src (128 * i) = some k) → RecordNear s k ∧ s.lineNo (State.planeAcc (k / 128 * 128)).1 (State.planeAcc (k / 128 * 128)).2 ≠ s.lineNo dst (128 * i)) →
       ∃ t, exec (.migrationLineCopy frame) s = .next t ∧ (∀ j, j < 128 → t.memByte (to' + j) = s.memByte (from' + j)) ∧ (t.line (s.lineNo dst (128 * i))).poisoned = false ∧
         t.frame f = { e with bitmap := e.bitmap ||| .ofNat 16384 (2 ^ i), wmark := e.wmark + 1 } ∧ (∀ g, g ≠ f → t.frame g = s.frame g) ∧ t.cores = s.cores ∧
         (∀ y, (y < to' ∨ to' + 128 ≤ y) → t.memByte y = s.memByte y) ∧
         ∀ j k, s.recKey src (128 * i) = some j → s.recKey dst (128 * i) = some k → (way0Key j = way0Key k → j / 128 = k / 128) → t.recBits k = DRec.toBits (s.digestRec j))) ∧
    (e.st = .inMotion → s.destFenced e = true ∨ e.destLost = true →
      (∃ t, exec (.migrationLineCopy frame) s = .next t ∧ Ended s t f 4) ∧ ∃ t, exec (.migrationCommit frame) s = .next t ∧ Ended s t f 4) ∧
    (e.st = .inMotion → s.destFenced e = false → e.destLost = false → s.unreachable e = true → e.parked = false →
      ∃ t, exec (.migrationLineCopy frame) s = .next t ∧ t.frame f = { e with parked := true, parkedAt := s.us } ∧ ∀ g, g ≠ f → t.frame g = s.frame g) ∧
    (e.st ≠ .inMotion → exec (.migrationLineCopy frame) s = .next s ∧ exec (.migrationCommit frame) s = .next s) ∧
    (Streams s e → e.wmark = 16384 → ∃ t, exec (.migrationCommit frame) s = .next t ∧ t.frame f = { e with st := .committing } ∧ ∀ g, g ≠ f → t.frame g = s.frame g) ∧
    (Streams s e → e.wmark ≠ 16384 → exec (.migrationCommit frame) s = .next s) ∧
    (e.st = .committing → ∃ t, exec (.migrationCommitDone frame) s = .next t ∧ (t.frame f).loc = e.dest ∧ (t.frame f).last = 1 ∧ (t.frame f).st = (if e.unmapPending then .unmapped else .resident) ∧
      OthersStay f s t ∧ (e.unmapPending = false → t.cores = s.cores) ∧ (e.unmapPending = true → Unmapped s t f)) ∧
    (e.st ≠ .committing → exec (.migrationCommitDone frame) s = .next s) ∧
    (e.st = .inMotion → e.parked = true → e.parkedAt + 100000 ≤ s.us → ∃ t, exec (.migrationParkTimeout frame) s = .next t ∧ Ended s t f 3) ∧
    (s.us < e.parkedAt + 100000 → exec (.migrationParkTimeout frame) s = .next s)

/-- FLTLIM takes a value up to 2^28 and ignores a greater one with a record (R353); a decay halves HOT of every frame (R363). -/
def LimitAndDecay : Prop :=
  ∀ (s : State) (v : BitVec 64),
    (v.toNat ≤ 2 ^ 28 → ∃ t, exec (.fltlimWrite v) s = .next t ∧ t = { s with fltlim := v }) ∧
    (2 ^ 28 < v.toNat → ∃ t, exec (.fltlimWrite v) s = .next t ∧ Recorded 6 s t) ∧
    (∃ t, exec .hotDecay s = .next t ∧ ∀ f, (s.frames.map (·.1)).count f ≤ 1 → t.frame f = { s.frame f with hot := .ofNat 16 ((s.frame f).hot.toNat / 2) })

end Sys2Proof.Spec

/-- Frames: the host's commands, the steps of a motion, the limit and the decay (R109, R282, R283, R353, R354, R361 to R363). The order of the codes and the unmap of a COMMITTING frame are log 45, and LAST 4 for a destination out of reach log 44 (both DEDUCED). -/
def Obligations.Frames : Prop := FrameCommands ∧ MotionSteps ∧ LimitAndDecay

namespace Sys2Proof.Spec

open Sys2Proof Sys2Proof.Machine

/-- No dictionary slot but `n` differs, and nothing outside the slots. -/
def OnlyDict (n : Nat) (s t : State) : Prop := (∀ m, m ≠ n → t.dict m = s.dict m) ∧ { t with dicts := s.dicts } = s

/-- Dictionary slots (R100, R101): each command is held in DICTCMD as it was written. A load starts in EMPTY; its end ARMS the slot with the image, or empties it when the image is poisoned or its code over-subscribed; an ARMED slot is pinned, unpinned while COUNT is not 0, and retires; every other command is ignored with a
    record. That a retire with COUNT 0 empties the slot at once, and that the image is read at the load's end, is log 46 (DEDUCED). -/
def DictionarySlots : Prop :=
  ∀ (s : State) (slot : BitVec 6) (addr : BitVec 52),
    let n := slot.toNat
    let d := s.dict n
    let word (op a : Nat) : State := { s with dictcmd := .ofNat 64 (n + 2 ^ 6 * op + 2 ^ 8 * a) }
    let load := word 0 (addr.toNat / 256)
    let retire := word 1 0
    let pin := word 2 0
    let unpin := word 3 0
    let u := (s.devRead d.addr.toNat 1184).1
    let bs := (s.devRead d.addr.toNat 1184).2.1
    let img : Sparse Byte := (List.range 1184).foldl (fun m j => sset 0 m j (bs.getD j 0)) []
    let spoiled := (s.devRead d.addr.toNat 1184).2.2 = true ∨ overSubscribed img = true
    (d.st = .empty → ∃ t, exec (.dictLoad slot addr) s = .next t ∧ (t.dict n).st = .loading ∧ (t.dict n).addr.toNat = addr.toNat / 256 * 256 ∧ OnlyDict n load t) ∧
    (d.st ≠ .empty → ∃ t, exec (.dictLoad slot addr) s = .next t ∧ Recorded 5 load t) ∧
    (d.st = .armed → ∃ t, exec (.dictPin slot) s = .next t ∧ t.dict n = { d with count := d.count + 1 } ∧ OnlyDict n pin t) ∧
    (d.st ≠ .armed → (∃ t, exec (.dictPin slot) s = .next t ∧ Recorded 5 pin t) ∧ (∃ t, exec (.dictUnpin slot) s = .next t ∧ Recorded 5 unpin t) ∧ ∃ t, exec (.dictRetire slot) s = .next t ∧ Recorded 5 retire t) ∧
    (d.st = .armed → d.count ≠ 0 → ∃ t, exec (.dictUnpin slot) s = .next t ∧ t.dict n = { d with count := d.count - 1 } ∧ OnlyDict n unpin t) ∧
    (d.st = .armed → d.count = 0 → ∃ t, exec (.dictUnpin slot) s = .next t ∧ Recorded 5 unpin t) ∧
    (d.st = .armed → ∃ t, exec (.dictRetire slot) s = .next t ∧ OnlyDict n retire t ∧ (d.count = 0 → (t.dict n).st = .empty ∧ (t.dict n).image = []) ∧ (d.count ≠ 0 → t.dict n = { d with st := .retiring })) ∧
    (d.st ≠ .loading → exec (.dictLoadDone slot) s = .next s) ∧
    (d.st = .loading → bs.length = 1184 →
      (¬ spoiled → ∃ t, exec (.dictLoadDone slot) s = .next t ∧ (t.dict n).st = .armed ∧ (t.dict n).count = 0 ∧ (t.dict n).image = img ∧ OnlyDict n u t) ∧
      (spoiled → ∃ t, exec (.dictLoadDone slot) s = .next t ∧ t.dict n = Dict.reset ∧ ∀ m, m ≠ n → t.dict m = s.dict m))

/-- No way but one differs. -/
def OnlyWay (slice way : Nat) (s t : State) : Prop := ∀ b w, w < 16 → (b ≠ slice ∨ w ≠ way) → t.way b w = s.way b w

/-- A line that a slice holds lies in that slice (R92). -/
def lineIn (slice : Nat) (e : Nat × SLine) : Prop := (homeOf (128 * e.1)).1 = slice

/-- Ways and demotions (R93, R95): a flushed way holds no line and is zeroed next; a zeroed way is STORAGE or CACHE as it was to be, with every byte of its 32 MiB zero and no other byte changed; RDEMOTE holds the chain until its demotion ends and then reads 0, and the chain's lines in the slice are then clean and least recently
    used. -/
def WaysChange : Prop :=
  ∀ (s : State) (slice way : BitVec 4) (chain : BitVec 8),
    let b := slice.toNat
    let w := way.toNat
    let a := 2 ^ 42 + b * 2 ^ 29 + w * 2 ^ 25
    let c := sget 0 s.rdemote b
    (s.way b w = .flushing → ∃ t, exec (.wayFlushDone slice way) s = .next t ∧ t.way b w = .zeroS ∧ OnlyWay b w s t ∧ (∀ e ∈ t.slices, ¬ (lineIn b e ∧ e.2.way = way)) ∧
      (∀ e ∈ s.slices, ¬ (lineIn b e ∧ e.2.way = way) → e ∈ t.slices) ∧ { t with ways := s.ways, slices := s.slices } = s) ∧
    (s.way b w ≠ .flushing → exec (.wayFlushDone slice way) s = .next s) ∧
    (s.way b w = .zeroS ∨ s.way b w = .zeroC → ∃ t, exec (.wayZeroDone slice way) s = .next t ∧ t.way b w = (if s.way b w = .zeroS then .storage else .cache) ∧ OnlyWay b w s t ∧
      (∀ y, a ≤ y → y < a + 2 ^ 25 → t.memByte y = 0) ∧ (∀ y, y < a ∨ a + 2 ^ 25 ≤ y → t.memByte y = s.memByte y) ∧ t.cores = s.cores) ∧
    (s.way b w ≠ .zeroS → s.way b w ≠ .zeroC → exec (.wayZeroDone slice way) s = .next s) ∧
    (∃ t, exec (.rdemoteWrite slice chain) s = .next t ∧ sget 0 t.rdemote b = chain ∧ (∀ j, j ≠ b → sget 0 t.rdemote j = sget 0 s.rdemote j) ∧ { t with rdemote := s.rdemote } = s) ∧
    (∃ t, exec (.demotionDone slice) s = .next t ∧ sget 0 t.rdemote b = 0 ∧ (∀ j, j ≠ b → sget 0 t.rdemote j = sget 0 s.rdemote j) ∧
      (c ≠ 0 → ∀ e ∈ t.slices, lineIn b e → e.2.chain = c → e.2.dirty = false ∧ e.2.last = 0) ∧ (∀ e ∈ s.slices, (c = 0 ∨ ¬ lineIn b e ∨ e.2.chain ≠ c) → e ∈ t.slices) ∧
      { t with rdemote := s.rdemote, slices := s.slices } = s)

end Sys2Proof.Spec

/-- Dictionary slots, ways and demotions (R93, R95, R100, R101). That a retire with COUNT 0 empties its slot at once, and that an image is read at the load's end, is log 46 (DEDUCED). -/
def Obligations.SlicesAndDictionaries : Prop := DictionarySlots ∧ WaysChange

namespace Sys2Proof.Spec

open Sys2Proof Sys2Proof.Machine

/-- A sample of power and temperature moves the clock step (R20, R23): up, with its cause, at the second sample running above the cap or with a die above 95 °C, and no further than 6; down after 100 samples running below nine tenths of the cap with every die below 90 °C, and no further than 0; a move stops the clock and counts
    in CHANGES. (That the power rule stands before the temperature rule, and cause 3 for a cap that was lowered, are readings: log 48, DEDUCED.) -/
def StepMoves (p q : Power) (watts temp : Nat) : Prop :=
  let above := watts > p.cap ∧ 1 ≤ p.above
  let below := watts * 10 < p.cap * 9 ∧ temp < 90 ∧ 99 ≤ p.below
  q.cap = p.cap ∧ q.tripped = p.tripped ∧
  (above ∨ 95 < temp → p.step.toNat < 6 → q.step = p.step + 1 ∧ q.stopped = true ∧ q.cause = (if above then (if p.capLowered then 3 else 1) else 2) ∧
    q.changes = if p.changes = .allOnes 32 then p.changes else p.changes + 1) ∧
  (above ∨ 95 < temp → 6 ≤ p.step.toNat → q.step = p.step ∧ q.changes = p.changes ∧ q.stopped = p.stopped) ∧
  (¬ (above ∨ 95 < temp) → below → p.step ≠ 0 → q.step = p.step - 1 ∧ q.stopped = true ∧ q.cause = p.cause ∧ q.changes = if p.changes = .allOnes 32 then p.changes else p.changes + 1) ∧
  (¬ (above ∨ 95 < temp) → ¬ below ∨ p.step = 0 → q.step = p.step ∧ q.changes = p.changes ∧ q.stopped = p.stopped ∧ q.cause = p.cause)

end Sys2Proof.Spec

/-- The power manager (R20 to R23): samples, the end of a step change, the cap, the alarm at step 6 and the thermal trip, after which a step is the fault heldInReset. The alarm is raised once in an excursion, at its 100th sample (log 48; DEDUCED). -/
def Obligations.PowerManager : Prop :=
  ∀ (s : State) (watts temp : Nat),
    let p := s.power
    (∃ t, exec (.powerSample watts temp) s = .next t ∧ StepMoves p t.power watts temp ∧ { t with power := p } = s) ∧
    (∃ t, exec .stepChangeDone s = .next t ∧ t = { s with power := { p with stopped := false } }) ∧
    (watts ≤ 3200 → ∃ t, exec (.powerCapWrite watts) s = .next t ∧ t.power.cap = watts ∧ t.power.step = p.step ∧ { t with power := p } = s) ∧
    (3200 < watts → exec (.powerCapWrite watts) s = .next s) ∧
    (p.step = 6 → p.above = 100 → ∃ t, exec .powerOvercapAlarm s = .next t ∧ t.fwSignals = s.fwSignals + 1 ∧ t.power = { p with above := 101 } ∧
      Recorded 2 { s with power := t.power, fwSignals := t.fwSignals } t) ∧
    (p.step ≠ 6 ∨ p.above ≠ 100 → exec .powerOvercapAlarm s = .next s) ∧
    (∃ t, exec .thermalTrip s = .next t ∧ t = { s with power := { p with tripped := true } } ∧ (t.agenda.head? ≠ some (.event .coldReset) → step t = .fault .heldInReset))

namespace Sys2Proof.Spec

open Sys2Proof Sys2Proof.Machine

/-- No link but `l` differs, and nothing but frames in motion, the error log and memory may follow. -/
def OnlyLink (l : Nat) (s t : State) : Prop := (∀ m, m ≠ l → t.link m = s.link m) ∧ t.cores = s.cores

end Sys2Proof.Spec

/-- Links (R369 to R371): the host's commands, the ends of training, lanes lost, and the 1 ms error window; a link number above 28 is no link. That LANES is 0 in DOWN after LINK_DOWN, and that the error window adds to ERRC from link 24 on only, as a Salmus link's errors are counted flit by flit (R376), is
    log 49 (DEDUCED). -/
def Obligations.Links : Prop :=
  ∀ (s : State) (link : BitVec 5) (lanes : BitVec 5) (full : Bool) (peer : BitVec 10) (errors : BitVec 16),
    let l := link.toNat
    let x := s.link l
    (28 < l → exec (.linkTrain link) s = .next s ∧ exec (.linkDown link) s = .next s ∧ exec (.linkRelease link) s = .next s) ∧
    (l ≤ 28 → x.st ≠ .training → x.st ≠ .up → ∃ t, exec (.linkTrain link) s = .next t ∧ (t.link l).st = .training ∧ OnlyLink l s t) ∧
    (l ≤ 28 → x.st = .training ∨ x.st = .up → exec (.linkTrain link) s = .next s) ∧
    (l ≤ 28 → ∃ t, exec (.linkDown link) s = .next t ∧ (t.link l).st = .down ∧ (t.link l).lanes = 0 ∧ OnlyLink l s t) ∧
    (l ≤ 28 → x.st = .degraded ∨ x.st = .quarantined → ∃ t, exec (.linkRelease link) s = .next t ∧ (t.link l).st = .training ∧ OnlyLink l s t) ∧
    (l ≤ 28 → x.st ≠ .degraded → x.st ≠ .quarantined → exec (.linkRelease link) s = .next s) ∧
    (x.st = .training → ∃ t, exec (.linkTrained link lanes full peer) s = .next t ∧ (t.link l).st = (if full then .up else .degraded) ∧ (t.link l).errc = 0 ∧ (t.link l).lanes = lanes ∧
      (t.link l).peer = (if l < 24 then peer else 0) ∧ OnlyLink l s t) ∧
    (x.st = .training → x.since + 100000 ≤ s.us → ∃ t, exec (.linkTrainTimeout link) s = .next t ∧ (t.link l).st = .down ∧ OnlyLink l s t) ∧
    (x.st ≠ .training ∨ s.us < x.since + 100000 → exec (.linkTrainTimeout link) s = .next s) ∧
    (x.st = .up ∨ x.st = .degraded → lanes.toNat < x.lanes.toNat →
      ∃ t, exec (.linkLanesLost link lanes) s = .next t ∧ (t.link l).st = (if lanes = 0 then .down else .degraded) ∧ (t.link l).lanes = lanes ∧ OnlyLink l s t) ∧
    (x.st = .up ∨ x.st = .degraded → ∃ t, exec (.linkErrorWindow link errors) s = .next t ∧ OnlyLink l s t ∧
      (t.link l).st = (if x.thresh ≠ 0 ∧ x.thresh.toNat ≤ errors.toNat then .quarantined else x.st) ∧
      (t.link l).errc.toNat = (if l < 24 then x.errc.toNat else min (x.errc.toNat + errors.toNat) 0xFFFF))

namespace Sys2Proof.Spec

open Sys2Proof Sys2Proof.Machine

/-- No key domain but `n` differs. -/
def OnlyKd (n : Nat) (s t : State) : Prop := ∀ m, m ≠ n → t.kd m = s.kd m

/-- The key commands (R384): each moves a domain between the states it is made for, under a key made for it alone, and is refused with a record in the others, and after a step of a turnover that failed (R386; log 53). -/
def KeyCommands : Prop :=
  ∀ (s : State) (kd : BitVec 8),
    let n := kd.toNat
    let k := s.kd n
    (s.turnFailed = true → (∃ t, exec (.kdActivate kd) s = .next t ∧ Recorded 6 s t) ∧ (∃ t, exec (.kdRotate kd) s = .next t ∧ Recorded 6 s t) ∧
      (∃ t, exec (.kdRetire kd) s = .next t ∧ Recorded 6 s t) ∧ ∃ t, exec (.kdFree kd) s = .next t ∧ Recorded 6 s t) ∧
    (s.turnFailed = false →
    (k.st = .free → ∃ t, exec (.kdActivate kd) s = .next t ∧ t.kd n = { st := .active, key0 := some s.nextKey, key1 := none, cur := false } ∧ t.nextKey = s.nextKey + 1 ∧ OnlyKd n s t) ∧
    (k.st ≠ .free → ∃ t, exec (.kdActivate kd) s = .next t ∧ Recorded 6 s t) ∧
    (k.st = .active → ∃ t, exec (.kdRotate kd) s = .next t ∧ (t.kd n).st = .rotating ∧ (t.kd n).cur = !k.cur ∧ (if k.cur then (t.kd n).key0 else (t.kd n).key1) = some s.nextKey ∧
      (if k.cur then (t.kd n).key1 = k.key1 else (t.kd n).key0 = k.key0) ∧ t.nextKey = s.nextKey + 1 ∧ OnlyKd n s t) ∧
    (k.st ≠ .active → ∃ t, exec (.kdRotate kd) s = .next t ∧ Recorded 6 s t) ∧
    (k.st = .active ∨ k.st = .rotating → ∃ t, exec (.kdRetire kd) s = .next t ∧ (t.kd n).st = .retired ∧ (t.kd n).key0 = none ∧ (t.kd n).key1 = none ∧ OnlyKd n s t) ∧
    (k.st = .free ∨ k.st = .retired → ∃ t, exec (.kdRetire kd) s = .next t ∧ Recorded 6 s t) ∧
    (k.st = .retired → ∃ t, exec (.kdFree kd) s = .next t ∧ t.kd n = Kd.reset ∧ OnlyKd n s t) ∧
    (k.st ≠ .retired → ∃ t, exec (.kdFree kd) s = .next t ∧ Recorded 6 s t))

/-- Measurement and quotes (R388, R389): firmware extends slots 8 to 15 with SHA-256 over the slot and the digest, and no other, and none after a step of a turnover that failed (log 53); a quote carries the nonce, the sixteen slots, HEALTH, TURNSTAT, the device identity, and
    RSASSA-PSS over these 640 bytes in their layout, under a salt of 32 bytes (whose value is free). -/
def Measurements : Prop :=
  ∀ (s : State) (slot : BitVec 4) (digest nonce : BitVec 256),
    (8 ≤ slot.toNat → s.turnFailed = false → ∃ t, exec (.measureExtend slot digest) s = .next t ∧ { t with slots := s.slots } = s ∧ (∀ j, j ≠ slot.toNat → t.slot j = s.slot j) ∧
      t.slot slot.toNat = .ofNat 256 (ofBytes (sha256 (toBytes 32 (s.slot slot.toNat).toNat ++ toBytes 32 digest.toNat)))) ∧
    (slot.toNat < 8 ∨ s.turnFailed = true → ∃ t, exec (.measureExtend slot digest) s = .next t ∧ Recorded 6 s t) ∧
    (∃ t q, exec (.quoteSign nonce) s = .next t ∧ { t with quote := s.quote } = s ∧ t.quote = some q ∧ q.nonce = nonce ∧ q.slots.length = 16 ∧ (∀ j, j < 16 → q.slots[j]? = some (s.slot j)) ∧
      q.health = s.health ∧ q.turnstat = s.turnstat ∧ q.devid.setWidth 10 = s.devid ∧
      ∃ salt : List Byte, salt.length = 32 ∧
        q.sig = .ofNat 3072 (ofBytes (rsaSign Config.rsaModulus Config.rsaExponent
          (toBytes 32 nonce.toNat ++ (List.range 16).flatMap (fun j => toBytes 32 (s.slot j).toNat) ++ toBytes 8 s.health.toNat ++ toBytes 8 s.turnstat.toNat ++ toBytes 8 q.devid.toNat ++ List.replicate 72 0) salt)))

/-- No core has a task, a queued access or an engine entry. -/
def AllStill (s : State) : Prop := ∀ k, (s.core k).task = none ∧ (s.core k).cp = [] ∧ (s.core k).ws = [] ∧ (s.core k).drained = true

/-- Where TURNSTAT stands: the step under way, the step that failed, and the count of turnovers (R386). -/
def TurnAt (w : Word) (now failed count : Nat) : Prop := w.toNat % 16 = now ∧ w.toNat / 16 % 16 = failed ∧ w.toNat / 2 ^ 32 = count

/-- The turnover stops at step `i`: TURNSTAT names it, and a quote under the nonce carries it (R386). -/
def StopsAt (s t : State) (c : Turn) (i : Nat) : Prop :=
  TurnAt t.turnstat i i (s.turnstat.toNat / 2 ^ 32) ∧ t.turn = none ∧ ∃ q, t.quote = some q ∧ q.nonce = c.nonce ∧ q.turnstat = t.turnstat ∧ q.health = t.health

/-- A turnover is refused with a record unless it names every context that is not FREE, and while one is under way or has failed (log 53). Otherwise it begins, and its seven steps follow, TURNSTAT naming each: it seals the contexts (shown where no core has work), retires the named domains' keys, zeroes on-package state, erases the
    arrays, measures the firmware again, tests, and signs a quote with the count of turnovers one higher; a step that fails ends it with the failure in TURNSTAT and in the quote (R386, R387). A function-level reset begins a turnover of every context and of every domain but the host's (R390). -/
def Turnovers : Prop :=
  ∀ (s : State) (ctxMask : BitVec 64) (kdMask nonce : BitVec 256) (fail : Option (BitVec 4)),
    let named := ∀ n, n < 64 → (s.ctx n).st ≠ .free → ctxMask.getLsbD n = true
    let count := s.turnstat.toNat / 2 ^ 32
    let arrays := ∀ k x, k < 256 → x < 16 → ((s.core k).array x).st = .erased ∧ ((s.core k).array x).errc = 0
    (¬ named ∨ s.turn ≠ none ∨ s.turnFailed = true → ∃ t, exec (.turnover ctxMask kdMask nonce fail) s = .next t ∧ Recorded 6 s t) ∧
    (named → s.turn = none → s.turnFailed = false → ∃ t, exec (.turnover ctxMask kdMask nonce fail) s = .next t ∧ TurnAt t.turnstat 1 0 count ∧
      t.turn = some { ctxMask := ctxMask, kdMask := kdMask, nonce := nonce, fail := fail.getD 0 } ∧ { t with turn := s.turn, turnstat := s.turnstat } = s) ∧
    (s.turn = none → s.turnNext = s) ∧
    (∀ c i, s.turn = some c → 1 ≤ i → i ≤ 7 → s.turnstat.toNat % 16 = i → let t := s.turnNext
      (c.fail.toNat = i → StopsAt s t c i ∧ (i ≠ 6 → t.health = s.health) ∧ t.health &&& 0x00000000FFFF0000 = s.health &&& (if i = 6 then 0 else 0x00000000FFFF0000) ∧
        { t with turnstat := s.turnstat, quote := s.quote, turn := s.turn, health := s.health } = s) ∧
      (c.fail.toNat ≠ i →
        (i ≤ 5 → TurnAt t.turnstat (i + 1) 0 count ∧ t.turn = some c ∧ t.quote = s.quote) ∧
        (i = 1 → AllStill s → ∀ n, n < 64 → c.ctxMask.getLsbD n = true → (t.ctx n).st = .free) ∧
        (i = 2 → { t with kds := s.kds, turnstat := s.turnstat } = s ∧ ∀ n, n < 256 →
          if c.kdMask.getLsbD n = true ∧ ((s.kd n).st = .active ∨ (s.kd n).st = .rotating) then t.kd n = { Kd.reset with st := .retired, cur := (t.kd n).cur } else t.kd n = s.kd n) ∧
        (i = 3 → t.ways = [] ∧ t.l2 = [] ∧ t.dicts = [] ∧ t.barriers = [] ∧ t.exports = [] ∧ t.dseed = 0 ∧ (∀ y, 2 ^ 42 ≤ y → y < 2 ^ 42 + 2 ^ 33 → t.memByte y = 0) ∧
          ∀ k, (t.core k).sp = [] ∧ (t.core k).task = none ∧ (t.core k).vr = [] ∧ (t.core k).h = [] ∧ (t.core k).acc = [] ∧ (t.core k).bank = []) ∧
        (i = 4 → (∀ k x, k < 256 → x < 16 → ((t.core k).array x).st = .erased ∧ ((t.core k).array x).cells = [] ∧ ((t.core k).array x).owner = none) ∧ t.mem = s.mem) ∧
        (i = 5 → { t with slots := s.slots, turnstat := s.turnstat } = s ∧ (∀ j, j < 8 → t.slot j = s.slot j) ∧
          ∀ j, 8 ≤ j → j < 16 → t.slot j = .ofNat 256 (ofBytes (sha256 (List.replicate 32 0 ++ toBytes 32 (Config.imageDigest s.seq j).toNat)))) ∧
        (i = 6 → arrays → TurnAt t.turnstat 7 0 count ∧ t.health = 0 ∧ t.turn = some c) ∧
        (i = 6 → ¬ arrays → StopsAt s t c 6 ∧ t.health.getLsbD 3 = true ∧ 0 < t.health.toNat / 2 ^ 32) ∧
        (i = 7 → TurnAt t.turnstat 0 0 ((count + 1) % 2 ^ 32) ∧ t.turn = none ∧ ∃ q, t.quote = some q ∧ q.nonce = c.nonce ∧ TurnAt q.turnstat 7 (s.turnstat.toNat / 16 % 16) ((count + 1) % 2 ^ 32)))) ∧
    (s.turn = none → s.turnFailed = false → ∃ t c, exec .functionLevelReset s = .next t ∧ TurnAt t.turnstat 1 0 count ∧ t.turn = some c ∧ (∀ n, n < 64 → c.ctxMask.getLsbD n = true) ∧
      ∀ n, n < 256 → (c.kdMask.getLsbD n = true ↔ s.hostKd ≠ some (.ofNat 8 n))) ∧
    (s.turn ≠ none ∨ s.turnFailed = true → ∃ t, exec .functionLevelReset s = .next t ∧ Recorded 6 s t)

end Sys2Proof.Spec

/-- Key domains, measurement, quotes, turnover and the function-level reset (R384, R386 to R390). What is refused while a turnover is under way or after one that failed, TURNSTAT's step 0 after the last step, and the refusal of an extension of slots 0 to 7 with a record are log 53 (DESIGN CHOICE). -/
def Obligations.Integrity : Prop := KeyCommands ∧ Measurements ∧ Turnovers

namespace Sys2Proof.Spec

open Sys2Proof Sys2Proof.Machine

/-- Row-remap tables and refreshes (R367, R368): a table error with a good copy holds the channel until the copy is taken; with none the channel is fenced and remaps no row; firmware's write sends a row to a spare and ends the fencing; a postponed refresh only counts. -/
def ChannelTables : Prop :=
  ∀ (s : State) (stack : BitVec 4) (channel : BitVec 5) (row spare : BitVec 16),
    let g := 32 * stack.toNat + channel.toNat
    let r := s.remapOf g
    (∃ t, exec (.remapTableError stack channel true) s = .next t ∧ t.remapOf g = { r with held := true } ∧ (∀ j, j ≠ g → t.remapOf j = s.remapOf j) ∧ { t with remap := s.remap } = s) ∧
    (∃ t, exec (.remapTableError stack channel false) s = .next t ∧ t.remapOf g = { rows := [], held := false, fenced := true } ∧ (∀ j, j ≠ g → t.remapOf j = s.remapOf j) ∧ t.cores = s.cores ∧
      ∃ e : LogRec, .record e ∈ t.todo ∧ e.cls = 1 ∧ e.unit = 0x2000 + stack.toNat ∧ e.detail = toBytes 8 g) ∧
    (r.held = true → ∃ t, exec (.remapTableReloadDone stack channel) s = .next t ∧ t.remapOf g = { r with held := false } ∧ (∀ j, j ≠ g → t.remapOf j = s.remapOf j) ∧ Recorded 0 { s with remap := t.remap } t) ∧
    (r.held = false → exec (.remapTableReloadDone stack channel) s = .next s) ∧
    (∃ t, exec (.rowRemapTableWrite stack channel row spare) s = .next t ∧ sfind (t.remapOf g).rows row.toNat = some spare ∧ (∀ j, j ≠ row.toNat → sfind (t.remapOf g).rows j = sfind r.rows j) ∧
      (t.remapOf g).fenced = false ∧ (∀ j, j ≠ g → t.remapOf j = s.remapOf j) ∧ { t with remap := s.remap } = s) ∧
    (∃ t, exec (.refreshPostponed stack) s = .next t ∧ sget 0 t.refpost stack.toNat = sget 0 s.refpost stack.toNat + 1 ∧ { t with refpost := s.refpost } = s)

/-- A cold reset leaves no core with work, every context FREE, every queue DISABLED, every record BLANK, every link DOWN but PCIe, which trains with the lanes it finds, and every way CACHE; the host's memory keeps its bytes, a key domain is made for the host, the records of a PCIe link that did not train, of a trip and of the start are on their way to an empty, enabled error log, and the module answers again (R23, R369, R390; that array cells keep their levels, and
    where the log's ring lies, is log 43). -/
def ColdResets : Prop :=
  ∀ (s : State), let lanes := (Config.pcieLanes s.seq).toNat
    ∃ t, exec .coldReset s = .next t ∧ t.started = true ∧ t.power.tripped = false ∧ t.power.cap = 3200 ∧ t.power.step = 0 ∧ t.ctxs = [] ∧ t.queues = [] ∧ t.recs = [] ∧ t.launches = [] ∧ t.quads = [] ∧
    t.ways = [] ∧ t.barriers = [] ∧ t.l2 = [] ∧ t.frames = [] ∧ (∀ l, l ≠ 28 → t.link l = Link.reset) ∧ (t.link 28).st = (if lanes = 0 then .down else if 16 ≤ lanes then .up else .degraded) ∧ t.hostMem = s.hostMem ∧
      t.elog.cfg.getLsbD 63 = true ∧ t.elog.head = 0 ∧ t.elog.tail = 0 ∧ t.elog.lost = 0 ∧
      t.todo.map (fun x => match x with | .record r => r.cls | .bytes _ _ => 256) = (if lanes = 0 then [3] else []) ++ (if s.power.tripped then [10] else []) ++ [9] ∧
    (∀ k, (t.core k).task = none ∧ (t.core k).ready = [] ∧ (t.core k).conts = [] ∧ (t.core k).sp = [] ∧ (t.core k).steps = 0 ∧ ∀ x, ((t.core k).array x).st = .unknown ∧ ((t.core k).array x).cells = ((s.core k).array x).cells) ∧
    ∀ k, t.hostKd = some k → (t.kd k.toNat).st = .active

/-- The registers that a write only stores (R7): the fields of each, with reserved bits taken as zero, and nothing else; after FLTBASE the frames are those of the table at the new base, shown for a table with one entry that is not wholly zero (R353; log 10). -/
def storedRegister (s t : State) (v : BitVec 128) : RegName → Prop
  | .dseed => t = { s with dseed := v.setWidth 64 }
  | .fltbase => let base := (v.setWidth 64 &&& (0xFFFFFFFFFF000 : Word)).toNat
      t.fltbase.toNat = base ∧ t.fltlim = s.fltlim ∧ t.cores = s.cores ∧ t.ctxs = s.ctxs ∧ (s.framesAt base = [] → t.frames = []) ∧
      ∀ f, s.framesAt base = [f] → PlainAt s (base + 16 * f) → t.frame f = (s.frame f).ofBits (ofBytes (s.memBytes (placeOfAddr s (base + 16 * f)) 16)) ∧ ∀ g, g ≠ f → t.frame g = Frame.reset
  | .win => t = { s with win := v.setWidth 64 &&& 0xFFFF0000000FF }
  | .dbgctl => (∀ n, n < 64 → (t.ctx n).freeze = v.getLsbD n ∧ { t.ctx n with freeze := false } = { s.ctx n with freeze := false }) ∧ { t with ctxs := s.ctxs } = s
  | .dbgsel => t = { s with dbgsel := v.setWidth 8 }
  | .devid => t = { s with devid := v.setWidth 10 }
  | .tinvarg => t = { s with tinvarg := v.setWidth 64 &&& 0xFFFFFFFF07FFFFFF }
  | .dpl b n => sget 0 t.dpl (4 * b.toNat + n.toNat) = v.setWidth 64 &&& 0xFFFFFF0FFFE00000 ∧ { t with dpl := s.dpl } = s
  | .flr n sch => (t.ring n.toNat sch.toNat).tail = .ofNat 32 (bits v.toNat 127 96) ∧ (t.ring n.toNat sch.toNat).head = (s.ring n.toNat sch.toNat).head ∧
      (t.ring n.toNat sch.toNat).cfg = v.setWidth 64 &&& 0xFFFFFFFFFF00F ∧ { t with flr := s.flr } = s
  | .route d => sget 31 t.routes d.toNat = v.setWidth 5 ∧ { t with routes := s.routes } = s
  | .exportEntry e => sget 0 t.exports e.toNat = v &&& .ofNat 128 (2 ^ 128 - 2 ^ 111 + 2 ^ 70 - 2 ^ 64 + 2 ^ 28 - 1) ∧ { t with exports := s.exports } = s
  | .dbgbp k c i => sget 0 ((t.core k.toNat).cl c).dbgbp i.toNat = v.setWidth 64 &&& 0x8000FFFFFFFFFFFF ∧ ((t.core k.toNat).cl c).pc = ((s.core k.toNat).cl c).pc ∧
      ((t.core k.toNat).cl c).s = ((s.core k.toNat).cl c).s ∧ (∀ d, d ≠ c → (t.core k.toNat).cl d = (s.core k.toNat).cl d) ∧ (∀ n, n ≠ k.toNat → t.core n = s.core n) ∧ { t with cores := s.cores } = s
  | .rtag b k => sget 0 t.rtag (16 * b.toNat + k.toNat) = v.setWidth 64 ∧ { t with rtag := s.rtag } = s
  | .lctl l => l.toNat ≤ 28 → (t.link l.toNat).thresh = .ofNat 16 (bits v.toNat 31 16) ∧ (t.link l.toNat).shared = (decide (24 ≤ l.toNat ∧ l.toNat < 28) && v.getLsbD 32) ∧
      (t.link l.toNat).st = (s.link l.toNat).st ∧ (∀ m, m ≠ l.toNat → t.link m = s.link m) ∧ { t with links := s.links } = s
  | .elbase => t = { s with elog := { s.elog with base := v.setWidth 64 &&& 0xFFFFFFFFFF000 } }
  | .elcfg => t = { s with elog := { s.elog with cfg := v.setWidth 64 &&& 0x800000000000000F } }
  | .eltail => t = { s with elog := { s.elog with tail := v.setWidth 32 } }

/-- A register write stores the register's fields. -/
def RegisterWrites : Prop := ∀ (s : State) (reg : RegName) (v : BitVec 128), ∃ t, exec (.registerWrite reg v) s = .next t ∧ storedRegister s t v reg

end Sys2Proof.Spec

/-- Channel tables, cold reset, registers that only store, and the records that the device writes to its error log (R7, R367, R368, R380, R381, R390; log 10, log 43, log 69). -/
def Obligations.ModuleRegisters : Prop := ChannelTables ∧ ColdResets ∧ RegisterWrites ∧ RecordsWritten

namespace Sys2Proof.Spec

open Sys2Proof Sys2Proof.Machine

/-! Encodings, a step, and the state after reset. -/

/-- A header with no guard, no sync and no token operation. -/
def bare : Hdr := { e := false, g := 0, n := false, y := false, k := 0 }

/-- Words written out from the manual's layouts: the stream, the word and the word after it as sums of field times place, and the instruction they stand for (R116, R120 to R127,
    R134, R135). The first, second, eleventh and twelfth are the manual's own examples. -/
def writtenWords : List (Cluster × Nat × Nat × Instr) :=
  [(.A, 0x980014C7, 0, .add { bare with e := true, g := 3 } 5 6 7),
   (.A, 0x58091094, 0, .addi { bare with g := 11 } 4 4 20),
   (.S, 19 * 2 ^ 15 + 1 * 2 ^ 10 + 2 * 2 ^ 5 + 31, 0, .andi bare 1 2 31),
   (.A, 24 * 2 ^ 15 + 9 * 2 ^ 10 + 1, 0xDEADBEEF, .limm bare 9 true 0xDEADBEEF),
   (.A, 29 * 2 ^ 15 + 4 * 2 ^ 10 + 3 * 2 ^ 5 + 2, 0, .cmpLe bare 4 3 2),
   (.A, 39 * 2 ^ 15 + 2 ^ 14 + 6 * 2 ^ 10 + 1000, 0, .brp bare true 6 1000),
   (.A, 43 * 2 ^ 15 + 7 * 2 ^ 10 + 12, 0, .loop bare 7 12),
   (.S, 46 * 2 ^ 15 + 3 * 2 ^ 10 + 10, 0, .setc bare 3 10),
   (.A, 50 * 2 ^ 15 + 5 * 2 ^ 10 + 2 * 2 ^ 5 + 6, 2 ^ 31 + 2 * 2 ^ 29 + 2 ^ 27 + 0x40, .ld bare 5 2 6 { sp := true, wd := 2, ac := 1, pp := false, pd := 0, off := 0x40 }),
   (.A, 62 * 2 ^ 15, 10 * 2 ^ 24 + 3, .release bare 3),
   (.V, 0x020200700288164 * 2 ^ 36 + 0x0C0000000, 0,
     .vfadd { bare with y := true } { typ := 7, rm := 0, sat := false, w2 := false, d := 10, ds := 1, a := 11, as := 1, b := 12, bs := 0, c := 0 }),
   (.V, 0x021E00000000000000090C61, 0, .addi { bare with y := true } 3 3 1),
   (.V, 2 ^ 95 + 5 * 2 ^ 91 + 2 ^ 90 + 9 * 2 ^ 81 + 7 * 2 ^ 68 + 100 * 2 ^ 54 + 4 * 2 ^ 20 + 3 * 2 ^ 9 + 1 * 2 ^ 7 + 17, 0,
     .vld { bare with e := true, g := 5, n := true } { typ := 7, rm := 0, sat := false, w2 := false, d := 100, ds := 0, a := 0, as := 0, b := 0, bs := 0, c := 4 * 2 ^ 20 + 3 * 2 ^ 9 + 128 + 17 }),
   (.T, 42 * 2 ^ 160 + 5 * 2 ^ 141 + 2 ^ 139 + 96 * 2 ^ 104 + 64 * 2 ^ 96 + 32 * 2 ^ 88 + 2 ^ 85 + 3 * 2 ^ 48 + 2 * 2 ^ 32 + 2 ^ 16, 0,
     .mma bare { atd := 42, aw := 0, btd := 0, bw := 0, acc := 5, am := 1, sa := 0, sb := 0, aty := 0, bty := 0, sat := false, rm := 0, m := 96, n := 64, k := 32, spm := 0,
                 wb := true, qj := false, oty := 0, otd := 0, csel := 0, koff := 3, moff := 2, noff := 1 }),
   (.T, 15 * 2 ^ 177 + 52 * 2 ^ 15, 0, .nop bare)]

end Sys2Proof.Spec

/-- Words written out by hand from the manual's layouts decode to the instructions they stand for (R116, R120 to R123, R127, R134, R135). -/
def Obligations.DecodeWords : Prop := ∀ e ∈ writtenWords, decode e.1 e.2.1 e.2.2.1 = .ok e.2.2.2

/-- Every well-formed instruction of a stream encodes to as many words as it takes, each within the stream's width, which decode to that instruction (R112, R115, R116, R120 to R129, R133 to R135). -/
def Obligations.DecodeEncode : Prop :=
  ∀ (c : Cluster) (i : Instr), i.wf c = true →
    (encode c i).length = i.words ∧ (∀ w ∈ encode c i, w < 2 ^ c.width) ∧ decode c ((encode c i).getD 0 0) ((encode c i).getD 1 0) = .ok i

/-- A word that decodes is the first word of its instruction's encoding, so no reserved bit of a word that decodes is set; the instruction is well formed, but for an mgo whose template is no mma (R121, R128, R131, R134). -/
def Obligations.DecodeExact : Prop :=
  ∀ (c : Cluster) (w next : Nat) (i : Instr), w < 2 ^ c.width → next < 2 ^ c.width → decode c w next = .ok i →
    (encode c i).getD 0 0 = w ∧ (i.wf c = true ∨ ∃ h levels klevel, i = .mgo h levels klevel none)

/-- What a step makes of a move's outcome, at a step that began as `b`: where an access of it met a place that holds it, nothing of it has taken place, it stays first in the agenda, and the first other thing that can happen happens (R93, R367; log 66). -/
def Sys2Proof.Spec.moveDone (b : State) : Out → Out
  | .next t => if t.heldHit then b.firstTry b.tries else .next t
  | o => o

/-- What a step makes of a word's outcome: a core whose bkpt a debugger waited for halts (R159, R304). -/
def Sys2Proof.Spec.wordDone (b : State) (core : CoreId) (o : Out) : Out := moveDone b (halting core o)

/-- A step runs the decoded instruction: the next word of a cluster whose turn it is, when it can issue, is fetched and has Y clear, runs as what it decodes to, in the state after the fetch; one that does not decode traps; and an event of the agenda acts as its row says, where it comes
    through BAR 0 or BAR 2 once the start record is written, while the PCIe link carries traffic and no turnover has failed. A step begins with the passing of time, by amounts that are free (log 5), and with what waits to go home: writes of BAR 2, the device's own, and changes of the pages that saved handles name (log 69); the agenda is the
    model's (log 3) (R46, R131, R132, R369, R390). -/
def Obligations.StepRuns : Prop :=
  (∀ s : State, s.posted = [] → s.todo = [] → s.begin = s.elapse.noteChanges) ∧
  (∀ (s : State) (core : CoreId) (c : Cluster) (r : List Move) (w next : Nat) (t : State), s.held = false → s.begin.agenda = .issue core c :: r →
    let u := ({ s.begin with agenda := r }).at core c
    u.canIssue = true → u.myCl.atBreak = false → u.fetchAt core.toNat c = (t, .words w next) → wordY c w = false →
    (∀ i, decode c w next = .ok i → step s = wordDone s.begin core (exec i t)) ∧
    (∀ b, decodeAt c w next = .bad b → step s = wordDone s.begin core (.next (t.trapBad b (rawImage w next))))) ∧
  (∀ (b t : State) (core : CoreId), (t.core core.toNat).debug ≠ .hit →
    (t.heldHit = true → wordDone b core (.next t) = b.firstTry b.tries) ∧ (t.heldHit = false → wordDone b core (.next t) = .next t)) ∧
  (∀ (s : State) (i : Instr) (r : List Move), s.held = false → s.begin.agenda = .event i :: r → i.kind = .event →
    let b := s.begin
    let u := { b with agenda := r }
    ((viaBar i = true → b.started = true ∧ b.turnFailed = false ∧ b.linkUp 28 = true) → step s = moveDone b (exec i u)) ∧
    (viaBar i = true → b.started = false ∨ b.turnFailed = true ∨ b.linkUp 28 = false → b.heldHit = false → ∃ t, step s = .next t ∧ t = u)) ∧
  (∀ (s : State) (r : List Move), s.held = false → s.begin.agenda = .turnover :: r → step s = moveDone s.begin (.next ({ s.begin with agenda := r }).turnNext))

/-- The state after reset: contexts FREE, queues DISABLED, records BLANK, key domains FREE, every link DOWN but PCIe, which is in TRAINING, crossbar arrays UNKNOWN with a calibration state of zero, every scratchpad tile THREAD with STEPS 0, every cluster in
    scoreboard mode with AFLAGS 0, CSLOT, CMASK and CYCLE 0, cut counters 1, ways CACHE, dictionary slots EMPTY, the barriers IDLE, measurement slots 0, a cap of 3,200 W at step 0; and both memories are in canonical form (R20, R21, R34, R48, R61, R83, R93, R101,
    R157, R204, R223, R369, R388, R390). -/
def Obligations.ResetState : Prop :=
  (∀ n, (State.reset.ctx n).st = .free) ∧ (∀ q, (State.reset.queue q).st = .disabled) ∧ (∀ n r, (State.reset.record n r).st = .blank) ∧
  (∀ n, (State.reset.kd n).st = .free) ∧ (∀ l, (State.reset.link l).st = if l = 28 then .training else .down) ∧
  (∀ k xb, let a := sget XArr.reset (State.reset.core k).xb xb
    a.st = .unknown ∧ a.ecal = 0 ∧ a.epsRel = 0 ∧ a.tcal = 0 ∧ a.tdrift = 0) ∧
  (∀ k i, (State.reset.core k).owner' i = 0) ∧ (∀ k, (State.reset.core k).steps = 0 ∧ (State.reset.core k).cslot = 0 ∧ (State.reset.core k).cmask = 0 ∧ (State.reset.core k).cut = 1) ∧
  (∀ k c, ((State.reset.core k).cl c).exposed = false ∧ ((State.reset.core k).cl c).aflags = 0 ∧ ((State.reset.core k).cl c).loops = []) ∧
  State.reset.cycle = 0 ∧ (∀ b w, State.reset.way b w = .cache) ∧ (∀ d, (State.reset.dict d).st = .empty) ∧ (∀ k, (State.reset.bar k).st = 0) ∧
  (∀ m, sget 0 State.reset.slots m = 0) ∧ State.reset.power.cap = 3200 ∧ State.reset.power.step = 0 ∧ State.reset.power.changes = 0 ∧ State.reset.started = false ∧
  State.reset.Inv

/-- The memories keep their canonical form through every step, whatever is done, from any state whose memories have it: no address is listed twice or out of order, and none with the value an unlisted one reads as (the form is the model's; R96, R306). -/
def Obligations.StepKeepsInv : Prop := ∀ s t : State, s.Inv → step s = .next t → t.Inv
end

