-- ==== Sys2Proof/Laws/Sparse.lean ====
section
/-! SUPPORT. The laws of sparse data: reading after a write, and that every operation keeps the canonical form. -/

namespace Sys2Proof.Machine

variable {α : Type}

/-! Reading after a write. -/

theorem sget_sput (d : α) (m : Sparse α) (k j : Nat) (v : α) : sget d (sput m k v) j = if j = k then v else sget d m j := by
  induction m with
  | nil => simp [sput, sget]
  | cons e r ih =>
    obtain ⟨i, w⟩ := e
    simp only [sput]
    split
    · simp [sget]
    · split
      · rename_i h; subst h; simp only [sget]; split <;> rfl
      · simp only [sget, ih]; split
        · rename_i hlt hne h; subst h; rw [if_neg]; exact fun h => hne h.symm
        · rfl

theorem sget_serase (d : α) (m : Sparse α) (k j : Nat) : sget d (serase m k) j = if j = k then d else sget d m j := by
  induction m with
  | nil => simp [serase, sget]
  | cons e r ih =>
    obtain ⟨i, w⟩ := e
    simp only [serase]
    split
    · rename_i h; subst h; rw [ih]; simp only [sget]; split <;> rfl
    · simp only [sget, ih]; split
      · rename_i hne h; subst h; rw [if_neg]; exact fun h => hne h.symm
      · rfl

/-- A write is read back, and leaves every other key alone. -/
theorem sget_sset [DecidableEq α] (d : α) (m : Sparse α) (k j : Nat) (v : α) :
    sget d (sset d m k v) j = if j = k then v else sget d m j := by
  unfold sset
  split
  · rename_i h; rw [sget_serase, h]
  · exact sget_sput d m k j v

@[simp] theorem sget_sset_self [DecidableEq α] (d : α) (m : Sparse α) (k : Nat) (v : α) : sget d (sset d m k v) k = v := by
  simp [sget_sset]

@[simp] theorem sget_sput_self (d : α) (m : Sparse α) (k : Nat) (v : α) : sget d (sput m k v) k = v := by
  simp [sget_sput]

/-! The canonical form. -/

theorem swfFrom_weaken [DecidableEq α] {d : α} {lo hi : Nat} {m : Sparse α} (h : swfFrom d hi m = true) (hle : lo ≤ hi) :
    swfFrom d lo m = true := by
  cases m with
  | nil => rfl
  | cons e r =>
    simp only [swfFrom, Bool.and_eq_true, decide_eq_true_eq] at h ⊢
    exact ⟨⟨Nat.le_trans hle h.1.1, h.1.2⟩, h.2⟩

theorem swfFrom_serase [DecidableEq α] {d : α} {m : Sparse α} {lo : Nat} (k : Nat) (h : swfFrom d lo m = true) :
    swfFrom d lo (serase m k) = true := by
  induction m generalizing lo with
  | nil => rfl
  | cons e r ih =>
    simp only [swfFrom, Bool.and_eq_true, decide_eq_true_eq] at h
    simp only [serase]
    split
    · exact ih (swfFrom_weaken h.2 (Nat.le_succ_of_le h.1.1))
    · simp only [swfFrom, Bool.and_eq_true, decide_eq_true_eq]
      exact ⟨h.1, ih h.2⟩

theorem swfFrom_sput [DecidableEq α] {d : α} {m : Sparse α} {lo k : Nat} {v : α} (hv : v ≠ d) (hk : lo ≤ k)
    (h : swfFrom d lo m = true) : swfFrom d lo (sput m k v) = true := by
  induction m generalizing lo with
  | nil => simp [sput, swfFrom, hv, hk]
  | cons e r ih =>
    simp only [swfFrom, Bool.and_eq_true, decide_eq_true_eq] at h
    simp only [sput]
    split
    · simp only [swfFrom, Bool.and_eq_true, decide_eq_true_eq]
      exact ⟨⟨hk, by simpa using hv⟩, ⟨⟨by omega, h.1.2⟩, h.2⟩⟩
    · split
      · rename_i hkj; subst hkj
        simp only [swfFrom, Bool.and_eq_true, decide_eq_true_eq]
        exact ⟨⟨hk, by simpa using hv⟩, h.2⟩
      · simp only [swfFrom, Bool.and_eq_true, decide_eq_true_eq]
        exact ⟨h.1, ih (by omega) h.2⟩

/-- A write keeps the canonical form. -/
theorem swf_sset [DecidableEq α] {d : α} {m : Sparse α} (k : Nat) (v : α) (h : swf d m = true) : swf d (sset d m k v) = true := by
  unfold sset
  split
  · exact swfFrom_serase k h
  · rename_i hv; exact swfFrom_sput hv (Nat.zero_le k) h

theorem swf_serase [DecidableEq α] {d : α} {m : Sparse α} (k : Nat) (h : swf d m = true) : swf d (serase m k) = true :=
  swfFrom_serase k h

theorem swfFrom_filter [DecidableEq α] {d : α} {m : Sparse α} {lo : Nat} (p : Nat × α → Bool) (h : swfFrom d lo m = true) :
    swfFrom d lo (m.filter p) = true := by
  induction m generalizing lo with
  | nil => rfl
  | cons e r ih =>
    simp only [swfFrom, Bool.and_eq_true, decide_eq_true_eq] at h
    by_cases hp : p e
    · simp only [List.filter_cons, hp, if_true, swfFrom, Bool.and_eq_true, decide_eq_true_eq]
      exact ⟨h.1, ih h.2⟩
    · simp only [List.filter_cons, hp]
      exact ih (swfFrom_weaken h.2 (Nat.le_succ_of_le h.1.1))

/-- Dropping entries keeps the canonical form. -/
theorem swf_filter [DecidableEq α] {d : α} {m : Sparse α} (p : Nat × α → Bool) (h : swf d m = true) : swf d (m.filter p) = true :=
  swfFrom_filter p h

theorem swf_seraseRange [DecidableEq α] {d : α} {m : Sparse α} (lo hi : Nat) (h : swf d m = true) :
    swf d (seraseRange m lo hi) = true := swf_filter _ h

/-- Two canonical lists that read alike from `lo` on are one list. -/
theorem swfFrom_ext [DecidableEq α] {d : α} {m n : Sparse α} {lo : Nat} (hm : swfFrom d lo m = true) (hn : swfFrom d lo n = true)
    (h : ∀ k, sget d m k = sget d n k) : m = n := by
  have low : ∀ {l : Sparse α} {lo : Nat}, swfFrom d lo l = true → ∀ k < lo, sget d l k = d := by
    intro l
    induction l with
    | nil => intros; rfl
    | cons e r ih =>
      intro lo hw k hk
      simp only [swfFrom, Bool.and_eq_true, decide_eq_true_eq] at hw
      rw [sget, if_neg (by omega)]
      exact ih hw.2 k (by omega)
  induction m generalizing n lo with
  | nil =>
    cases n with
    | nil => rfl
    | cons f t =>
      simp only [swfFrom, Bool.and_eq_true, decide_eq_true_eq] at hn
      have := h f.1; simp [sget] at this
      simp [← this] at hn
  | cons e r ih =>
    cases n with
    | nil =>
      simp only [swfFrom, Bool.and_eq_true, decide_eq_true_eq] at hm
      have := h e.1; simp [sget] at this
      simp [this] at hm
    | cons f t =>
      obtain ⟨i, v⟩ := e
      obtain ⟨j, w⟩ := f
      simp only [swfFrom, Bool.and_eq_true, decide_eq_true_eq, Bool.not_eq_true', decide_eq_false_iff_not] at hm hn
      have hij : i = j := by
        rcases Nat.lt_trichotomy i j with hlt | heq | hgt
        · have := h i; simp only [sget, if_true] at this
          rw [if_neg (by omega), low hn.2 i (by omega)] at this; exact absurd this hm.1.2
        · exact heq
        · have := h j; simp only [sget, if_true] at this
          rw [if_neg (by omega), low hm.2 j (by omega)] at this; exact absurd this.symm hn.1.2
      subst hij
      have hvw : v = w := by have := h i; simpa [sget] using this
      subst hvw
      rw [ih hm.2 hn.2]
      intro k
      rcases Nat.lt_trichotomy k i with hlt | heq | hgt
      · rw [low hm.2 k (by omega), low hn.2 k (by omega)]
      · rw [heq, low hm.2 i (by omega), low hn.2 i (by omega)]
      · have := h k; simpa [sget, show k ≠ i by omega] using this

/-- Canonical data that reads alike is equal. -/
theorem swf_ext [DecidableEq α] {d : α} {m n : Sparse α} (hm : swf d m = true) (hn : swf d n = true)
    (h : ∀ k, sget d m k = sget d n k) : m = n := swfFrom_ext hm hn h

end Sys2Proof.Machine
end

