-- ==== Sys2Proof/Laws/State.lean ====
section
/-! SUPPORT. What an update of the state leaves and what it makes, one lemma for each field and update. -/

namespace Sys2Proof.Machine

open Sys2Proof

/-! A core replaced: every field of the module but the cores. -/

@[simp] theorem State.setCore_seq (s : State) (k : Nat) (c : Core) : (s.setCore k c).seq = s.seq := rfl
@[simp] theorem State.setCore_cycle (s : State) (k : Nat) (c : Core) : (s.setCore k c).cycle = s.cycle := rfl
@[simp] theorem State.setCore_us (s : State) (k : Nat) (c : Core) : (s.setCore k c).us = s.us := rfl
@[simp] theorem State.setCore_agenda (s : State) (k : Nat) (c : Core) : (s.setCore k c).agenda = s.agenda := rfl
@[simp] theorem State.setCore_cur (s : State) (k : Nat) (c : Core) : (s.setCore k c).cur = s.cur := rfl
@[simp] theorem State.setCore_curCl (s : State) (k : Nat) (c : Core) : (s.setCore k c).curCl = s.curCl := rfl
@[simp] theorem State.setCore_joint (s : State) (k : Nat) (c : Core) : (s.setCore k c).joint = s.joint := rfl
@[simp] theorem State.setCore_mem (s : State) (k : Nat) (c : Core) : (s.setCore k c).mem = s.mem := rfl
@[simp] theorem State.setCore_hostMem (s : State) (k : Nat) (c : Core) : (s.setCore k c).hostMem = s.hostMem := rfl
@[simp] theorem State.setCore_lines (s : State) (k : Nat) (c : Core) : (s.setCore k c).lines = s.lines := rfl
@[simp] theorem State.setCore_bad (s : State) (k : Nat) (c : Core) : (s.setCore k c).bad = s.bad := rfl
@[simp] theorem State.setCore_weak (s : State) (k : Nat) (c : Core) : (s.setCore k c).weak = s.weak := rfl
@[simp] theorem State.setCore_digests (s : State) (k : Nat) (c : Core) : (s.setCore k c).digests = s.digests := rfl
@[simp] theorem State.setCore_slices (s : State) (k : Nat) (c : Core) : (s.setCore k c).slices = s.slices := rfl
@[simp] theorem State.setCore_hotCnt (s : State) (k : Nat) (c : Core) : (s.setCore k c).hotCnt = s.hotCnt := rfl
@[simp] theorem State.setCore_dpl (s : State) (k : Nat) (c : Core) : (s.setCore k c).dpl = s.dpl := rfl
@[simp] theorem State.setCore_dseed (s : State) (k : Nat) (c : Core) : (s.setCore k c).dseed = s.dseed := rfl
@[simp] theorem State.setCore_l2 (s : State) (k : Nat) (c : Core) : (s.setCore k c).l2 = s.l2 := rfl
@[simp] theorem State.setCore_ways (s : State) (k : Nat) (c : Core) : (s.setCore k c).ways = s.ways := rfl
@[simp] theorem State.setCore_rtag (s : State) (k : Nat) (c : Core) : (s.setCore k c).rtag = s.rtag := rfl
@[simp] theorem State.setCore_rdemote (s : State) (k : Nat) (c : Core) : (s.setCore k c).rdemote = s.rdemote := rfl
@[simp] theorem State.setCore_dicts (s : State) (k : Nat) (c : Core) : (s.setCore k c).dicts = s.dicts := rfl
@[simp] theorem State.setCore_walkCache (s : State) (k : Nat) (c : Core) : (s.setCore k c).walkCache = s.walkCache := rfl
@[simp] theorem State.setCore_fltbase (s : State) (k : Nat) (c : Core) : (s.setCore k c).fltbase = s.fltbase := rfl
@[simp] theorem State.setCore_fltlim (s : State) (k : Nat) (c : Core) : (s.setCore k c).fltlim = s.fltlim := rfl
@[simp] theorem State.setCore_frames (s : State) (k : Nat) (c : Core) : (s.setCore k c).frames = s.frames := rfl
@[simp] theorem State.setCore_frmstat (s : State) (k : Nat) (c : Core) : (s.setCore k c).frmstat = s.frmstat := rfl
@[simp] theorem State.setCore_flr (s : State) (k : Nat) (c : Core) : (s.setCore k c).flr = s.flr := rfl
@[simp] theorem State.setCore_tinvarg (s : State) (k : Nat) (c : Core) : (s.setCore k c).tinvarg = s.tinvarg := rfl
@[simp] theorem State.setCore_tinvDone (s : State) (k : Nat) (c : Core) : (s.setCore k c).tinvDone = s.tinvDone := rfl
@[simp] theorem State.setCore_ctxs (s : State) (k : Nat) (c : Core) : (s.setCore k c).ctxs = s.ctxs := rfl
@[simp] theorem State.setCore_recs (s : State) (k : Nat) (c : Core) : (s.setCore k c).recs = s.recs := rfl
@[simp] theorem State.setCore_recstat (s : State) (k : Nat) (c : Core) : (s.setCore k c).recstat = s.recstat := rfl
@[simp] theorem State.setCore_queues (s : State) (k : Nat) (c : Core) : (s.setCore k c).queues = s.queues := rfl
@[simp] theorem State.setCore_launches (s : State) (k : Nat) (c : Core) : (s.setCore k c).launches = s.launches := rfl
@[simp] theorem State.setCore_nextLaunch (s : State) (k : Nat) (c : Core) : (s.setCore k c).nextLaunch = s.nextLaunch := rfl
@[simp] theorem State.setCore_quads (s : State) (k : Nat) (c : Core) : (s.setCore k c).quads = s.quads := rfl
@[simp] theorem State.setCore_nextTag (s : State) (k : Nat) (c : Core) : (s.setCore k c).nextTag = s.nextTag := rfl
@[simp] theorem State.setCore_claims (s : State) (k : Nat) (c : Core) : (s.setCore k c).claims = s.claims := rfl
@[simp] theorem State.setCore_barriers (s : State) (k : Nat) (c : Core) : (s.setCore k c).barriers = s.barriers := rfl
@[simp] theorem State.setCore_bcfg (s : State) (k : Nat) (c : Core) : (s.setCore k c).bcfg = s.bcfg := rfl
@[simp] theorem State.setCore_arrivals (s : State) (k : Nat) (c : Core) : (s.setCore k c).arrivals = s.arrivals := rfl
@[simp] theorem State.setCore_links (s : State) (k : Nat) (c : Core) : (s.setCore k c).links = s.links := rfl
@[simp] theorem State.setCore_win (s : State) (k : Nat) (c : Core) : (s.setCore k c).win = s.win := rfl
@[simp] theorem State.setCore_devid (s : State) (k : Nat) (c : Core) : (s.setCore k c).devid = s.devid := rfl
@[simp] theorem State.setCore_routes (s : State) (k : Nat) (c : Core) : (s.setCore k c).routes = s.routes := rfl
@[simp] theorem State.setCore_exports (s : State) (k : Nat) (c : Core) : (s.setCore k c).exports = s.exports := rfl
@[simp] theorem State.setCore_remoteFailed (s : State) (k : Nat) (c : Core) : (s.setCore k c).remoteFailed = s.remoteFailed := rfl
@[simp] theorem State.setCore_dbgsel (s : State) (k : Nat) (c : Core) : (s.setCore k c).dbgsel = s.dbgsel := rfl
@[simp] theorem State.setCore_irq (s : State) (k : Nat) (c : Core) : (s.setCore k c).irq = s.irq := rfl
@[simp] theorem State.setCore_msix (s : State) (k : Nat) (c : Core) : (s.setCore k c).msix = s.msix := rfl
@[simp] theorem State.setCore_ctxcmd (s : State) (k : Nat) (c : Core) : (s.setCore k c).ctxcmd = s.ctxcmd := rfl
@[simp] theorem State.setCore_reccmd (s : State) (k : Nat) (c : Core) : (s.setCore k c).reccmd = s.reccmd := rfl
@[simp] theorem State.setCore_tinvcmd (s : State) (k : Nat) (c : Core) : (s.setCore k c).tinvcmd = s.tinvcmd := rfl
@[simp] theorem State.setCore_frmcmd (s : State) (k : Nat) (c : Core) : (s.setCore k c).frmcmd = s.frmcmd := rfl
@[simp] theorem State.setCore_dictcmd (s : State) (k : Nat) (c : Core) : (s.setCore k c).dictcmd = s.dictcmd := rfl
@[simp] theorem State.setCore_fwSignals (s : State) (k : Nat) (c : Core) : (s.setCore k c).fwSignals = s.fwSignals := rfl
@[simp] theorem State.setCore_elog (s : State) (k : Nat) (c : Core) : (s.setCore k c).elog = s.elog := rfl
@[simp] theorem State.setCore_todo (s : State) (k : Nat) (c : Core) : (s.setCore k c).todo = s.todo := rfl
@[simp] theorem State.setCore_cecnt (s : State) (k : Nat) (c : Core) : (s.setCore k c).cecnt = s.cecnt := rfl
@[simp] theorem State.setCore_ceSeen (s : State) (k : Nat) (c : Core) : (s.setCore k c).ceSeen = s.ceSeen := rfl
@[simp] theorem State.setCore_kds (s : State) (k : Nat) (c : Core) : (s.setCore k c).kds = s.kds := rfl
@[simp] theorem State.setCore_nextKey (s : State) (k : Nat) (c : Core) : (s.setCore k c).nextKey = s.nextKey := rfl
@[simp] theorem State.setCore_hostKd (s : State) (k : Nat) (c : Core) : (s.setCore k c).hostKd = s.hostKd := rfl
@[simp] theorem State.setCore_patrolled (s : State) (k : Nat) (c : Core) : (s.setCore k c).patrolled = s.patrolled := rfl
@[simp] theorem State.setCore_patrolKds (s : State) (k : Nat) (c : Core) : (s.setCore k c).patrolKds = s.patrolKds := rfl
@[simp] theorem State.setCore_tagFailCnt (s : State) (k : Nat) (c : Core) : (s.setCore k c).tagFailCnt = s.tagFailCnt := rfl
@[simp] theorem State.setCore_turnstat (s : State) (k : Nat) (c : Core) : (s.setCore k c).turnstat = s.turnstat := rfl
@[simp] theorem State.setCore_turn (s : State) (k : Nat) (c : Core) : (s.setCore k c).turn = s.turn := rfl
@[simp] theorem State.setCore_health (s : State) (k : Nat) (c : Core) : (s.setCore k c).health = s.health := rfl
@[simp] theorem State.setCore_slots (s : State) (k : Nat) (c : Core) : (s.setCore k c).slots = s.slots := rfl
@[simp] theorem State.setCore_quote (s : State) (k : Nat) (c : Core) : (s.setCore k c).quote = s.quote := rfl
@[simp] theorem State.setCore_remap (s : State) (k : Nat) (c : Core) : (s.setCore k c).remap = s.remap := rfl
@[simp] theorem State.setCore_refpost (s : State) (k : Nat) (c : Core) : (s.setCore k c).refpost = s.refpost := rfl
@[simp] theorem State.setCore_power (s : State) (k : Nat) (c : Core) : (s.setCore k c).power = s.power := rfl
@[simp] theorem State.setCore_started (s : State) (k : Nat) (c : Core) : (s.setCore k c).started = s.started := rfl
@[simp] theorem State.setCore_hostRead (s : State) (k : Nat) (c : Core) : (s.setCore k c).hostRead = s.hostRead := rfl
@[simp] theorem State.setCore_hostReadPoisoned (s : State) (k : Nat) (c : Core) : (s.setCore k c).hostReadPoisoned = s.hostReadPoisoned := rfl
@[simp] theorem State.setCore_posted (s : State) (k : Nat) (c : Core) : (s.setCore k c).posted = s.posted := rfl
@[simp] theorem State.setCore_replies (s : State) (k : Nat) (c : Core) : (s.setCore k c).replies = s.replies := rfl
@[simp] theorem State.setCore_heldHit (s : State) (k : Nat) (c : Core) : (s.setCore k c).heldHit = s.heldHit := rfl

/-! A core updated. -/

@[simp] theorem State.upCore_seq (s : State) (k : Nat) (f : Core → Core) : (s.upCore k f).seq = s.seq := rfl
@[simp] theorem State.upCore_cycle (s : State) (k : Nat) (f : Core → Core) : (s.upCore k f).cycle = s.cycle := rfl
@[simp] theorem State.upCore_us (s : State) (k : Nat) (f : Core → Core) : (s.upCore k f).us = s.us := rfl
@[simp] theorem State.upCore_agenda (s : State) (k : Nat) (f : Core → Core) : (s.upCore k f).agenda = s.agenda := rfl
@[simp] theorem State.upCore_cur (s : State) (k : Nat) (f : Core → Core) : (s.upCore k f).cur = s.cur := rfl
@[simp] theorem State.upCore_curCl (s : State) (k : Nat) (f : Core → Core) : (s.upCore k f).curCl = s.curCl := rfl
@[simp] theorem State.upCore_joint (s : State) (k : Nat) (f : Core → Core) : (s.upCore k f).joint = s.joint := rfl
@[simp] theorem State.upCore_mem (s : State) (k : Nat) (f : Core → Core) : (s.upCore k f).mem = s.mem := rfl
@[simp] theorem State.upCore_hostMem (s : State) (k : Nat) (f : Core → Core) : (s.upCore k f).hostMem = s.hostMem := rfl
@[simp] theorem State.upCore_lines (s : State) (k : Nat) (f : Core → Core) : (s.upCore k f).lines = s.lines := rfl
@[simp] theorem State.upCore_bad (s : State) (k : Nat) (f : Core → Core) : (s.upCore k f).bad = s.bad := rfl
@[simp] theorem State.upCore_weak (s : State) (k : Nat) (f : Core → Core) : (s.upCore k f).weak = s.weak := rfl
@[simp] theorem State.upCore_digests (s : State) (k : Nat) (f : Core → Core) : (s.upCore k f).digests = s.digests := rfl
@[simp] theorem State.upCore_slices (s : State) (k : Nat) (f : Core → Core) : (s.upCore k f).slices = s.slices := rfl
@[simp] theorem State.upCore_hotCnt (s : State) (k : Nat) (f : Core → Core) : (s.upCore k f).hotCnt = s.hotCnt := rfl
@[simp] theorem State.upCore_dpl (s : State) (k : Nat) (f : Core → Core) : (s.upCore k f).dpl = s.dpl := rfl
@[simp] theorem State.upCore_dseed (s : State) (k : Nat) (f : Core → Core) : (s.upCore k f).dseed = s.dseed := rfl
@[simp] theorem State.upCore_l2 (s : State) (k : Nat) (f : Core → Core) : (s.upCore k f).l2 = s.l2 := rfl
@[simp] theorem State.upCore_ways (s : State) (k : Nat) (f : Core → Core) : (s.upCore k f).ways = s.ways := rfl
@[simp] theorem State.upCore_rtag (s : State) (k : Nat) (f : Core → Core) : (s.upCore k f).rtag = s.rtag := rfl
@[simp] theorem State.upCore_rdemote (s : State) (k : Nat) (f : Core → Core) : (s.upCore k f).rdemote = s.rdemote := rfl
@[simp] theorem State.upCore_dicts (s : State) (k : Nat) (f : Core → Core) : (s.upCore k f).dicts = s.dicts := rfl
@[simp] theorem State.upCore_walkCache (s : State) (k : Nat) (f : Core → Core) : (s.upCore k f).walkCache = s.walkCache := rfl
@[simp] theorem State.upCore_fltbase (s : State) (k : Nat) (f : Core → Core) : (s.upCore k f).fltbase = s.fltbase := rfl
@[simp] theorem State.upCore_fltlim (s : State) (k : Nat) (f : Core → Core) : (s.upCore k f).fltlim = s.fltlim := rfl
@[simp] theorem State.upCore_frames (s : State) (k : Nat) (f : Core → Core) : (s.upCore k f).frames = s.frames := rfl
@[simp] theorem State.upCore_frmstat (s : State) (k : Nat) (f : Core → Core) : (s.upCore k f).frmstat = s.frmstat := rfl
@[simp] theorem State.upCore_flr (s : State) (k : Nat) (f : Core → Core) : (s.upCore k f).flr = s.flr := rfl
@[simp] theorem State.upCore_tinvarg (s : State) (k : Nat) (f : Core → Core) : (s.upCore k f).tinvarg = s.tinvarg := rfl
@[simp] theorem State.upCore_tinvDone (s : State) (k : Nat) (f : Core → Core) : (s.upCore k f).tinvDone = s.tinvDone := rfl
@[simp] theorem State.upCore_ctxs (s : State) (k : Nat) (f : Core → Core) : (s.upCore k f).ctxs = s.ctxs := rfl
@[simp] theorem State.upCore_recs (s : State) (k : Nat) (f : Core → Core) : (s.upCore k f).recs = s.recs := rfl
@[simp] theorem State.upCore_recstat (s : State) (k : Nat) (f : Core → Core) : (s.upCore k f).recstat = s.recstat := rfl
@[simp] theorem State.upCore_queues (s : State) (k : Nat) (f : Core → Core) : (s.upCore k f).queues = s.queues := rfl
@[simp] theorem State.upCore_launches (s : State) (k : Nat) (f : Core → Core) : (s.upCore k f).launches = s.launches := rfl
@[simp] theorem State.upCore_nextLaunch (s : State) (k : Nat) (f : Core → Core) : (s.upCore k f).nextLaunch = s.nextLaunch := rfl
@[simp] theorem State.upCore_quads (s : State) (k : Nat) (f : Core → Core) : (s.upCore k f).quads = s.quads := rfl
@[simp] theorem State.upCore_nextTag (s : State) (k : Nat) (f : Core → Core) : (s.upCore k f).nextTag = s.nextTag := rfl
@[simp] theorem State.upCore_claims (s : State) (k : Nat) (f : Core → Core) : (s.upCore k f).claims = s.claims := rfl
@[simp] theorem State.upCore_barriers (s : State) (k : Nat) (f : Core → Core) : (s.upCore k f).barriers = s.barriers := rfl
@[simp] theorem State.upCore_bcfg (s : State) (k : Nat) (f : Core → Core) : (s.upCore k f).bcfg = s.bcfg := rfl
@[simp] theorem State.upCore_arrivals (s : State) (k : Nat) (f : Core → Core) : (s.upCore k f).arrivals = s.arrivals := rfl
@[simp] theorem State.upCore_links (s : State) (k : Nat) (f : Core → Core) : (s.upCore k f).links = s.links := rfl
@[simp] theorem State.upCore_win (s : State) (k : Nat) (f : Core → Core) : (s.upCore k f).win = s.win := rfl
@[simp] theorem State.upCore_devid (s : State) (k : Nat) (f : Core → Core) : (s.upCore k f).devid = s.devid := rfl
@[simp] theorem State.upCore_routes (s : State) (k : Nat) (f : Core → Core) : (s.upCore k f).routes = s.routes := rfl
@[simp] theorem State.upCore_exports (s : State) (k : Nat) (f : Core → Core) : (s.upCore k f).exports = s.exports := rfl
@[simp] theorem State.upCore_remoteFailed (s : State) (k : Nat) (f : Core → Core) : (s.upCore k f).remoteFailed = s.remoteFailed := rfl
@[simp] theorem State.upCore_dbgsel (s : State) (k : Nat) (f : Core → Core) : (s.upCore k f).dbgsel = s.dbgsel := rfl
@[simp] theorem State.upCore_irq (s : State) (k : Nat) (f : Core → Core) : (s.upCore k f).irq = s.irq := rfl
@[simp] theorem State.upCore_msix (s : State) (k : Nat) (f : Core → Core) : (s.upCore k f).msix = s.msix := rfl
@[simp] theorem State.upCore_ctxcmd (s : State) (k : Nat) (f : Core → Core) : (s.upCore k f).ctxcmd = s.ctxcmd := rfl
@[simp] theorem State.upCore_reccmd (s : State) (k : Nat) (f : Core → Core) : (s.upCore k f).reccmd = s.reccmd := rfl
@[simp] theorem State.upCore_tinvcmd (s : State) (k : Nat) (f : Core → Core) : (s.upCore k f).tinvcmd = s.tinvcmd := rfl
@[simp] theorem State.upCore_frmcmd (s : State) (k : Nat) (f : Core → Core) : (s.upCore k f).frmcmd = s.frmcmd := rfl
@[simp] theorem State.upCore_dictcmd (s : State) (k : Nat) (f : Core → Core) : (s.upCore k f).dictcmd = s.dictcmd := rfl
@[simp] theorem State.upCore_fwSignals (s : State) (k : Nat) (f : Core → Core) : (s.upCore k f).fwSignals = s.fwSignals := rfl
@[simp] theorem State.upCore_elog (s : State) (k : Nat) (f : Core → Core) : (s.upCore k f).elog = s.elog := rfl
@[simp] theorem State.upCore_todo (s : State) (k : Nat) (f : Core → Core) : (s.upCore k f).todo = s.todo := rfl
@[simp] theorem State.upCore_cecnt (s : State) (k : Nat) (f : Core → Core) : (s.upCore k f).cecnt = s.cecnt := rfl
@[simp] theorem State.upCore_ceSeen (s : State) (k : Nat) (f : Core → Core) : (s.upCore k f).ceSeen = s.ceSeen := rfl
@[simp] theorem State.upCore_kds (s : State) (k : Nat) (f : Core → Core) : (s.upCore k f).kds = s.kds := rfl
@[simp] theorem State.upCore_nextKey (s : State) (k : Nat) (f : Core → Core) : (s.upCore k f).nextKey = s.nextKey := rfl
@[simp] theorem State.upCore_hostKd (s : State) (k : Nat) (f : Core → Core) : (s.upCore k f).hostKd = s.hostKd := rfl
@[simp] theorem State.upCore_patrolled (s : State) (k : Nat) (f : Core → Core) : (s.upCore k f).patrolled = s.patrolled := rfl
@[simp] theorem State.upCore_patrolKds (s : State) (k : Nat) (f : Core → Core) : (s.upCore k f).patrolKds = s.patrolKds := rfl
@[simp] theorem State.upCore_tagFailCnt (s : State) (k : Nat) (f : Core → Core) : (s.upCore k f).tagFailCnt = s.tagFailCnt := rfl
@[simp] theorem State.upCore_turnstat (s : State) (k : Nat) (f : Core → Core) : (s.upCore k f).turnstat = s.turnstat := rfl
@[simp] theorem State.upCore_turn (s : State) (k : Nat) (f : Core → Core) : (s.upCore k f).turn = s.turn := rfl
@[simp] theorem State.upCore_health (s : State) (k : Nat) (f : Core → Core) : (s.upCore k f).health = s.health := rfl
@[simp] theorem State.upCore_slots (s : State) (k : Nat) (f : Core → Core) : (s.upCore k f).slots = s.slots := rfl
@[simp] theorem State.upCore_quote (s : State) (k : Nat) (f : Core → Core) : (s.upCore k f).quote = s.quote := rfl
@[simp] theorem State.upCore_remap (s : State) (k : Nat) (f : Core → Core) : (s.upCore k f).remap = s.remap := rfl
@[simp] theorem State.upCore_refpost (s : State) (k : Nat) (f : Core → Core) : (s.upCore k f).refpost = s.refpost := rfl
@[simp] theorem State.upCore_power (s : State) (k : Nat) (f : Core → Core) : (s.upCore k f).power = s.power := rfl
@[simp] theorem State.upCore_started (s : State) (k : Nat) (f : Core → Core) : (s.upCore k f).started = s.started := rfl
@[simp] theorem State.upCore_hostRead (s : State) (k : Nat) (f : Core → Core) : (s.upCore k f).hostRead = s.hostRead := rfl
@[simp] theorem State.upCore_hostReadPoisoned (s : State) (k : Nat) (f : Core → Core) : (s.upCore k f).hostReadPoisoned = s.hostReadPoisoned := rfl
@[simp] theorem State.upCore_posted (s : State) (k : Nat) (f : Core → Core) : (s.upCore k f).posted = s.posted := rfl
@[simp] theorem State.upCore_replies (s : State) (k : Nat) (f : Core → Core) : (s.upCore k f).replies = s.replies := rfl
@[simp] theorem State.upCore_heldHit (s : State) (k : Nat) (f : Core → Core) : (s.upCore k f).heldHit = s.heldHit := rfl

/-- Reading a core after one was replaced. -/
theorem State.core_setCore (s : State) (k j : Nat) (c : Core) : (s.setCore k c).core j = if j = k then c else s.core j :=
  sget_sput _ _ _ _ _

@[simp] theorem State.core_setCore_self (s : State) (k : Nat) (c : Core) : (s.setCore k c).core k = c := by
  simp [State.core_setCore]

/-- Reading a core after one was updated. -/
theorem State.core_upCore (s : State) (k j : Nat) (f : Core → Core) :
    (s.upCore k f).core j = if j = k then f (s.core k) else s.core j := State.core_setCore s k j _

@[simp] theorem State.core_upCore_self (s : State) (k : Nat) (f : Core → Core) : (s.upCore k f).core k = f (s.core k) := by
  simp [State.core_upCore]

@[simp] theorem State.core_upCore_ne (s : State) {k j : Nat} (h : j ≠ k) (f : Core → Core) : (s.upCore k f).core j = s.core j := by
  simp [State.core_upCore, h]

/-! A cluster of a core replaced or updated: every field of the core but the clusters. -/

@[simp] theorem Core.setCl_ending (k : Core) (c : Cluster) (x : Cl) : (k.setCl c x).ending = k.ending := by cases c <;> rfl
@[simp] theorem Core.upCl_ending (k : Core) (c : Cluster) (f : Cl → Cl) : (k.upCl c f).ending = k.ending := Core.setCl_ending k c _
@[simp] theorem Core.setCl_toRight (k : Core) (c : Cluster) (x : Cl) : (k.setCl c x).toRight = k.toRight := by cases c <;> rfl
@[simp] theorem Core.upCl_toRight (k : Core) (c : Cluster) (f : Cl → Cl) : (k.upCl c f).toRight = k.toRight := Core.setCl_toRight k c _
@[simp] theorem Core.setCl_toLeft (k : Core) (c : Cluster) (x : Cl) : (k.setCl c x).toLeft = k.toLeft := by cases c <;> rfl
@[simp] theorem Core.upCl_toLeft (k : Core) (c : Cluster) (f : Cl → Cl) : (k.upCl c f).toLeft = k.toLeft := Core.setCl_toLeft k c _
@[simp] theorem Core.setCl_task (k : Core) (c : Cluster) (x : Cl) : (k.setCl c x).task = k.task := by cases c <;> rfl
@[simp] theorem Core.upCl_task (k : Core) (c : Cluster) (f : Cl → Cl) : (k.upCl c f).task = k.task := Core.setCl_task k c _
@[simp] theorem Core.setCl_ready (k : Core) (c : Cluster) (x : Cl) : (k.setCl c x).ready = k.ready := by cases c <;> rfl
@[simp] theorem Core.upCl_ready (k : Core) (c : Cluster) (f : Cl → Cl) : (k.upCl c f).ready = k.ready := Core.setCl_ready k c _
@[simp] theorem Core.setCl_conts (k : Core) (c : Cluster) (x : Cl) : (k.setCl c x).conts = k.conts := by cases c <;> rfl
@[simp] theorem Core.upCl_conts (k : Core) (c : Cluster) (f : Cl → Cl) : (k.upCl c f).conts = k.conts := Core.setCl_conts k c _
@[simp] theorem Core.setCl_issueCnt (k : Core) (c : Cluster) (x : Cl) : (k.setCl c x).issueCnt = k.issueCnt := by cases c <;> rfl
@[simp] theorem Core.upCl_issueCnt (k : Core) (c : Cluster) (f : Cl → Cl) : (k.upCl c f).issueCnt = k.issueCnt := Core.setCl_issueCnt k c _
@[simp] theorem Core.setCl_version (k : Core) (c : Cluster) (x : Cl) : (k.setCl c x).version = k.version := by cases c <;> rfl
@[simp] theorem Core.upCl_version (k : Core) (c : Cluster) (f : Cl → Cl) : (k.upCl c f).version = k.version := Core.setCl_version k c _
@[simp] theorem Core.setCl_cslot (k : Core) (c : Cluster) (x : Cl) : (k.setCl c x).cslot = k.cslot := by cases c <;> rfl
@[simp] theorem Core.upCl_cslot (k : Core) (c : Cluster) (f : Cl → Cl) : (k.upCl c f).cslot = k.cslot := Core.setCl_cslot k c _
@[simp] theorem Core.setCl_cmask (k : Core) (c : Cluster) (x : Cl) : (k.setCl c x).cmask = k.cmask := by cases c <;> rfl
@[simp] theorem Core.upCl_cmask (k : Core) (c : Cluster) (f : Cl → Cl) : (k.upCl c f).cmask = k.cmask := Core.setCl_cmask k c _
@[simp] theorem Core.setCl_steps (k : Core) (c : Cluster) (x : Cl) : (k.setCl c x).steps = k.steps := by cases c <;> rfl
@[simp] theorem Core.upCl_steps (k : Core) (c : Cluster) (f : Cl → Cl) : (k.upCl c f).steps = k.steps := Core.setCl_steps k c _
@[simp] theorem Core.setCl_phaseReq (k : Core) (c : Cluster) (x : Cl) : (k.setCl c x).phaseReq = k.phaseReq := by cases c <;> rfl
@[simp] theorem Core.upCl_phaseReq (k : Core) (c : Cluster) (f : Cl → Cl) : (k.upCl c f).phaseReq = k.phaseReq := Core.setCl_phaseReq k c _
@[simp] theorem Core.setCl_h (k : Core) (c : Cluster) (x : Cl) : (k.setCl c x).h = k.h := by cases c <;> rfl
@[simp] theorem Core.upCl_h (k : Core) (c : Cluster) (f : Cl → Cl) : (k.upCl c f).h = k.h := Core.setCl_h k c _
@[simp] theorem Core.setCl_rtb (k : Core) (c : Cluster) (x : Cl) : (k.setCl c x).rtb = k.rtb := by cases c <;> rfl
@[simp] theorem Core.upCl_rtb (k : Core) (c : Cluster) (f : Cl → Cl) : (k.upCl c f).rtb = k.rtb := Core.setCl_rtb k c _
@[simp] theorem Core.setCl_sp (k : Core) (c : Cluster) (x : Cl) : (k.setCl c x).sp = k.sp := by cases c <;> rfl
@[simp] theorem Core.upCl_sp (k : Core) (c : Cluster) (f : Cl → Cl) : (k.upCl c f).sp = k.sp := Core.setCl_sp k c _
@[simp] theorem Core.setCl_spPoison (k : Core) (c : Cluster) (x : Cl) : (k.setCl c x).spPoison = k.spPoison := by cases c <;> rfl
@[simp] theorem Core.upCl_spPoison (k : Core) (c : Cluster) (f : Cl → Cl) : (k.upCl c f).spPoison = k.spPoison := Core.setCl_spPoison k c _
@[simp] theorem Core.setCl_owner (k : Core) (c : Cluster) (x : Cl) : (k.setCl c x).owner = k.owner := by cases c <;> rfl
@[simp] theorem Core.upCl_owner (k : Core) (c : Cluster) (f : Cl → Cl) : (k.upCl c f).owner = k.owner := Core.setCl_owner k c _
@[simp] theorem Core.setCl_l1 (k : Core) (c : Cluster) (x : Cl) : (k.setCl c x).l1 = k.l1 := by cases c <;> rfl
@[simp] theorem Core.upCl_l1 (k : Core) (c : Cluster) (f : Cl → Cl) : (k.upCl c f).l1 = k.l1 := Core.setCl_l1 k c _
@[simp] theorem Core.setCl_vr (k : Core) (c : Cluster) (x : Cl) : (k.setCl c x).vr = k.vr := by cases c <;> rfl
@[simp] theorem Core.upCl_vr (k : Core) (c : Cluster) (f : Cl → Cl) : (k.upCl c f).vr = k.vr := Core.setCl_vr k c _
@[simp] theorem Core.setCl_q (k : Core) (c : Cluster) (x : Cl) : (k.setCl c x).q = k.q := by cases c <;> rfl
@[simp] theorem Core.upCl_q (k : Core) (c : Cluster) (f : Cl → Cl) : (k.upCl c f).q = k.q := Core.setCl_q k c _
@[simp] theorem Core.setCl_latch (k : Core) (c : Cluster) (x : Cl) : (k.setCl c x).latch = k.latch := by cases c <;> rfl
@[simp] theorem Core.upCl_latch (k : Core) (c : Cluster) (f : Cl → Cl) : (k.upCl c f).latch = k.latch := Core.setCl_latch k c _
@[simp] theorem Core.setCl_bypass (k : Core) (c : Cluster) (x : Cl) : (k.setCl c x).bypass = k.bypass := by cases c <;> rfl
@[simp] theorem Core.upCl_bypass (k : Core) (c : Cluster) (f : Cl → Cl) : (k.upCl c f).bypass = k.bypass := Core.setCl_bypass k c _
@[simp] theorem Core.setCl_win (k : Core) (c : Cluster) (x : Cl) : (k.setCl c x).win = k.win := by cases c <;> rfl
@[simp] theorem Core.upCl_win (k : Core) (c : Cluster) (f : Cl → Cl) : (k.upCl c f).win = k.win := Core.setCl_win k c _
@[simp] theorem Core.setCl_acc (k : Core) (c : Cluster) (x : Cl) : (k.setCl c x).acc = k.acc := by cases c <;> rfl
@[simp] theorem Core.upCl_acc (k : Core) (c : Cluster) (f : Cl → Cl) : (k.upCl c f).acc = k.acc := Core.setCl_acc k c _
@[simp] theorem Core.setCl_bank (k : Core) (c : Cluster) (x : Cl) : (k.setCl c x).bank = k.bank := by cases c <;> rfl
@[simp] theorem Core.upCl_bank (k : Core) (c : Cluster) (f : Cl → Cl) : (k.upCl c f).bank = k.bank := Core.setCl_bank k c _
@[simp] theorem Core.setCl_meta0 (k : Core) (c : Cluster) (x : Cl) : (k.setCl c x).meta0 = k.meta0 := by cases c <;> rfl
@[simp] theorem Core.upCl_meta0 (k : Core) (c : Cluster) (f : Cl → Cl) : (k.upCl c f).meta0 = k.meta0 := Core.setCl_meta0 k c _
@[simp] theorem Core.setCl_meta1 (k : Core) (c : Cluster) (x : Cl) : (k.setCl c x).meta1 = k.meta1 := by cases c <;> rfl
@[simp] theorem Core.upCl_meta1 (k : Core) (c : Cluster) (f : Cl → Cl) : (k.upCl c f).meta1 = k.meta1 := Core.setCl_meta1 k c _
@[simp] theorem Core.setCl_active (k : Core) (c : Cluster) (x : Cl) : (k.setCl c x).active = k.active := by cases c <;> rfl
@[simp] theorem Core.upCl_active (k : Core) (c : Cluster) (f : Cl → Cl) : (k.upCl c f).active = k.active := Core.setCl_active k c _
@[simp] theorem Core.setCl_tailActive (k : Core) (c : Cluster) (x : Cl) : (k.setCl c x).tailActive = k.tailActive := by cases c <;> rfl
@[simp] theorem Core.upCl_tailActive (k : Core) (c : Cluster) (f : Cl → Cl) : (k.upCl c f).tailActive = k.tailActive := Core.setCl_tailActive k c _
@[simp] theorem Core.setCl_shadow (k : Core) (c : Cluster) (x : Cl) : (k.setCl c x).shadow = k.shadow := by cases c <;> rfl
@[simp] theorem Core.upCl_shadow (k : Core) (c : Cluster) (f : Cl → Cl) : (k.upCl c f).shadow = k.shadow := Core.setCl_shadow k c _
@[simp] theorem Core.setCl_nests (k : Core) (c : Cluster) (x : Cl) : (k.setCl c x).nests = k.nests := by cases c <;> rfl
@[simp] theorem Core.upCl_nests (k : Core) (c : Cluster) (f : Cl → Cl) : (k.upCl c f).nests = k.nests := Core.setCl_nests k c _
@[simp] theorem Core.setCl_tq (k : Core) (c : Cluster) (x : Cl) : (k.setCl c x).tq = k.tq := by cases c <;> rfl
@[simp] theorem Core.upCl_tq (k : Core) (c : Cluster) (f : Cl → Cl) : (k.upCl c f).tq = k.tq := Core.setCl_tq k c _
@[simp] theorem Core.setCl_tsteps (k : Core) (c : Cluster) (x : Cl) : (k.setCl c x).tsteps = k.tsteps := by cases c <;> rfl
@[simp] theorem Core.upCl_tsteps (k : Core) (c : Cluster) (f : Cl → Cl) : (k.upCl c f).tsteps = k.tsteps := Core.setCl_tsteps k c _
@[simp] theorem Core.setCl_jsteps (k : Core) (c : Cluster) (x : Cl) : (k.setCl c x).jsteps = k.jsteps := by cases c <;> rfl
@[simp] theorem Core.upCl_jsteps (k : Core) (c : Cluster) (f : Cl → Cl) : (k.upCl c f).jsteps = k.jsteps := Core.setCl_jsteps k c _
@[simp] theorem Core.setCl_tds (k : Core) (c : Cluster) (x : Cl) : (k.setCl c x).tds = k.tds := by cases c <;> rfl
@[simp] theorem Core.upCl_tds (k : Core) (c : Cluster) (f : Cl → Cl) : (k.upCl c f).tds = k.tds := Core.setCl_tds k c _
@[simp] theorem Core.setCl_sparseBuf (k : Core) (c : Cluster) (x : Cl) : (k.setCl c x).sparseBuf = k.sparseBuf := by cases c <;> rfl
@[simp] theorem Core.upCl_sparseBuf (k : Core) (c : Cluster) (f : Cl → Cl) : (k.upCl c f).sparseBuf = k.sparseBuf := Core.setCl_sparseBuf k c _
@[simp] theorem Core.setCl_cut (k : Core) (c : Cluster) (x : Cl) : (k.setCl c x).cut = k.cut := by cases c <;> rfl
@[simp] theorem Core.upCl_cut (k : Core) (c : Cluster) (f : Cl → Cl) : (k.upCl c f).cut = k.cut := Core.setCl_cut k c _
@[simp] theorem Core.setCl_ws (k : Core) (c : Cluster) (x : Cl) : (k.setCl c x).ws = k.ws := by cases c <;> rfl
@[simp] theorem Core.upCl_ws (k : Core) (c : Cluster) (f : Cl → Cl) : (k.upCl c f).ws = k.ws := Core.setCl_ws k c _
@[simp] theorem Core.setCl_wsNext (k : Core) (c : Cluster) (x : Cl) : (k.setCl c x).wsNext = k.wsNext := by cases c <;> rfl
@[simp] theorem Core.upCl_wsNext (k : Core) (c : Cluster) (f : Cl → Cl) : (k.upCl c f).wsNext = k.wsNext := Core.setCl_wsNext k c _
@[simp] theorem Core.setCl_seqWs (k : Core) (c : Cluster) (x : Cl) : (k.setCl c x).seqWs = k.seqWs := by cases c <;> rfl
@[simp] theorem Core.upCl_seqWs (k : Core) (c : Cluster) (f : Cl → Cl) : (k.upCl c f).seqWs = k.seqWs := Core.setCl_seqWs k c _
@[simp] theorem Core.setCl_cp (k : Core) (c : Cluster) (x : Cl) : (k.setCl c x).cp = k.cp := by cases c <;> rfl
@[simp] theorem Core.upCl_cp (k : Core) (c : Cluster) (f : Cl → Cl) : (k.upCl c f).cp = k.cp := Core.setCl_cp k c _
@[simp] theorem Core.setCl_cpNext (k : Core) (c : Cluster) (x : Cl) : (k.setCl c x).cpNext = k.cpNext := by cases c <;> rfl
@[simp] theorem Core.upCl_cpNext (k : Core) (c : Cluster) (f : Cl → Cl) : (k.upCl c f).cpNext = k.cpNext := Core.setCl_cpNext k c _
@[simp] theorem Core.setCl_cpTail (k : Core) (c : Cluster) (x : Cl) : (k.setCl c x).cpTail = k.cpTail := by cases c <;> rfl
@[simp] theorem Core.upCl_cpTail (k : Core) (c : Cluster) (f : Cl → Cl) : (k.upCl c f).cpTail = k.cpTail := Core.setCl_cpTail k c _
@[simp] theorem Core.setCl_seqCp (k : Core) (c : Cluster) (x : Cl) : (k.setCl c x).seqCp = k.seqCp := by cases c <;> rfl
@[simp] theorem Core.upCl_seqCp (k : Core) (c : Cluster) (f : Cl → Cl) : (k.upCl c f).seqCp = k.seqCp := Core.setCl_seqCp k c _
@[simp] theorem Core.setCl_cpFrom (k : Core) (c : Cluster) (x : Cl) : (k.setCl c x).cpFrom = k.cpFrom := by cases c <;> rfl
@[simp] theorem Core.upCl_cpFrom (k : Core) (c : Cluster) (f : Cl → Cl) : (k.upCl c f).cpFrom = k.cpFrom := Core.setCl_cpFrom k c _
@[simp] theorem Core.setCl_wsFrom (k : Core) (c : Cluster) (x : Cl) : (k.setCl c x).wsFrom = k.wsFrom := by cases c <;> rfl
@[simp] theorem Core.upCl_wsFrom (k : Core) (c : Cluster) (f : Cl → Cl) : (k.upCl c f).wsFrom = k.wsFrom := Core.setCl_wsFrom k c _
@[simp] theorem Core.setCl_seqCtx (k : Core) (c : Cluster) (x : Cl) : (k.setCl c x).seqCtx = k.seqCtx := by cases c <;> rfl
@[simp] theorem Core.upCl_seqCtx (k : Core) (c : Cluster) (f : Cl → Cl) : (k.upCl c f).seqCtx = k.seqCtx := Core.setCl_seqCtx k c _
@[simp] theorem Core.setCl_seqs (k : Core) (c : Cluster) (x : Cl) : (k.setCl c x).seqs = k.seqs := by cases c <;> rfl
@[simp] theorem Core.upCl_seqs (k : Core) (c : Cluster) (f : Cl → Cl) : (k.upCl c f).seqs = k.seqs := Core.setCl_seqs k c _
@[simp] theorem Core.setCl_ownt (k : Core) (c : Cluster) (x : Cl) : (k.setCl c x).ownt = k.ownt := by cases c <;> rfl
@[simp] theorem Core.upCl_ownt (k : Core) (c : Cluster) (f : Cl → Cl) : (k.upCl c f).ownt = k.ownt := Core.setCl_ownt k c _
@[simp] theorem Core.setCl_xq (k : Core) (c : Cluster) (x : Cl) : (k.setCl c x).xq = k.xq := by cases c <;> rfl
@[simp] theorem Core.upCl_xq (k : Core) (c : Cluster) (f : Cl → Cl) : (k.upCl c f).xq = k.xq := Core.setCl_xq k c _
@[simp] theorem Core.setCl_xcount (k : Core) (c : Cluster) (x : Cl) : (k.setCl c x).xcount = k.xcount := by cases c <;> rfl
@[simp] theorem Core.upCl_xcount (k : Core) (c : Cluster) (f : Cl → Cl) : (k.upCl c f).xcount = k.xcount := Core.setCl_xcount k c _
@[simp] theorem Core.setCl_xorder (k : Core) (c : Cluster) (x : Cl) : (k.setCl c x).xorder = k.xorder := by cases c <;> rfl
@[simp] theorem Core.upCl_xorder (k : Core) (c : Cluster) (f : Cl → Cl) : (k.upCl c f).xorder = k.xorder := Core.setCl_xorder k c _
@[simp] theorem Core.setCl_xb (k : Core) (c : Cluster) (x : Cl) : (k.setCl c x).xb = k.xb := by cases c <;> rfl
@[simp] theorem Core.upCl_xb (k : Core) (c : Cluster) (f : Cl → Cl) : (k.upCl c f).xb = k.xb := Core.setCl_xb k c _
@[simp] theorem Core.setCl_trap (k : Core) (c : Cluster) (x : Cl) : (k.setCl c x).trap = k.trap := by cases c <;> rfl
@[simp] theorem Core.upCl_trap (k : Core) (c : Cluster) (f : Cl → Cl) : (k.upCl c f).trap = k.trap := Core.setCl_trap k c _
@[simp] theorem Core.setCl_inh (k : Core) (c : Cluster) (x : Cl) : (k.setCl c x).inh = k.inh := by cases c <;> rfl
@[simp] theorem Core.upCl_inh (k : Core) (c : Cluster) (f : Cl → Cl) : (k.upCl c f).inh = k.inh := Core.setCl_inh k c _
@[simp] theorem Core.setCl_hloops (k : Core) (c : Cluster) (x : Cl) : (k.setCl c x).hloops = k.hloops := by cases c <;> rfl
@[simp] theorem Core.upCl_hloops (k : Core) (c : Cluster) (f : Cl → Cl) : (k.upCl c f).hloops = k.hloops := Core.setCl_hloops k c _
@[simp] theorem Core.setCl_halted (k : Core) (c : Cluster) (x : Cl) : (k.setCl c x).halted = k.halted := by cases c <;> rfl
@[simp] theorem Core.upCl_halted (k : Core) (c : Cluster) (f : Cl → Cl) : (k.upCl c f).halted = k.halted := Core.setCl_halted k c _
@[simp] theorem Core.setCl_haltedAt (k : Core) (c : Cluster) (x : Cl) : (k.setCl c x).haltedAt = k.haltedAt := by cases c <;> rfl
@[simp] theorem Core.upCl_haltedAt (k : Core) (c : Cluster) (f : Cl → Cl) : (k.upCl c f).haltedAt = k.haltedAt := Core.setCl_haltedAt k c _
@[simp] theorem Core.setCl_preempt (k : Core) (c : Cluster) (x : Cl) : (k.setCl c x).preempt = k.preempt := by cases c <;> rfl
@[simp] theorem Core.upCl_preempt (k : Core) (c : Cluster) (f : Cl → Cl) : (k.upCl c f).preempt = k.preempt := Core.setCl_preempt k c _
@[simp] theorem Core.setCl_waitHeld (k : Core) (c : Cluster) (x : Cl) : (k.setCl c x).waitHeld = k.waitHeld := by cases c <;> rfl
@[simp] theorem Core.upCl_waitHeld (k : Core) (c : Cluster) (f : Cl → Cl) : (k.upCl c f).waitHeld = k.waitHeld := Core.setCl_waitHeld k c _
@[simp] theorem Core.setCl_debug (k : Core) (c : Cluster) (x : Cl) : (k.setCl c x).debug = k.debug := by cases c <;> rfl
@[simp] theorem Core.upCl_debug (k : Core) (c : Cluster) (f : Cl → Cl) : (k.upCl c f).debug = k.debug := Core.setCl_debug k c _

@[simp] theorem Core.cl_setCl_self (k : Core) (c : Cluster) (x : Cl) : (k.setCl c x).cl c = x := by cases c <;> rfl

@[simp] theorem Core.cl_setCl_ne (k : Core) {c d : Cluster} (h : d ≠ c) (x : Cl) : (k.setCl c x).cl d = k.cl d := by
  cases c <;> cases d <;> first | rfl | exact absurd rfl h

@[simp] theorem Core.cl_upCl_self (k : Core) (c : Cluster) (f : Cl → Cl) : (k.upCl c f).cl c = f (k.cl c) := Core.cl_setCl_self k c _

@[simp] theorem Core.cl_upCl_ne (k : Core) {c d : Cluster} (h : d ≠ c) (f : Cl → Cl) : (k.upCl c f).cl d = k.cl d :=
  Core.cl_setCl_ne k h _

@[simp] theorem Core.cl_upAll (k : Core) (f : Cluster → Cl → Cl) (c : Cluster) : (k.upAll f).cl c = f c (k.cl c) := by cases c <;> rfl

/-- Replacing a cluster twice is replacing it once. -/
@[simp] theorem Core.setCl_setCl (k : Core) (c : Cluster) (x y : Cl) : (k.setCl c x).setCl c y = k.setCl c y := by cases c <;> rfl

@[simp] theorem Core.setCl_cl (k : Core) (c : Cluster) : k.setCl c (k.cl c) = k := by cases c <;> rfl

/-! A scalar register or a predicate written: every other field of the cluster. -/

@[simp] theorem Cl.setReg_pc (x : Cl) (r : Reg) (v : Word) : (x.setReg r v).pc = x.pc := by unfold Cl.setReg; split <;> rfl
@[simp] theorem Cl.setPred_pc (x : Cl) (p : Pred) (m v : Mask) : (x.setPred p m v).pc = x.pc := by unfold Cl.setPred; split <;> rfl
@[simp] theorem Cl.setPred_s (x : Cl) (p : Pred) (m v : Mask) : (x.setPred p m v).s = x.s := by unfold Cl.setPred; split <;> rfl
@[simp] theorem Cl.setReg_p (x : Cl) (r : Reg) (v : Word) : (x.setReg r v).p = x.p := by unfold Cl.setReg; split <;> rfl
@[simp] theorem Cl.setReg_loops (x : Cl) (r : Reg) (v : Word) : (x.setReg r v).loops = x.loops := by unfold Cl.setReg; split <;> rfl
@[simp] theorem Cl.setPred_loops (x : Cl) (p : Pred) (m v : Mask) : (x.setPred p m v).loops = x.loops := by unfold Cl.setPred; split <;> rfl
@[simp] theorem Cl.setReg_exposed (x : Cl) (r : Reg) (v : Word) : (x.setReg r v).exposed = x.exposed := by unfold Cl.setReg; split <;> rfl
@[simp] theorem Cl.setPred_exposed (x : Cl) (p : Pred) (m v : Mask) : (x.setPred p m v).exposed = x.exposed := by unfold Cl.setPred; split <;> rfl
@[simp] theorem Cl.setReg_aflags (x : Cl) (r : Reg) (v : Word) : (x.setReg r v).aflags = x.aflags := by unfold Cl.setReg; split <;> rfl
@[simp] theorem Cl.setPred_aflags (x : Cl) (p : Pred) (m v : Mask) : (x.setPred p m v).aflags = x.aflags := by unfold Cl.setPred; split <;> rfl
@[simp] theorem Cl.setReg_inL (x : Cl) (r : Reg) (v : Word) : (x.setReg r v).inL = x.inL := by unfold Cl.setReg; split <;> rfl
@[simp] theorem Cl.setPred_inL (x : Cl) (p : Pred) (m v : Mask) : (x.setPred p m v).inL = x.inL := by unfold Cl.setPred; split <;> rfl
@[simp] theorem Cl.setReg_inR (x : Cl) (r : Reg) (v : Word) : (x.setReg r v).inR = x.inR := by unfold Cl.setReg; split <;> rfl
@[simp] theorem Cl.setPred_inR (x : Cl) (p : Pred) (m v : Mask) : (x.setPred p m v).inR = x.inR := by unfold Cl.setPred; split <;> rfl
@[simp] theorem Cl.setReg_outL (x : Cl) (r : Reg) (v : Word) : (x.setReg r v).outL = x.outL := by unfold Cl.setReg; split <;> rfl
@[simp] theorem Cl.setPred_outL (x : Cl) (p : Pred) (m v : Mask) : (x.setPred p m v).outL = x.outL := by unfold Cl.setPred; split <;> rfl
@[simp] theorem Cl.setReg_outR (x : Cl) (r : Reg) (v : Word) : (x.setReg r v).outR = x.outR := by unfold Cl.setReg; split <;> rfl
@[simp] theorem Cl.setPred_outR (x : Cl) (p : Pred) (m v : Mask) : (x.setPred p m v).outR = x.outR := by unfold Cl.setPred; split <;> rfl
@[simp] theorem Cl.setReg_need (x : Cl) (r : Reg) (v : Word) : (x.setReg r v).need = x.need := by unfold Cl.setReg; split <;> rfl
@[simp] theorem Cl.setPred_need (x : Cl) (p : Pred) (m v : Mask) : (x.setPred p m v).need = x.need := by unfold Cl.setPred; split <;> rfl
@[simp] theorem Cl.setReg_icyc (x : Cl) (r : Reg) (v : Word) : (x.setReg r v).icyc = x.icyc := by unfold Cl.setReg; split <;> rfl
@[simp] theorem Cl.setPred_icyc (x : Cl) (p : Pred) (m v : Mask) : (x.setPred p m v).icyc = x.icyc := by unfold Cl.setPred; split <;> rfl
@[simp] theorem Cl.setReg_flight (x : Cl) (r : Reg) (v : Word) : (x.setReg r v).flight = x.flight := by unfold Cl.setReg; split <;> rfl
@[simp] theorem Cl.setPred_flight (x : Cl) (p : Pred) (m v : Mask) : (x.setPred p m v).flight = x.flight := by unfold Cl.setPred; split <;> rfl
@[simp] theorem Cl.setReg_nseq (x : Cl) (r : Reg) (v : Word) : (x.setReg r v).nseq = x.nseq := by unfold Cl.setReg; split <;> rfl
@[simp] theorem Cl.setPred_nseq (x : Cl) (p : Pred) (m v : Mask) : (x.setPred p m v).nseq = x.nseq := by unfold Cl.setPred; split <;> rfl
@[simp] theorem Cl.setReg_loadQ (x : Cl) (r : Reg) (v : Word) : (x.setReg r v).loadQ = x.loadQ := by unfold Cl.setReg; split <;> rfl
@[simp] theorem Cl.setPred_loadQ (x : Cl) (p : Pred) (m v : Mask) : (x.setPred p m v).loadQ = x.loadQ := by unfold Cl.setPred; split <;> rfl
@[simp] theorem Cl.setReg_storeQ (x : Cl) (r : Reg) (v : Word) : (x.setReg r v).storeQ = x.storeQ := by unfold Cl.setReg; split <;> rfl
@[simp] theorem Cl.setPred_storeQ (x : Cl) (p : Pred) (m v : Mask) : (x.setPred p m v).storeQ = x.storeQ := by unfold Cl.setPred; split <;> rfl
@[simp] theorem Cl.setReg_rets (x : Cl) (r : Reg) (v : Word) : (x.setReg r v).rets = x.rets := by unfold Cl.setReg; split <;> rfl
@[simp] theorem Cl.setPred_rets (x : Cl) (p : Pred) (m v : Mask) : (x.setPred p m v).rets = x.rets := by unfold Cl.setPred; split <;> rfl
@[simp] theorem Cl.setReg_wait (x : Cl) (r : Reg) (v : Word) : (x.setReg r v).wait = x.wait := by unfold Cl.setReg; split <;> rfl
@[simp] theorem Cl.setPred_wait (x : Cl) (p : Pred) (m v : Mask) : (x.setPred p m v).wait = x.wait := by unfold Cl.setPred; split <;> rfl
@[simp] theorem Cl.setReg_popped (x : Cl) (r : Reg) (v : Word) : (x.setReg r v).popped = x.popped := by unfold Cl.setReg; split <;> rfl
@[simp] theorem Cl.setPred_popped (x : Cl) (p : Pred) (m v : Mask) : (x.setPred p m v).popped = x.popped := by unfold Cl.setPred; split <;> rfl
@[simp] theorem Cl.setReg_stopped (x : Cl) (r : Reg) (v : Word) : (x.setReg r v).stopped = x.stopped := by unfold Cl.setReg; split <;> rfl
@[simp] theorem Cl.setPred_stopped (x : Cl) (p : Pred) (m v : Mask) : (x.setPred p m v).stopped = x.stopped := by unfold Cl.setPred; split <;> rfl
@[simp] theorem Cl.setReg_wdogFrom (x : Cl) (r : Reg) (v : Word) : (x.setReg r v).wdogFrom = x.wdogFrom := by unfold Cl.setReg; split <;> rfl
@[simp] theorem Cl.setPred_wdogFrom (x : Cl) (p : Pred) (m v : Mask) : (x.setPred p m v).wdogFrom = x.wdogFrom := by unfold Cl.setPred; split <;> rfl
@[simp] theorem Cl.setReg_trapped (x : Cl) (r : Reg) (v : Word) : (x.setReg r v).trapped = x.trapped := by unfold Cl.setReg; split <;> rfl
@[simp] theorem Cl.setPred_trapped (x : Cl) (p : Pred) (m v : Mask) : (x.setPred p m v).trapped = x.trapped := by unfold Cl.setPred; split <;> rfl
@[simp] theorem Cl.setReg_trapCause (x : Cl) (r : Reg) (v : Word) : (x.setReg r v).trapCause = x.trapCause := by unfold Cl.setReg; split <;> rfl
@[simp] theorem Cl.setPred_trapCause (x : Cl) (p : Pred) (m v : Mask) : (x.setPred p m v).trapCause = x.trapCause := by unfold Cl.setPred; split <;> rfl
@[simp] theorem Cl.setReg_trapPc (x : Cl) (r : Reg) (v : Word) : (x.setReg r v).trapPc = x.trapPc := by unfold Cl.setReg; split <;> rfl
@[simp] theorem Cl.setPred_trapPc (x : Cl) (p : Pred) (m v : Mask) : (x.setPred p m v).trapPc = x.trapPc := by unfold Cl.setPred; split <;> rfl
@[simp] theorem Cl.setReg_trapInfo (x : Cl) (r : Reg) (v : Word) : (x.setReg r v).trapInfo = x.trapInfo := by unfold Cl.setReg; split <;> rfl
@[simp] theorem Cl.setPred_trapInfo (x : Cl) (p : Pred) (m v : Mask) : (x.setPred p m v).trapInfo = x.trapInfo := by unfold Cl.setPred; split <;> rfl
@[simp] theorem Cl.setReg_dbgbp (x : Cl) (r : Reg) (v : Word) : (x.setReg r v).dbgbp = x.dbgbp := by unfold Cl.setReg; split <;> rfl
@[simp] theorem Cl.setPred_dbgbp (x : Cl) (p : Pred) (m v : Mask) : (x.setPred p m v).dbgbp = x.dbgbp := by unfold Cl.setPred; split <;> rfl

/-- A register read after a write: s0 reads as zero whatever was written (R11). -/
theorem Cl.reg_setReg (x : Cl) (d r : Reg) (v : Word) : (x.setReg d v).reg r = if r = 0 then 0 else if r = d then v else x.reg r := by
  unfold Cl.reg Cl.setReg
  by_cases hr : r = 0
  · simp [hr]
  · by_cases hd : d = 0
    · simp only [hr, hd, if_true, if_false]
    · simp only [hr, hd, if_false, sget_sset]
      by_cases h : r = d
      · subst h; simp
      · rw [if_neg (fun e => h (BitVec.eq_of_toNat_eq e)), if_neg h]

@[simp] theorem Cl.reg_zero (x : Cl) : x.reg 0 = 0 := by simp [Cl.reg]

@[simp] theorem Cl.pmask_setReg (x : Cl) (d : Reg) (v : Word) (p : Pred) : (x.setReg d v).pmask p = x.pmask p := by
  simp [Cl.pmask]

@[simp] theorem Cl.reg_setPred (x : Cl) (p : Pred) (m v : Mask) (r : Reg) : (x.setPred p m v).reg r = x.reg r := by
  simp [Cl.reg]

/-- A predicate read after lanes of one were written: p0 stays all-true (R13, R121). -/
theorem Cl.pmask_setPred (x : Cl) (p q : Pred) (m v : Mask) :
    (x.setPred p m v).pmask q = if q = 0 then allLanes else if q = p then (x.pmask p &&& ~~~m) ||| (v &&& m) else x.pmask q := by
  unfold Cl.setPred
  by_cases hq : q = 0
  · simp [hq, Cl.pmask]
  · by_cases hp : p = 0
    · simp only [hp, hq, if_true, if_false]
    · simp only [hp, hq, if_false, Cl.pmask, sget_sset]
      by_cases h : q = p
      · subst h; simp
      · rw [if_neg (fun e => h (BitVec.eq_of_toNat_eq e)), if_neg h]

/-! The issuing core and cluster. -/

@[simp] theorem State.upCore_me (s : State) (k : Nat) (f : Core → Core) : (s.upCore k f).me = s.me := rfl

@[simp] theorem State.mine_upMine (s : State) (f : Core → Core) : (s.upMine f).mine = f s.mine := State.core_upCore_self s s.me f

@[simp] theorem State.core_upMine_ne (s : State) {k : Nat} (h : k ≠ s.me) (f : Core → Core) : (s.upMine f).core k = s.core k :=
  State.core_upCore_ne s h f

@[simp] theorem State.myCl_upMyCl (s : State) (f : Cl → Cl) : (s.upMyCl f).myCl = f s.myCl := by
  simp [State.upMyCl, State.myCl, State.upMine]
  simp [State.mine, State.me]

/-! A context, a queue and a record updated. -/

theorem State.ctx_upCtx (s : State) (n m : Nat) (f : Ctx → Ctx) : (s.upCtx n f).ctx m = if m = n then f (s.ctx n) else s.ctx m :=
  sget_sput _ _ _ _ _

@[simp] theorem State.ctx_upCtx_self (s : State) (n : Nat) (f : Ctx → Ctx) : (s.upCtx n f).ctx n = f (s.ctx n) := by
  simp [State.ctx_upCtx]

@[simp] theorem State.core_upCtx (s : State) (n k : Nat) (f : Ctx → Ctx) : (s.upCtx n f).core k = s.core k := rfl

@[simp] theorem State.ctx_upCore (s : State) (k n : Nat) (f : Core → Core) : (s.upCore k f).ctx n = s.ctx n := rfl

theorem State.queue_setQueue (s : State) (q r : Nat) (x : Queue) : (s.setQueue q x).queue r = if r = q then x else s.queue r :=
  sget_sset _ _ _ _ _

@[simp] theorem State.queue_setQueue_self (s : State) (q : Nat) (x : Queue) : (s.setQueue q x).queue q = x := by
  simp [State.queue_setQueue]

@[simp] theorem State.upCtx_seq (s : State) (n : Nat) (f : Ctx → Ctx) : (s.upCtx n f).seq = s.seq := rfl
@[simp] theorem State.setQueue_seq (s : State) (q : Nat) (x : Queue) : (s.setQueue q x).seq = s.seq := rfl
@[simp] theorem State.setRecSt_seq (s : State) (n r : Nat) (st : RecSt) : (s.setRecSt n r st).seq = s.seq := rfl
@[simp] theorem State.upCtx_cycle (s : State) (n : Nat) (f : Ctx → Ctx) : (s.upCtx n f).cycle = s.cycle := rfl
@[simp] theorem State.setQueue_cycle (s : State) (q : Nat) (x : Queue) : (s.setQueue q x).cycle = s.cycle := rfl
@[simp] theorem State.setRecSt_cycle (s : State) (n r : Nat) (st : RecSt) : (s.setRecSt n r st).cycle = s.cycle := rfl
@[simp] theorem State.upCtx_us (s : State) (n : Nat) (f : Ctx → Ctx) : (s.upCtx n f).us = s.us := rfl
@[simp] theorem State.setQueue_us (s : State) (q : Nat) (x : Queue) : (s.setQueue q x).us = s.us := rfl
@[simp] theorem State.setRecSt_us (s : State) (n r : Nat) (st : RecSt) : (s.setRecSt n r st).us = s.us := rfl
@[simp] theorem State.upCtx_agenda (s : State) (n : Nat) (f : Ctx → Ctx) : (s.upCtx n f).agenda = s.agenda := rfl
@[simp] theorem State.setQueue_agenda (s : State) (q : Nat) (x : Queue) : (s.setQueue q x).agenda = s.agenda := rfl
@[simp] theorem State.setRecSt_agenda (s : State) (n r : Nat) (st : RecSt) : (s.setRecSt n r st).agenda = s.agenda := rfl
@[simp] theorem State.upCtx_cur (s : State) (n : Nat) (f : Ctx → Ctx) : (s.upCtx n f).cur = s.cur := rfl
@[simp] theorem State.setQueue_cur (s : State) (q : Nat) (x : Queue) : (s.setQueue q x).cur = s.cur := rfl
@[simp] theorem State.setRecSt_cur (s : State) (n r : Nat) (st : RecSt) : (s.setRecSt n r st).cur = s.cur := rfl
@[simp] theorem State.upCtx_curCl (s : State) (n : Nat) (f : Ctx → Ctx) : (s.upCtx n f).curCl = s.curCl := rfl
@[simp] theorem State.setQueue_curCl (s : State) (q : Nat) (x : Queue) : (s.setQueue q x).curCl = s.curCl := rfl
@[simp] theorem State.setRecSt_curCl (s : State) (n r : Nat) (st : RecSt) : (s.setRecSt n r st).curCl = s.curCl := rfl
@[simp] theorem State.upCtx_joint (s : State) (n : Nat) (f : Ctx → Ctx) : (s.upCtx n f).joint = s.joint := rfl
@[simp] theorem State.setQueue_joint (s : State) (q : Nat) (x : Queue) : (s.setQueue q x).joint = s.joint := rfl
@[simp] theorem State.setRecSt_joint (s : State) (n r : Nat) (st : RecSt) : (s.setRecSt n r st).joint = s.joint := rfl
@[simp] theorem State.upCtx_cores (s : State) (n : Nat) (f : Ctx → Ctx) : (s.upCtx n f).cores = s.cores := rfl
@[simp] theorem State.setQueue_cores (s : State) (q : Nat) (x : Queue) : (s.setQueue q x).cores = s.cores := rfl
@[simp] theorem State.setRecSt_cores (s : State) (n r : Nat) (st : RecSt) : (s.setRecSt n r st).cores = s.cores := rfl
@[simp] theorem State.upCtx_mem (s : State) (n : Nat) (f : Ctx → Ctx) : (s.upCtx n f).mem = s.mem := rfl
@[simp] theorem State.setQueue_mem (s : State) (q : Nat) (x : Queue) : (s.setQueue q x).mem = s.mem := rfl
@[simp] theorem State.setRecSt_mem (s : State) (n r : Nat) (st : RecSt) : (s.setRecSt n r st).mem = s.mem := rfl
@[simp] theorem State.upCtx_hostMem (s : State) (n : Nat) (f : Ctx → Ctx) : (s.upCtx n f).hostMem = s.hostMem := rfl
@[simp] theorem State.setQueue_hostMem (s : State) (q : Nat) (x : Queue) : (s.setQueue q x).hostMem = s.hostMem := rfl
@[simp] theorem State.setRecSt_hostMem (s : State) (n r : Nat) (st : RecSt) : (s.setRecSt n r st).hostMem = s.hostMem := rfl
@[simp] theorem State.upCtx_lines (s : State) (n : Nat) (f : Ctx → Ctx) : (s.upCtx n f).lines = s.lines := rfl
@[simp] theorem State.setQueue_lines (s : State) (q : Nat) (x : Queue) : (s.setQueue q x).lines = s.lines := rfl
@[simp] theorem State.setRecSt_lines (s : State) (n r : Nat) (st : RecSt) : (s.setRecSt n r st).lines = s.lines := rfl
@[simp] theorem State.upCtx_bad (s : State) (n : Nat) (f : Ctx → Ctx) : (s.upCtx n f).bad = s.bad := rfl
@[simp] theorem State.setQueue_bad (s : State) (q : Nat) (x : Queue) : (s.setQueue q x).bad = s.bad := rfl
@[simp] theorem State.setRecSt_bad (s : State) (n r : Nat) (st : RecSt) : (s.setRecSt n r st).bad = s.bad := rfl
@[simp] theorem State.upCtx_weak (s : State) (n : Nat) (f : Ctx → Ctx) : (s.upCtx n f).weak = s.weak := rfl
@[simp] theorem State.setQueue_weak (s : State) (q : Nat) (x : Queue) : (s.setQueue q x).weak = s.weak := rfl
@[simp] theorem State.setRecSt_weak (s : State) (n r : Nat) (st : RecSt) : (s.setRecSt n r st).weak = s.weak := rfl
@[simp] theorem State.upCtx_digests (s : State) (n : Nat) (f : Ctx → Ctx) : (s.upCtx n f).digests = s.digests := rfl
@[simp] theorem State.setQueue_digests (s : State) (q : Nat) (x : Queue) : (s.setQueue q x).digests = s.digests := rfl
@[simp] theorem State.setRecSt_digests (s : State) (n r : Nat) (st : RecSt) : (s.setRecSt n r st).digests = s.digests := rfl
@[simp] theorem State.upCtx_slices (s : State) (n : Nat) (f : Ctx → Ctx) : (s.upCtx n f).slices = s.slices := rfl
@[simp] theorem State.setQueue_slices (s : State) (q : Nat) (x : Queue) : (s.setQueue q x).slices = s.slices := rfl
@[simp] theorem State.setRecSt_slices (s : State) (n r : Nat) (st : RecSt) : (s.setRecSt n r st).slices = s.slices := rfl
@[simp] theorem State.upCtx_hotCnt (s : State) (n : Nat) (f : Ctx → Ctx) : (s.upCtx n f).hotCnt = s.hotCnt := rfl
@[simp] theorem State.setQueue_hotCnt (s : State) (q : Nat) (x : Queue) : (s.setQueue q x).hotCnt = s.hotCnt := rfl
@[simp] theorem State.setRecSt_hotCnt (s : State) (n r : Nat) (st : RecSt) : (s.setRecSt n r st).hotCnt = s.hotCnt := rfl
@[simp] theorem State.upCtx_dpl (s : State) (n : Nat) (f : Ctx → Ctx) : (s.upCtx n f).dpl = s.dpl := rfl
@[simp] theorem State.setQueue_dpl (s : State) (q : Nat) (x : Queue) : (s.setQueue q x).dpl = s.dpl := rfl
@[simp] theorem State.setRecSt_dpl (s : State) (n r : Nat) (st : RecSt) : (s.setRecSt n r st).dpl = s.dpl := rfl
@[simp] theorem State.upCtx_dseed (s : State) (n : Nat) (f : Ctx → Ctx) : (s.upCtx n f).dseed = s.dseed := rfl
@[simp] theorem State.setQueue_dseed (s : State) (q : Nat) (x : Queue) : (s.setQueue q x).dseed = s.dseed := rfl
@[simp] theorem State.setRecSt_dseed (s : State) (n r : Nat) (st : RecSt) : (s.setRecSt n r st).dseed = s.dseed := rfl
@[simp] theorem State.upCtx_l2 (s : State) (n : Nat) (f : Ctx → Ctx) : (s.upCtx n f).l2 = s.l2 := rfl
@[simp] theorem State.setQueue_l2 (s : State) (q : Nat) (x : Queue) : (s.setQueue q x).l2 = s.l2 := rfl
@[simp] theorem State.setRecSt_l2 (s : State) (n r : Nat) (st : RecSt) : (s.setRecSt n r st).l2 = s.l2 := rfl
@[simp] theorem State.upCtx_ways (s : State) (n : Nat) (f : Ctx → Ctx) : (s.upCtx n f).ways = s.ways := rfl
@[simp] theorem State.setQueue_ways (s : State) (q : Nat) (x : Queue) : (s.setQueue q x).ways = s.ways := rfl
@[simp] theorem State.setRecSt_ways (s : State) (n r : Nat) (st : RecSt) : (s.setRecSt n r st).ways = s.ways := rfl
@[simp] theorem State.upCtx_rtag (s : State) (n : Nat) (f : Ctx → Ctx) : (s.upCtx n f).rtag = s.rtag := rfl
@[simp] theorem State.setQueue_rtag (s : State) (q : Nat) (x : Queue) : (s.setQueue q x).rtag = s.rtag := rfl
@[simp] theorem State.setRecSt_rtag (s : State) (n r : Nat) (st : RecSt) : (s.setRecSt n r st).rtag = s.rtag := rfl
@[simp] theorem State.upCtx_rdemote (s : State) (n : Nat) (f : Ctx → Ctx) : (s.upCtx n f).rdemote = s.rdemote := rfl
@[simp] theorem State.setQueue_rdemote (s : State) (q : Nat) (x : Queue) : (s.setQueue q x).rdemote = s.rdemote := rfl
@[simp] theorem State.setRecSt_rdemote (s : State) (n r : Nat) (st : RecSt) : (s.setRecSt n r st).rdemote = s.rdemote := rfl
@[simp] theorem State.upCtx_dicts (s : State) (n : Nat) (f : Ctx → Ctx) : (s.upCtx n f).dicts = s.dicts := rfl
@[simp] theorem State.setQueue_dicts (s : State) (q : Nat) (x : Queue) : (s.setQueue q x).dicts = s.dicts := rfl
@[simp] theorem State.setRecSt_dicts (s : State) (n r : Nat) (st : RecSt) : (s.setRecSt n r st).dicts = s.dicts := rfl
@[simp] theorem State.upCtx_walkCache (s : State) (n : Nat) (f : Ctx → Ctx) : (s.upCtx n f).walkCache = s.walkCache := rfl
@[simp] theorem State.setQueue_walkCache (s : State) (q : Nat) (x : Queue) : (s.setQueue q x).walkCache = s.walkCache := rfl
@[simp] theorem State.setRecSt_walkCache (s : State) (n r : Nat) (st : RecSt) : (s.setRecSt n r st).walkCache = s.walkCache := rfl
@[simp] theorem State.upCtx_fltbase (s : State) (n : Nat) (f : Ctx → Ctx) : (s.upCtx n f).fltbase = s.fltbase := rfl
@[simp] theorem State.setQueue_fltbase (s : State) (q : Nat) (x : Queue) : (s.setQueue q x).fltbase = s.fltbase := rfl
@[simp] theorem State.setRecSt_fltbase (s : State) (n r : Nat) (st : RecSt) : (s.setRecSt n r st).fltbase = s.fltbase := rfl
@[simp] theorem State.upCtx_fltlim (s : State) (n : Nat) (f : Ctx → Ctx) : (s.upCtx n f).fltlim = s.fltlim := rfl
@[simp] theorem State.setQueue_fltlim (s : State) (q : Nat) (x : Queue) : (s.setQueue q x).fltlim = s.fltlim := rfl
@[simp] theorem State.setRecSt_fltlim (s : State) (n r : Nat) (st : RecSt) : (s.setRecSt n r st).fltlim = s.fltlim := rfl
@[simp] theorem State.upCtx_frames (s : State) (n : Nat) (f : Ctx → Ctx) : (s.upCtx n f).frames = s.frames := rfl
@[simp] theorem State.setQueue_frames (s : State) (q : Nat) (x : Queue) : (s.setQueue q x).frames = s.frames := rfl
@[simp] theorem State.setRecSt_frames (s : State) (n r : Nat) (st : RecSt) : (s.setRecSt n r st).frames = s.frames := rfl
@[simp] theorem State.upCtx_frmstat (s : State) (n : Nat) (f : Ctx → Ctx) : (s.upCtx n f).frmstat = s.frmstat := rfl
@[simp] theorem State.setQueue_frmstat (s : State) (q : Nat) (x : Queue) : (s.setQueue q x).frmstat = s.frmstat := rfl
@[simp] theorem State.setRecSt_frmstat (s : State) (n r : Nat) (st : RecSt) : (s.setRecSt n r st).frmstat = s.frmstat := rfl
@[simp] theorem State.upCtx_flr (s : State) (n : Nat) (f : Ctx → Ctx) : (s.upCtx n f).flr = s.flr := rfl
@[simp] theorem State.setQueue_flr (s : State) (q : Nat) (x : Queue) : (s.setQueue q x).flr = s.flr := rfl
@[simp] theorem State.setRecSt_flr (s : State) (n r : Nat) (st : RecSt) : (s.setRecSt n r st).flr = s.flr := rfl
@[simp] theorem State.upCtx_tinvarg (s : State) (n : Nat) (f : Ctx → Ctx) : (s.upCtx n f).tinvarg = s.tinvarg := rfl
@[simp] theorem State.setQueue_tinvarg (s : State) (q : Nat) (x : Queue) : (s.setQueue q x).tinvarg = s.tinvarg := rfl
@[simp] theorem State.setRecSt_tinvarg (s : State) (n r : Nat) (st : RecSt) : (s.setRecSt n r st).tinvarg = s.tinvarg := rfl
@[simp] theorem State.upCtx_tinvDone (s : State) (n : Nat) (f : Ctx → Ctx) : (s.upCtx n f).tinvDone = s.tinvDone := rfl
@[simp] theorem State.setQueue_tinvDone (s : State) (q : Nat) (x : Queue) : (s.setQueue q x).tinvDone = s.tinvDone := rfl
@[simp] theorem State.setRecSt_tinvDone (s : State) (n r : Nat) (st : RecSt) : (s.setRecSt n r st).tinvDone = s.tinvDone := rfl
@[simp] theorem State.setQueue_ctxs (s : State) (q : Nat) (x : Queue) : (s.setQueue q x).ctxs = s.ctxs := rfl
@[simp] theorem State.setRecSt_ctxs (s : State) (n r : Nat) (st : RecSt) : (s.setRecSt n r st).ctxs = s.ctxs := rfl
@[simp] theorem State.upCtx_recs (s : State) (n : Nat) (f : Ctx → Ctx) : (s.upCtx n f).recs = s.recs := rfl
@[simp] theorem State.setQueue_recs (s : State) (q : Nat) (x : Queue) : (s.setQueue q x).recs = s.recs := rfl
@[simp] theorem State.upCtx_recstat (s : State) (n : Nat) (f : Ctx → Ctx) : (s.upCtx n f).recstat = s.recstat := rfl
@[simp] theorem State.setQueue_recstat (s : State) (q : Nat) (x : Queue) : (s.setQueue q x).recstat = s.recstat := rfl
@[simp] theorem State.setRecSt_recstat (s : State) (n r : Nat) (st : RecSt) : (s.setRecSt n r st).recstat = s.recstat := rfl
@[simp] theorem State.upCtx_queues (s : State) (n : Nat) (f : Ctx → Ctx) : (s.upCtx n f).queues = s.queues := rfl
@[simp] theorem State.setRecSt_queues (s : State) (n r : Nat) (st : RecSt) : (s.setRecSt n r st).queues = s.queues := rfl
@[simp] theorem State.upCtx_launches (s : State) (n : Nat) (f : Ctx → Ctx) : (s.upCtx n f).launches = s.launches := rfl
@[simp] theorem State.setQueue_launches (s : State) (q : Nat) (x : Queue) : (s.setQueue q x).launches = s.launches := rfl
@[simp] theorem State.setRecSt_launches (s : State) (n r : Nat) (st : RecSt) : (s.setRecSt n r st).launches = s.launches := rfl
@[simp] theorem State.upCtx_nextLaunch (s : State) (n : Nat) (f : Ctx → Ctx) : (s.upCtx n f).nextLaunch = s.nextLaunch := rfl
@[simp] theorem State.setQueue_nextLaunch (s : State) (q : Nat) (x : Queue) : (s.setQueue q x).nextLaunch = s.nextLaunch := rfl
@[simp] theorem State.setRecSt_nextLaunch (s : State) (n r : Nat) (st : RecSt) : (s.setRecSt n r st).nextLaunch = s.nextLaunch := rfl
@[simp] theorem State.upCtx_quads (s : State) (n : Nat) (f : Ctx → Ctx) : (s.upCtx n f).quads = s.quads := rfl
@[simp] theorem State.setQueue_quads (s : State) (q : Nat) (x : Queue) : (s.setQueue q x).quads = s.quads := rfl
@[simp] theorem State.setRecSt_quads (s : State) (n r : Nat) (st : RecSt) : (s.setRecSt n r st).quads = s.quads := rfl
@[simp] theorem State.upCtx_nextTag (s : State) (n : Nat) (f : Ctx → Ctx) : (s.upCtx n f).nextTag = s.nextTag := rfl
@[simp] theorem State.setQueue_nextTag (s : State) (q : Nat) (x : Queue) : (s.setQueue q x).nextTag = s.nextTag := rfl
@[simp] theorem State.setRecSt_nextTag (s : State) (n r : Nat) (st : RecSt) : (s.setRecSt n r st).nextTag = s.nextTag := rfl
@[simp] theorem State.upCtx_claims (s : State) (n : Nat) (f : Ctx → Ctx) : (s.upCtx n f).claims = s.claims := rfl
@[simp] theorem State.setQueue_claims (s : State) (q : Nat) (x : Queue) : (s.setQueue q x).claims = s.claims := rfl
@[simp] theorem State.setRecSt_claims (s : State) (n r : Nat) (st : RecSt) : (s.setRecSt n r st).claims = s.claims := rfl
@[simp] theorem State.upCtx_barriers (s : State) (n : Nat) (f : Ctx → Ctx) : (s.upCtx n f).barriers = s.barriers := rfl
@[simp] theorem State.setQueue_barriers (s : State) (q : Nat) (x : Queue) : (s.setQueue q x).barriers = s.barriers := rfl
@[simp] theorem State.setRecSt_barriers (s : State) (n r : Nat) (st : RecSt) : (s.setRecSt n r st).barriers = s.barriers := rfl
@[simp] theorem State.upCtx_bcfg (s : State) (n : Nat) (f : Ctx → Ctx) : (s.upCtx n f).bcfg = s.bcfg := rfl
@[simp] theorem State.setQueue_bcfg (s : State) (q : Nat) (x : Queue) : (s.setQueue q x).bcfg = s.bcfg := rfl
@[simp] theorem State.setRecSt_bcfg (s : State) (n r : Nat) (st : RecSt) : (s.setRecSt n r st).bcfg = s.bcfg := rfl
@[simp] theorem State.upCtx_arrivals (s : State) (n : Nat) (f : Ctx → Ctx) : (s.upCtx n f).arrivals = s.arrivals := rfl
@[simp] theorem State.setQueue_arrivals (s : State) (q : Nat) (x : Queue) : (s.setQueue q x).arrivals = s.arrivals := rfl
@[simp] theorem State.setRecSt_arrivals (s : State) (n r : Nat) (st : RecSt) : (s.setRecSt n r st).arrivals = s.arrivals := rfl
@[simp] theorem State.upCtx_links (s : State) (n : Nat) (f : Ctx → Ctx) : (s.upCtx n f).links = s.links := rfl
@[simp] theorem State.setQueue_links (s : State) (q : Nat) (x : Queue) : (s.setQueue q x).links = s.links := rfl
@[simp] theorem State.setRecSt_links (s : State) (n r : Nat) (st : RecSt) : (s.setRecSt n r st).links = s.links := rfl
@[simp] theorem State.upCtx_win (s : State) (n : Nat) (f : Ctx → Ctx) : (s.upCtx n f).win = s.win := rfl
@[simp] theorem State.setQueue_win (s : State) (q : Nat) (x : Queue) : (s.setQueue q x).win = s.win := rfl
@[simp] theorem State.setRecSt_win (s : State) (n r : Nat) (st : RecSt) : (s.setRecSt n r st).win = s.win := rfl
@[simp] theorem State.upCtx_devid (s : State) (n : Nat) (f : Ctx → Ctx) : (s.upCtx n f).devid = s.devid := rfl
@[simp] theorem State.setQueue_devid (s : State) (q : Nat) (x : Queue) : (s.setQueue q x).devid = s.devid := rfl
@[simp] theorem State.setRecSt_devid (s : State) (n r : Nat) (st : RecSt) : (s.setRecSt n r st).devid = s.devid := rfl
@[simp] theorem State.upCtx_routes (s : State) (n : Nat) (f : Ctx → Ctx) : (s.upCtx n f).routes = s.routes := rfl
@[simp] theorem State.setQueue_routes (s : State) (q : Nat) (x : Queue) : (s.setQueue q x).routes = s.routes := rfl
@[simp] theorem State.setRecSt_routes (s : State) (n r : Nat) (st : RecSt) : (s.setRecSt n r st).routes = s.routes := rfl
@[simp] theorem State.upCtx_exports (s : State) (n : Nat) (f : Ctx → Ctx) : (s.upCtx n f).exports = s.exports := rfl
@[simp] theorem State.setQueue_exports (s : State) (q : Nat) (x : Queue) : (s.setQueue q x).exports = s.exports := rfl
@[simp] theorem State.setRecSt_exports (s : State) (n r : Nat) (st : RecSt) : (s.setRecSt n r st).exports = s.exports := rfl
@[simp] theorem State.upCtx_remoteFailed (s : State) (n : Nat) (f : Ctx → Ctx) : (s.upCtx n f).remoteFailed = s.remoteFailed := rfl
@[simp] theorem State.setQueue_remoteFailed (s : State) (q : Nat) (x : Queue) : (s.setQueue q x).remoteFailed = s.remoteFailed := rfl
@[simp] theorem State.setRecSt_remoteFailed (s : State) (n r : Nat) (st : RecSt) : (s.setRecSt n r st).remoteFailed = s.remoteFailed := rfl
@[simp] theorem State.upCtx_dbgsel (s : State) (n : Nat) (f : Ctx → Ctx) : (s.upCtx n f).dbgsel = s.dbgsel := rfl
@[simp] theorem State.setQueue_dbgsel (s : State) (q : Nat) (x : Queue) : (s.setQueue q x).dbgsel = s.dbgsel := rfl
@[simp] theorem State.setRecSt_dbgsel (s : State) (n r : Nat) (st : RecSt) : (s.setRecSt n r st).dbgsel = s.dbgsel := rfl
@[simp] theorem State.upCtx_irq (s : State) (n : Nat) (f : Ctx → Ctx) : (s.upCtx n f).irq = s.irq := rfl
@[simp] theorem State.setQueue_irq (s : State) (q : Nat) (x : Queue) : (s.setQueue q x).irq = s.irq := rfl
@[simp] theorem State.setRecSt_irq (s : State) (n r : Nat) (st : RecSt) : (s.setRecSt n r st).irq = s.irq := rfl
@[simp] theorem State.upCtx_msix (s : State) (n : Nat) (f : Ctx → Ctx) : (s.upCtx n f).msix = s.msix := rfl
@[simp] theorem State.setQueue_msix (s : State) (q : Nat) (x : Queue) : (s.setQueue q x).msix = s.msix := rfl
@[simp] theorem State.setRecSt_msix (s : State) (n r : Nat) (st : RecSt) : (s.setRecSt n r st).msix = s.msix := rfl
@[simp] theorem State.upCtx_ctxcmd (s : State) (n : Nat) (f : Ctx → Ctx) : (s.upCtx n f).ctxcmd = s.ctxcmd := rfl
@[simp] theorem State.setQueue_ctxcmd (s : State) (q : Nat) (x : Queue) : (s.setQueue q x).ctxcmd = s.ctxcmd := rfl
@[simp] theorem State.setRecSt_ctxcmd (s : State) (n r : Nat) (st : RecSt) : (s.setRecSt n r st).ctxcmd = s.ctxcmd := rfl
@[simp] theorem State.upCtx_reccmd (s : State) (n : Nat) (f : Ctx → Ctx) : (s.upCtx n f).reccmd = s.reccmd := rfl
@[simp] theorem State.setQueue_reccmd (s : State) (q : Nat) (x : Queue) : (s.setQueue q x).reccmd = s.reccmd := rfl
@[simp] theorem State.setRecSt_reccmd (s : State) (n r : Nat) (st : RecSt) : (s.setRecSt n r st).reccmd = s.reccmd := rfl
@[simp] theorem State.upCtx_tinvcmd (s : State) (n : Nat) (f : Ctx → Ctx) : (s.upCtx n f).tinvcmd = s.tinvcmd := rfl
@[simp] theorem State.setQueue_tinvcmd (s : State) (q : Nat) (x : Queue) : (s.setQueue q x).tinvcmd = s.tinvcmd := rfl
@[simp] theorem State.setRecSt_tinvcmd (s : State) (n r : Nat) (st : RecSt) : (s.setRecSt n r st).tinvcmd = s.tinvcmd := rfl
@[simp] theorem State.upCtx_frmcmd (s : State) (n : Nat) (f : Ctx → Ctx) : (s.upCtx n f).frmcmd = s.frmcmd := rfl
@[simp] theorem State.setQueue_frmcmd (s : State) (q : Nat) (x : Queue) : (s.setQueue q x).frmcmd = s.frmcmd := rfl
@[simp] theorem State.setRecSt_frmcmd (s : State) (n r : Nat) (st : RecSt) : (s.setRecSt n r st).frmcmd = s.frmcmd := rfl
@[simp] theorem State.upCtx_dictcmd (s : State) (n : Nat) (f : Ctx → Ctx) : (s.upCtx n f).dictcmd = s.dictcmd := rfl
@[simp] theorem State.setQueue_dictcmd (s : State) (q : Nat) (x : Queue) : (s.setQueue q x).dictcmd = s.dictcmd := rfl
@[simp] theorem State.setRecSt_dictcmd (s : State) (n r : Nat) (st : RecSt) : (s.setRecSt n r st).dictcmd = s.dictcmd := rfl
@[simp] theorem State.upCtx_fwSignals (s : State) (n : Nat) (f : Ctx → Ctx) : (s.upCtx n f).fwSignals = s.fwSignals := rfl
@[simp] theorem State.setQueue_fwSignals (s : State) (q : Nat) (x : Queue) : (s.setQueue q x).fwSignals = s.fwSignals := rfl
@[simp] theorem State.setRecSt_fwSignals (s : State) (n r : Nat) (st : RecSt) : (s.setRecSt n r st).fwSignals = s.fwSignals := rfl
@[simp] theorem State.upCtx_elog (s : State) (n : Nat) (f : Ctx → Ctx) : (s.upCtx n f).elog = s.elog := rfl
@[simp] theorem State.setQueue_elog (s : State) (q : Nat) (x : Queue) : (s.setQueue q x).elog = s.elog := rfl
@[simp] theorem State.setRecSt_elog (s : State) (n r : Nat) (st : RecSt) : (s.setRecSt n r st).elog = s.elog := rfl
@[simp] theorem State.upCtx_todo (s : State) (n : Nat) (f : Ctx → Ctx) : (s.upCtx n f).todo = s.todo := rfl
@[simp] theorem State.setQueue_todo (s : State) (q : Nat) (x : Queue) : (s.setQueue q x).todo = s.todo := rfl
@[simp] theorem State.setRecSt_todo (s : State) (n r : Nat) (st : RecSt) : (s.setRecSt n r st).todo = s.todo := rfl
@[simp] theorem State.upCtx_cecnt (s : State) (n : Nat) (f : Ctx → Ctx) : (s.upCtx n f).cecnt = s.cecnt := rfl
@[simp] theorem State.setQueue_cecnt (s : State) (q : Nat) (x : Queue) : (s.setQueue q x).cecnt = s.cecnt := rfl
@[simp] theorem State.setRecSt_cecnt (s : State) (n r : Nat) (st : RecSt) : (s.setRecSt n r st).cecnt = s.cecnt := rfl
@[simp] theorem State.upCtx_ceSeen (s : State) (n : Nat) (f : Ctx → Ctx) : (s.upCtx n f).ceSeen = s.ceSeen := rfl
@[simp] theorem State.setQueue_ceSeen (s : State) (q : Nat) (x : Queue) : (s.setQueue q x).ceSeen = s.ceSeen := rfl
@[simp] theorem State.setRecSt_ceSeen (s : State) (n r : Nat) (st : RecSt) : (s.setRecSt n r st).ceSeen = s.ceSeen := rfl
@[simp] theorem State.upCtx_kds (s : State) (n : Nat) (f : Ctx → Ctx) : (s.upCtx n f).kds = s.kds := rfl
@[simp] theorem State.setQueue_kds (s : State) (q : Nat) (x : Queue) : (s.setQueue q x).kds = s.kds := rfl
@[simp] theorem State.setRecSt_kds (s : State) (n r : Nat) (st : RecSt) : (s.setRecSt n r st).kds = s.kds := rfl
@[simp] theorem State.upCtx_nextKey (s : State) (n : Nat) (f : Ctx → Ctx) : (s.upCtx n f).nextKey = s.nextKey := rfl
@[simp] theorem State.setQueue_nextKey (s : State) (q : Nat) (x : Queue) : (s.setQueue q x).nextKey = s.nextKey := rfl
@[simp] theorem State.setRecSt_nextKey (s : State) (n r : Nat) (st : RecSt) : (s.setRecSt n r st).nextKey = s.nextKey := rfl
@[simp] theorem State.upCtx_hostKd (s : State) (n : Nat) (f : Ctx → Ctx) : (s.upCtx n f).hostKd = s.hostKd := rfl
@[simp] theorem State.setQueue_hostKd (s : State) (q : Nat) (x : Queue) : (s.setQueue q x).hostKd = s.hostKd := rfl
@[simp] theorem State.setRecSt_hostKd (s : State) (n r : Nat) (st : RecSt) : (s.setRecSt n r st).hostKd = s.hostKd := rfl
@[simp] theorem State.upCtx_patrolled (s : State) (n : Nat) (f : Ctx → Ctx) : (s.upCtx n f).patrolled = s.patrolled := rfl
@[simp] theorem State.setQueue_patrolled (s : State) (q : Nat) (x : Queue) : (s.setQueue q x).patrolled = s.patrolled := rfl
@[simp] theorem State.setRecSt_patrolled (s : State) (n r : Nat) (st : RecSt) : (s.setRecSt n r st).patrolled = s.patrolled := rfl
@[simp] theorem State.upCtx_patrolKds (s : State) (n : Nat) (f : Ctx → Ctx) : (s.upCtx n f).patrolKds = s.patrolKds := rfl
@[simp] theorem State.setQueue_patrolKds (s : State) (q : Nat) (x : Queue) : (s.setQueue q x).patrolKds = s.patrolKds := rfl
@[simp] theorem State.setRecSt_patrolKds (s : State) (n r : Nat) (st : RecSt) : (s.setRecSt n r st).patrolKds = s.patrolKds := rfl
@[simp] theorem State.upCtx_tagFailCnt (s : State) (n : Nat) (f : Ctx → Ctx) : (s.upCtx n f).tagFailCnt = s.tagFailCnt := rfl
@[simp] theorem State.setQueue_tagFailCnt (s : State) (q : Nat) (x : Queue) : (s.setQueue q x).tagFailCnt = s.tagFailCnt := rfl
@[simp] theorem State.setRecSt_tagFailCnt (s : State) (n r : Nat) (st : RecSt) : (s.setRecSt n r st).tagFailCnt = s.tagFailCnt := rfl
@[simp] theorem State.upCtx_turnstat (s : State) (n : Nat) (f : Ctx → Ctx) : (s.upCtx n f).turnstat = s.turnstat := rfl
@[simp] theorem State.setQueue_turnstat (s : State) (q : Nat) (x : Queue) : (s.setQueue q x).turnstat = s.turnstat := rfl
@[simp] theorem State.setRecSt_turnstat (s : State) (n r : Nat) (st : RecSt) : (s.setRecSt n r st).turnstat = s.turnstat := rfl
@[simp] theorem State.upCtx_turn (s : State) (n : Nat) (f : Ctx → Ctx) : (s.upCtx n f).turn = s.turn := rfl
@[simp] theorem State.setQueue_turn (s : State) (q : Nat) (x : Queue) : (s.setQueue q x).turn = s.turn := rfl
@[simp] theorem State.setRecSt_turn (s : State) (n r : Nat) (st : RecSt) : (s.setRecSt n r st).turn = s.turn := rfl
@[simp] theorem State.upCtx_health (s : State) (n : Nat) (f : Ctx → Ctx) : (s.upCtx n f).health = s.health := rfl
@[simp] theorem State.setQueue_health (s : State) (q : Nat) (x : Queue) : (s.setQueue q x).health = s.health := rfl
@[simp] theorem State.setRecSt_health (s : State) (n r : Nat) (st : RecSt) : (s.setRecSt n r st).health = s.health := rfl
@[simp] theorem State.upCtx_slots (s : State) (n : Nat) (f : Ctx → Ctx) : (s.upCtx n f).slots = s.slots := rfl
@[simp] theorem State.setQueue_slots (s : State) (q : Nat) (x : Queue) : (s.setQueue q x).slots = s.slots := rfl
@[simp] theorem State.setRecSt_slots (s : State) (n r : Nat) (st : RecSt) : (s.setRecSt n r st).slots = s.slots := rfl
@[simp] theorem State.upCtx_quote (s : State) (n : Nat) (f : Ctx → Ctx) : (s.upCtx n f).quote = s.quote := rfl
@[simp] theorem State.setQueue_quote (s : State) (q : Nat) (x : Queue) : (s.setQueue q x).quote = s.quote := rfl
@[simp] theorem State.setRecSt_quote (s : State) (n r : Nat) (st : RecSt) : (s.setRecSt n r st).quote = s.quote := rfl
@[simp] theorem State.upCtx_remap (s : State) (n : Nat) (f : Ctx → Ctx) : (s.upCtx n f).remap = s.remap := rfl
@[simp] theorem State.setQueue_remap (s : State) (q : Nat) (x : Queue) : (s.setQueue q x).remap = s.remap := rfl
@[simp] theorem State.setRecSt_remap (s : State) (n r : Nat) (st : RecSt) : (s.setRecSt n r st).remap = s.remap := rfl
@[simp] theorem State.upCtx_refpost (s : State) (n : Nat) (f : Ctx → Ctx) : (s.upCtx n f).refpost = s.refpost := rfl
@[simp] theorem State.setQueue_refpost (s : State) (q : Nat) (x : Queue) : (s.setQueue q x).refpost = s.refpost := rfl
@[simp] theorem State.setRecSt_refpost (s : State) (n r : Nat) (st : RecSt) : (s.setRecSt n r st).refpost = s.refpost := rfl
@[simp] theorem State.upCtx_power (s : State) (n : Nat) (f : Ctx → Ctx) : (s.upCtx n f).power = s.power := rfl
@[simp] theorem State.setQueue_power (s : State) (q : Nat) (x : Queue) : (s.setQueue q x).power = s.power := rfl
@[simp] theorem State.setRecSt_power (s : State) (n r : Nat) (st : RecSt) : (s.setRecSt n r st).power = s.power := rfl
@[simp] theorem State.upCtx_started (s : State) (n : Nat) (f : Ctx → Ctx) : (s.upCtx n f).started = s.started := rfl
@[simp] theorem State.setQueue_started (s : State) (q : Nat) (x : Queue) : (s.setQueue q x).started = s.started := rfl
@[simp] theorem State.setRecSt_started (s : State) (n r : Nat) (st : RecSt) : (s.setRecSt n r st).started = s.started := rfl
@[simp] theorem State.upCtx_hostRead (s : State) (n : Nat) (f : Ctx → Ctx) : (s.upCtx n f).hostRead = s.hostRead := rfl
@[simp] theorem State.setQueue_hostRead (s : State) (q : Nat) (x : Queue) : (s.setQueue q x).hostRead = s.hostRead := rfl
@[simp] theorem State.setRecSt_hostRead (s : State) (n r : Nat) (st : RecSt) : (s.setRecSt n r st).hostRead = s.hostRead := rfl
@[simp] theorem State.upCtx_hostReadPoisoned (s : State) (n : Nat) (f : Ctx → Ctx) : (s.upCtx n f).hostReadPoisoned = s.hostReadPoisoned := rfl
@[simp] theorem State.setQueue_hostReadPoisoned (s : State) (q : Nat) (x : Queue) : (s.setQueue q x).hostReadPoisoned = s.hostReadPoisoned := rfl
@[simp] theorem State.setRecSt_hostReadPoisoned (s : State) (n r : Nat) (st : RecSt) : (s.setRecSt n r st).hostReadPoisoned = s.hostReadPoisoned := rfl
@[simp] theorem State.upCtx_posted (s : State) (n : Nat) (f : Ctx → Ctx) : (s.upCtx n f).posted = s.posted := rfl
@[simp] theorem State.setQueue_posted (s : State) (q : Nat) (x : Queue) : (s.setQueue q x).posted = s.posted := rfl
@[simp] theorem State.setRecSt_posted (s : State) (n r : Nat) (st : RecSt) : (s.setRecSt n r st).posted = s.posted := rfl
@[simp] theorem State.upCtx_replies (s : State) (n : Nat) (f : Ctx → Ctx) : (s.upCtx n f).replies = s.replies := rfl
@[simp] theorem State.setQueue_replies (s : State) (q : Nat) (x : Queue) : (s.setQueue q x).replies = s.replies := rfl
@[simp] theorem State.setRecSt_replies (s : State) (n r : Nat) (st : RecSt) : (s.setRecSt n r st).replies = s.replies := rfl
@[simp] theorem State.upCtx_heldHit (s : State) (n : Nat) (f : Ctx → Ctx) : (s.upCtx n f).heldHit = s.heldHit := rfl
@[simp] theorem State.setQueue_heldHit (s : State) (q : Nat) (x : Queue) : (s.setQueue q x).heldHit = s.heldHit := rfl
@[simp] theorem State.setRecSt_heldHit (s : State) (n r : Nat) (st : RecSt) : (s.setRecSt n r st).heldHit = s.heldHit := rfl

end Sys2Proof.Machine
end

