-- ==== Sys2Proof/Laws/Issue.lean ====
section
/-! SUPPORT. What issuing a word can do, said once: a word that is ready acts, one whose guard is false passes, a malformed one
    traps, and a held one stands where it is. -/

namespace Sys2Proof.Machine

open Sys2Proof

/-- A word that is ready pops and acts. -/
theorem Ready.issueWord {s : State} {i : Instr} (h : Ready s i) (body : State → Eff) :
    s.issueWord i body = (s.begun i).perform i body := by
  obtain ⟨h1, h2, h3, h4, h5⟩ := h
  unfold State.issueWord State.begun
  cases hj : s.joint
  · simp only [State.ticked, hj] at h4 h5
    simp [hj] at h3
    simp_all
  · simp only [State.ticked, hj] at h4 h5
    simp_all

/-- A word whose body answers a state retires in it (R45, R119). -/
theorem Ready.ok {s u : State} {i : Instr} {body : State → Eff} (h : Ready s i)
    (hb : body ((if i.stays then s.begun i else (s.begun i).advance i).noted i) = .ok u) : issue s i body = .next (u.retire i) := by
  simp only [State.noted] at hb
  simp only [issue, h.issueWord, State.perform, hb]

/-- A word whose body raises a trap traps at its own address, with none of its effect made (R296). -/
theorem Ready.trap {s : State} {i : Instr} {body : State → Eff} {cause : Cause} {info : Word} {operand : List Byte} (h : Ready s i)
    (hb : body ((if i.stays then s.begun i else (s.begun i).advance i).noted i) = .trap cause info operand) :
    issue s i body = .next ((s.begun i).trapHere (s.begun i).curCl cause (s.begun i).myCl.pc info operand) := by
  simp only [State.noted] at hb
  simp only [issue, h.issueWord, State.perform, hb]

/-- A word whose own effect is a trap retires and traps with TRAP_PC at the next word (R159). -/
theorem Ready.trapNext {s u : State} {i : Instr} {body : State → Eff} {cause : Cause} {info : Word} (h : Ready s i)
    (hb : body ((if i.stays then s.begun i else (s.begun i).advance i).noted i) = .trapNext u cause info) :
    issue s i body = .next ((u.retire i).trapHere (s.begun i).curCl cause (pcPlus (s.begun i).curCl (s.begun i).myCl.pc i.words) info []) := by
  simp only [State.noted] at hb
  simp only [issue, h.issueWord, State.perform, hb]

/-- A malformed word traps, whatever else holds (R131). -/
theorem issue_malformed {s : State} {i : Instr} {b : Bad} (body : State → Eff) (hc : s.canIssue = true)
    (hb : issueBad s.curCl s.myCl i = some b) : issue s i body = .next (s.trapBad b (wordImage s.curCl i)) := by
  simp [issue, State.issueWord, hc, hb]

/-- A held word stands where it is (R48, R49; log 6). -/
theorem issue_held {s : State} {i : Instr} (body : State → Eff) (hc : s.canIssue = true) (hb : issueBad s.curCl s.myCl i = none)
    (hj : s.joint = false) (hp : (s.tick i).fullPush i = false) (hh : (s.tick i).holds i = true) : issue s i body = .next ((s.tick i).holdBack i) := by
  simp [issue, State.issueWord, hc, hb, hj, hp, hh]

/-- A cluster that cannot issue leaves the state as it is. -/
theorem issue_blocked {s : State} {i : Instr} (body : State → Eff) (hc : s.canIssue = false) : issue s i body = .next s := by
  simp [issue, State.issueWord, hc]

/-! The parts of an issue leave the cluster that issues, and its core's number, as they are. -/

@[simp] theorem State.deliver_cur (s : State) (n : Nat) (v : RegVal) : (s.deliver n v).cur = s.cur := rfl
@[simp] theorem State.deliver_curCl (s : State) (n : Nat) (v : RegVal) : (s.deliver n v).curCl = s.curCl := rfl
@[simp] theorem State.deliver_joint (s : State) (n : Nat) (v : RegVal) : (s.deliver n v).joint = s.joint := rfl

end Sys2Proof.Machine
end

