-- ==== Sys2Proof/Laws/Memory.lean ====
section
/-! SUPPORT. Byte memories: every operation on them keeps the canonical form, what a write leaves at each address, and reset. -/

namespace Sys2Proof.Machine

open Sys2Proof

theorem swf_putBytes {d : Byte} {m : Memory} (a : Nat) (bs : List (Option Byte)) (h : swf d m = true) : swf d (putBytes d m a bs) = true := by
  induction bs generalizing m a with
  | nil => exact h
  | cons b r ih =>
    cases b with
    | none => exact ih (a + 1) h
    | some b => exact ih (a + 1) (swf_sset a b h)

/-- A write of bytes is seen at the bytes it names, and nowhere else. -/
theorem sget_putBytes (d : Byte) (m : Memory) (a : Nat) (bs : List (Option Byte)) (y : Nat) :
    sget d (putBytes d m a bs) y = if a ≤ y then (match bs[y - a]? with | some (some b) => b | _ => sget d m y) else sget d m y := by
  induction bs generalizing m a with
  | nil => simp [putBytes]
  | cons b r ih =>
    have step : ∀ m' : Memory, (y ≠ a → sget d m' y = sget d m y) → sget d (putBytes d m' (a + 1) r) y =
        if a ≤ y then (if y = a then sget d m' y else match r[y - a - 1]? with | some (some b) => b | _ => sget d m y) else sget d m y := by
      intro m' hm
      rw [ih]
      by_cases h1 : a + 1 ≤ y
      · have : y ≠ a := by omega
        have h2 : a ≤ y := by omega
        simp [h1, h2, this, hm this, Nat.sub_sub]
      · by_cases h2 : y = a
        · subst h2; simp
        · have : ¬ a ≤ y := by omega
          simp [h1, this, hm h2]
    cases b with
    | none =>
      rw [putBytes, step m (fun _ => rfl)]
      by_cases h2 : y = a
      · subst h2; simp
      · by_cases h1 : a ≤ y
        · obtain ⟨n, hn⟩ : ∃ n, y - a = n + 1 := ⟨y - a - 1, by omega⟩
          simp [h1, h2, hn]
        · simp [h1]
    | some b =>
      rw [putBytes, step (sset d m a b) (fun h => by rw [sget_sset]; simp [h])]
      by_cases h2 : y = a
      · subst h2; simp
      · by_cases h1 : a ≤ y
        · obtain ⟨n, hn⟩ : ∃ n, y - a = n + 1 := ⟨y - a - 1, by omega⟩
          simp [h1, h2, hn]
        · simp [h1]

theorem Memory.wf_putBytes {m : Memory} (a : Nat) (bs : List (Option Byte)) (h : Memory.wf m = true) : Memory.wf (putBytes unwritten m a bs) = true :=
  swf_putBytes a bs h

theorem Memory.wf_seraseRange {m : Memory} (lo hi : Nat) (h : Memory.wf m = true) : Memory.wf (seraseRange m lo hi) = true := swf_seraseRange lo hi h

/-- Canonical memories that read alike everywhere are equal. -/
theorem Memory.ext_of_wf {m n : Memory} (hm : Memory.wf m = true) (hn : Memory.wf n = true) (h : ∀ a, sget unwritten m a = sget unwritten n a) : m = n := swf_ext hm hn h

/-! A home slice at work keeps both memories canonical: what it counts, caches and records is not memory, and what it writes is written by
    `putBytes`. -/

/-- Nothing of the memories differs. -/
theorem State.Inv.of_eq {s t : State} (h : s.Inv) (hm : t.mem = s.mem) (hh : t.hostMem = s.hostMem) : t.Inv := by
  unfold State.Inv; rw [hm, hh]; exact h

theorem State.Inv.foldl {α : Type} {f : State → α → State} (hf : ∀ s x, State.Inv s → State.Inv (f s x)) (l : List α) {s : State} (h : s.Inv) :
    State.Inv (l.foldl f s) := by
  induction l generalizing s with
  | nil => exact h
  | cons x r ih => exact ih (hf s x h)

theorem State.Inv.wrote {s t : State} (h : s.Inv) (a : Nat) (bs : List (Option Byte)) (hm : t.mem = putBytes unwritten s.mem a bs)
    (hh : t.hostMem = s.hostMem) : t.Inv := by
  unfold State.Inv; rw [hm, hh]; exact ⟨Memory.wf_putBytes _ _ h.1, h.2⟩

theorem State.Inv.meetHold {s : State} (h : s.Inv) : s.meetHold.Inv := h.of_eq rfl rfl
theorem State.Inv.logError {s : State} (h : s.Inv) (cls sev unit : Nat) (ck : Option (Nat × Nat)) (addr : Nat) (detail : List Byte) :
    (s.logError cls sev unit ck addr detail).Inv := h.of_eq rfl rfl
theorem State.Inv.logAccess {s : State} (h : s.Inv) (sev : Nat) (acc : Acc) (o : Nat) : (s.logAccess sev acc o).Inv := h.of_eq rfl rfl

theorem State.Inv.corrected {s : State} (h : s.Inv) (die region : Nat) (ck : Option (Nat × Nat)) (addr : Nat) : (s.corrected die region ck addr).Inv := by
  unfold State.corrected; dsimp only; split <;> exact h.of_eq rfl rfl

theorem State.Inv.way0Back {s : State} (h : s.Inv) (k : Nat) : (s.way0Back k).Inv := by
  unfold State.way0Back
  split
  · exact h
  · dsimp only
    split
    · exact h.of_eq rfl rfl
    · split
      · exact h.of_eq rfl rfl
      · split
        · exact h.of_eq rfl rfl
        · exact h.wrote _ _ rfl rfl

theorem State.Inv.findPlane {s : State} (h : s.Inv) (acc : Acc) (o : Nat) : (s.findPlane acc o).Inv := by
  unfold State.findPlane
  dsimp only
  split
  · exact h.of_eq rfl rfl
  · split
    · exact h.corrected _ _ _ _
    · exact h

theorem State.Inv.loadRec {s : State} (h : s.Inv) (k : Nat) : (s.loadRec k).Inv := by
  unfold State.loadRec
  split
  · exact h
  · dsimp only
    split
    · exact (h.way0Back _).of_eq rfl rfl
    · split
      · exact ((h.way0Back (way0Key k)).findPlane (State.planeAcc (k / 128 * 128)).1 (State.planeAcc (k / 128 * 128)).2).of_eq rfl rfl
      · exact (h.way0Back (way0Key k)).of_eq rfl rfl

theorem State.Inv.setRec {s : State} (h : s.Inv) (k : Nat) (d : DRec) : (s.setRec k d).Inv := by
  unfold State.setRec
  dsimp only
  split
  · exact (h.loadRec k).of_eq rfl rfl
  · exact h.loadRec k

theorem State.Inv.planeOut {s : State} (h : s.Inv) (acc : Acc) (o : Nat) : (s.planeOut acc o).Inv := by
  unfold State.planeOut State.evictRec
  split
  · exact h
  · split
    · exact h.way0Back _
    · exact h

theorem State.Inv.upRecAt {s : State} (h : s.Inv) (acc : Acc) (o : Nat) (f : DRec → DRec) : (s.upRecAt acc o f).Inv := by
  unfold State.upRecAt
  split
  · exact (h.loadRec _).setRec _ _
  · exact h

theorem State.Inv.uncopy {s : State} (h : s.Inv) (f line : Nat) : (s.uncopy f line).Inv := h.of_eq rfl rfl

theorem State.Inv.both {s : State} (h : s.Inv) (acc : Acc) (o : Nat) {f : State → Acc → State} (hf : ∀ t a, State.Inv t → State.Inv (f t a)) :
    (s.both acc o f).Inv := by
  unfold State.both
  dsimp only
  split
  · split
    · exact (hf s acc h).uncopy _ _
    · exact hf _ _ (hf s acc h)
  · exact hf s acc h

theorem State.Inv.upRec {s : State} (h : s.Inv) (acc : Acc) (o : Nat) (f : DRec → DRec) : (s.upRec acc o f).Inv :=
  h.both acc o fun _ a g => g.upRecAt a o f

theorem State.Inv.l2Stale {s : State} (h : s.Inv) (acc : Acc) (o : Nat) : (s.l2Stale acc o).Inv := by
  unfold State.l2Stale State.l2Lose
  refine .foldl ?_ _ h
  intro t d g
  exact g.of_eq rfl rfl

theorem State.Inv.findLine {s : State} (h : s.Inv) (acc : Acc) (o : Nat) : (s.findLine acc o).Inv := by
  unfold State.findLine
  dsimp only
  split
  · refine State.Inv.logError (State.Inv.upRec ?_ acc o DRec.found) _ _ _ _ _ _
    exact h.of_eq rfl rfl
  · split
    · exact h.corrected _ _ _ _
    · exact h

theorem State.Inv.touch {s : State} (h : s.Inv) (acc : Acc) (o : Nat) : (s.touch acc o).Inv := by
  unfold State.touch
  split
  · exact h
  · dsimp only
    split
    · exact h
    · split <;> exact h.of_eq rfl rfl

theorem State.Inv.sliceUse {s : State} (h : s.Inv) (acc : Acc) (o : Nat) (dirty : Bool) : (s.sliceUse acc o dirty).Inv := by
  unfold State.sliceUse
  dsimp only
  split
  · exact h
  · exact h
  · split
    · exact h.of_eq rfl rfl
    · split
      · exact h.of_eq rfl rfl
      · split <;> exact h.of_eq rfl rfl

theorem State.Inv.lineRead {s : State} (h : s.Inv) (acc : Acc) (o n : Nat) : (s.lineRead acc o n).1.Inv := by
  unfold State.lineRead
  split
  · exact h.meetHold
  · split
    · exact h.logAccess _ _ _
    · exact (((h.planeOut acc o).findLine acc o).touch acc o).sliceUse acc o false

theorem State.Inv.homeRead {s : State} (h : s.Inv) (acc : Acc) (o n : Nat) : (s.homeRead acc o n).1.Inv := by
  have loop (k : Nat) (s : State) (h : s.Inv) (o n : Nat) : (s.homeReadLoop k acc o n).1.Inv := by
    induction k generalizing s o n with
    | zero => exact h
    | succ k ih =>
      unfold State.homeReadLoop
      dsimp only
      split
      · exact h
      · exact ih _ (h.lineRead acc o _) _ _
  exact loop _ s h o n

theorem State.Inv.putAt {s : State} (h : s.Inv) (acc : Acc) (o : Nat) (bs : List (Option Byte)) : (s.putAt acc o bs).Inv := by
  unfold State.putAt
  dsimp only
  have put (t : State) (g : t.Inv) (a : Nat) (ls : Sparse LineSt) (bad weak : Sparse Bool) :
      State.Inv { t with mem := putBytes unwritten t.mem a bs, lines := ls, bad := bad, weak := weak } := g.wrote a bs rfl rfl
  split
  · split
    · exact (h.planeOut acc o).logAccess _ _ _
    · exact (put _ (h.planeOut acc o) _ _ _ _).upRecAt acc o _
  · split
    · exact ((h.planeOut acc o).findLine acc o).logAccess _ _ _
    · exact (put _ ((h.planeOut acc o).findLine acc o) _ _ _ _).upRecAt acc o _

theorem State.Inv.entryAt {s : State} (h : s.Inv) (acc : Acc) (o : Nat) (bs : List (Option Byte)) : (s.entryAt acc o bs).Inv := by
  have t : State.Inv (((s.walkStale acc o).putAt acc o bs).sliceUse acc o true) := ((h.l2Stale _ o).putAt acc o bs).sliceUse acc o true
  unfold State.entryAt
  dsimp only
  split
  · split
    · exact t.uncopy _ _
    · split
      · exact t
      · split
        · exact t.meetHold
        · split
          · exact ((t.l2Stale _ o).putAt _ o bs).of_eq rfl rfl
          · exact (t.l2Stale _ o).putAt _ o bs
  · exact t

theorem State.Inv.l2Flush {s : State} (h : s.Inv) (acc : Acc) (f o die : Nat) : (s.l2Flush acc f o die).Inv := by
  unfold State.l2Flush
  dsimp only
  split
  · exact h.of_eq rfl rfl
  · split
    · exact h.of_eq rfl rfl
    · split
      · exact h.of_eq rfl rfl
      · refine State.Inv.entryAt (State.Inv.touch ?_ acc o) _ _ _
        exact h.of_eq rfl rfl

theorem State.Inv.othersFlush {s : State} (h : s.Inv) (acc : Acc) (f o : Nat) (but : Option Nat) : (s.othersFlush acc f o but).Inv := by
  unfold State.othersFlush
  split
  · exact h
  · refine .foldl (fun t d g => ?_) _ h
    split
    · exact g
    · exact g.l2Flush acc f o d

theorem State.Inv.homeEntry {s : State} (h : s.Inv) (die : Option Nat) (acc : Acc) (o : Nat) (bs : List (Option Byte)) :
    (s.homeEntry die acc o bs).Inv := by
  unfold State.homeEntry
  split
  · exact h.meetHold
  · split
    · exact h.logAccess _ _ _
    · dsimp only
      refine State.Inv.entryAt (State.Inv.touch (State.Inv.l2Stale ?_ acc o) acc o) acc o bs
      split
      · exact h.othersFlush acc _ o die
      · exact h

/-- A home write keeps the form, whoever asks for it (R107). -/
theorem State.Inv.homeWriteBy {s : State} (h : s.Inv) (die : Option Nat) (acc : Acc) (o : Nat) (bs : List (Option Byte)) :
    (s.homeWriteBy die acc o bs).Inv := by
  have loop (k : Nat) (s : State) (h : s.Inv) (o : Nat) (bs : List (Option Byte)) : (s.homeWriteLoop die k acc o bs).Inv := by
    induction k generalizing s o bs with
    | zero => exact h
    | succ k ih =>
      unfold State.homeWriteLoop
      split
      · exact h
      · dsimp only
        refine ih _ ?_ _ _
        split
        · exact h.homeEntry die acc o _
        · exact h
  exact loop _ s h o bs

theorem State.Inv.pokeMem {s : State} (h : s.Inv) (a : Nat) (bs : List Byte) : (s.pokeMem a bs).Inv := h.homeEntry _ _ _ _

theorem State.Inv.devWriteAs {s : State} (h : s.Inv) (ilv : Option Nat) (a : Nat) (bs : List Byte) : (s.devWriteAs ilv a bs).Inv := by
  unfold State.devWriteAs
  dsimp only
  split
  · exact h.homeWriteBy _ _ _ _
  · exact State.Inv.homeWriteBy (h.homeWriteBy _ _ _ _) _ _ _ _

theorem State.Inv.devReadAs {s : State} (h : s.Inv) (ilv : Option Nat) (a n : Nat) : (s.devReadAs ilv a n).1.Inv := by
  unfold State.devReadAs
  dsimp only
  split
  · exact h.homeRead _ _ _
  · exact State.Inv.homeRead (h.homeRead _ _ _) _ _ _

/-- The device's own writes keep the form (log 69). -/
theorem State.Inv.flushTodo {s : State} (h : s.Inv) : s.flushTodo.Inv := by
  have wr (s : State) (x : Todo) (h : s.Inv) : (s.writeTodo x).Inv := by
    unfold State.writeTodo
    split
    · exact h.pokeMem _ _
    · dsimp only
      split
      · exact h.of_eq rfl rfl
      · exact (h.pokeMem _ _).of_eq rfl rfl
  have loop (n : Nat) (s : State) (h : s.Inv) : (s.flushLoop n).Inv := by
    induction n generalizing s with
    | zero => exact h
    | succ n ih =>
      unfold State.flushLoop
      split
      · exact h
      · dsimp only
        split
        · exact h
        · exact ih _ (wr _ _ (h.of_eq rfl rfl))
  exact loop 256 s h

theorem State.Inv.hostWrite {s : State} (h : s.Inv) (a : Nat) (bs : List Byte) : (s.hostWrite a bs).Inv := ⟨h.1, Memory.wf_putBytes a _ h.2⟩
theorem State.Inv.zeroWay {s : State} (h : s.Inv) (slice way : Nat) : (s.zeroWay slice way).Inv := ⟨Memory.wf_seraseRange _ _ h.1, h.2⟩
theorem State.Inv.cores {s : State} (h : s.Inv) (l : List (Nat × Core)) : ({ s with cores := l } : State).Inv := h

theorem Core.swf_spWrite {k : Core} (h : swf 0 k.sp = true) (a : Nat) (bs : List (Option Byte)) : swf 0 (k.spWrite a bs).sp = true := swf_putBytes a bs h

theorem Core.spByte_spWrite (k : Core) (a : Nat) (bs : List (Option Byte)) (y : Nat) :
    (k.spWrite a bs).spByte y = if a ≤ y then (match bs[y - a]? with | some (some b) => b | _ => k.spByte y) else k.spByte y := sget_putBytes 0 k.sp a bs y

theorem State.hostByte_hostWrite (s : State) (a : Nat) (bs : List Byte) (y : Nat) :
    (s.hostWrite a bs).hostByte y = if a ≤ y then (match bs[y - a]? with | some b => b | none => s.hostByte y) else s.hostByte y := by
  show sget unwritten (putBytes unwritten s.hostMem a (allOf bs)) y = _
  rw [sget_putBytes]
  by_cases h : a ≤ y
  · simp only [h, if_true, allOf, List.getElem?_map, State.hostByte]
    cases bs[y - a]? <;> rfl
  · simp [h, State.hostByte]

end Sys2Proof.Machine
end

