-- ==== Sys2Proof/Laws/PerInstr.lean ====
section
/-! SUPPORT. A statement per instruction, as syntax: an event has no encoding and stands in no stream; a word is no event, and its encoding in a stream is as long as the instruction, or empty where the stream cannot hold it (R112, R115). -/

namespace Sys2Proof.Laws.Encoding

open Sys2Proof

/-- An event has no encoding and stands in no stream; another instruction encodes in each stream to as many words as it takes, or to none. -/
def Statement (i : Instr) : Prop :=
  (i.kind = .event → ∀ c, encode c i = [] ∧ i.wf c = false) ∧ (∀ c, encode c i = [] ∨ (encode c i).length = i.words)

/-- A word's statement. -/
theorem of_word {i : Instr} (hk : i.kind ≠ .event) (hl : ∀ c, encode c i = [] ∨ (encode c i).length = i.words) : Statement i := ⟨fun h => absurd h hk, hl⟩

/-- An event's statement. -/
theorem of_event {i : Instr} (hh : i.hdr? = none) : Statement i := by
  have he : ∀ c, encode c i = [] := fun c => by unfold encode; rw [hh]
  refine ⟨fun _ c => ⟨he c, ?_⟩, fun c => .inl (he c)⟩
  unfold Instr.wf
  rw [hh]
  simp

theorem add (h : Hdr) (d a b : Reg) : Statement (.add h d a b) := of_word (by intro h; cases h) (by intro c; cases c <;> first | exact .inl rfl | exact .inr rfl)
theorem sub (h : Hdr) (d a b : Reg) : Statement (.sub h d a b) := of_word (by intro h; cases h) (by intro c; cases c <;> first | exact .inl rfl | exact .inr rfl)
theorem and (h : Hdr) (d a b : Reg) : Statement (.and h d a b) := of_word (by intro h; cases h) (by intro c; cases c <;> first | exact .inl rfl | exact .inr rfl)
theorem or (h : Hdr) (d a b : Reg) : Statement (.or h d a b) := of_word (by intro h; cases h) (by intro c; cases c <;> first | exact .inl rfl | exact .inr rfl)
theorem xor (h : Hdr) (d a b : Reg) : Statement (.xor h d a b) := of_word (by intro h; cases h) (by intro c; cases c <;> first | exact .inl rfl | exact .inr rfl)
theorem shl (h : Hdr) (d a b : Reg) : Statement (.shl h d a b) := of_word (by intro h; cases h) (by intro c; cases c <;> first | exact .inl rfl | exact .inr rfl)
theorem shr (h : Hdr) (d a b : Reg) : Statement (.shr h d a b) := of_word (by intro h; cases h) (by intro c; cases c <;> first | exact .inl rfl | exact .inr rfl)
theorem sar (h : Hdr) (d a b : Reg) : Statement (.sar h d a b) := of_word (by intro h; cases h) (by intro c; cases c <;> first | exact .inl rfl | exact .inr rfl)
theorem mul (h : Hdr) (d a b : Reg) : Statement (.mul h d a b) := of_word (by intro h; cases h) (by intro c; cases c <;> first | exact .inl rfl | exact .inr rfl)
theorem mulhs (h : Hdr) (d a b : Reg) : Statement (.mulhs h d a b) := of_word (by intro h; cases h) (by intro c; cases c <;> first | exact .inl rfl | exact .inr rfl)
theorem mulhn (h : Hdr) (d a b : Reg) : Statement (.mulhn h d a b) := of_word (by intro h; cases h) (by intro c; cases c <;> first | exact .inl rfl | exact .inr rfl)
theorem divs (h : Hdr) (d a b : Reg) : Statement (.divs h d a b) := of_word (by intro h; cases h) (by intro c; cases c <;> first | exact .inl rfl | exact .inr rfl)
theorem divn (h : Hdr) (d a b : Reg) : Statement (.divn h d a b) := of_word (by intro h; cases h) (by intro c; cases c <;> first | exact .inl rfl | exact .inr rfl)
theorem rems (h : Hdr) (d a b : Reg) : Statement (.rems h d a b) := of_word (by intro h; cases h) (by intro c; cases c <;> first | exact .inl rfl | exact .inr rfl)
theorem remn (h : Hdr) (d a b : Reg) : Statement (.remn h d a b) := of_word (by intro h; cases h) (by intro c; cases c <;> first | exact .inl rfl | exact .inr rfl)
theorem min (h : Hdr) (d a b : Reg) : Statement (.min h d a b) := of_word (by intro h; cases h) (by intro c; cases c <;> first | exact .inl rfl | exact .inr rfl)
theorem max (h : Hdr) (d a b : Reg) : Statement (.max h d a b) := of_word (by intro h; cases h) (by intro c; cases c <;> first | exact .inl rfl | exact .inr rfl)
theorem sel (h : Hdr) (d a b : Reg) : Statement (.sel h d a b) := of_word (by intro h; cases h) (by intro c; cases c <;> first | exact .inl rfl | exact .inr rfl)
theorem addi (h : Hdr) (d a : Reg) (k : BitVec 5) : Statement (.addi h d a k) := of_word (by intro h; cases h) (by intro c; cases c <;> first | exact .inl rfl | exact .inr rfl)
theorem andi (h : Hdr) (d a : Reg) (k : BitVec 5) : Statement (.andi h d a k) := of_word (by intro h; cases h) (by intro c; cases c <;> first | exact .inl rfl | exact .inr rfl)
theorem ori (h : Hdr) (d a : Reg) (k : BitVec 5) : Statement (.ori h d a k) := of_word (by intro h; cases h) (by intro c; cases c <;> first | exact .inl rfl | exact .inr rfl)
theorem shli (h : Hdr) (d a : Reg) (k : BitVec 5) : Statement (.shli h d a k) := of_word (by intro h; cases h) (by intro c; cases c <;> first | exact .inl rfl | exact .inr rfl)
theorem shri (h : Hdr) (d a : Reg) (k : BitVec 5) : Statement (.shri h d a k) := of_word (by intro h; cases h) (by intro c; cases c <;> first | exact .inl rfl | exact .inr rfl)
theorem sari (h : Hdr) (d a : Reg) (k : BitVec 5) : Statement (.sari h d a k) := of_word (by intro h; cases h) (by intro c; cases c <;> first | exact .inl rfl | exact .inr rfl)
theorem limm (h : Hdr) (d : Reg) (hi : Bool) (lit : BitVec 32) : Statement (.limm h d hi lit) := of_word (by intro h; cases h) (by intro c; cases c <;> first | exact .inl rfl | exact .inr rfl)
theorem plog (h : Hdr) (op : BitVec 2) (pd pa pb : Pred) : Statement (.plog h op pd pa pb) := of_word (by intro h; cases h) (by intro c; cases c <;> first | exact .inl rfl | exact .inr rfl)
theorem cmpEq (h : Hdr) (pd : Pred) (a b : Reg) : Statement (.cmpEq h pd a b) := of_word (by intro h; cases h) (by intro c; cases c <;> first | exact .inl rfl | exact .inr rfl)
theorem cmpNe (h : Hdr) (pd : Pred) (a b : Reg) : Statement (.cmpNe h pd a b) := of_word (by intro h; cases h) (by intro c; cases c <;> first | exact .inl rfl | exact .inr rfl)
theorem cmpLt (h : Hdr) (pd : Pred) (a b : Reg) : Statement (.cmpLt h pd a b) := of_word (by intro h; cases h) (by intro c; cases c <;> first | exact .inl rfl | exact .inr rfl)
theorem cmpLe (h : Hdr) (pd : Pred) (a b : Reg) : Statement (.cmpLe h pd a b) := of_word (by intro h; cases h) (by intro c; cases c <;> first | exact .inl rfl | exact .inr rfl)
theorem cmpLo (h : Hdr) (pd : Pred) (a b : Reg) : Statement (.cmpLo h pd a b) := of_word (by intro h; cases h) (by intro c; cases c <;> first | exact .inl rfl | exact .inr rfl)
theorem cmpLs (h : Hdr) (pd : Pred) (a b : Reg) : Statement (.cmpLs h pd a b) := of_word (by intro h; cases h) (by intro c; cases c <;> first | exact .inl rfl | exact .inr rfl)
theorem cmpiEq (h : Hdr) (pd : Pred) (a : Reg) (k : BitVec 5) : Statement (.cmpiEq h pd a k) := of_word (by intro h; cases h) (by intro c; cases c <;> first | exact .inl rfl | exact .inr rfl)
theorem cmpiNe (h : Hdr) (pd : Pred) (a : Reg) (k : BitVec 5) : Statement (.cmpiNe h pd a k) := of_word (by intro h; cases h) (by intro c; cases c <;> first | exact .inl rfl | exact .inr rfl)
theorem cmpiLt (h : Hdr) (pd : Pred) (a : Reg) (k : BitVec 5) : Statement (.cmpiLt h pd a k) := of_word (by intro h; cases h) (by intro c; cases c <;> first | exact .inl rfl | exact .inr rfl)
theorem cmpiLe (h : Hdr) (pd : Pred) (a : Reg) (k : BitVec 5) : Statement (.cmpiLe h pd a k) := of_word (by intro h; cases h) (by intro c; cases c <;> first | exact .inl rfl | exact .inr rfl)
theorem cmpiLo (h : Hdr) (pd : Pred) (a : Reg) (k : BitVec 5) : Statement (.cmpiLo h pd a k) := of_word (by intro h; cases h) (by intro c; cases c <;> first | exact .inl rfl | exact .inr rfl)
theorem cmpiLs (h : Hdr) (pd : Pred) (a : Reg) (k : BitVec 5) : Statement (.cmpiLs h pd a k) := of_word (by intro h; cases h) (by intro c; cases c <;> first | exact .inl rfl | exact .inr rfl)
theorem br (h : Hdr) (f : BitVec 10) : Statement (.br h f) := of_word (by intro h; cases h) (by intro c; cases c <;> first | exact .inl rfl | exact .inr rfl)
theorem brp (h : Hdr) (sense : Bool) (p : Pred) (f : BitVec 10) : Statement (.brp h sense p f) := of_word (by intro h; cases h) (by intro c; cases c <;> first | exact .inl rfl | exact .inr rfl)
theorem jmp (h : Hdr) (a : Reg) : Statement (.jmp h a) := of_word (by intro h; cases h) (by intro c; cases c <;> first | exact .inl rfl | exact .inr rfl)
theorem call (h : Hdr) (c : Reg) (f : BitVec 10) : Statement (.call h c f) := of_word (by intro h; cases h) (by intro c; cases c <;> first | exact .inl rfl | exact .inr rfl)
theorem ret (h : Hdr) (a : Reg) : Statement (.ret h a) := of_word (by intro h; cases h) (by intro c; cases c <;> first | exact .inl rfl | exact .inr rfl)
theorem loop (h : Hdr) (c : Reg) (f : BitVec 10) : Statement (.loop h c f) := of_word (by intro h; cases h) (by intro c; cases c <;> first | exact .inl rfl | exact .inr rfl)
theorem lbr (h : Hdr) (f : BitVec 10) : Statement (.lbr h f) := of_word (by intro h; cases h) (by intro c; cases c <;> first | exact .inl rfl | exact .inr rfl)
theorem getc (h : Hdr) (d : Reg) (r : BitVec 10) : Statement (.getc h d r) := of_word (by intro h; cases h) (by intro c; cases c <;> first | exact .inl rfl | exact .inr rfl)
theorem setc (h : Hdr) (a : Reg) (r : BitVec 10) : Statement (.setc h a r) := of_word (by intro h; cases h) (by intro c; cases c <;> first | exact .inl rfl | exact .inr rfl)
theorem tkrd (h : Hdr) (d : Reg) (dir : Dir) : Statement (.tkrd h d dir) := of_word (by intro h; cases h) (by intro c; cases c <;> first | exact .inl rfl | exact .inr rfl)
theorem tkwr (h : Hdr) (a : Reg) (dir : Dir) : Statement (.tkwr h a dir) := of_word (by intro h; cases h) (by intro c; cases c <;> first | exact .inl rfl | exact .inr rfl)
theorem cwait (h : Hdr) (ld st : BitVec 7) (cp : BitVec 8) (ts : BitVec 6) : Statement (.cwait h ld st cp ts) := of_word (by intro h; cases h) (by intro c; cases c <;> first | exact .inl rfl | exact .inr rfl)
theorem ld (h : Hdr) (d a b : Reg) (m : MemLit) : Statement (.ld h d a b m) := of_word (by intro h; cases h) (by intro c; cases c <;> first | exact .inl rfl | exact .inr rfl)
theorem st (h : Hdr) (d a b : Reg) (m : MemLit) : Statement (.st h d a b m) := of_word (by intro h; cases h) (by intro c; cases c <;> first | exact .inl rfl | exact .inr rfl)
theorem nop (h : Hdr) : Statement (.nop h) := of_word (by intro h; cases h) (by intro c; cases c <;> first | exact .inl rfl | exact .inr rfl)
theorem trap (h : Hdr) (code : BitVec 10) : Statement (.trap h code) := of_word (by intro h; cases h) (by intro c; cases c <;> first | exact .inl rfl | exact .inr rfl)
theorem eret (h : Hdr) : Statement (.eret h) := of_word (by intro h; cases h) (by intro c; cases c <;> first | exact .inl rfl | exact .inr rfl)
theorem bkpt (h : Hdr) (code : BitVec 10) : Statement (.bkpt h code) := of_word (by intro h; cases h) (by intro c; cases c <;> first | exact .inl rfl | exact .inr rfl)
theorem yield (h : Hdr) : Statement (.yield h) := of_word (by intro h; cases h) (by intro c; cases c <;> first | exact .inl rfl | exact .inr rfl)
theorem tend (h : Hdr) : Statement (.tend h) := of_word (by intro h; cases h) (by intro c; cases c <;> first | exact .inl rfl | exact .inr rfl)
theorem waita (h : Hdr) (a b : Reg) (cc : BitVec 3) : Statement (.waita h a b cc) := of_word (by intro h; cases h) (by intro c; cases c <;> first | exact .inl rfl | exact .inr rfl)
theorem signal (h : Hdr) (d a b : Reg) (self : Bool) : Statement (.signal h d a b self) := of_word (by intro h; cases h) (by intro c; cases c <;> first | exact .inl rfl | exact .inr rfl)
theorem lmode (h : Hdr) (exposed : Bool) : Statement (.lmode h exposed) := of_word (by intro h; cases h) (by intro c; cases c <;> first | exact .inl rfl | exact .inr rfl)
theorem phase (h : Hdr) (n : BitVec 3) : Statement (.phase h n) := of_word (by intro h; cases h) (by intro c; cases c <;> first | exact .inl rfl | exact .inr rfl)
theorem mark (h : Hdr) : Statement (.mark h) := of_word (by intro h; cases h) (by intro c; cases c <;> first | exact .inl rfl | exact .inr rfl)
theorem release (h : Hdr) (scope : BitVec 3) : Statement (.release h scope) := of_word (by intro h; cases h) (by intro c; cases c <;> first | exact .inl rfl | exact .inr rfl)
theorem acquire (h : Hdr) (scope : BitVec 3) : Statement (.acquire h scope) := of_word (by intro h; cases h) (by intro c; cases c <;> first | exact .inl rfl | exact .inr rfl)
theorem xlat (h : Hdr) (d a : Reg) (pd : Pred) : Statement (.xlat h d a pd) := of_word (by intro h; cases h) (by intro c; cases c <;> first | exact .inl rfl | exact .inr rfl)
theorem rprobe (h : Hdr) (d a b : Reg) : Statement (.rprobe h d a b) := of_word (by intro h; cases h) (by intro c; cases c <;> first | exact .inl rfl | exact .inr rfl)
theorem amo (h : Hdr) (d a b : Reg) (m : AtomLit) : Statement (.amo h d a b m) := of_word (by intro h; cases h) (by intro c; cases c <;> first | exact .inl rfl | exact .inr rfl)
theorem red (h : Hdr) (d a b : Reg) (m : AtomLit) : Statement (.red h d a b m) := of_word (by intro h; cases h) (by intro c; cases c <;> first | exact .inl rfl | exact .inr rfl)
theorem cpq (h : Hdr) (d a b : Reg) : Statement (.cpq h d a b) := of_word (by intro h; cases h) (by intro c; cases c <;> first | exact .inl rfl | exact .inr rfl)
theorem cptail (h : Hdr) (d a : Reg) (n : BitVec 8) : Statement (.cptail h d a n) := of_word (by intro h; cases h) (by intro c; cases c <;> first | exact .inl rfl | exact .inr rfl)
theorem gath (h : Hdr) (d a b : Reg) : Statement (.gath h d a b) := of_word (by intro h; cases h) (by intro c; cases c <;> first | exact .inl rfl | exact .inr rfl)
theorem scat (h : Hdr) (d a b : Reg) : Statement (.scat h d a b) := of_word (by intro h; cases h) (by intro c; cases c <;> first | exact .inl rfl | exact .inr rfl)
theorem dgld (h : Hdr) (d a b : Reg) (ac : BitVec 2) (off : BitVec 21) : Statement (.dgld h d a b ac off) := of_word (by intro h; cases h) (by intro c; cases c <;> first | exact .inl rfl | exact .inr rfl)
theorem dgq (h : Hdr) (d a b : Reg) (ac : BitVec 2) (cpy : Bool) (l : Reg) (test : BitVec 4) : Statement (.dgq h d a b ac cpy l test) := of_word (by intro h; cases h) (by intro c; cases c <;> first | exact .inl rfl | exact .inr rfl)
theorem dgseal (h : Hdr) (a b : Reg) (ac : BitVec 2) (n : BitVec 12) : Statement (.dgseal h a b ac n) := of_word (by intro h; cases h) (by intro c; cases c <;> first | exact .inl rfl | exact .inr rfl)
theorem owng (h : Hdr) (a b : Reg) (cls : BitVec 3) : Statement (.owng h a b cls) := of_word (by intro h; cases h) (by intro c; cases c <;> first | exact .inl rfl | exact .inr rfl)
theorem ownt (h : Hdr) (a b : Reg) : Statement (.ownt h a b) := of_word (by intro h; cases h) (by intro c; cases c <;> first | exact .inl rfl | exact .inr rfl)
theorem ownw (h : Hdr) (a b : Reg) : Statement (.ownw h a b) := of_word (by intro h; cases h) (by intro c; cases c <;> first | exact .inl rfl | exact .inr rfl)
theorem cflush (h : Hdr) (d a b : Reg) (ac : BitVec 2) (scope : BitVec 3) : Statement (.cflush h d a b ac scope) := of_word (by intro h; cases h) (by intro c; cases c <;> first | exact .inl rfl | exact .inr rfl)
theorem cinv (h : Hdr) (d a b : Reg) (ac : BitVec 2) (scope : BitVec 3) : Statement (.cinv h d a b ac scope) := of_word (by intro h; cases h) (by intro c; cases c <;> first | exact .inl rfl | exact .inr rfl)
theorem cway (h : Hdr) (d a b : Reg) (mode : Bool) : Statement (.cway h d a b mode) := of_word (by intro h; cases h) (by intro c; cases c <;> first | exact .inl rfl | exact .inr rfl)
theorem lpatch (h : Hdr) (d a b : Reg) (field : BitVec 5) : Statement (.lpatch h d a b field) := of_word (by intro h; cases h) (by intro c; cases c <;> first | exact .inl rfl | exact .inr rfl)
theorem larm (h : Hdr) (d a : Reg) : Statement (.larm h d a) := of_word (by intro h; cases h) (by intro c; cases c <;> first | exact .inl rfl | exact .inr rfl)
theorem qapp (h : Hdr) (d a b : Reg) : Statement (.qapp h d a b) := of_word (by intro h; cases h) (by intro c; cases c <;> first | exact .inl rfl | exact .inr rfl)
theorem binit (h : Hdr) (d a : Reg) (lv : BitVec 2) (num : BitVec 8) : Statement (.binit h d a lv num) := of_word (by intro h; cases h) (by intro c; cases c <;> first | exact .inl rfl | exact .inr rfl)
theorem barv (h : Hdr) (d : Reg) (lv : BitVec 2) (num : BitVec 8) : Statement (.barv h d lv num) := of_word (by intro h; cases h) (by intro c; cases c <;> first | exact .inl rfl | exact .inr rfl)
theorem bwait (h : Hdr) (d a : Reg) (lv : BitVec 2) (num : BitVec 8) : Statement (.bwait h d a lv num) := of_word (by intro h; cases h) (by intro c; cases c <;> first | exact .inl rfl | exact .inr rfl)
theorem pmig (h : Hdr) (d a : Reg) (tier : BitVec 2) : Statement (.pmig h d a tier) := of_word (by intro h; cases h) (by intro c; cases c <;> first | exact .inl rfl | exact .inr rfl)
theorem pmigAbort (h : Hdr) (d a : Reg) : Statement (.pmigAbort h d a) := of_word (by intro h; cases h) (by intro c; cases c <;> first | exact .inl rfl | exact .inr rfl)
theorem pheat (h : Hdr) (d a : Reg) : Statement (.pheat h d a) := of_word (by intro h; cases h) (by intro c; cases c <;> first | exact .inl rfl | exact .inr rfl)
theorem tinv (h : Hdr) (a b : Reg) : Statement (.tinv h a b) := of_word (by intro h; cases h) (by intro c; cases c <;> first | exact .inl rfl | exact .inr rfl)
theorem tinvAll (h : Hdr) : Statement (.tinvAll h) := of_word (by intro h; cases h) (by intro c; cases c <;> first | exact .inl rfl | exact .inr rfl)
theorem lstat (h : Hdr) (d a : Reg) : Statement (.lstat h d a) := of_word (by intro h; cases h) (by intro c; cases c <;> first | exact .inl rfl | exact .inr rfl)
theorem vadd (h : Hdr) (o : VOps) : Statement (.vadd h o) := of_word (by intro h; cases h) (by intro c; cases c <;> first | exact .inl rfl | exact .inr rfl)
theorem vsub (h : Hdr) (o : VOps) : Statement (.vsub h o) := of_word (by intro h; cases h) (by intro c; cases c <;> first | exact .inl rfl | exact .inr rfl)
theorem vmul (h : Hdr) (o : VOps) : Statement (.vmul h o) := of_word (by intro h; cases h) (by intro c; cases c <;> first | exact .inl rfl | exact .inr rfl)
theorem vmulh (h : Hdr) (o : VOps) : Statement (.vmulh h o) := of_word (by intro h; cases h) (by intro c; cases c <;> first | exact .inl rfl | exact .inr rfl)
theorem vmin (h : Hdr) (o : VOps) : Statement (.vmin h o) := of_word (by intro h; cases h) (by intro c; cases c <;> first | exact .inl rfl | exact .inr rfl)
theorem vmax (h : Hdr) (o : VOps) : Statement (.vmax h o) := of_word (by intro h; cases h) (by intro c; cases c <;> first | exact .inl rfl | exact .inr rfl)
theorem vabs (h : Hdr) (o : VOps) : Statement (.vabs h o) := of_word (by intro h; cases h) (by intro c; cases c <;> first | exact .inl rfl | exact .inr rfl)
theorem vneg (h : Hdr) (o : VOps) : Statement (.vneg h o) := of_word (by intro h; cases h) (by intro c; cases c <;> first | exact .inl rfl | exact .inr rfl)
theorem vand (h : Hdr) (o : VOps) : Statement (.vand h o) := of_word (by intro h; cases h) (by intro c; cases c <;> first | exact .inl rfl | exact .inr rfl)
theorem vor (h : Hdr) (o : VOps) : Statement (.vor h o) := of_word (by intro h; cases h) (by intro c; cases c <;> first | exact .inl rfl | exact .inr rfl)
theorem vxor (h : Hdr) (o : VOps) : Statement (.vxor h o) := of_word (by intro h; cases h) (by intro c; cases c <;> first | exact .inl rfl | exact .inr rfl)
theorem vshl (h : Hdr) (o : VOps) : Statement (.vshl h o) := of_word (by intro h; cases h) (by intro c; cases c <;> first | exact .inl rfl | exact .inr rfl)
theorem vshr (h : Hdr) (o : VOps) : Statement (.vshr h o) := of_word (by intro h; cases h) (by intro c; cases c <;> first | exact .inl rfl | exact .inr rfl)
theorem vsar (h : Hdr) (o : VOps) : Statement (.vsar h o) := of_word (by intro h; cases h) (by intro c; cases c <;> first | exact .inl rfl | exact .inr rfl)
theorem vfadd (h : Hdr) (o : VOps) : Statement (.vfadd h o) := of_word (by intro h; cases h) (by intro c; cases c <;> first | exact .inl rfl | exact .inr rfl)
theorem vfsub (h : Hdr) (o : VOps) : Statement (.vfsub h o) := of_word (by intro h; cases h) (by intro c; cases c <;> first | exact .inl rfl | exact .inr rfl)
theorem vfmul (h : Hdr) (o : VOps) : Statement (.vfmul h o) := of_word (by intro h; cases h) (by intro c; cases c <;> first | exact .inl rfl | exact .inr rfl)
theorem vfma (h : Hdr) (o : VOps) : Statement (.vfma h o) := of_word (by intro h; cases h) (by intro c; cases c <;> first | exact .inl rfl | exact .inr rfl)
theorem vfmin (h : Hdr) (o : VOps) : Statement (.vfmin h o) := of_word (by intro h; cases h) (by intro c; cases c <;> first | exact .inl rfl | exact .inr rfl)
theorem vfmax (h : Hdr) (o : VOps) : Statement (.vfmax h o) := of_word (by intro h; cases h) (by intro c; cases c <;> first | exact .inl rfl | exact .inr rfl)
theorem vfabs (h : Hdr) (o : VOps) : Statement (.vfabs h o) := of_word (by intro h; cases h) (by intro c; cases c <;> first | exact .inl rfl | exact .inr rfl)
theorem vfneg (h : Hdr) (o : VOps) : Statement (.vfneg h o) := of_word (by intro h; cases h) (by intro c; cases c <;> first | exact .inl rfl | exact .inr rfl)
theorem vcmpEq (h : Hdr) (o : VOps) : Statement (.vcmpEq h o) := of_word (by intro h; cases h) (by intro c; cases c <;> first | exact .inl rfl | exact .inr rfl)
theorem vcmpNe (h : Hdr) (o : VOps) : Statement (.vcmpNe h o) := of_word (by intro h; cases h) (by intro c; cases c <;> first | exact .inl rfl | exact .inr rfl)
theorem vcmpLt (h : Hdr) (o : VOps) : Statement (.vcmpLt h o) := of_word (by intro h; cases h) (by intro c; cases c <;> first | exact .inl rfl | exact .inr rfl)
theorem vcmpLe (h : Hdr) (o : VOps) : Statement (.vcmpLe h o) := of_word (by intro h; cases h) (by intro c; cases c <;> first | exact .inl rfl | exact .inr rfl)
theorem vcmpLo (h : Hdr) (o : VOps) : Statement (.vcmpLo h o) := of_word (by intro h; cases h) (by intro c; cases c <;> first | exact .inl rfl | exact .inr rfl)
theorem vcmpLs (h : Hdr) (o : VOps) : Statement (.vcmpLs h o) := of_word (by intro h; cases h) (by intro c; cases c <;> first | exact .inl rfl | exact .inr rfl)
theorem vfcmpEq (h : Hdr) (o : VOps) : Statement (.vfcmpEq h o) := of_word (by intro h; cases h) (by intro c; cases c <;> first | exact .inl rfl | exact .inr rfl)
theorem vfcmpNe (h : Hdr) (o : VOps) : Statement (.vfcmpNe h o) := of_word (by intro h; cases h) (by intro c; cases c <;> first | exact .inl rfl | exact .inr rfl)
theorem vfcmpLt (h : Hdr) (o : VOps) : Statement (.vfcmpLt h o) := of_word (by intro h; cases h) (by intro c; cases c <;> first | exact .inl rfl | exact .inr rfl)
theorem vfcmpLe (h : Hdr) (o : VOps) : Statement (.vfcmpLe h o) := of_word (by intro h; cases h) (by intro c; cases c <;> first | exact .inl rfl | exact .inr rfl)
theorem vsel (h : Hdr) (o : VOps) : Statement (.vsel h o) := of_word (by intro h; cases h) (by intro c; cases c <;> first | exact .inl rfl | exact .inr rfl)
theorem vplogAnd (h : Hdr) (o : VOps) : Statement (.vplogAnd h o) := of_word (by intro h; cases h) (by intro c; cases c <;> first | exact .inl rfl | exact .inr rfl)
theorem vplogOr (h : Hdr) (o : VOps) : Statement (.vplogOr h o) := of_word (by intro h; cases h) (by intro c; cases c <;> first | exact .inl rfl | exact .inr rfl)
theorem vplogXor (h : Hdr) (o : VOps) : Statement (.vplogXor h o) := of_word (by intro h; cases h) (by intro c; cases c <;> first | exact .inl rfl | exact .inr rfl)
theorem vplogAndn (h : Hdr) (o : VOps) : Statement (.vplogAndn h o) := of_word (by intro h; cases h) (by intro c; cases c <;> first | exact .inl rfl | exact .inr rfl)
theorem vcvt (h : Hdr) (o : VOps) : Statement (.vcvt h o) := of_word (by intro h; cases h) (by intro c; cases c <;> first | exact .inl rfl | exact .inr rfl)
theorem vamax (h : Hdr) (o : VOps) : Statement (.vamax h o) := of_word (by intro h; cases h) (by intro c; cases c <;> first | exact .inl rfl | exact .inr rfl)
theorem vqcvt (h : Hdr) (o : VOps) : Statement (.vqcvt h o) := of_word (by intro h; cases h) (by intro c; cases c <;> first | exact .inl rfl | exact .inr rfl)
theorem vexp2 (h : Hdr) (o : VOps) : Statement (.vexp2 h o) := of_word (by intro h; cases h) (by intro c; cases c <;> first | exact .inl rfl | exact .inr rfl)
theorem vlog2 (h : Hdr) (o : VOps) : Statement (.vlog2 h o) := of_word (by intro h; cases h) (by intro c; cases c <;> first | exact .inl rfl | exact .inr rfl)
theorem vrcp (h : Hdr) (o : VOps) : Statement (.vrcp h o) := of_word (by intro h; cases h) (by intro c; cases c <;> first | exact .inl rfl | exact .inr rfl)
theorem vrsqrt (h : Hdr) (o : VOps) : Statement (.vrsqrt h o) := of_word (by intro h; cases h) (by intro c; cases c <;> first | exact .inl rfl | exact .inr rfl)
theorem vredadd (h : Hdr) (o : VOps) : Statement (.vredadd h o) := of_word (by intro h; cases h) (by intro c; cases c <;> first | exact .inl rfl | exact .inr rfl)
theorem vredmax (h : Hdr) (o : VOps) : Statement (.vredmax h o) := of_word (by intro h; cases h) (by intro c; cases c <;> first | exact .inl rfl | exact .inr rfl)
theorem vredmin (h : Hdr) (o : VOps) : Statement (.vredmin h o) := of_word (by intro h; cases h) (by intro c; cases c <;> first | exact .inl rfl | exact .inr rfl)
theorem vperm (h : Hdr) (o : VOps) : Statement (.vperm h o) := of_word (by intro h; cases h) (by intro c; cases c <;> first | exact .inl rfl | exact .inr rfl)
theorem vbcast (h : Hdr) (o : VOps) : Statement (.vbcast h o) := of_word (by intro h; cases h) (by intro c; cases c <;> first | exact .inl rfl | exact .inr rfl)
theorem vbcastScalar (h : Hdr) (o : VOps) : Statement (.vbcastScalar h o) := of_word (by intro h; cases h) (by intro c; cases c <;> first | exact .inl rfl | exact .inr rfl)
theorem vslide (h : Hdr) (o : VOps) : Statement (.vslide h o) := of_word (by intro h; cases h) (by intro c; cases c <;> first | exact .inl rfl | exact .inr rfl)
theorem vbext (h : Hdr) (o : VOps) : Statement (.vbext h o) := of_word (by intro h; cases h) (by intro c; cases c <;> first | exact .inl rfl | exact .inr rfl)
theorem vfunnel (h : Hdr) (o : VOps) : Statement (.vfunnel h o) := of_word (by intro h; cases h) (by intro c; cases c <;> first | exact .inl rfl | exact .inr rfl)
theorem vpopc (h : Hdr) (o : VOps) : Statement (.vpopc h o) := of_word (by intro h; cases h) (by intro c; cases c <;> first | exact .inl rfl | exact .inr rfl)
theorem vclz (h : Hdr) (o : VOps) : Statement (.vclz h o) := of_word (by intro h; cases h) (by intro c; cases c <;> first | exact .inl rfl | exact .inr rfl)
theorem vmov (h : Hdr) (o : VOps) : Statement (.vmov h o) := of_word (by intro h; cases h) (by intro c; cases c <;> first | exact .inl rfl | exact .inr rfl)
theorem vmovMaskToV (h : Hdr) (o : VOps) : Statement (.vmovMaskToV h o) := of_word (by intro h; cases h) (by intro c; cases c <;> first | exact .inl rfl | exact .inr rfl)
theorem vmovMaskToP (h : Hdr) (o : VOps) : Statement (.vmovMaskToP h o) := of_word (by intro h; cases h) (by intro c; cases c <;> first | exact .inl rfl | exact .inr rfl)
theorem vgets (h : Hdr) (o : VOps) : Statement (.vgets h o) := of_word (by intro h; cases h) (by intro c; cases c <;> first | exact .inl rfl | exact .inr rfl)
theorem vsets (h : Hdr) (o : VOps) : Statement (.vsets h o) := of_word (by intro h; cases h) (by intro c; cases c <;> first | exact .inl rfl | exact .inr rfl)
theorem vld (h : Hdr) (o : VOps) : Statement (.vld h o) := of_word (by intro h; cases h) (by intro c; cases c <;> first | exact .inl rfl | exact .inr rfl)
theorem vldx (h : Hdr) (o : VOps) : Statement (.vldx h o) := of_word (by intro h; cases h) (by intro c; cases c <;> first | exact .inl rfl | exact .inr rfl)
theorem vst (h : Hdr) (o : VOps) : Statement (.vst h o) := of_word (by intro h; cases h) (by intro c; cases c <;> first | exact .inl rfl | exact .inr rfl)
theorem vstx (h : Hdr) (o : VOps) : Statement (.vstx h o) := of_word (by intro h; cases h) (by intro c; cases c <;> first | exact .inl rfl | exact .inr rfl)
theorem vldg (h : Hdr) (o : VOps) : Statement (.vldg h o) := of_word (by intro h; cases h) (by intro c; cases c <;> first | exact .inl rfl | exact .inr rfl)
theorem vstg (h : Hdr) (o : VOps) : Statement (.vstg h o) := of_word (by intro h; cases h) (by intro c; cases c <;> first | exact .inl rfl | exact .inr rfl)
theorem vbadd (h : Hdr) (o : VOps) : Statement (.vbadd h o) := of_word (by intro h; cases h) (by intro c; cases c <;> first | exact .inl rfl | exact .inr rfl)
theorem vbmul (h : Hdr) (o : VOps) : Statement (.vbmul h o) := of_word (by intro h; cases h) (by intro c; cases c <;> first | exact .inl rfl | exact .inr rfl)
theorem vbmax (h : Hdr) (o : VOps) : Statement (.vbmax h o) := of_word (by intro h; cases h) (by intro c; cases c <;> first | exact .inl rfl | exact .inr rfl)
theorem vaccept (h : Hdr) (o : VOps) : Statement (.vaccept h o) := of_word (by intro h; cases h) (by intro c; cases c <;> first | exact .inl rfl | exact .inr rfl)
theorem mma (h : Hdr) (o : MOps) : Statement (.mma h o) := of_word (by intro h; cases h) (by intro c; cases c <;> first | exact .inl rfl | exact .inr rfl)
theorem mms (h : Hdr) (o : MOps) : Statement (.mms h o) := of_word (by intro h; cases h) (by intro c; cases c <;> first | exact .inl rfl | exact .inr rfl)
theorem mzero (h : Hdr) (o : MOps) : Statement (.mzero h o) := of_word (by intro h; cases h) (by intro c; cases c <;> first | exact .inl rfl | exact .inr rfl)
theorem mstore (h : Hdr) (o : MOps) : Statement (.mstore h o) := of_word (by intro h; cases h) (by intro c; cases c <;> first | exact .inl rfl | exact .inr rfl)
theorem mload (h : Hdr) (o : MOps) : Statement (.mload h o) := of_word (by intro h; cases h) (by intro c; cases c <;> first | exact .inl rfl | exact .inr rfl)
theorem mwldWindow (h : Hdr) (td : BitVec 8) (w : BitVec 4) (wb : Bool) (noff : BitVec 16) : Statement (.mwldWindow h td w wb noff) := of_word (by intro h; cases h) (by intro c; cases c <;> first | exact .inl rfl | exact .inr rfl)
theorem mwldRange (h : Hdr) (td : BitVec 8) (rows : BitVec 11) (wb : Bool) (koff noff : BitVec 16) : Statement (.mwldRange h td rows wb koff noff) := of_word (by intro h; cases h) (by intro c; cases c <;> first | exact .inl rfl | exact .inr rfl)
theorem mwswap (h : Hdr) (wb : Bool) : Statement (.mwswap h wb) := of_word (by intro h; cases h) (by intro c; cases c <;> first | exact .inl rfl | exact .inr rfl)
theorem mnset (h : Hdr) (level : BitVec 3) (a b : Reg) : Statement (.mnset h level a b) := of_word (by intro h; cases h) (by intro c; cases c <;> first | exact .inl rfl | exact .inr rfl)
theorem mgo (h : Hdr) (levels klevel : BitVec 3) (tmpl : Option MOps) : Statement (.mgo h levels klevel tmpl) := of_word (by intro h; cases h) (by intro c; cases c <;> first | exact .inl rfl | exact .inr rfl)
theorem tdset (h : Hdr) (td : BitVec 8) (a : Reg) : Statement (.tdset h td a) := of_word (by intro h; cases h) (by intro c; cases c <;> first | exact .inl rfl | exact .inr rfl)
theorem tdget (h : Hdr) (td : BitVec 8) (a : Reg) : Statement (.tdget h td a) := of_word (by intro h; cases h) (by intro c; cases c <;> first | exact .inl rfl | exact .inr rfl)
theorem twin (h : Hdr) (td : BitVec 8) (w : BitVec 4) (a b : Reg) (lv : BitVec 2) : Statement (.twin h td w a b lv) := of_word (by intro h; cases h) (by intro c; cases c <;> first | exact .inl rfl | exact .inr rfl)
theorem twinGet (h : Hdr) (w : BitVec 4) (a b : Reg) : Statement (.twinGet h w a b) := of_word (by intro h; cases h) (by intro c; cases c <;> first | exact .inl rfl | exact .inr rfl)
theorem tcut (h : Hdr) (td : BitVec 8) (w : BitVec 4) (budget : BitVec 12) (level : BitVec 2) (span : BitVec 10) : Statement (.tcut h td w budget level span) := of_word (by intro h; cases h) (by intro c; cases c <;> first | exact .inl rfl | exact .inr rfl)
theorem tcocut (h : Hdr) (td : BitVec 8) (w l : BitVec 4) (dim : BitVec 2) : Statement (.tcocut h td w l dim) := of_word (by intro h; cases h) (by intro c; cases c <;> first | exact .inl rfl | exact .inr rfl)
theorem tmerge (h : Hdr) (wd wa wb : BitVec 4) (mode : Bool) (otd : BitVec 8) : Statement (.tmerge h wd wa wb mode otd) := of_word (by intro h; cases h) (by intro c; cases c <;> first | exact .inl rfl | exact .inr rfl)
theorem tnext (h : Hdr) (w : BitVec 4) : Statement (.tnext h w) := of_word (by intro h; cases h) (by intro c; cases c <;> first | exact .inl rfl | exact .inr rfl)
theorem xprog (h : Hdr) (pair : BitVec 3) (a b : Reg) (csel : BitVec 8) : Statement (.xprog h pair a b csel) := of_word (by intro h; cases h) (by intro c; cases c <;> first | exact .inl rfl | exact .inr rfl)
theorem xverify (h : Hdr) (pair : BitVec 3) (a : Reg) (tol : BitVec 4) (csel : BitVec 8) : Statement (.xverify h pair a tol csel) := of_word (by intro h; cases h) (by intro c; cases c <;> first | exact .inl rfl | exact .inr rfl)
theorem xcal (h : Hdr) (xb : BitVec 4) (csel : BitVec 8) : Statement (.xcal h xb csel) := of_word (by intro h; cases h) (by intro c; cases c <;> first | exact .inl rfl | exact .inr rfl)
theorem xmvm (h : Hdr) (pair : BitVec 3) (d : BitVec 10) (a b : Reg) (p : BitVec 3) (sgn : Bool) (rm : BitVec 2) (csel : BitVec 8) : Statement (.xmvm h pair d a b p sgn rm csel) := of_word (by intro h; cases h) (by intro c; cases c <;> first | exact .inl rfl | exact .inr rfl)
theorem xstat (h : Hdr) (xb : BitVec 4) (d : Reg) (field : BitVec 4) (col : BitVec 9) : Statement (.xstat h xb d field col) := of_word (by intro h; cases h) (by intro c; cases c <;> first | exact .inl rfl | exact .inr rfl)
theorem xerase (h : Hdr) (xb : BitVec 4) (csel : BitVec 8) : Statement (.xerase h xb csel) := of_word (by intro h; cases h) (by intro c; cases c <;> first | exact .inl rfl | exact .inr rfl)
theorem taskLevelAction (core : CoreId) : Statement (.taskLevelAction core) := of_event rfl
theorem waitEvaluate (core : CoreId) (slot : BitVec 6) : Statement (.waitEvaluate core slot) := of_event rfl
theorem continuationSaveDone (core : CoreId) : Statement (.continuationSaveDone core) := of_event rfl
theorem waitHoldRelease (core : CoreId) : Statement (.waitHoldRelease core) := of_event rfl
theorem taskStart (core : CoreId) : Statement (.taskStart core) := of_event rfl
theorem continuationStart (core : CoreId) : Statement (.continuationStart core) := of_event rfl
theorem phaseSplitChange (core : CoreId) : Statement (.phaseSplitChange core) := of_event rfl
theorem lmodeSwitch (core : CoreId) (c : Cluster) : Statement (.lmodeSwitch core c) := of_event rfl
theorem watchdog (core : CoreId) (c : Cluster) : Statement (.watchdog core c) := of_event rfl
theorem handlerEntry (core : CoreId) : Statement (.handlerEntry core) := of_event rfl
theorem debugHalt (core : CoreId) (c : Cluster) : Statement (.debugHalt core c) := of_event rfl
theorem debugResume (core : CoreId) : Statement (.debugResume core) := of_event rfl
theorem debugWindowAccess (write : Bool) (off : BitVec 24) (val : BitVec 64) : Statement (.debugWindowAccess write off val) := of_event rfl
theorem loadReturn (core : CoreId) (c : Cluster) : Statement (.loadReturn core c) := of_event rfl
theorem vldgReturn (core : CoreId) : Statement (.vldgReturn core) := of_event rfl
theorem releaseDone (core : CoreId) (c : Cluster) : Statement (.releaseDone core c) := of_event rfl
theorem acquireDone (core : CoreId) (c : Cluster) : Statement (.acquireDone core c) := of_event rfl
theorem homeWrite (die : BitVec 3) (line : Nat) : Statement (.homeWrite die line) := of_event rfl
theorem homeRead (line : Nat) : Statement (.homeRead line) := of_event rfl
theorem atomicPerform (core : CoreId) (c : Cluster) : Statement (.atomicPerform core c) := of_event rfl
theorem reductionPerform (core : CoreId) (c : Cluster) : Statement (.reductionPerform core c) := of_event rfl
theorem dgsealEntry (core : CoreId) (c : Cluster) : Statement (.dgsealEntry core c) := of_event rfl
theorem backInvalidate (line : Nat) : Statement (.backInvalidate line) := of_event rfl
theorem patrolVisit (line : Nat) : Statement (.patrolVisit line) := of_event rfl
theorem signalDeliver (core : CoreId) (c : Cluster) : Statement (.signalDeliver core c) := of_event rfl
theorem tileStepExecute (core : CoreId) : Statement (.tileStepExecute core) := of_event rfl
theorem tileStepComplete (core : CoreId) : Statement (.tileStepComplete core) := of_event rfl
theorem jointStepExecute (quad : BitVec 6) : Statement (.jointStepExecute quad) := of_event rfl
theorem nestStepPlace (core : CoreId) : Statement (.nestStepPlace core) := of_event rfl
theorem weightFillStart (core : CoreId) : Statement (.weightFillStart core) := of_event rfl
theorem weightFillComplete (core : CoreId) : Statement (.weightFillComplete core) := of_event rfl
theorem xbarOpStart (core : CoreId) (pair : BitVec 3) : Statement (.xbarOpStart core pair) := of_event rfl
theorem xmvmComplete (core : CoreId) (pair : BitVec 3) : Statement (.xmvmComplete core pair) := of_event rfl
theorem xprogComplete (core : CoreId) (pair : BitVec 3) : Statement (.xprogComplete core pair) := of_event rfl
theorem xverifyComplete (core : CoreId) (pair : BitVec 3) : Statement (.xverifyComplete core pair) := of_event rfl
theorem xcalComplete (core : CoreId) (pair : BitVec 3) : Statement (.xcalComplete core pair) := of_event rfl
theorem xeraseComplete (core : CoreId) (pair : BitVec 3) : Statement (.xeraseComplete core pair) := of_event rfl
theorem xstatComplete (core : CoreId) (pair : BitVec 3) : Statement (.xstatComplete core pair) := of_event rfl
theorem copyEntryStart (core : CoreId) : Statement (.copyEntryStart core) := of_event rfl
theorem copyEntryComplete (core : CoreId) (seq : Nat) : Statement (.copyEntryComplete core seq) := of_event rfl
theorem owntReturn (core : CoreId) : Statement (.owntReturn core) := of_event rfl
theorem barrierArrival (src : ArrivalSrc) : Statement (.barrierArrival src) := of_event rfl
theorem binitPerform (core : CoreId) (c : Cluster) : Statement (.binitPerform core c) := of_event rfl
theorem superstepRelease (launch : Nat) : Statement (.superstepRelease launch) := of_event rfl
theorem dispatchChoice : Statement .dispatchChoice := of_event rfl
theorem groupDone (quad : BitVec 6) : Statement (.groupDone quad) := of_event rfl
theorem groupQuadFree (quad : BitVec 6) : Statement (.groupQuadFree quad) := of_event rfl
theorem kernelRetire (launch : Nat) : Statement (.kernelRetire launch) := of_event rfl
theorem ctxLoad (ctx : CtxId) (daddr : BitVec 52) : Statement (.ctxLoad ctx daddr) := of_event rfl
theorem ctxPreempt (ctx : CtxId) : Statement (.ctxPreempt ctx) := of_event rfl
theorem ctxRestore (ctx : CtxId) : Statement (.ctxRestore ctx) := of_event rfl
theorem ctxSeal (ctx : CtxId) : Statement (.ctxSeal ctx) := of_event rfl
theorem contextLoadDone (ctx : CtxId) : Statement (.contextLoadDone ctx) := of_event rfl
theorem contextSaveStart (ctx : CtxId) : Statement (.contextSaveStart ctx) := of_event rfl
theorem contextSaveDone (ctx : CtxId) : Statement (.contextSaveDone ctx) := of_event rfl
theorem contextRestoreStart (ctx : CtxId) : Statement (.contextRestoreStart ctx) := of_event rfl
theorem contextRestoreDone (ctx : CtxId) : Statement (.contextRestoreDone ctx) := of_event rfl
theorem contextSealDone (ctx : CtxId) : Statement (.contextSealDone ctx) := of_event rfl
theorem pageWalk (core : CoreId) (vpage : BitVec 27) : Statement (.pageWalk core vpage) := of_event rfl
theorem walkComplete (core : CoreId) (vpage : BitVec 27) : Statement (.walkComplete core vpage) := of_event rfl
theorem frtailWrite (ctx : CtxId) (val : BitVec 32) : Statement (.frtailWrite ctx val) := of_event rfl
theorem fqtailWrite (ctx : CtxId) (val : BitVec 32) : Statement (.fqtailWrite ctx val) := of_event rfl
theorem tinvRange (asid : BitVec 16) (gen : BitVec 8) : Statement (.tinvRange asid gen) := of_event rfl
theorem tinvAsidGen (asid : BitVec 16) (gen : BitVec 8) : Statement (.tinvAsidGen asid gen) := of_event rfl
theorem tinvAsidAllGen (asid : BitVec 16) : Statement (.tinvAsidAllGen asid) := of_event rfl
theorem tinvcmdReserved : Statement .tinvcmdReserved := of_event rfl
theorem queueEnable (q : QueueId) (cfg : BitVec 64) : Statement (.queueEnable q cfg) := of_event rfl
theorem queueDrain (q : QueueId) : Statement (.queueDrain q) := of_event rfl
theorem queueTailWrite (q : QueueId) (val : BitVec 32) : Statement (.queueTailWrite q val) := of_event rfl
theorem queueHandEntry (q : QueueId) : Statement (.queueHandEntry q) := of_event rfl
theorem queueEntryRetire (q : QueueId) (entry : BitVec 32) : Statement (.queueEntryRetire q entry) := of_event rfl
theorem recArm (ctx : CtxId) (rec : BitVec 16) : Statement (.recArm ctx rec) := of_event rfl
theorem recBlank (ctx : CtxId) (rec : BitVec 16) : Statement (.recBlank ctx rec) := of_event rfl
theorem recQuery (ctx : CtxId) (rec : BitVec 16) : Statement (.recQuery ctx rec) := of_event rfl
theorem reccmdReserved : Statement .reccmdReserved := of_event rfl
theorem rpoolWrite (ctx : CtxId) (val : BitVec 64) : Statement (.rpoolWrite ctx val) := of_event rfl
theorem bcfgWrite (dev : Bool) (num : BitVec 9) (val : BitVec 64) : Statement (.bcfgWrite dev num val) := of_event rfl
theorem dictLoad (slot : BitVec 6) (addr : BitVec 52) : Statement (.dictLoad slot addr) := of_event rfl
theorem dictLoadDone (slot : BitVec 6) : Statement (.dictLoadDone slot) := of_event rfl
theorem dictRetire (slot : BitVec 6) : Statement (.dictRetire slot) := of_event rfl
theorem dictPin (slot : BitVec 6) : Statement (.dictPin slot) := of_event rfl
theorem dictUnpin (slot : BitVec 6) : Statement (.dictUnpin slot) := of_event rfl
theorem frameMap (frame : FrameId) (loc : BitVec 31) (ilv : BitVec 3) : Statement (.frameMap frame loc ilv) := of_event rfl
theorem frameUnmap (frame : FrameId) : Statement (.frameUnmap frame) := of_event rfl
theorem frameMigrate (frame : FrameId) (loc : BitVec 31) : Statement (.frameMigrate frame loc) := of_event rfl
theorem frameAbort (frame : FrameId) : Statement (.frameAbort frame) := of_event rfl
theorem migrationLineCopy (frame : FrameId) : Statement (.migrationLineCopy frame) := of_event rfl
theorem migrationCommit (frame : FrameId) : Statement (.migrationCommit frame) := of_event rfl
theorem migrationCommitDone (frame : FrameId) : Statement (.migrationCommitDone frame) := of_event rfl
theorem migrationParkTimeout (frame : FrameId) : Statement (.migrationParkTimeout frame) := of_event rfl
theorem hotDecay : Statement .hotDecay := of_event rfl
theorem fltlimWrite (val : BitVec 64) : Statement (.fltlimWrite val) := of_event rfl
theorem wayFlushDone (slice way : BitVec 4) : Statement (.wayFlushDone slice way) := of_event rfl
theorem wayZeroDone (slice way : BitVec 4) : Statement (.wayZeroDone slice way) := of_event rfl
theorem rdemoteWrite (slice : BitVec 4) (chain : BitVec 8) : Statement (.rdemoteWrite slice chain) := of_event rfl
theorem demotionDone (slice : BitVec 4) : Statement (.demotionDone slice) := of_event rfl
theorem powerSample (watts : Nat) (maxTemp : Nat) : Statement (.powerSample watts maxTemp) := of_event rfl
theorem stepChangeDone : Statement .stepChangeDone := of_event rfl
theorem powerCapWrite (watts : Nat) : Statement (.powerCapWrite watts) := of_event rfl
theorem powerOvercapAlarm : Statement .powerOvercapAlarm := of_event rfl
theorem thermalTrip : Statement .thermalTrip := of_event rfl
theorem linkTrain (link : BitVec 5) : Statement (.linkTrain link) := of_event rfl
theorem linkDown (link : BitVec 5) : Statement (.linkDown link) := of_event rfl
theorem linkRelease (link : BitVec 5) : Statement (.linkRelease link) := of_event rfl
theorem linkTrained (link : BitVec 5) (lanes : BitVec 5) (full : Bool) (peer : BitVec 10) : Statement (.linkTrained link lanes full peer) := of_event rfl
theorem linkTrainTimeout (link : BitVec 5) : Statement (.linkTrainTimeout link) := of_event rfl
theorem linkLanesLost (link : BitVec 5) (left : BitVec 5) : Statement (.linkLanesLost link left) := of_event rfl
theorem linkErrorWindow (link : BitVec 5) (errors : BitVec 16) : Statement (.linkErrorWindow link errors) := of_event rfl
theorem salmusFlitReceive (link : BitVec 5) (crcOk : Bool) (req : RemoteReq) : Statement (.salmusFlitReceive link crcOk req) := of_event rfl
theorem remoteElementServe (req : RemoteReq) : Statement (.remoteElementServe req) := of_event rfl
theorem bar2Read (off : BitVec 36) (n : BitVec 4) : Statement (.bar2Read off n) := of_event rfl
theorem bar2Write (off : BitVec 36) (data : List (BitVec 8)) : Statement (.bar2Write off data) := of_event rfl
theorem kdActivate (kd : BitVec 8) : Statement (.kdActivate kd) := of_event rfl
theorem kdRotate (kd : BitVec 8) : Statement (.kdRotate kd) := of_event rfl
theorem kdRetire (kd : BitVec 8) : Statement (.kdRetire kd) := of_event rfl
theorem kdFree (kd : BitVec 8) : Statement (.kdFree kd) := of_event rfl
theorem turnover (ctxMask : BitVec 64) (kdMask : BitVec 256) (nonce : BitVec 256) (fail : Option (BitVec 4)) : Statement (.turnover ctxMask kdMask nonce fail) := of_event rfl
theorem measureExtend (slot : BitVec 4) (digest : BitVec 256) : Statement (.measureExtend slot digest) := of_event rfl
theorem quoteSign (nonce : BitVec 256) : Statement (.quoteSign nonce) := of_event rfl
theorem remapTableError (stack : BitVec 4) (channel : BitVec 5) (copyOk : Bool) : Statement (.remapTableError stack channel copyOk) := of_event rfl
theorem remapTableReloadDone (stack : BitVec 4) (channel : BitVec 5) : Statement (.remapTableReloadDone stack channel) := of_event rfl
theorem refreshPostponed (stack : BitVec 4) : Statement (.refreshPostponed stack) := of_event rfl
theorem coldReset : Statement .coldReset := of_event rfl
theorem functionLevelReset : Statement .functionLevelReset := of_event rfl
theorem registerWrite (reg : RegName) (val : BitVec 128) : Statement (.registerWrite reg val) := of_event rfl
theorem qbaseWrite (q : QueueId) (cfg : Bool) (val : BitVec 64) : Statement (.qbaseWrite q cfg val) := of_event rfl
theorem rowRemapTableWrite (stack : BitVec 4) (channel : BitVec 5) (row : BitVec 16) (spare : BitVec 16) : Statement (.rowRemapTableWrite stack channel row spare) := of_event rfl

end Sys2Proof.Laws.Encoding
end

