-- ==== Sys2Proof/Laws/Ticks.lean ====
section
/-! SUPPORT. Issue cycles that pass, results that reach their registers and tokens that are popped stop no cluster (R45, R49). -/

namespace Sys2Proof.Machine

open Sys2Proof

/-- An update of a cluster that keeps `stopped` keeps every cluster's. -/
theorem Core.upCl_cl_stopped {k : Core} {c : Cluster} {f : Cl → Cl} (h : ∀ x, (f x).stopped = x.stopped) (d : Cluster) :
    ((k.upCl c f).cl d).stopped = (k.cl d).stopped := by
  by_cases e : d = c
  · subst e; simp [h]
  · simp [e]

@[simp] theorem Core.setFifo_cl (k : Core) (c : Cluster) (d : Dir) (l : List (Option Word)) (e : Cluster) : (k.setFifo c d l).cl e = k.cl e := by
  cases d <;> rfl

theorem Core.enter_stopped (k : Core) (c : Cluster) (d : Dir) (e : Cluster) : ((k.enter c d).cl e).stopped = (k.cl e).stopped := by
  unfold Core.enter
  simp only [Core.setFifo_cl]
  exact Core.upCl_cl_stopped (by intro x; cases d <;> rfl) e

theorem Core.pushBits_stopped (k : Core) (c : Cluster) (m : BitVec 2) (e : Cluster) : ((k.pushBits c m).cl e).stopped = (k.cl e).stopped := by
  unfold Core.pushBits
  dsimp only
  split <;> split <;> simp only [Core.enter_stopped]

theorem Core.setVname_cl (k : Core) (n : Nat) (v : VVal) (e : Cluster) : (k.setVname n v).cl e = k.cl e := by
  unfold Core.setVname; split
  · rfl
  · split <;> rfl

theorem Core.latchIn_stopped (k : Core) (p : Nat) (v : VVal) (e : Cluster) : ((k.latchIn p v).cl e).stopped = (k.cl e).stopped := by
  have h : (k.latchAt p 0 v).cl e = k.cl e := by unfold Core.latchAt; split <;> cases e <;> rfl
  unfold Core.latchIn
  dsimp only
  split
  · rw [← h]; cases e <;> rfl
  · rw [h]

theorem Core.setOwners_cl (k : Core) (t : Nat) (o : BitVec 3) (l : List Nat) (e : Cluster) :
    ((l.foldl (fun k i => k.setOwner (t + i) o) k).cl e) = k.cl e := by
  induction l generalizing k with
  | nil => rfl
  | cons a r ih => rw [List.foldl_cons, ih]; rfl

/-- A result that reaches its register stops no cluster. -/
theorem Core.applyVal_stopped (k : Core) (c : Cluster) (v : RegVal) (e : Cluster) : ((k.applyVal c v).cl e).stopped = (k.cl e).stopped := by
  cases v with
  | sreg r v => exact Core.upCl_cl_stopped (fun x => Cl.setReg_stopped x r v) e
  | pred p m v => exact Core.upCl_cl_stopped (fun x => Cl.setPred_stopped x p m v) e
  | vreg n m v bd b part port =>
    unfold Core.applyVal
    dsimp only
    split
    · rw [Core.latchIn_stopped, Core.setVname_cl]
    · rw [Core.setVname_cl]
  | handle r v => rfl
  | flags f => exact Core.upCl_cl_stopped (f := fun x => { x with aflags := x.aflags ||| f }) (fun _ => rfl) e
  | sp a bs => rfl
  | own t n o => exact congrArg Cl.stopped (Core.setOwners_cl k t o _ e)
  | payload d v => exact Core.upCl_cl_stopped (by intro x; cases d <;> rfl) e
  | pushes m | storePushes m => exact Core.pushBits_stopped k c m e

theorem Core.writeDue_stopped (c : Cluster) (l : List InFlight) (k : Core) (e : Cluster) :
    ((Core.writeDue c l k).1.cl e).stopped = (k.cl e).stopped := by
  induction l generalizing k with
  | nil => rfl
  | cons f r ih =>
    unfold Core.writeDue
    split
    · rw [ih, Core.applyVal_stopped]
    · exact ih k

theorem Core.commitBy_stopped (k : Core) (c : Cluster) (n : Nat) (e : Cluster) : ((k.commitBy c n).cl e).stopped = (k.cl e).stopped := by
  have h : ((k.upCl c fun x => { x with flight := (k.cl c).flight.filter fun f => !decide (f.due ≤ n) }).cl e).stopped = (k.cl e).stopped :=
    Core.upCl_cl_stopped (f := fun x => { x with flight := (k.cl c).flight.filter fun f => !decide (f.due ≤ n) }) (fun _ => rfl) e
  unfold Core.commitBy
  dsimp only
  split
  · rw [Core.writeDue_stopped, h]
  · refine (Core.upCl_cl_stopped (f := fun x => { x with flight := _ ++ x.flight }) (fun _ => rfl) e).trans ?_
    rw [Core.writeDue_stopped, h]

theorem Core.recheck_cl (k : Core) (e : Cluster) : k.recheck.cl e = k.cl e := by
  unfold Core.recheck Core.wake
  split
  · rfl
  · dsimp only; split <;> rfl

@[simp] theorem State.tickTo_curCl (s : State) (n : Nat) : (s.tickTo n).curCl = s.curCl := by
  unfold State.tickTo; dsimp only; split <;> rfl

@[simp] theorem State.tickTo_joint (s : State) (n : Nat) : (s.tickTo n).joint = s.joint := by
  unfold State.tickTo; dsimp only; split <;> rfl

@[simp] theorem State.tickTo_cur (s : State) (n : Nat) : (s.tickTo n).cur = s.cur := by
  unfold State.tickTo; dsimp only; split <;> rfl

/-- Issue cycles that pass stop no cluster. -/
theorem State.tickTo_stopped (s : State) (n : Nat) : (s.tickTo n).myCl.stopped = s.myCl.stopped := by
  have h1 (t : State) : (t.upMine fun k => k.upCl t.curCl fun x => { x with icyc := n }).myCl.stopped = t.myCl.stopped := by
    show (t.upMyCl fun x => { x with icyc := n }).myCl.stopped = _
    rw [State.myCl_upMyCl]
  unfold State.tickTo
  dsimp only
  split
  · exact h1 s
  · rw [← h1 s]
    generalize s.upMine _ = t
    unfold State.myCl State.mine State.recheck
    show (((State.core _ t.me).cl t.curCl).stopped) = _
    rw [State.core_upCore_self, Core.recheck_cl]
    show ((State.core (t.upCore t.me _) t.me).cl _).stopped = _
    rw [State.core_upCore_self, Core.commitBy_stopped]

theorem State.tick_stopped (s : State) (i : Instr) : (s.tick i).myCl.stopped = s.myCl.stopped := by
  unfold State.tick
  dsimp only
  split
  · exact State.tickTo_stopped s _
  · rw [State.tickTo_stopped, State.tickTo_stopped]

theorem Core.pop_stopped (k : Core) (c : Cluster) (d : Dir) (e : Cluster) : ((k.pop c d).cl e).stopped = (k.cl e).stopped := by
  have h (q : Cluster) (r : List (Option Word)) (dd : Dir) (g : Cl → Cl) (hg : ∀ x, (g x).stopped = x.stopped) :
      (((k.setFifo q dd r).upCl c g).cl e).stopped = (k.cl e).stopped := by rw [Core.upCl_cl_stopped hg, Core.setFifo_cl]
  have hi (b : Bool) (j : Core) (q : Cluster) (n : Nat) (hj : (j.cl e).stopped = (k.cl e).stopped) :
      ((if b = true then j.commitBy q n else j).cl e).stopped = (k.cl e).stopped := by
    split
    · rw [Core.commitBy_stopped, hj]
    · exact hj
  unfold Core.pop
  split
  · rfl
  · cases d <;> exact hi _ _ _ _ (h _ _ _ _ (fun _ => rfl))

theorem Core.popNoted_stopped (k : Core) (c : Cluster) (d : Dir) (e : Cluster) : ((k.popNoted c d).cl e).stopped = (k.cl e).stopped := by
  unfold Core.popNoted
  split
  · rfl
  · refine (Core.upCl_cl_stopped (f := fun x => { x with popped := x.popped ++ _ }) (fun _ => rfl) e).trans (Core.pop_stopped k c d e)

theorem Core.pops_stopped (k : Core) (c : Cluster) (h : Hdr) (e : Cluster) : ((k.pops c h).cl e).stopped = (k.cl e).stopped := by
  unfold Core.pops
  dsimp only
  split <;> split <;> simp only [Core.popNoted_stopped, Core.upCl_cl_stopped (f := fun x : Cl => { x with popped := [] }) (fun _ => rfl)]

theorem State.popsOf_stopped (s : State) (i : Instr) : (s.popsOf i).myCl.stopped = s.myCl.stopped := by
  unfold State.popsOf
  split
  · unfold State.myCl; rw [State.mine_upMine]; exact Core.pops_stopped _ _ _ _
  · rfl

/-- A word that is ready acts in a cluster that has not stopped. -/
theorem Ready.stopped {s : State} {i : Instr} (h : Ready s i) : (s.begun i).myCl.stopped = false := by
  have h1 := h.issues
  simp only [State.canIssue, Bool.and_eq_true, Bool.not_eq_true'] at h1
  have h2 : s.myCl.stopped = false := h1.1.2
  unfold State.begun
  split
  · exact h2
  · rw [State.popsOf_stopped, State.tick_stopped, h2]

end Sys2Proof.Machine
end

