-- ==== Sys2Proof/Laws/Result.lean ====
section
/-! SUPPORT. What a word that only computes leaves alone, and what such a word answers. -/

namespace Sys2Proof.Machine
open Sys2Proof

/-! What is left alone is left alone by one part after another. -/

theorem SameOutside.refl (s : State) : SameOutside s s := ⟨fun _ _ => rfl, rfl⟩

theorem SameOutside.cur {s t : State} (h : SameOutside s t) : t.cur = s.cur := (congrArg State.cur h.2 : _)
theorem SameOutside.curCl {s t : State} (h : SameOutside s t) : t.curCl = s.curCl := (congrArg State.curCl h.2 : _)

theorem SameOutside.trans {s t u : State} (h : SameOutside s t) (g : SameOutside t u) : SameOutside s u := by
  refine ⟨fun k hk => ?_, ?_⟩
  · have hm : t.me = s.me := by simp [State.me, h.cur]
    rw [g.1 k (by rw [hm]; exact hk), h.1 k hk]
  · have h2 := h.2; have g2 := g.2
    rw [← h2, ← g2]

theorem SameOutside.upMine (s : State) (f : Core → Core) : SameOutside s (s.upMine f) :=
  ⟨fun _ hk => State.core_upMine_ne s hk f, rfl⟩

theorem SameCore.refl (s : State) : SameCore s s := ⟨fun _ _ => rfl, rfl⟩

theorem SameCore.trans {s t u : State} (hc : t.curCl = s.curCl) (h : SameCore s t) (g : SameCore t u) : SameCore s u := by
  refine ⟨fun c hcl => ?_, ?_⟩
  · rw [g.1 c (by rw [hc]; exact hcl), h.1 c hcl]
  · have h2 := h.2; have g2 := g.2
    rw [← h2, ← g2]

theorem SameCluster.refl (s : State) : SameCluster s s := rfl

theorem SameCluster.trans {s t u : State} (h : SameCluster s t) (g : SameCluster t u) : SameCluster s u := by
  unfold SameCluster at *
  rw [← h, ← g]

@[simp] theorem State.upMine_curCl (s : State) (f : Core → Core) : (s.upMine f).curCl = s.curCl := rfl
@[simp] theorem State.upMyCl_curCl (s : State) (f : Cl → Cl) : (s.upMyCl f).curCl = s.curCl := rfl
@[simp] theorem State.upMyCl_me (s : State) (f : Cl → Cl) : (s.upMyCl f).me = s.me := rfl

/-- An update of the issuing cluster alone is one of its core that keeps the others. -/
theorem SameCore.upMyCl (s : State) (f : Cl → Cl) : SameCore s (s.upMyCl f) := by
  refine ⟨fun c hc => ?_, ?_⟩
  · simp [State.upMyCl, hc]
  · simp only [State.upMyCl, State.mine_upMine]
    cases s.curCl <;> rfl

theorem SameCore.upCl (s : State) (f : Core → Core) (hcl : ∀ c, c ≠ s.curCl → (f s.mine).cl c = s.mine.cl c)
    (h : ∀ k, { f k with a := k.a, v := k.v, t := k.t, sc := k.sc, toRight := k.toRight, toLeft := k.toLeft } = k) :
    SameCore s (s.upMine f) := by
  refine ⟨fun c hc => ?_, ?_⟩
  · simp [hcl c hc]
  · rw [State.mine_upMine]; exact h _

/-- The parts of a state that a word which only computes leaves as they are. -/
structure Quiet (s t : State) : Prop where
  outside : SameOutside s t
  core : SameCore s t
  cluster : SameCluster s t

theorem Quiet.refl (s : State) : Quiet s s := ⟨.refl s, .refl s, .refl s⟩

theorem Quiet.trans {s t u : State} (h : Quiet s t) (g : Quiet t u) : Quiet s u :=
  ⟨h.outside.trans g.outside, h.core.trans h.outside.curCl g.core, h.cluster.trans g.cluster⟩

theorem Quiet.upMyCl (s : State) (f : Cl → Cl)
    (h : { f s.myCl with
        pc := s.myCl.pc, s := s.myCl.s, p := s.myCl.p, flight := s.myCl.flight, need := s.myCl.need,
        outL := s.myCl.outL, outR := s.myCl.outR, popped := s.myCl.popped } = s.myCl) :
    Quiet s (s.upMyCl f) := by
  refine ⟨.upMine s _, .upMyCl s f, ?_⟩
  unfold SameCluster; rw [State.myCl_upMyCl]; exact h

theorem Quiet.exposed {s t : State} (h : Quiet s t) : t.myCl.exposed = s.myCl.exposed := by
  have h2 := congrArg Cl.exposed h.cluster; exact h2
theorem Quiet.stopped {s t : State} (h : Quiet s t) : t.myCl.stopped = s.myCl.stopped := by
  have h2 := congrArg Cl.stopped h.cluster; exact h2
theorem Quiet.wait {s t : State} (h : Quiet s t) : t.myCl.wait = s.myCl.wait := by
  have h2 := congrArg Cl.wait h.cluster; exact h2

/-- A result on its way changes only what is in flight (R49). -/
theorem Quiet.send (s : State) (n : Nat) (m : BitVec 2) (v : RegVal) : Quiet s (s.upMyCl fun x => x.send n m v) := .upMyCl s _ rfl

/-! Pushing, retiring and delivering (R45, R48). -/

/-- A result that is written at once reaches its register (R48; log 6). -/
theorem State.deliver_atOnce {s : State} {i : Instr} {n : Nat} (h : s.atOnce i n) (hn : s.myCl.need = pushesOf i) (v : RegVal) :
    s.deliver n v = s.upMine fun k => k.applyVal s.curCl v := by
  obtain ⟨h1, h2, h3⟩ := h
  unfold State.myCl State.mine at h1 hn
  unfold State.mine at h3
  unfold State.deliver State.upMine State.upCore Core.deliver
  rcases h3 with h3 | ⟨h3, h4⟩
  · simp [h1, hn, h3, Nat.not_lt.mpr h2]
  · simp [h1, hn, h4, Nat.not_lt.mpr h2, Nat.not_lt.mpr h3]

/-- Two states of one issuing cluster hold the same PC, registers and predicates. -/
structure SameRegs (s t : State) : Prop where
  pc : t.myCl.pc = s.myCl.pc
  regs : t.myCl.s = s.myCl.s
  preds : t.myCl.p = s.myCl.p

theorem SameRegs.refl (s : State) : SameRegs s s := ⟨rfl, rfl, rfl⟩
theorem SameRegs.trans {s t u : State} (h : SameRegs s t) (g : SameRegs t u) : SameRegs s u :=
  ⟨g.pc.trans h.pc, g.regs.trans h.regs, g.preds.trans h.preds⟩
theorem SameRegs.reg {s t : State} (h : SameRegs s t) (r : Reg) : t.reg r = s.reg r := by simp [State.reg, Cl.reg, h.regs]
theorem SameRegs.kept {s t : State} (h : SameRegs s t) : PredsKept s t := fun p => by simp [Cl.pmask, h.preds]

/-- A cluster of a core pushes, or its results go on their way: nothing else changes. -/
structure Core.Still (c : Cluster) (k j : Core) : Prop where
  others : ∀ e, e ≠ c → j.cl e = k.cl e
  rest : { j with a := k.a, v := k.v, t := k.t, sc := k.sc, toRight := k.toRight, toLeft := k.toLeft } = k
  cluster : { j.cl c with
    flight := (k.cl c).flight, need := (k.cl c).need, outL := (k.cl c).outL, outR := (k.cl c).outR, popped := (k.cl c).popped } = k.cl c

theorem Core.Still.refl (c : Cluster) (k : Core) : Core.Still c k k := ⟨fun _ _ => rfl, rfl, rfl⟩

theorem Core.Still.trans {c : Cluster} {k j l : Core} (h : Core.Still c k j) (g : Core.Still c j l) : Core.Still c k l := by
  refine ⟨fun e he => (g.others e he).trans (h.others e he), ?_, ?_⟩
  · have h2 := h.rest; have g2 := g.rest; rw [← h2, ← g2]
  · have h2 := h.cluster; have g2 := g.cluster; rw [← h2, ← g2]

theorem Core.Still.upCl (c : Cluster) (k : Core) (f : Cl → Cl)
    (h : { f (k.cl c) with
      flight := (k.cl c).flight, need := (k.cl c).need, outL := (k.cl c).outL, outR := (k.cl c).outR, popped := (k.cl c).popped } = k.cl c) :
    Core.Still c k (k.upCl c f) := by
  refine ⟨fun e he => by simp [he], ?_, by simpa using h⟩
  cases c <;> rfl

theorem Core.Still.enter (c : Cluster) (k : Core) (d : Dir) : Core.Still c k (k.enter c d) := by
  unfold Core.enter
  refine ⟨fun e he => ?_, ?_, ?_⟩
  · cases d <;> cases e <;> cases c <;> first | rfl | exact absurd rfl he
  · cases d <;> cases c <;> rfl
  · cases d <;> cases c <;> rfl

/-- The pushes that K[1:0] asks for (R45). -/
theorem Core.Still.pushBits (c : Cluster) (k : Core) (m : BitVec 2) : Core.Still c k (k.pushBits c m) := by
  unfold Core.pushBits
  cases m.getLsbD 1 <;> cases m.getLsbD 0 <;> simp only [Bool.false_eq_true, if_true, if_false]
  · exact .refl c k
  · exact .enter c k _
  · exact .enter c k _
  · exact (Core.Still.enter c k _).trans (.enter c _ _)

/-- The pushes of a word that retires, made now or on their way (R45). -/
theorem Core.Still.pushAfter (c : Cluster) (k : Core) (late : Bool) (n : Nat) (m : BitVec 2) : Core.Still c k (k.pushAfter c late n m) := by
  unfold Core.pushAfter
  split
  · exact .refl c k
  · split
    · exact .upCl c k _ rfl
    · split
      · exact .upCl c k _ rfl
      · exact .pushBits c k m

/-- Nothing but tokens and results in flight changed: no register, no predicate. -/
structure Still (s t : State) : Prop where
  quiet : Quiet s t
  same : SameRegs s t

theorem Still.refl (s : State) : Still s s := ⟨.refl s, .refl s⟩
theorem Still.trans {s t u : State} (h : Still s t) (g : Still t u) : Still s u := ⟨h.quiet.trans g.quiet, h.same.trans g.same⟩

theorem Still.upMine {s : State} {f : Core → Core} (h : Core.Still s.curCl s.mine (f s.mine)) : Still s (s.upMine f) := by
  have hc : { (f s.mine).cl s.curCl with flight := s.myCl.flight, need := s.myCl.need, outL := s.myCl.outL, outR := s.myCl.outR, popped := s.myCl.popped } = s.myCl := h.cluster
  have e : (s.upMine f).myCl = (f s.mine).cl s.curCl := by simp only [State.myCl, State.mine_upMine, State.upMine_curCl]
  refine ⟨⟨.upMine s f, ⟨fun c hne => ?_, ?_⟩, ?_⟩, ?_⟩
  · rw [State.mine_upMine]; exact h.others c hne
  · rw [State.mine_upMine]; exact h.rest
  · unfold SameCluster; rw [e, ← hc]
  · constructor
    · rw [e, ← congrArg Cl.pc hc]
    · rw [e, ← congrArg Cl.s hc]
    · rw [e, ← congrArg Cl.p hc]

theorem Still.upMyCl (s : State) (f : Cl → Cl)
    (h : { f s.myCl with
      flight := s.myCl.flight, need := s.myCl.need, outL := s.myCl.outL, outR := s.myCl.outR, popped := s.myCl.popped } = s.myCl) :
    Still s (s.upMyCl f) := .upMine (.upCl s.curCl s.mine f h)

/-- A word that acts and neither waits nor stops retires: it makes its pushes and changes nothing else (R45). -/
theorem State.retire_still {s : State} (h : s.myCl.stopped = false) (i : Instr) : Still s (s.retire i) := by
  unfold State.retire
  have q : Still s (s.upMyCl fun x => { x with need := 0 }) := .upMyCl s _ rfl
  generalize s.upMyCl (fun x => { x with need := 0 }) = t at q
  dsimp only
  split
  · exact q
  · have p : Still t (t.upMyCl fun x => { x with popped := [] }) := .upMyCl t _ rfl
    have hc : t.curCl = (t.upMyCl fun x => { x with popped := [] }).curCl := rfl
    rw [hc]
    generalize t.upMyCl (fun x => { x with popped := [] }) = v at p
    have r := (q.trans p).trans (Still.upMine (f := fun k => k.pushAfter v.curCl i.late i.latency (pushesOf i)) (.pushAfter v.curCl v.mine _ _ _))
    rw [if_neg (by rw [r.quiet.stopped, h]; exact Bool.false_ne_true)]
    exact r

theorem Quiet.advance (s : State) (i : Instr) : Quiet s (s.advance i) := .upMyCl s _ rfl

@[simp] theorem State.advance_pc (s : State) (i : Instr) : (s.advance i).myCl.pc = pcPlus s.curCl s.myCl.pc i.words := by
  simp [State.advance]
@[simp] theorem State.advance_reg (s : State) (i : Instr) (r : Reg) : (s.advance i).reg r = s.reg r := by
  simp [State.advance, State.reg, Cl.reg]
@[simp] theorem State.advance_pmask (s : State) (i : Instr) (p : Pred) : (s.advance i).myCl.pmask p = s.myCl.pmask p := by
  simp [State.advance, Cl.pmask]

/-- A word's body gets the state in which its pops are made and its PC has moved on. -/
def State.bodyOf (s : State) (i : Instr) : State := ((s.begun i).advance i).noted i

theorem State.bodyOf_quiet (s : State) (i : Instr) : Quiet (s.begun i) (s.bodyOf i) := (Quiet.advance _ i).trans (.upMyCl _ _ rfl)

@[simp] theorem State.bodyOf_reg (s : State) (i : Instr) (r : Reg) : (s.bodyOf i).reg r = (s.begun i).reg r := by
  simp [State.bodyOf, State.noted, State.advance, State.reg, Cl.reg]
@[simp] theorem State.bodyOf_pmask (s : State) (i : Instr) (p : Pred) : (s.bodyOf i).myCl.pmask p = (s.begun i).myCl.pmask p := by
  simp [State.bodyOf, State.noted, State.advance, Cl.pmask]
@[simp] theorem State.bodyOf_pc (s : State) (i : Instr) : (s.bodyOf i).myCl.pc = pcPlus (s.begun i).curCl (s.begun i).myCl.pc i.words := by
  simp [State.bodyOf, State.noted, State.advance]
@[simp] theorem State.bodyOf_need (s : State) (i : Instr) : (s.bodyOf i).myCl.need = pushesOf i := by
  simp [State.bodyOf, State.noted]

theorem State.bodyOf_atOnce {s : State} {i : Instr} {n : Nat} (h : (s.begun i).atOnce i n) : (s.bodyOf i).atOnce i n := by
  have hr (t : State) (f : Cl → Cl) : (t.upMyCl f).mine.hasRoom t.curCl (pushesOf i) = t.mine.hasRoom t.curCl (pushesOf i) := by
    simp only [State.upMyCl, State.mine_upMine]; cases t.curCl <;> rfl
  refine ⟨(s.bodyOf_quiet i).exposed.trans h.1, h.2.1, h.2.2.imp id fun g => ⟨g.1, ?_⟩⟩
  show (((s.begun i).upMyCl _).upMyCl _).mine.hasRoom (s.begun i).curCl _ = true
  exact ((hr ((s.begun i).upMyCl _) _).trans (hr (s.begun i) _)).trans g.2

/-- A word that computes a scalar register which is written at once. -/
theorem Ready.put {s : State} {i : Instr} {body : State → Eff} {n : Nat} {d : Reg} {v : Word} (h : Ready s i) (hs : (s.begun i).atOnce i n)
    (hst : i.stays = false) (hb : body (s.bodyOf i) = (s.bodyOf i).put n d v) :
    ∃ t, issue s i body = .next t ∧ t.reg d = (if d = 0 then 0 else v) ∧ Passed i (s.begun i) t ∧ RegsBut (some d) (s.begun i) t ∧
      PredsKept (s.begun i) t := by
  have qa := s.bodyOf_quiet i
  have e : (s.bodyOf i).put n d v = .ok ((s.bodyOf i).upMyCl fun x => x.setReg d v) := by
    unfold State.put; rw [State.deliver_atOnce (State.bodyOf_atOnce hs) (s.bodyOf_need i)]; rfl
  refine ⟨_, h.ok (body := body) (u := (s.bodyOf i).upMyCl fun x => x.setReg d v) (by rw [hst]; exact hb.trans e), ?_⟩
  have qw : Quiet (s.bodyOf i) ((s.bodyOf i).upMyCl fun x => x.setReg d v) := .upMyCl _ _ (by unfold Cl.setReg; split <;> rfl)
  have r := State.retire_still (((qa.trans qw).stopped).trans h.stopped) i
  have q := (qa.trans qw).trans r.quiet
  refine ⟨?_, ⟨q.outside, q.core, q.cluster, ?_⟩, fun r' hr => ?_, fun p => ?_⟩
  · rw [r.same.reg]; simp [State.reg, Cl.reg_setReg]
  · rw [r.same.pc]; simp
  · rw [r.same.reg]
    have hne : r' ≠ d := fun e => hr (by rw [e])
    simp only [State.reg, State.myCl_upMyCl, Cl.reg_setReg, hne, if_false]
    split
    · rename_i h0; subst h0; exact (Cl.reg_zero _).symm
    · exact State.bodyOf_reg _ _ _
  · rw [r.same.kept p]; simp

end Sys2Proof.Machine
end

