-- ==== Sys2Proof/Laws/Trap.lean ====
section
/-! SUPPORT. Taking a trap: what recording one does, and the three things that settling one can do (R296, R297). -/

namespace Sys2Proof.Machine

open Sys2Proof

/-- Recording a trap does nothing outside the cores. -/
theorem State.markTrap_outside (s : State) (k : Nat) (c : Cluster) (cause : Cause) (pc : VAddr) (info : Word) (operand : List Byte) :
    { s.markTrap k c cause pc info operand with cores := s.cores } = s := by
  unfold State.markTrap
  split <;> rfl

/-- A core with no task records nothing. -/
theorem State.markTrap_idle {s : State} {k : Nat} (c : Cluster) (cause : Cause) (pc : VAddr) (info : Word) (operand : List Byte) (h : (s.core k).task = none) :
    s.markTrap k c cause pc info operand = s := by simp [State.markTrap, h]

/-- Settling leaves the state, enters the handler, or ends in the fatal way; the last two only while the clock runs and no halt holds the task, and the
    second only with a record that can be written, out of the handler, and with nothing outstanding. -/
theorem State.settle_cases (s : State) (k : Nat) :
    s.settle k = s ∨
    (s.power.stopped = false ∧ (s.core k).halted = false ∧ ∃ t, (s.core k).trap = some t ∧
      ((s.settle k = s.enterHandler k t ∧ (s.core k).inh = false ∧ (s.core k).drained = true ∧ (s.core k).recordOk (s.ctx (s.core k).ctxNum) = true) ∨
       s.settle k = s.fatalTrap k t)) := by
  cases ht : (s.core k).trap with
  | none => exact .inl (by simp only [State.settle, ht])
  | some t =>
    simp only [State.settle, ht]
    split
    · exact .inl rfl
    · rename_i w
      simp only [Bool.or_eq_true, not_or, Bool.not_eq_true] at w
      split
      · exact .inr ⟨w.1, w.2, t, rfl, .inr rfl⟩
      · rename_i h
        simp only [Bool.or_eq_true, not_or, Bool.not_eq_true] at h
        split
        · rename_i g
          simp only [Bool.and_eq_true] at g
          split
          · rename_i r
            exact .inr ⟨w.1, w.2, t, rfl, .inl ⟨rfl, h.2, g.1, r⟩⟩
          · exact .inr ⟨w.1, w.2, t, rfl, .inr rfl⟩
        · exact .inl rfl

end Sys2Proof.Machine
end

