-- ==== Sys2Proof/Tests/Slice0.lean ====
section
/-! SUPPORT. Tests: ill-formed terms, words written out from the manual's encodings, single steps with results from the manual, and for each statement a state and operands that meet its
    hypotheses. -/

namespace Sys2Proof.Tests

-- one theorem at a time: each waits for the kernel
set_option Elab.async false

open Sys2Proof Sys2Proof.Machine Sys2Proof.Spec

/-! Builders. -/

/-- Core 0 runs a task of context 0, and its cluster `c` issues next. -/
def base (c : Cluster) : State := { State.reset.withFetchWord 32 0 with agenda := [], cur := 0, curCl := c }

/-- The issuing cluster with these registers. -/
def regs (s : State) (l : List (Nat × Nat)) : State := s.upMyCl fun x => { x with s := l.map fun e => (e.1, .ofNat 64 e.2) }

/-- The issuing cluster in exposed mode. -/
def exposed (s : State) : State := s.upMyCl fun x => { x with exposed := true }

/-- Whether `i` issues now and acts. -/
def readyB (s : State) (i : Instr) : Bool :=
  s.canIssue && decide (issueBad s.curCl s.myCl i = none) && (s.joint || !(s.tick i).holds i) && !(s.ticked i).fullPush i && guardTrue (s.ticked i).myCl i

theorem ready_of {s : State} {i : Instr} (h : readyB s i = true) : Ready s i := by
  simp only [readyB, Bool.and_eq_true, Bool.or_eq_true, Bool.not_eq_true', decide_eq_true_eq] at h
  exact ⟨h.1.1.1.1, h.1.1.1.2, h.1.1.2, h.1.2, h.2⟩

/-- A valid handle of virtual page `v` and frame `f` with every permission. -/
def handleOf (v f : Nat) : BitVec 128 := .ofNat 128 (15 * 2 ^ 60 + f * 2 ^ 29 + v)

/-- Handle 1 of the issuing core is valid, of page 0 and frame 1. -/
def withHandle (s : State) : State := s.upMine fun k => k.setHandle 1 (handleOf 0 1)

/-- A header with only the guard's predicate and sense, unguarded. -/
def xhdr (g : Nat) (n : Bool) : Hdr := { bare with g := .ofNat 4 g, n := n }

/-- A memory literal. -/
def lit (sp : Bool) (wd off : Nat) : MemLit := { sp := sp, wd := .ofNat 2 wd, ac := 0, pp := false, pd := 0, off := .ofNat 21 off }

/-- An atomic literal. -/
def alit (op wd : Nat) (res : Bool) : AtomLit := { ac := 0, res := res, o := 3, uns := false, fp := false, wd := .ofNat 2 wd, use := 0, op := .ofNat 4 op }

/-- Vector operands of type `t`: v10 from v11 and v12, and C. -/
def vo (t d a b c : Nat) : VOps :=
  { typ := .ofNat 4 t, rm := 0, sat := false, w2 := false, d := .ofNat 10 d, ds := 0, a := .ofNat 10 a, as := 0, b := .ofNat 10 b, bs := 0, c := .ofNat 25 c }

/-- Matrix operands, all zero: an i8 step. -/
def mo : MOps := MOps.ofNat 0

/-! The fields a well-formed word may have (R117, R134, R182, R184, R215). -/

/-- A guard of p0 with N set is no word. -/
theorem wf_guard_p0 : (Instr.nop { bare with e := true, n := true }).wf .A = false := by decide
/-- Vector words stand in the V stream only. -/
theorem wf_vector_stream : (Instr.vadd bare (vo 3 1 2 3 0)).wf .A = false := by decide
/-- Tensor words stand in the T stream only. -/
theorem wf_tensor_stream : (Instr.tnext bare 1).wf .V = false := by decide
/-- An event is no word. -/
theorem wf_event : Instr.coldReset.wf .A = false := by decide
/-- The vector form of vbcast has bit 24 of C clear, the scalar form set. -/
theorem wf_vbcast : (Instr.vbcast bare (vo 3 1 2 0 (2 ^ 24))).wf .V = false ∧ (Instr.vbcastScalar bare (vo 3 1 0 0 0)).wf .V = false := by decide
/-- vmov of type mask is a mask move, told apart by bit 4 of C. -/
theorem wf_vmov : (Instr.vmov bare (vo 10 1 2 0 0)).wf .V = false ∧ (Instr.vmovMaskToV bare (vo 3 1 0 0 1)).wf .V = false ∧
    (Instr.vmovMaskToP bare (vo 10 0 1 0 1)).wf .V = false := by decide
/-- An mgo takes a template. -/
theorem wf_mgo : (Instr.mgo bare 1 0 none).wf .T = false := by decide
/-- Some words are well formed. -/
theorem wf_some : (Instr.nop bare).wf .A = true ∧ (Instr.vadd bare (vo 3 1 2 3 0)).wf .V = true ∧ (Instr.tnext bare 1).wf .T = true := by decide

/-! Words that the manual prints (R126, R127, R135, R153, R155, R158). -/

theorem test_decode_add : decode .A 0x980014C7 0 = .ok (.add { bare with e := true, g := 3 } 5 6 7) := by decide
theorem test_decode_addi : decode .A 0x58091094 0 = .ok (.addi (xhdr 11 false) 4 4 20) := by decide
theorem test_decode_vfadd : decode .V 0x0202007002881640C0000000 0 =
    .ok (.vfadd { bare with y := true } { vo 7 10 11 12 0 with ds := 1, as := 1 }) := by decide
theorem test_decode_carrier : decode .V 0x021E00000000000000090C61 0 = .ok (.addi { bare with y := true } 3 3 1) := by decide
theorem test_decode_loop : decode .A 0x04159804 0 = .ok (.loop (xhdr 0 true) 6 4) := by decide
theorem test_decode_guarded : decode .A 0xC8002107 0 = .ok (.add { bare with e := true, g := 9 } 8 8 7) ∧
    decode .A 0xC0041CA5 0 = .ok (.mul { bare with e := true, g := 8 } 7 5 5) ∧ decode .A 0xC00914A1 0 = .ok (.addi { bare with e := true, g := 8 } 5 5 1) := by decide
theorem test_decode_lbr : decode .A 0x7C1603FD 0 = .ok (.lbr (xhdr 15 true) 0x3FD) := by decide
theorem test_decode_cwait : decode .A 0x00188000 0x0003FC00 = .ok (.cwait bare 0 0 255 0) := by decide
theorem test_decode_tend : decode .A 0x001F0000 0x04000000 = .ok (.tend bare) ∧ decode .V 0x001E000000000000001F0000 0x04000000 = .ok (.tend bare) := by decide

/-! Words written out field by field: field times place (R120 to R125, R127, R133, R134). -/

theorem test_decode_store : decode .A (51 * 2 ^ 15 + 4 * 2 ^ 10 + 5 * 2 ^ 5 + 6) (2 * 2 ^ 29 + 3 * 2 ^ 27 + 0x1FFFFF) =
    .ok (.st bare 4 5 6 { lit false 2 0x1FFFFF with ac := 3 }) := by decide
/-- `amo.add.d s4, [h3+s5], s6 [use=commutative]`, as R248 prints it. -/
theorem test_decode_amo : decode .A 0x001F9066 0x00250310 = .ok (.amo bare 4 3 6 { alit 0 3 true with o := 5, use := 1 }) := by decide
theorem test_decode_waita : decode .A (62 * 2 ^ 15 + 5 * 2 ^ 5 + 6) (5 * 2 ^ 24 + 3) = .ok (.waita bare 5 6 3) := by decide
theorem test_decode_vcmp : decode .V (2 * 2 ^ 81 + 3 * 2 ^ 72 + 2 * 2 ^ 68 + 100 * 2 ^ 41 + 200 * 2 ^ 28 + 5) 0 = .ok (.vcmpLe bare (vo 2 0 100 200 5)) := by decide
theorem test_decode_vld : decode .V (9 * 2 ^ 81 + 7 * 2 ^ 68 + 300 * 2 ^ 54 + 4 * 2 ^ 20 + 2 * 2 ^ 7 + 3) 0 = .ok (.vld bare (vo 7 300 0 0 (4 * 2 ^ 20 + 2 * 2 ^ 7 + 3))) := by decide
theorem test_decode_mwswap : decode .T (1 * 2 ^ 177 + 1 * 2 ^ 168) 0 = .ok (.mwswap bare false) := by decide

/-- Unassigned majors, sub-ops, classes and opcodes are refused (R121, R123, R133, R134). -/
theorem test_decode_refuses : decode .A (53 * 2 ^ 15) 0 = .bad (.illop 1) ∧ decode .A (62 * 2 ^ 15) (14 * 2 ^ 24) = .bad (.illop 1) ∧
    decode .V (12 * 2 ^ 81) 0 = .bad (.illop 1) ∧ decode .T (6 * 2 ^ 177) 0 = .bad (.illop 1) := by decide

/-! Every word of the streams can be ready: it passes its checks and nothing holds it. -/

/-- A scalar word of each kind. -/
def scalarWords : List Instr :=
  [.add bare 1 2 3, .sub bare 1 2 3, .and bare 1 2 3, .or bare 1 2 3, .xor bare 1 2 3, .shl bare 1 2 3, .shr bare 1 2 3, .sar bare 1 2 3, .mul bare 1 2 3,
   .mulhs bare 1 2 3, .mulhn bare 1 2 3, .divs bare 1 2 3, .divn bare 1 2 3, .rems bare 1 2 3, .remn bare 1 2 3, .min bare 1 2 3, .max bare 1 2 3, .sel (xhdr 3 true) 1 2 3,
   .addi (xhdr 31 true) 1 2 31, .andi bare 1 2 3, .ori bare 1 2 3, .shli (xhdr 0 true) 1 2 31, .shri bare 1 2 31, .sari bare 1 2 31, .limm bare 1 true 7, .plog bare 3 1 2 3,
   .cmpEq bare 1 2 3, .cmpNe bare 1 2 3, .cmpLt bare 1 2 3, .cmpLe bare 1 2 3, .cmpLo bare 1 2 3, .cmpLs bare 1 2 3, .cmpiEq bare 1 2 3, .cmpiNe bare 1 2 3, .cmpiLt bare 1 2 3,
   .cmpiLe bare 1 2 3, .cmpiLo bare 1 2 3, .cmpiLs bare 15 2 31, .br bare 5, .brp bare true 3 5, .jmp bare 1, .call bare 31 5, .ret bare 31, .loop bare 6 4, .getc bare 1 7, .setc bare 1 9,
   .tkrd bare 1 .left, .tkwr bare 1 .right, .cwait bare 64 64 255 32]

/-- An escape, load or store of each kind. -/
def escapeWords : List Instr :=
  [.ld bare 1 2 3 (lit false 3 8), .st bare 1 2 3 (lit true 3 8), .nop bare, .trap bare 1023, .eret bare, .bkpt bare 1, .yield bare, .tend bare, .waita bare 1 2 5, .signal bare 1 2 3 false,
   .lmode bare true, .phase bare 4, .mark bare, .release bare 4, .acquire bare 0, .xlat bare 1 2 3, .rprobe bare 1 2 3, .amo bare 1 2 3 (alit 7 3 true), .red bare 0 2 3 (alit 5 2 false), .cpq bare 1 2 3, .cptail bare 1 2 1,
   .gath bare 1 2 3, .scat bare 1 2 3, .dgld bare 30 2 3 0 0, .dgq bare 1 2 3 0 true 4 2, .dgseal bare 2 3 0 4095, .owng bare 1 2 4, .ownt bare 1 2, .ownw bare 1 2, .cflush bare 1 2 3 0 4, .cinv bare 1 2 3 0 4,
   .cway bare 1 2 3 true, .lpatch bare 1 2 3 22, .larm bare 1 2, .qapp bare 1 2 3, .binit bare 1 2 0 15, .barv bare 1 1 63, .bwait bare 1 2 2 255, .pmig bare 1 2 2, .pmigAbort bare 1 2, .pheat bare 1 2,
   .tinv bare 1 2, .tinvAll bare, .lstat bare 1 2]

/-- A vector word of each kind. -/
def vectorWords : List Instr :=
  [.vadd bare (vo 3 1 2 3 0), .vsub bare (vo 0 1 2 3 0), .vmul bare (vo 1 1 2 3 0), .vmulh bare (vo 2 1 2 3 0), .vmin bare (vo 8 1 2 3 0), .vmax bare (vo 3 1 2 3 0), .vabs bare (vo 3 1 2 0 0), .vneg bare (vo 3 1 2 0 0),
   .vand bare (vo 3 1 2 3 0), .vor bare (vo 3 1 2 3 0), .vxor bare (vo 3 1 2 3 0), .vshl bare (vo 3 1 2 3 0), .vshr bare (vo 3 1 2 3 0), .vsar bare (vo 3 1 2 3 0),
   .vfadd bare (vo 7 1 2 3 0), .vfsub bare (vo 6 1 2 3 0), .vfmul bare (vo 5 1 2 3 0), .vfma bare (vo 7 1 2 3 (4 * 2 ^ 15)), .vfmin bare (vo 7 1 2 3 0), .vfmax bare (vo 7 1 2 3 0), .vfabs bare (vo 7 1 2 0 0), .vfneg bare (vo 7 1 2 0 0),
   .vcmpEq bare (vo 3 0 2 3 1), .vcmpNe bare (vo 3 0 2 3 1), .vcmpLt bare (vo 3 0 2 3 1), .vcmpLe bare (vo 3 0 2 3 1), .vcmpLo bare (vo 3 0 2 3 1), .vcmpLs bare (vo 3 0 2 3 1),
   .vfcmpEq bare (vo 7 0 2 3 1), .vfcmpNe bare (vo 7 0 2 3 1), .vfcmpLt bare (vo 7 0 2 3 1), .vfcmpLe bare (vo 7 0 2 3 1), .vsel bare (vo 7 1 2 3 1),
   .vplogAnd bare (vo 10 0 0 0 0x123), .vplogOr bare (vo 10 0 0 0 0x123), .vplogXor bare (vo 10 0 0 0 0x123), .vplogAndn bare (vo 10 0 0 0 0x123),
   .vcvt bare (vo 7 1 2 0 3), .vamax bare (vo 7 1 2 0 0), .vqcvt bare (vo 4 1 2 0 7), .vexp2 bare (vo 7 1 2 0 0), .vlog2 bare (vo 7 1 2 0 0), .vrcp bare (vo 7 1 2 0 0), .vrsqrt bare (vo 7 1 2 0 0),
   .vredadd bare (vo 7 1 2 0 0), .vredmax bare (vo 3 1 2 0 0), .vredmin bare (vo 3 1 2 0 0), .vperm bare (vo 3 1 2 3 0), .vbcast bare (vo 3 1 2 0 63), .vbcastScalar bare (vo 3 1 0 0 (2 ^ 24 + 5 * 2 ^ 16)), .vslide bare (vo 3 1 2 3 63),
   .vbext bare (vo 3 1 2 0 (7 * 2 ^ 5)), .vfunnel bare (vo 3 1 2 3 32), .vpopc bare (vo 3 1 2 0 0), .vclz bare (vo 3 1 2 0 0), .vmov bare (vo 9 1 2 0 0), .vmovMaskToV bare (vo 10 1 0 0 1), .vmovMaskToP bare (vo 10 0 1 0 17),
   .vgets bare (vo 3 0 2 0 (5 * 2 ^ 16 + 63)), .vsets bare (vo 3 1 0 0 (5 * 2 ^ 16 + 63)), .vld bare (vo 7 1 0 0 127), .vldx bare (vo 7 1 2 0 0), .vst bare (vo 7 0 0 1 0), .vstx bare (vo 7 0 2 1 0), .vldg bare (vo 7 1 0 0 (2 ^ 15)), .vstg bare (vo 7 0 0 1 (2 ^ 15)),
   .vbadd bare (vo 9 1 2 3 0), .vbmul bare (vo 9 1 2 3 0), .vbmax bare (vo 9 1 2 3 0), .vaccept bare (vo 9 1 2 0 (5 * 2 ^ 16 + 1))]

/-- A tensor word of each kind. -/
def tensorWords : List Instr :=
  [.mma bare mo, .mms bare { mo with aty := 4, bty := 4, spm := 1 }, .mzero bare { mo with acc := 7 }, .mstore bare { mo with oty := 3 }, .mload bare { mo with oty := 7 }, .mwldWindow bare 1 2 true 0, .mwldRange bare 1 1024 true 0 0,
   .mwswap bare true, .mnset bare 5 1 2, .mgo bare 5 5 (some mo), .tdset bare 1 2, .tdget bare 1 2, .twin bare 1 2 3 4 1, .twinGet bare 1 2 3, .tcut bare 1 2 15 1 7, .tcocut bare 1 2 3 1, .tmerge bare 1 2 3 true 4, .tnext bare 1,
   .xprog bare 7 1 2 0, .xverify bare 0 1 15 0, .xcal bare 15 0, .xmvm bare 7 504 1 2 7 true 3 0, .xstat bare 15 1 11 7, .xerase bare 15 0]

theorem ready_scalar : ∀ i ∈ scalarWords, readyB (base .A) i = true ∧ readyB (base .V) i = true := by decide +kernel
theorem ready_escape : ∀ i ∈ escapeWords, readyB (base .A) i = true := by decide +kernel
theorem ready_vector : ∀ i ∈ vectorWords, readyB (base .V) i = true := by decide +kernel
theorem ready_tensor : ∀ i ∈ tensorWords, readyB (base .T) i = true := by decide +kernel

/-! For each statement, states and operands that meet its hypotheses, clause by clause. -/

/-- The words of `ScalarResult`. -/
def resultWords : List Instr := scalarWords.take 25 ++ [.tkrd bare 1 .left, .tkrd bare 0 .right]

theorem witness_scalarResults : ∀ i ∈ resultWords,
    (readyB (base .A) i = true ∧ (((base .A).begun i).atOnce i (scalarLatency i) ↔ scalarLatency i ≠ 24) ∧ (scalarResult ((base .A).begun i) i).isSome = true) ∧
    (readyB (exposed (base .V)) i = true ∧ ¬ ((exposed (base .V)).begun i).atOnce i (scalarLatency i) ∧ (scalarResult ((exposed (base .V)).begun i) i).isSome = true) := by
  unfold State.atOnce; decide +kernel

/-- One result of s3 is in flight, due at issue cycle `n`, of a word that pushes `q`. -/
def flying (s : State) (n : Nat) (q : BitVec 2) : State := s.upMyCl fun x => { x with flight := [{ due := n, what := .sreg 3 7, need := q }] }

/-- Every FIFO is full. -/
def fullTokens (s : State) : State :=
  s.upMine fun k => { k with toRight := (List.range 4).map fun c => (c, List.replicate 8 none), toLeft := (List.range 4).map fun c => (c, List.replicate 8 none) }

theorem witness_resultDue :
    (∀ n ∈ [1, 2], ∀ q ∈ [0, 1, 2, 3], ∀ s ∈ [base .A, exposed (base .V), fullTokens (base .A)], (flying s n q).myCl.flight = [{ due := n, what := .sreg 3 7, need := q }] ∧ (flying s n q).myCl.icyc = 0) ∧
    ((base .A).mine.fifoTo .A .left).length < 8 ∧ ((base .A).mine.fifoTo .A .right).length < 8 ∧ ((fullTokens (base .A)).mine.fifoTo .A .left).length = 8 ∧
    ((fullTokens (base .A)).mine.fifoTo .A .right).length = 8 ∧ (3 : Reg) ∈ (Instr.add bare 1 3 2).sregs ∧ (3 : Reg) ∉ (Instr.nop bare).sregs := by decide +kernel

theorem witness_predicateResult : ∀ i ∈ (scalarWords.drop 25).take 13,
    (readyB (base .V) i = true ∧ ((base .V).begun i).atOnce i 1 ∧ (predResult ((base .V).begun i) i).isSome = true) ∧
    (readyB (exposed (base .T)) i = true ∧ ¬ ((exposed (base .T)).begun i).atOnce i 1 ∧ (predResult ((exposed (base .T)).begun i) i).isSome = true) := by
  unfold State.atOnce; decide +kernel

/-- Core 0 is in its handler. -/
def inHandler (s : State) : State := s.upMine fun k => { k with inh := true }

theorem witness_controlRegisters :
    ((controlTable ((base .T).begun (.getc bare 1 0x12))).map (·.1) = [0, 1, 2, 3, 4, 5, 6, 7, 8, 9, 10, 11, 12, 16, 17, 18] ∧
      readyB (base .T) (.getc bare 1 0x12) = true ∧ readyB (exposed (base .A)) (.getc bare 1 0) = true) ∧
    (∀ r ∈ [0x006, 0x009, 0x00A], readyB (base .V) (.setc bare 1 (.ofNat 10 r)) = true ∧ controlMay ((base .V).begun (.setc bare 1 (.ofNat 10 r))) (.ofNat 10 r) = true) ∧
    (∀ r ∈ [0x010, 0x011, 0x012], readyB (inHandler (base .A)) (.setc bare 1 (.ofNat 10 r)) = true ∧
      controlMay ((inHandler (base .A)).begun (.setc bare 1 (.ofNat 10 r))) (.ofNat 10 r) = true ∧
      readyB (base .A) (.setc bare 1 (.ofNat 10 r)) = true ∧ controlMay ((base .A).begun (.setc bare 1 (.ofNat 10 r))) (.ofNat 10 r) = false) ∧
    (readyB (base .A) (.setc bare 1 0) = true ∧ controlMay ((base .A).begun (.setc bare 1 0)) 0 = false) := by decide +kernel

/-- Every FIFO holds an entry with a payload and one without. -/
def withTokens (s : State) : State :=
  s.upMine fun k => { k with toRight := (List.range 4).map fun c => (c, [some 5, none]), toLeft := (List.range 4).map fun c => (c, [none, some 6]) }

/-- A header with these token operations. -/
def khdr (k : Nat) : Hdr := { bare with k := .ofNat 4 k }

theorem witness_tokens :
    (∀ k ∈ [0, 15], ∀ i ∈ [Instr.nop (khdr k), .cwait (khdr k) 0 0 0 0, .tkwr (khdr k) 1 .right, .tkwr (khdr k) 1 .left],
      (readyB (withTokens (base .V)) i = true ∧ ((withTokens (base .V)).begun i).atOnce i 1) ∧
      readyB (exposed (withTokens (base .V))) i = true ∧ ¬ ((exposed (withTokens (base .V))).begun i).atOnce i 1) ∧
    (∀ i ∈ [Instr.nop (khdr 3), .cwait (khdr 3) 0 0 0 0, .tkwr (khdr 3) 1 .right, .tkwr (khdr 3) 1 .left, .add (khdr 3) 1 2 3, .cmpEq (khdr 1) 1 2 3, .call (khdr 2) 1 5, .getc (khdr 1) 1 0x12],
      readyB (fullTokens (base .V)) i = true ∧ ¬ ((fullTokens (base .V)).begun i).atOnce i 1) := by unfold State.atOnce; decide +kernel

/-- A nop of cluster V has issued and waits to push in both directions. -/
def pushWaits (s : State) (c : Cluster) (q : BitVec 2) : State := s.upMine fun k => k.upCl c fun x => { x with flight := [{ due := 0, what := .pushes q, need := q }], outL := some 8, outR := some 9 }

theorem witness_popAndPush :
    (let u := (withTokens (base .T)).tick (.nop (khdr 15))
     readyB (withTokens (base .T)) (.nop (khdr 15)) = true ∧ (withTokens (base .T)).joint = false ∧ u.myCl.exposed = false ∧ (∀ c ∈ [Cluster.V, .S], (u.mine.cl c).flight = []) ∧
       u.mine.fifoTo .V .right = [some 5, none] ∧ u.mine.fifoTo .S .left = [none, some 6] ∧ (u.mine.fifoTo .T .right).length < 8 ∧ (u.mine.fifoTo .T .left).length < 8) ∧
    (let s := pushWaits (pushWaits (fullTokens (base .T)) .V 1) .S 2
     let u := s.tick (.nop (khdr 15))
     readyB s (.nop (khdr 15)) = true ∧ s.joint = false ∧ u.myCl.exposed = false ∧ u.mine.fifoTo .V .right = none :: List.replicate 7 none ∧ u.mine.fifoTo .S .left = none :: List.replicate 7 none ∧
       (u.mine.cl .V).flight = [{ due := 0, what := .pushes 1, need := 1 }] ∧ (u.mine.cl .S).flight = [{ due := 0, what := .pushes 2, need := 2 }] ∧ (List.replicate 7 (none : Option Word)).length < 8 ∧
       ¬ (u.mine.fifoTo .T .right).length < 8) := by decide +kernel

/-- A loop entry over the words 0 to 5 of stream A, with `rem` and `tail` iterations left. -/
def entry (st : LoopSt) (rem tail : Nat) : LoopEnt :=
  { endA := 20, startA := 4, iter := 5, prem := 7, rem := .ofNat 32 rem, rb := 3, tail := .ofNat 3 tail, stg := 2, st := st }

/-- Cluster A at the word at `pc` under the loop stack `l`. -/
def looping (pc : Nat) (l : List LoopEnt) : State := (base .A).upMyCl fun x => { x with pc := .ofNat 48 pc, loops := l, s := [(1, 400), (2, 401)], p := [(3, 1), (8, 1)] }

theorem witness_branchTaken :
    (∀ i ∈ [Instr.br bare 100, .brp bare false 3 100, .jmp bare 1, .ret bare 1], readyB (looping 8 [entry .run 1 0]) i = true ∧
      (match branchTarget ((looping 8 [entry .run 1 0]).begun i) i with | some t => isExit ((looping 8 [entry .run 1 0]).begun i) t | none => false) = true ∧
      ((looping 8 [entry .run 1 0]).begun i).myCl.flight = []) ∧
    (∀ i ∈ [Instr.br bare 1, .brp bare false 3 1, .br bare 3], readyB (looping 8 [entry .run 1 0]) i = true ∧
      (match branchTarget ((looping 8 [entry .run 1 0]).begun i) i with | some t => !isExit ((looping 8 [entry .run 1 0]).begun i) t | none => false) = true) := by decide +kernel

theorem witness_branchNotTaken :
    (readyB (looping 8 []) (.brp bare true 3 5) = true ∧ ((looping 8 []).begun (.brp bare true 3 5)).myCl.pbit 3 = true) ∧
    (∀ i ∈ [Instr.jmp bare 2, .ret bare 2], readyB (looping 8 []) i = true ∧ badTarget (looping 8 []).curCl (((looping 8 []).begun i).reg 2) = true) := by decide +kernel

theorem witness_callLinks : ∀ c ∈ [0, 31],
    (readyB (base .V) (.call bare c 5) = true ∧ ((base .V).begun (.call bare c 5)).myCl.flight = [] ∧ ((base .V).begun (.call bare c 5)).mine.hasRoom .V ((bare.k).setWidth 2) = true) ∧
    (readyB (fullTokens (base .V)) (.call (khdr 3) c 5) = true ∧ ((fullTokens (base .V)).begun (.call (khdr 3) c 5)).myCl.flight = [] ∧
      ((fullTokens (base .V)).begun (.call (khdr 3) c 5)).mine.hasRoom .V ((khdr 3).k.setWidth 2) = false) := by decide +kernel

theorem witness_loopPushes :
    (readyB (looping 0 []) (.loop (xhdr 3 true) 6 5) = true ∧ (((looping 0 []).begun (.loop (xhdr 3 true) 6 5)).reg 6).toNat % 2 ^ 32 = 0) ∧
    (let s := looping 0 (List.replicate 4 (entry .run 1 0))
     s.canIssue = true ∧ issueBad s.curCl s.myCl (.loop bare 1 5) = none ∧ ((s.begun (.loop bare 1 5)).reg 1).toNat % 2 ^ 32 ≠ 0 ∧ 4 ≤ s.myCl.loops.length ∧
       regsWait (s.ticked (.loop bare 1 5)).mine s.curCl (.loop bare 1 5) = false) ∧
    (let s := looping 0 (List.replicate 3 (entry .run 1 0))
     readyB s (.loop (xhdr 3 true) 1 1023) = true ∧ ((s.begun (.loop (xhdr 3 true) 1 1023)).reg 1).toNat % 2 ^ 32 ≠ 0 ∧ (s.begun (.loop (xhdr 3 true) 1 1023)).myCl.loops.length < 4) := by decide +kernel

/-- The lbr at END of `entry`, that leads back to its START. -/
def backLbr : Instr := .lbr (xhdr 15 true) 0x3FC

/-- A pre-emption request is pending. -/
def requested (s : State) : State := s.upMine fun k => { k with preempt := 1 }

theorem witness_lbrMoves :
    (∀ e ∈ [entry .run 0 0, entry .run 3 2, entry .run 0 1, entry .drain 0 2, entry .drain 0 0],
      readyB (looping 20 [e]) backLbr = true ∧ readyB (requested (looping 20 [e])) backLbr = true ∧ (requested (looping 20 [e])).mine.asked = true ∧ ((looping 20 [e]).begun backLbr).myCl.loops = [e] ∧ e.st ≠ .stopped) ∧
    (let i : Instr := .lbr { bare with e := true, g := 2 } 0x3FC
     (looping 20 [entry .run 3 2]).canIssue = true ∧ issueBad .A (looping 20 [entry .run 3 2]).myCl i = none ∧ ((looping 20 [entry .run 3 2]).tick i).holds i = false ∧
      ((looping 20 [entry .run 3 2]).ticked i).fullPush i = false ∧ guardTrue ((looping 20 [entry .run 3 2]).ticked i).myCl i = false) := by decide +kernel

/-- A word guarded by p2, which is false in `base`. -/
def falseWord : Instr := .add { bare with e := true, g := 2 } 1 2 3

theorem witness_issueChecks :
    ((base .A).canIssue = true ∧ issueBad .A (base .A).myCl falseWord = none ∧ ((base .A).tick falseWord).holds falseWord = false ∧ ((base .A).ticked falseWord).fullPush falseWord = false ∧
      guardTrue ((base .A).ticked falseWord).myCl falseWord = false ∧ falseWord.kind ≠ .event) ∧
    (∀ e ∈ [(Instr.add (xhdr 1 false) 1 2 3, Bad.illop 2), (.getc bare 1 0x20, .illop 3), (.waita bare 1 2 6, .illop 5), (.phase bare 5, .illop 0x0E), (.lbr bare 1, .illop 0x0D)],
      issueBad (base .A).curCl (base .A).myCl e.1 = some e.2) ∧
    issueBad (base .V).curCl (base .V).myCl (.vadd bare (vo 9 1 2 3 0)) = some .illtype ∧
    issueBad (exposed (base .A)).curCl (exposed (base .A)).myCl (.lstat bare 1 2) = some (.illop 0x0B) ∧
    ((base .A).joint = false ∧ issueBad (base .A).curCl (base .A).myCl (.nop (khdr 8)) = none ∧ ((base .A).tick (.nop (khdr 8))).fullPush (.nop (khdr 8)) = false ∧ ((base .A).tick (.nop (khdr 8))).holds (.nop (khdr 8)) = true ∧ (base .A).myCl.flight = []) := by decide +kernel

theorem witness_trapWords : ∀ c ∈ [Cluster.A, .V, .T, .S], ∀ i ∈ [Instr.trap bare 0x12, .bkpt bare 3], readyB (base c) i = true ∧ ((base c).begun i).myCl.exposed = false := by decide +kernel

/-- Cluster A of core 0 has trapped with `cause`. -/
def trapped (cause : Cause) : State := (base .A).markTrap 0 .A cause 4 0x12 []

theorem witness_trapRecorded :
    (((base .A).core 0).task.isSome = true ∧ (∀ d ∈ [Cluster.A, .V, .T, .S], (((base .A).core 0).cl d).flight = []) ∧ (((base .A).core 0).cl .V).trapped = none ∧ ((base .A).core 0).trap = none) ∧
    (((trapped .trap).core 0).task.isSome = true ∧ (((trapped .trap).core 0).cl .V).trapped = none ∧ ((trapped .trap).core 0).trap.isSome = true) := by decide +kernel

theorem witness_handlerEntered : ((trapped .trap).core 0).trap.isSome = true ∧ ((trapped .trap).core 0).drained = true ∧
    (∀ c ∈ [Cluster.A, .V, .T, .S], (((trapped .trap).core 0).cl c).wait = none ∧
      (match (((trapped .trap).core 0).cl c).trapped with | some e => decide (e.cause ≠ .handle ∧ e.cause ≠ .watchdog) | none => true) = true) ∧
    ((trapped .trap).core 0).inh = false ∧ ((trapped .trap).ctx 0).trloc + 1024 ≤ 0x280000 ∧ ((trapped .trap).core 0).owner = [] := by decide +kernel

theorem witness_fatalTrap :
    (((inHandler (trapped .trap)).core 0).trap.isSome = true ∧ ((inHandler (trapped .trap)).core 0).task.isSome = true ∧
      ((inHandler (trapped .trap)).ctx ((inHandler (trapped .trap)).core 0).ctxNum).desc.cores.getLsbD 0 = true ∧ ((inHandler (trapped .trap)).core 0).inh = true) ∧
    (((trapped .handle).core 0).trap.isSome = true ∧ (((trapped .handle).core 0).cl .A).trapped = some { cause := .handle, pc := 4, info := 0x12 }) := by decide +kernel

/-- The other three clusters wait at an eret of theirs, in the handler. -/
def threeErets : State :=
  inHandler ((base .A).upMine fun k => { (k.upAll fun c x => if c = .A then x else { x with wait := some (.eret bare) }) with hloops := [[], [], [], []] })

theorem witness_taskLevelWords :
    (∀ c ∈ [Cluster.A, .V], ∀ i ∈ [Instr.yield bare, .tend bare, .waita bare 0 0 0, .bwait bare 0 0 0 0, .rprobe bare 0 0 0], readyB (base c) i = true) ∧
    (readyB (base .A) (.eret bare) = true ∧ ((base .A).begun (.eret bare)).mine.inh = false) ∧
    (readyB (inHandler (base .A)) (.eret bare) = true ∧ ((inHandler (base .A)).begun (.eret bare)).mine.inh = true ∧ (((inHandler (base .A)).begun (.eret bare)).mine.cl .V).wait = none) ∧
    (readyB threeErets (.eret bare) = true ∧ (threeErets.begun (.eret bare)).mine.inh = true ∧ (threeErets.begun (.eret bare)).mine.hloops = [[], [], [], []] ∧
      ∀ c ∈ [Cluster.A, .V, .T, .S], ((threeErets.begun (.eret bare)).mine.cl c).loops = [] ∧ badTarget c ((threeErets.begun (.eret bare)).mine.cl c).trapPc = false ∧
        (c ≠ .A → ((threeErets.begun (.eret bare)).mine.cl c).wait = some (.eret bare))) := by decide +kernel

theorem witness_modeWordsWait :
    (readyB (base .A) (.phase bare 0) = true ∧ ((base .A).begun (.phase bare 0)).mine.steps = 0 ∧ readyB (base .A) (.phase bare 4) = true) ∧
    (readyB (base .A) (.lmode bare false) = true ∧ readyB (base .A) (.lmode bare true) = true ∧ ((base .A).begun (.lmode bare true)).myCl.exposed = false) := by decide +kernel

/-- A cluster of core 0 waits at `i`. -/
def waiting (i : Instr) : State := (base .A).upMyCl fun x => { x with wait := some i }

theorem witness_lmodeActs : let k := (waiting (.lmode bare true)).core 0
    (k.cl .A).wait = some (.lmode bare true) ∧ (k.cl .A).flight = [] ∧ (k.cl .A).loadQ = [] ∧ (k.cl .A).storeQ = [] ∧ (k.cl .A).rets = [] ∧ k.tsCount = 0 ∧ k.nests = [] ∧ k.trap = none := by decide +kernel

theorem witness_phaseActs : ∀ n ∈ [0, 1, 4], ∀ m ∈ [0, 4],
    let k := (((waiting (.phase bare n)).upMine fun k => { k with phaseReq := [(.A, n), (.V, 2)], steps := m }).core 0)
    k.phaseReq = [(.A, n), (.V, 2)] ∧ (∀ d ∈ [Cluster.A, .V, .T, .S], (k.cl d).loadQ = [] ∧ (k.cl d).storeQ = [] ∧ (k.cl d).rets = []) ∧ k.trap = none ∧ n.toNat ≤ 4 ∧ k.steps.toNat ≤ 4 ∧ k.owner = [] := by decide +kernel

/-! Memory words and queues. -/

/-- Cluster A with a handle of page 0 and small registers. -/
def memState : State := withHandle (regs (base .A) [(2, 64), (3, 8), (4, 0x27FFF8), (5, 0x1FFFF8), (6, 3)])

theorem witness_scratchAccess :
    (∀ i ∈ [Instr.ld bare 1 4 0 (lit false 3 0), .st bare 1 4 0 (lit false 3 0)], readyB memState i = true ∧ (memState.begun i).myCl.exposed = false) ∧
    (let u := memState.begun (.ld bare 1 4 0 (lit false 3 0))
     scratchAddr u 4 0 (lit false 3 0) = 0x27FFF8 ∧ localOk u.mine 0x27FFF8 8 ∧ ∀ j, j < 8 → sget false u.mine.spPoison (0x27FFF8 + j) = false) ∧
    (let u := memState.begun (.st bare 1 4 0 (lit false 3 0))
     scratchAddr u 4 0 (lit false 3 0) = 0x27FFF8 ∧ localOk u.mine 0x27FFF8 8) := by unfold localOk; decide +kernel

/-- A store of two bytes is in flight, due at issue cycle `n`. -/
def storing (n : Nat) : State := memState.upMyCl fun x => { x with flight := [{ due := n, what := .sp 0x27FFF8 [some 1, none], need := 0 }] }

theorem witness_storeDue :
    (storing 1).myCl.icyc = 0 ∧ (storing 1).myCl.flight = [{ due := 1, what := .sp 0x27FFF8 [some 1, none], need := 0 }] ∧ (storing 3).myCl.exposed = false ∧
    spReads (storing 3).mine .A (.ld bare 1 4 0 (lit false 3 0)) = [(0x27FFF8, 8)] ∧ spReads (storing 3).mine .A (.nop bare) = [] := by decide +kernel

/-- The last tile is the copy engine's. -/
def lastTileTaken : State := memState.upMine fun k => k.setOwner 639 1

theorem witness_scratchTraps :
    (∀ i ∈ [Instr.ld bare 1 4 0 (lit false 3 8), .st bare 1 4 0 (lit false 3 1)], readyB memState i = true) ∧
    ¬ (scratchAddr (memState.begun (.ld bare 1 4 0 (lit false 3 8))) 4 0 (lit false 3 8) + 2 ^ 3 ≤ 0x280000) ∧
    ¬ (scratchAddr (memState.begun (.st bare 1 4 0 (lit false 3 1))) 4 0 (lit false 3 1) % 2 ^ 3 = 0) ∧
    (∀ i ∈ [Instr.ld bare 1 4 0 (lit false 3 0), .st bare 1 4 0 (lit false 3 0)], readyB lastTileTaken i = true ∧ (lastTileTaken.begun i).mine.owner' (0x27FFF8 / 4096) ≠ 0) := by decide +kernel

theorem witness_globalTraps :
    (∀ i ∈ [Instr.ld bare 1 1 5 (lit true 3 8), .st bare 1 1 6 (lit true 3 0), .ld bare 1 7 2 (lit true 3 0), .st bare 1 7 2 (lit true 3 0)], readyB memState i = true) ∧
    ¬ (offsetOf (memState.begun (.ld bare 1 1 5 (lit true 3 8))) 5 8 + 2 ^ 3 ≤ 2 ^ 21) ∧ ¬ (offsetOf (memState.begun (.st bare 1 1 6 (lit true 3 0))) 6 0 % 2 ^ 3 = 0) ∧
    ((memState.begun (.ld bare 1 7 2 (lit true 3 0))).mine.handle 7).getLsbD 63 = false ∧ offsetOf (memState.begun (.ld bare 1 7 2 (lit true 3 0))) 2 0 = 64 := by decide +kernel

/-- Words that enter a queue, on `memState`. -/
def queueWords : List Instr :=
  [.ld bare 1 1 5 (lit true 3 0), .st bare 1 1 5 (lit true 3 0), .amo bare 1 1 2 (alit 7 3 true), .red bare 0 1 2 (alit 0 2 false), .release bare 4, .acquire bare 0, .dgld bare 30 1 2 0 7,
   .dgq bare 1 1 0 0 true 0 2, .dgseal bare 1 0 0 4095, .cflush bare 3 1 2 0 4, .cinv bare 3 1 2 0 4, .signal bare 2 3 4 false, .signal bare 0 3 4 true, .binit bare 1 2 0 15, .barv bare 1 0 15, .mark bare]

/-- The quad of core 0 holds the group of its task. -/
def placed (s : State) : State := { s with quads := [(0, some { launch := 0, first := 0, tag := 0 })] }

theorem ready_queueWords : ∀ i ∈ queueWords, readyB memState i = true := by decide +kernel

theorem witness_queueWordEnters :
    (∃ ac push k, QueueEntry (memState.begun (.ld bare 1 1 5 (lit true 3 0))) (.ld bare 1 1 5 (lit true 3 0)) ac push k) ∧
    (∃ ac push k, QueueEntry (memState.begun (.st bare 1 1 5 (lit true 3 0))) (.st bare 1 1 5 (lit true 3 0)) ac push k) ∧
    (∃ ac push k, QueueEntry (memState.begun (.amo bare 1 1 2 (alit 7 3 true))) (.amo bare 1 1 2 (alit 7 3 true)) ac push k) ∧
    (∃ ac push k, QueueEntry (memState.begun (.red bare 0 1 2 (alit 0 2 false))) (.red bare 0 1 2 (alit 0 2 false)) ac push k) ∧
    (∃ ac push k, QueueEntry (memState.begun (.release bare 4)) (.release bare 4) ac push k) ∧
    (∃ ac push k, QueueEntry (memState.begun (.acquire bare 0)) (.acquire bare 0) ac push k) ∧
    (∃ ac push k, QueueEntry (memState.begun (.dgld bare 30 1 2 0 7)) (.dgld bare 30 1 2 0 7) ac push k) ∧
    (∃ ac push k, QueueEntry (memState.begun (.dgq bare 1 1 0 0 true 0 2)) (.dgq bare 1 1 0 0 true 0 2) ac push k) := by
  refine ⟨⟨_, _, _, .ld _ _ _ _ _ rfl ?_⟩, ⟨_, _, _, .st _ _ _ _ _ rfl ?_ ?_⟩, ⟨_, _, _, .amo _ _ _ _ _ ?_ ?_⟩, ⟨_, _, _, .red _ _ _ _ _ ?_ ?_⟩, ⟨_, _, _, .release _ _⟩, ⟨_, _, _, .acquire _ _⟩,
    ⟨_, _, _, .dgld _ _ _ _ _ _ ?_⟩, ⟨_, _, _, .dgq _ _ _ _ _ _ _ _ ?_ ?_⟩⟩ <;> (try unfold globalOk) <;> (try unfold localOk) <;> decide +kernel

theorem witness_queueWordEnters_rest :
    (∃ ac push k, QueueEntry (memState.begun (.dgseal bare 1 0 0 4095)) (.dgseal bare 1 0 0 4095) ac push k) ∧
    (∃ ac push k, QueueEntry (memState.begun (.cflush bare 3 1 2 0 4)) (.cflush bare 3 1 2 0 4) ac push k) ∧
    (∃ ac push k, QueueEntry (memState.begun (.cinv bare 3 1 2 0 4)) (.cinv bare 3 1 2 0 4) ac push k) ∧
    (∃ ac push k, QueueEntry (memState.begun (.signal bare 2 3 4 false)) (.signal bare 2 3 4 false) ac push k) ∧
    (∃ ac push k, QueueEntry ((placed memState).begun (.binit bare 1 2 0 15)) (.binit bare 1 2 0 15) ac push k) ∧
    (∃ ac push k, QueueEntry ((placed memState).begun (.barv bare 1 0 15)) (.barv bare 1 0 15) ac push k) ∧
    (∀ i ∈ [Instr.binit bare 1 2 0 15, .barv bare 1 0 15], readyB (placed memState) i = true) := by
  refine ⟨⟨_, _, _, .dgseal _ _ _ _ _ ?_⟩, ⟨_, _, _, .cflush _ _ _ _ _ _ ?_ ?_ ?_⟩, ⟨_, _, _, .cinv _ _ _ _ _ _ ?_ ?_ ?_⟩, ⟨_, _, _, .signal _ _ _ _ _⟩, ⟨_, _, _, .binit _ _ _ _ _ ?_⟩,
    ⟨_, _, _, .barv _ _ _ _ ?_ ?_⟩, ?_⟩ <;> (try unfold globalOk) <;> decide +kernel

/-- The running task's kernel is versioned. -/
def versionedState (s : State) : State := s.upMine fun k => { k with task := k.task.map fun t => { t with ver := true } }

theorem witness_versionHolds :
    (let i := Instr.st bare 1 1 5 (lit true 3 0)
     let s := versionedState memState
     readyB s i = true ∧ (s.begun i).versioned = true ∧ globalOk ((s.begun i).mine.handle 1) (offsetOf (s.begun i) 5 0) 8 8 false ∧
       (s.begun i).versionFull ((s.begun i).mine.version ++ [{ h := (s.begun i).mine.handle 1, off := 0x1FFFF8, upd := .bytes (storeData 0 8) }]) = none) ∧
    (let i := Instr.red bare 0 1 2 (alit 0 2 false)
     let s := versionedState memState
     readyB s i = true ∧ (s.begun i).versioned = true ∧ globalOk ((s.begun i).mine.handle 1) ((s.begun i).reg 3).toNat 4 4 false ∧
       (s.begun i).versionFull ((s.begun i).mine.version ++ [{ h := (s.begun i).mine.handle 1, off := 8, upd := .op (alit 0 2 false) 64 0 }]) = none) := by unfold globalOk; decide +kernel

/-- Cluster V with handle 1, and 64 in s2. -/
def vecState : State := withHandle (regs (base .V) [(2, 64), (4, 0x27FF00), (5, 0x1FFF00)])

theorem witness_vectorGlobal :
    (let i := Instr.vldg bare (vo 7 1 0 0 (5 * 2 ^ 20 + 2 ^ 15 + 3 * 2 ^ 9))
     readyB vecState i = true ∧ globalOk (vecHandle (vecState.begun i) (vo 7 1 0 0 (5 * 2 ^ 20 + 2 ^ 15))) 0x1FFF00 256 256 true ∧ vecAddr (vecState.begun i) (vo 7 1 0 0 (5 * 2 ^ 20)) = 0x1FFF00 ∧
       partialGuard (vecState.begun i).myCl bare = false) ∧
    (let i := Instr.vstg bare (vo 7 0 0 1 (5 * 2 ^ 20 + 2 ^ 15))
     readyB vecState i = true ∧ (vecState.begun i).versioned = false ∧ ((vecState.begun i).mine.vname 1).bounded = false ∧
     readyB (versionedState vecState) i = true ∧ ((versionedState vecState).begun i).versioned = true ∧
       ((versionedState vecState).begun i).versionFull [{ h := handleOf 0 1, off := 0x1FFF00, upd := .bytes (lanesStored (vecState.begun i) bare 1 256) }] = none) := by unfold globalOk; decide +kernel

/-- One entry at the head of the load queue of cluster A, or of V for a vector load. -/
def withLoad (s : State) (k : LoadKind) : State := s.upMyCl fun x => { x with loadQ := [{ seq := 5, ac := 0, push := 0, pc := 0, kind := k }] }

/-- One entry at the head of the store queue. -/
def withStore (s : State) (k : StoreKind) : State := s.upMyCl fun x => { x with storeQ := [{ seq := 5, ac := 0, push := 0, pc := 0, kind := k }] }

/-- `PlainLine`, as a test. -/
def plainB (s : State) (acc : Acc) (o : Nat) : Bool :=
  !s.isHeld acc o && s.reach acc o && !(s.line (s.lineNo acc o)).poisoned && !s.unfound acc o && !sget false s.weak (s.lineNo acc o) &&
    (match acc.frame with | some f => decide ((s.frame f).st ≠ .inMotion) && !(s.frame f).hoten | none => true) &&
    s.digests.all fun d => !d.2.dirty

theorem plain_of {s : State} {acc : Acc} {o : Nat} (h : plainB s acc o = true) : PlainLine s acc o := by
  simp only [plainB, Bool.and_eq_true, Bool.not_eq_true', List.all_eq_true] at h
  refine ⟨h.1.1.1.1.1.1, h.1.1.1.1.1.2, h.1.1.1.1.2, h.1.1.1.2, h.1.1.2, fun f hf => ?_, h.2⟩
  rw [hf] at h
  simp only [Bool.and_eq_true, Bool.not_eq_true', decide_eq_true_eq] at h
  exact h.1.2

/-- `PlainAt`, as a test, where no L2 holds anything. -/
def plainAtB (s : State) (a : Nat) : Bool := plainB s (s.physAcc a) (a % 2 ^ 21) && decide (s.l2 = [])

theorem plainAt_of {s : State} {a : Nat} (h : plainAtB s a = true) : PlainAt s a := by
  simp only [plainAtB, Bool.and_eq_true, decide_eq_true_eq] at h
  refine ⟨plain_of h.1, fun f _ die b hb => ?_⟩
  simp [State.l2Of, h.2, sget] at hb

/-- `NothingToRelease`, as a test, where no cache holds anything. -/
def cleanB (s : State) : Bool := !s.versioned && decide (s.mine.l1 = []) && decide (s.l2 = [])

theorem clean_of {s : State} (h : cleanB s = true) : NothingToRelease s := by
  simp only [cleanB, Bool.and_eq_true, Bool.not_eq_true', decide_eq_true_eq] at h
  refine ⟨h.1.1, fun b hb => ?_, fun b hb => ?_⟩
  · rw [h.1.2] at hb; exact absurd hb (by simp)
  · simp [State.l2Of, h.2, sget] at hb

/-- Memory holds `v` in the `n` bytes from device-physical address `a` on. -/
def holding (s : State) (a n v : Nat) : State := { s with mem := putBytes 0 s.mem (placeOfAddr s a) ((toBytes n v).map some) }

/-- The one entry of cluster A's store queue may be performed. -/
def headFree (s : State) : Bool := match ((s.core 0).cl .A).storeQ with | [e] => ((s.core 0).cl .A).storeFree e | _ => false

/-- The first line of frame 1 is poisoned. -/
def poisonedLine (s : State) : State := { s with lines := [(s.lineNo (s.frameAcc 1 (hAttr (handleOf 0 1) 0)) 0, { poisoned := true, key := none })] }

theorem witness_resultDelivered : ∀ d ∈ [0, 7], ((((base .A).upMyCl fun x => { x with rets := [{ d := d, val := 9, poisoned := false, ways := none, h := 0, off := 0, pc := 0, push := 0 }] }).core 0).cl .A).rets =
    [{ d := d, val := 9, poisoned := false, ways := none, h := 0, off := 0, pc := 0, push := 0 }] ∧ ((base .A).core 0).roomFor .A 0 = true := by decide +kernel

theorem witness_loadReturns :
    (let s := withLoad memState (.ld (handleOf 0 1) 64 8 3 false 0)
     ((s.core 0).cl .A).rets = [] ∧ ((s.core 0).cl .A).loadQ.length = 1 ∧ ((s.core 0).cl .A).loadFree { seq := 5, ac := 0, push := 0, pc := 0, kind := .ld (handleOf 0 1) 64 8 3 false 0 } = true ∧ s.holdsAt (handleOf 0 1) 64 = false ∧ (s.core 0).roomFor .A 0 = true ∧
       ∀ b ∈ (s.coreRead 0 (handleOf 0 1) 0 64 8).2, b.2 = false) ∧
    (let s := poisonedLine (withLoad memState (.ld (handleOf 0 1) 64 8 3 true 2))
     s.holdsAt (handleOf 0 1) 64 = false ∧ ∃ b ∈ (s.coreRead 0 (handleOf 0 1) 0 64 8).2, b.2 = true) := by decide +kernel

theorem witness_vectorReturns :
    (let e : LoadEnt := { seq := 5, ac := 0, push := 0, pc := 0, kind := .vldg (handleOf 0 1) 0 256 575 (BitVec.allOnes 64) 0 0 }
     let s := withLoad vecState e.kind
     (s.core 0).v.loadQ = [e] ∧ (s.core 0).v.loadFree e = true ∧ s.holdsAt (handleOf 0 1) 0 = false ∧ (s.coreRead 0 (handleOf 0 1) 0 0 256).2.all (fun b => !b.2) = true) ∧
    (let e : LoadEnt := { seq := 5, ac := 0, push := 0, pc := 0, kind := .vldg (handleOf 0 1) 0 256 0 (BitVec.allOnes 64) 3 7 }
     let s := poisonedLine (withLoad vecState e.kind)
     (s.core 0).v.loadQ = [e] ∧ (s.core 0).v.loadFree e = true ∧ s.holdsAt (handleOf 0 1) 0 = false ∧ (s.coreRead 0 (handleOf 0 1) 0 0 256).2.any (fun b => b.2) = true) := by decide +kernel

theorem witness_digestLoadsReturn : ∀ k ∈ [LoadKind.dgld (handleOf 0 1) 0 30, .dgq (handleOf 0 1) 0 0 none 3, .dgq (handleOf 0 1) 0 2 (some 0x27FC00) 3],
    let s := withLoad memState k
    ((s.core 0).cl .A).rets = [] ∧ ((s.core 0).cl .A).loadQ = [{ seq := 5, ac := 0, push := 0, pc := 0, kind := k }] ∧ ((s.core 0).cl .A).loadFree { seq := 5, ac := 0, push := 0, pc := 0, kind := k } = true := by decide +kernel

theorem witness_fences :
    (∀ scope ∈ [0, 3], let s := withLoad memState (.acquire scope)
      ((s.core 0).cl .A).loadQ = [{ seq := 5, ac := 0, push := 0, pc := 0, kind := .acquire scope }] ∧ ((s.core 0).cl .A).rets = [] ∧ ((s.core 0).cl .A).storeQ = []) ∧
    (∀ k ∈ [StoreKind.release 0, .release 4, .cflush (handleOf 0 1) 0 1 3, .st (handleOf 0 1) 0 [some 7, none, some 9]], let s := withStore memState k
      ((s.core 0).cl .A).storeQ = [{ seq := 5, ac := 0, push := 0, pc := 0, kind := k }] ∧ ((s.core 0).cl .A).storeFree { seq := 5, ac := 0, push := 0, pc := 0, kind := k } = true) ∧
    (let s := memState
     (s.core 0).hasL1 = false ∧ fullSet (s.l2Of 0) 262144 16 (byteKey 1 0 / 128) = none) ∧
    (let s := memState.upMine fun k => { k with steps := 1 }
     (s.core 0).hasL1 = true ∧ (s.core 0).l1Full (byteKey 1 0 / 128) = none) := by decide +kernel

/-- A handle of frame 1 whose page has digest kind 1. -/
def digestHandle : BitVec 128 := handleOf 0 1 ||| (1 <<< 64)

theorem witness_recordRead :
    (hAttr (handleOf 0 1) 0).kind = 0 ∧ (hAttr digestHandle 0).kind ≠ 0 ∧ memState.recKey (memState.frameAcc (hFrame digestHandle) (hAttr digestHandle 0)) 0 = none ∧
    (let s : State := { memState with dpl := [(0, BitVec.allOnes 64)] }
     let cell := (s.recKey (s.frameAcc (hFrame digestHandle) (hAttr digestHandle 0)) 0).getD 0 / 128 * 128
     let acc := (State.planeAcc cell).1
     let o := (State.planeAcc cell).2
     (s.recKey (s.frameAcc (hFrame digestHandle) (hAttr digestHandle 0)) 0).isSome = true ∧ s.digests = [] ∧ s.cellHeld cell = false ∧ s.cellReach cell = true ∧ s.unfound acc o = false ∧
       (s.line (s.lineNo acc o)).poisoned = false) := by decide +kernel

/-- A dirty byte of the core's L1 whose line the die's L2 holds, and one of the L2 that the core wrote. -/
theorem witness_releases : ∀ k ∈ [StoreKind.release 2, .release 4, .cflush (handleOf 0 1) 0 8 1, .cflush (handleOf 0 1) 0 8 3],
    let a : PAttr := { kd := 0, kind := 0, etype := 0 }
    let s : State := { (withStore memState k).upMine fun c => { c with steps := 1, l1 := [(byteKey 1 3, { val := 7, dirty := true, attr := a })] } with l2 := [(0, [(byteKey 1 5, { val := 8, writers := 1, attr := a })])] }
    headFree s = true ∧ ((s.core 0).l1.map (·.1)).Nodup ∧ (s.l2Of 0).map (·.1 / 128) = [byteKey 1 3 / 128] ∧ s.remap = [] ∧ s.ways = [] := by decide +kernel

/-- Dirty bytes of one line in the core's L1 alone; and dirty bytes of one line in its die's L2 alone. -/
theorem witness_reachesHome :
    let a : PAttr := { kd := 0, kind := 0, etype := 0 }
    let l := byteKey 1 3 / 128
    (∀ k ∈ [StoreKind.release 3, .release 4, .cflush (handleOf 0 1) 0 128 3],
      let s := (withStore memState k).upMine fun c => { c with steps := 1, l1 := [(byteKey 1 3, { val := 7, dirty := true, attr := a }), (byteKey 1 5, { val := 8, dirty := true, attr := a })] }
      headFree s = true ∧ s.l2 = [] ∧ ((s.core 0).l1.map (·.1)).Nodup ∧ (s.core 0).roomFor .A 0 = true ∧ (∀ b ∈ (s.core 0).l1, lineOf b.1 = l ∧ b.2.attr = a) ∧
        fullSet (s.l2Of 0) 262144 16 l = none ∧ plainB s (s.frameAcc (128 * l / 2 ^ 21) a) (128 * l % 2 ^ 21) = true ∧ byteKey 1 0 ≤ 128 * l ∧ 128 * l + 128 ≤ byteKey 1 0 + 128) ∧
    (∀ scope ∈ [0, 1, 4],
      let s : State := { (withStore memState (.cinv (handleOf 0 1) 0 8 scope)).upMine fun c => { c with steps := 1, l1 := [(byteKey 1 3, { val := 7, dirty := true, attr := a }), (byteKey 1 5, { val := 8, dirty := false, attr := a })] } with
        l2 := [(0, [(byteKey 1 3, { val := 7, writers := 1, attr := a }), (byteKey 1 5, { val := 8, writers := 2, attr := a })])] }
      headFree s = true ∧ (∀ b ∈ s.l2Of 0, b.2.dirty = true ∧ lineOf b.1 = l ∧ b.2.attr = a) ∧ ((s.l2Of 0).map (·.1)).Nodup ∧ s.l2.map (·.1) = [0] ∧
        byteKey 1 0 < 128 * l + 128 ∧ 128 * l < byteKey 1 0 + 8 ∧ plainB s (s.frameAcc (128 * l / 2 ^ 21) a) (128 * l % 2 ^ 21) = true) := by decide +kernel

theorem witness_atomics :
    (∀ k ∈ [StoreKind.amo (handleOf 0 1) 64 (alit 7 3 true) 4 9 0, .amo (handleOf 0 1) 64 (alit 0 2 false) 0 9 0, .red (handleOf 0 1) 64 (alit 0 2 false) 9],
      let s := withStore memState k
      let acc := s.frameAcc 1 (hAttr (handleOf 0 1) (s.ctx (s.core 0).ctxNum).kdom)
      headFree s = true ∧ plainB s acc 64 = true ∧ s.l2 = [] ∧ (s.core 0).l1 = [] ∧
        (let t := poisonedLine s
         headFree t = true ∧ t.isHeld acc 64 = false ∧ t.reach acc 64 = true ∧ (t.line (t.lineNo acc 64)).poisoned = true ∧ t.weak = [] ∧ (t.frame 1).hoten = false ∧ t.elog.cfg.getLsbD 63 = false ∧
           t.elog.lost.toNat < 2 ^ 32 - 1)) ∧
    (∀ op ∈ [0, 7], ∀ wd ∈ [2, 3], (alit op wd true).fp = false ∧ (alit op wd true).op.toNat ≤ 7 ∧ (0xFFFFFFFF : Word).toNat < 2 ^ (if (alit op wd true).wd = 2 then 32 else 64)) := by decide +kernel

theorem witness_signalDelivers :
    (∀ t ∈ [0, 255], let s := withStore { memState with ctxs := memState.ctxs.map fun e => (e.1, { e.2 with desc := { e.2.desc with cores := BitVec.allOnes 256 } }) } (.signal t 0x27FFF8 5)
      ((s.core 0).cl .A).storeFree { seq := 5, ac := 0, push := 0, pc := 0, kind := .signal t 0x27FFF8 5 } = true ∧ (s.ctx (s.core 0).ctxNum).desc.cores.getLsbD t = true ∧ (s.core t).owner' (0x27FFF8 / 4096) = 0) ∧
    (∀ e ∈ [(0, 4), (0, 0x280000), (256, 0), (7, 0)], let s := withStore memState (.signal e.1 e.2 5)
      ¬ (e.2 % 8 = 0 ∧ e.2 < 0x280000 ∧ e.1 < 256 ∧ (s.ctx (s.core 0).ctxNum).desc.cores.getLsbD e.1 = true)) := by decide +kernel

/-- A barrier word at key `k` in state `st`, with EXPECT 2 and ARRIVED 1. -/
def withBar (s : State) (k st : Nat) : State := { s with barriers := [(k, .ofNat 64 (st * 2 ^ 32 + 2 * 2 ^ 16 + 1))] }

theorem witness_binitPerforms : ∀ c ∈ [0, 1, 65536], headFree (withStore (placed memState) (.binit 15 (.ofNat 64 c) 3 0)) = true ∧ placementTag (placed memState) 15 = 0 := by decide +kernel

theorem witness_barrierStates : ∀ st ∈ [0, 1, 2, 3, 4], (withBar memState 15 st).bar 15 = { episode := 0, tlast := false, taint := false, st := st, expect := 2, arrived := 1 } := by decide +kernel

theorem witness_threadArrival : ∀ tag ∈ [0, 1],
    let s := withStore (placed memState) (.barv 15 1 3 tag)
    headFree s = true ∧ (s.core 0).halted = false ∧ placementTag s 15 = 0 := by decide +kernel

theorem witness_engineArrival :
    let s := { withBar memState 2048 2 with arrivals := [{ key := 2048, ctx := 0, tag := 0, tainted := false }], bcfg := [(2048, 0x80)] }
    s.barOwned 0 2048 = true ∧ (s.bar 2048).st = 2 ∧ (s.bar 2048).arrived < (s.bar 2048).expect := by decide +kernel

/-! Words that read tables or start units. -/

/-- The buffer of core 0 holds page 7 for ASID 0, generation 0. -/
def withRtb (s : State) : State := s.upMine fun k => { k with rtb := [{ asid := 0, gen := 0, vpage := 7, h := handleOf 7 9 }] }

theorem witness_xlatTranslates : ∀ v ∈ [7 * 2 ^ 21, 8 * 2 ^ 21, 2 ^ 48],
    let s := withRtb (regs (base .A) [(2, v)])
    readyB s (.xlat bare 1 2 3) = true ∧ (s.begun (.xlat bare 1 2 3)).myCl.exposed = false ∧ (s.begun (.xlat bare 1 2 3)).mine.rtb.length = 1 := by decide +kernel

theorem witness_tinvInvalidates : ∀ i ∈ [Instr.tinv bare 2 3, .tinvAll bare], ∀ n ∈ [0, 1], readyB (withRtb (regs (base .A) [(2, 7 * 2 ^ 21), (3, n)])) i = true := by decide +kernel

theorem witness_tileWords :
    (∀ e ∈ [(0, 0), (639, 2), (0, 640), (639, 1)], readyB (regs (base .A) [(1, e.1), (2, e.2)]) (.owng bare 1 2 4) = true) ∧
    (let s := (regs (base .A) [(1, 638), (2, 2)]).upMine fun k => k.setOwner 639 1
     readyB s (.owng bare 1 2 4) = true ∧ (s.begun (.owng bare 1 2 4)).mine.owner' 639 ≠ 0) ∧
    (∀ i ∈ [Instr.ownw bare 1 2, .ownt bare 1 2], readyB (regs (base .A) [(1, 639), (2, 1)]) i = true) := by decide +kernel

/-- Tile 1 is the copy engine's; a command ends at byte 4096 of it. -/
def copyState : State := (regs (base .A) [(2, 4160), (3, 64), (4, 4096)]).upMine fun k => { (k.setOwner 1 1) with cpTail := some 4096 }

theorem witness_copyWords : ∀ i ∈ [Instr.cpq bare 1 2 3, .gath bare 0 2 3, .scat bare 1 4 3, .cptail bare 1 2 255],
    readyB copyState i = true ∧ (copyState.begun i).myCl.exposed = false ∧ (copyState.begun i).mine.owner' (64 / 4096) = 0 ∧ (copyState.begun i).mine.owner' (4160 / 4096) = 1 ∧
      (copyState.begun i).mine.cpTail = some 4096 := by decide +kernel

theorem witness_linksAndFrames :
    (∀ l ∈ [28, 29], readyB (regs (base .A) [(2, l)]) (.lstat bare 1 2) = true) ∧
    (readyB memState (.pheat bare 1 1) = true ∧ ((memState.begun (.pheat bare 1 1)).mine.handle 1).getLsbD 63 = true ∧ readyB memState (.pheat bare 1 2) = true ∧
      ((memState.begun (.pheat bare 1 2)).mine.handle 2).getLsbD 63 = false) := by decide +kernel

/-- Frame 1 in state `st`, with one free location in the ring of LPDDR's scheme 2. -/
def framed (st : FrameSt) : State :=
  { memState with frames := [(1, { placedFrame with st := st })], flr := [(10, { tail := 1, head := 0, cfg := 0x800000 })] }

theorem witness_motionWords :
    (∀ i ∈ [Instr.pmig bare 2 2 1, .pmigAbort bare 2 2], readyB (framed .resident) i = true ∧ (((framed .resident).begun i).mine.handle 2).getLsbD 63 = false ∧ (((framed .resident).begun i).mine.handle 1).getLsbD 63 = true) ∧
    plainAtB ((framed .resident).begun (.pmig bare 2 1 1)) 0x800000 = true ∧
    (readyB (framed .resident) (.pmig bare 2 1 1) = true ∧ motionCode ((framed .resident).begun (.pmig bare 2 1 1)) 1 1 = 0) ∧
    (motionCode (framed .unmapped) 1 1 = 5 ∧ motionCode (framed .inMotion) 1 1 = 1 ∧ motionCode (framed .resident) 1 0 = 2 ∧ motionCode (framed .resident) 1 2 = 3) ∧
    (∀ st ∈ [FrameSt.inMotion, .committing, .resident], readyB (framed st) (.pmigAbort bare 2 1) = true ∧ ((framed st).frame 1).st = st) := by decide +kernel

theorem witness_recordWords :
    (∀ e ∈ [(65535, 0), (65536, 1)], readyB (regs (base .A) [(2, e.1), (3, e.2)]) (.lpatch bare 1 2 3 21) = true ∧ readyB (regs (base .A) [(2, e.1)]) (.larm bare 1 2) = true) ∧
    (let u := (regs (base .A) [(2, 0)]).begun (.larm bare 1 2)
     cleanB u = true ∧ ∀ o ∈ [0, 128, 248], plainAtB u (recordAt (u.ctx 0) 0 + o) = true) ∧
    ((regs (base .A) [(2, 0)]).record 0 0).st = .blank ∧ (({ base .A with recs := [(recKeyOf 0 0, { st := .armed, image := 0 })] }).record 0 0).st = .armed := by decide +kernel

/-- Queue 16383 in state `st`, of context 0, that takes device appends, with `n` entries. -/
def queued (st : QSt) (n : Nat) : State :=
  { regs (base .A) [(2, 16383), (3, 0x27FFC0), (4, 0x280000)] with
      queues := [(16383, { Queue.reset with st := st, tail := .ofNat 32 n, qcfg := 0x4000000000000000, qbase := 0x10000 })] }

theorem witness_qappAppends :
    (∀ i ∈ [Instr.qapp bare 1 2 3, .qapp bare 1 2 4], readyB (queued .idle 0) i = true) ∧
    (let u := (queued .idle 0).begun (.qapp bare 1 2 3)
     cleanB u = true ∧ plainAtB u 0x10000 = true ∧ (u.queue 16383).qbase.toNat / 2 ^ 12 % 2 ^ 40 * 4096 = 0x10000) ∧
    appendCode (queued .idle 0) 0 16383 = 0 ∧ appendCode (queued .active 64) 0 16383 = 1 ∧ appendCode (queued .disabled 0) 0 16383 = 2 ∧ appendCode (queued .idle 0) 1 16383 = 3 ∧
    appendCode (queued .idle 0) 0 16384 = 3 := by decide +kernel

/-- The context may convert ways when `b`. -/
def wayState (b : Bool) : State :=
  let s := regs (base .A) [(2, 15), (3, 0xFFF8)]
  { s with ctxs := s.ctxs.map fun e => (e.1, { e.2 with desc := { e.2.desc with config := if b then 0x100000000000000 else 0 } }) }

/-- A way below 3, a slice above 15. -/
theorem witness_cwayRefused : readyB (regs (base .A) [(2, 15), (3, 4)]) (.cway bare 1 2 3 true) = true ∧ readyB (regs (base .A) [(2, 16), (3, 8)]) (.cway bare 1 2 3 true) = true := by decide +kernel

theorem witness_cwayConverts : ∀ b ∈ [true, false], ∀ m ∈ [true, false],
    readyB (wayState b) (.cway bare 1 2 3 m) = true ∧ (((wayState b).begun (.cway bare 1 2 3 m)).reg 2).toNat < 16 ∧ (((wayState b).begun (.cway bare 1 2 3 m)).reg 3).toNat % 8 = 0 ∧
      (((wayState b).begun (.cway bare 1 2 3 m)).ctx 0).desc.config.getLsbD 56 = b := by decide +kernel

/-! Vector words. -/

/-- v1 holds a bounded value. -/
def boundedV1 : State := (base .V).upMine fun k => { k with vr := [(1, { val := 5, bounded := true, bound := 0x3F800000 })] }

/-- Vector words whose results are exact. -/
def exactWords : List Instr := vectorWords.take 22 ++ [.vsel bare (vo 7 1 2 3 1), .vcvt bare (vo 7 1 2 0 3), .vcvt bare (vo 0 1 2 0 (3 * 16 + 3))] ++ (vectorWords.drop 40).take 18

theorem witness_vectorResult :
    (∀ i ∈ exactWords, (vecWord ((base .V).begun i) i).isSome = true ∨ i = .vamax bare (vo 7 1 2 0 0) ∨ i = .vqcvt bare (vo 4 1 2 0 7) ∨ i = .vmovMaskToP bare (vo 10 0 1 0 17)) ∧
    ((base .V).mine.vr = [] ∧ (base .V).mine.latch = [] ∧ ∀ i ∈ exactWords, ((base .V).begun i).atOnce i (vecLatency i)) := by unfold State.atOnce; decide +kernel

theorem witness_vectorResult_sent : ∀ i ∈ exactWords, readyB (exposed (base .V)) i = true ∧ ¬ ((exposed (base .V)).begun i).atOnce i (vecLatency i) ∧
    ((vecWord ((exposed (base .V)).begun i) i).isSome = true ∨ i = .vamax bare (vo 7 1 2 0 0) ∨ i = .vqcvt bare (vo 4 1 2 0 7) ∨ i = .vmovMaskToP bare (vo 10 0 1 0 17)) := by
  unfold State.atOnce; decide +kernel

/-- A result of a vector word is in flight in exposed mode. -/
def vflying (s : State) (n d : Nat) (q : BitVec 2) : State :=
  (exposed s).upMyCl fun x => { x with flight := [{ due := n, what := .vreg d (BitVec.allOnes 2048) 7 false 0 false (some 7), need := q }] }

theorem witness_vectorResultDue : ∀ n ∈ [1, 2], ∀ d ∈ [0, 511, 512, 575], ∀ q ∈ [0, 3],
    (vflying (base .V) n d q).myCl.exposed = true ∧ (vflying (base .V) n d q).myCl.icyc = 0 ∧ (vflying (base .V) n d q).mine.hasRoom .V q = true ∧
      (vflying (fullTokens (base .V)) n d q).mine.hasRoom .V q = decide (q = 0) := by decide +kernel

theorem witness_vectorResult_bad : readyB boundedV1 (.vadd bare (vo 3 4 1 2 0)) = true ∧ ((boundedV1.begun (.vadd bare (vo 3 4 1 2 0))).mine.vname 1).bounded = true ∧
    (vecWord (boundedV1.begun (.vadd bare (vo 3 4 1 2 0))) (.vadd bare (vo 3 4 1 2 0))).isSome = true := by decide +kernel

/-- A vector word that acts in lane 0 only. -/
def lane0 : Hdr := { bare with e := true, g := 3 }

/-- p3 is true in lane 0 only. -/
def lane0State : State := boundedV1.upMyCl fun x => { x with p := [(3, 1)] }

theorem witness_vectorResult_part : readyB lane0State (.vadd lane0 (vo 3 1 2 3 0)) = true ∧ partialGuard (lane0State.begun (.vadd lane0 (vo 3 1 2 3 0))).myCl lane0 = true ∧
    ((lane0State.begun (.vadd lane0 (vo 3 1 2 3 0))).mine.vname 1).bounded = true ∧ readyB lane0State (.vadd lane0 (vo 3 4 2 3 0)) = true := by decide +kernel

theorem witness_vectorToPredicate :
    (∀ i ∈ (vectorWords.drop 22).take 10 ++ (vectorWords.drop 33).take 4 ++ [.vmovMaskToP bare (vo 10 0 1 0 17)], ((base .V).begun i).atOnce i 1 ∧
      readyB (exposed (base .V)) i = true ∧ ¬ ((exposed (base .V)).begun i).atOnce i 1 ∧ (vecPred ((exposed (base .V)).begun i) i).isSome = true) ∧
    (readyB (exposed boundedV1) (.vgets bare (vo 7 0 2 0 63)) = true ∧ readyB (exposed lane0State) (.vsets lane0 (vo 3 4 0 0 (5 * 2 ^ 16 + 1))) = true ∧
      activeEl ((exposed lane0State).begun (.vsets lane0 (vo 3 4 0 0 (5 * 2 ^ 16 + 1)))).myCl lane0 32 1 = false) ∧
    (∀ i ∈ (vectorWords.drop 22).take 10 ++ (vectorWords.drop 33).take 4 ++ [.vmovMaskToP bare (vo 10 0 1 0 17)], (vecPred ((base .V).begun i) i).isSome = true) ∧
    (readyB boundedV1 (.vcmpEq bare (vo 3 0 1 2 3)) = true ∧ ((boundedV1.begun (.vcmpEq bare (vo 3 0 1 2 3))).mine.vname 1).bounded = true) ∧
    (readyB boundedV1 (.vgets bare (vo 3 0 1 0 (5 * 2 ^ 16))) = true ∧ ((boundedV1.begun (.vgets bare (vo 3 0 1 0 (5 * 2 ^ 16)))).mine.vname 1).bounded = true ∧
      readyB boundedV1 (.vgets bare (vo 7 0 2 0 63)) = true) ∧
    (readyB lane0State (.vsets lane0 (vo 3 4 0 0 (5 * 2 ^ 16 + 1))) = true ∧ activeEl (lane0State.begun (.vsets lane0 (vo 3 4 0 0 (5 * 2 ^ 16 + 1)))).myCl lane0 32 1 = false) := by unfold State.atOnce; decide +kernel

/-- The quantisation bypass holds `n` scales. -/
def bypassed (n : Nat) : State := (base .V).upMine fun k => { k with bypass := List.replicate n (0x3F800000, 0) }

theorem witness_scaleBypass :
    (∀ n ∈ [0, 1, 2], readyB (bypassed n) (.vamax bare (vo 7 1 2 0 0)) = true ∧ readyB (bypassed n) (.vqcvt bare (vo 4 1 2 0 (16 + 5))) = true ∧ (bypassed n).mine.bypass.length = n) ∧
    blockRegs 7 511 = [511, 0] ∧ blockRegs 7 575 = [575, 512] ∧ blockRegs 5 2 = [2] := by decide +kernel

/-- The scale at the head of the bypass can be popped from issue cycle `n` on. -/
def scaled (s : State) (n : Nat) : State := s.upMine fun k => { k with bypass := [(0x3F800000, n)] }

theorem witness_scaleForms :
    (∀ i ∈ [Instr.vamax bare (vo 7 4 1 0 0), .vqcvt bare (vo 4 4 1 0 7)], readyB boundedV1 i = true ∧ ((boundedV1.begun i).mine.vname 1).bounded = true) ∧
    (readyB lane0State (.vamax lane0 (vo 7 1 2 0 0)) = true ∧ partialGuard (lane0State.begun (.vamax lane0 (vo 7 1 2 0 0))).myCl lane0 = true) ∧ readyB boundedV1 (.vqcvt bare (vo 4 1 2 0 7)) = true ∧
    (∀ n ∈ [0, 9], ∀ i ∈ [Instr.vamax bare (vo 7 1 2 0 0), .vqcvt bare (vo 4 1 2 0 7)],
      (readyB (scaled (base .V) n) i = true ∧ ((scaled (base .V) n).begun i).atOnce i 4 ∧ ((scaled (base .V) n).begun i).myCl.flight = []) ∧
      (readyB (exposed (scaled (base .V) n)) i = true ∧ ¬ ((exposed (scaled (base .V) n)).begun i).atOnce i 4) ∧ ((scaled (base .V) n).begun i).myCl.icyc = 1) := by
  unfold State.atOnce; decide +kernel

/-- v1 is bounded, and the newest entry of the latch of port 0 too. -/
def boundedLatch : State := boundedV1.upMine fun k => { k with latch := [(0, { val := 5, bounded := true, bound := 0x3F800000 })] }

theorem witness_boundedTraps :
    (∀ i ∈ [Instr.vbadd bare (vo 9 4 576 2 0), .vbadd bare (vo 9 4 2 576 0), .vbadd bare (vo 9 512 1 2 0), .vbmax bare (vo 9 4 576 2 0), .vbmax bare (vo 9 4 2 576 0), .vbmax bare (vo 9 512 1 2 0),
        .vbmul bare (vo 9 4 576 2 0), .vbmul bare (vo 9 4 2 1 0), .vbmul bare (vo 9 512 1 2 0), .vmov bare (vo 9 4 576 0 0), .vmov bare (vo 9 512 1 0 0), .vaccept bare (vo 9 4 576 0 (5 * 2 ^ 16 + 1))],
      readyB boundedLatch i = true ∧ ((boundedLatch.begun i).mine.vname 576).bounded = true ∧ ((boundedLatch.begun i).mine.vname 1).bounded = true) := by decide +kernel

theorem witness_boundedResult :
    (∀ i ∈ [Instr.vbadd bare (vo 9 511 1 2 0), .vbmul bare (vo 9 0 1 2 0), .vbmax bare (vo 9 0 1 2 0), .vmov bare (vo 9 3 1 0 0)],
      (readyB boundedV1 i = true ∧ (boundedWord (boundedV1.begun i) i).isSome = true ∧ (boundedV1.begun i).atOnce i (vecLatency i)) ∧
      readyB (exposed boundedV1) i = true ∧ (boundedWord ((exposed boundedV1).begun i) i).isSome = true ∧ ¬ ((exposed boundedV1).begun i).atOnce i (vecLatency i)) ∧
    (∀ c ∈ [5, 6, 7], let s := boundedV1.upMyCl fun x => { x with s := [(5, 0x3F800000), (7, 0x7F800000)] }
      let i := Instr.vaccept bare (vo 9 4 1 0 (c * 2 ^ 16 + 2))
      readyB s i = true ∧ readyB (exposed s) i = true ∧ (s.begun i).atOnce i 2 ∧ ¬ ((exposed s).begun i).atOnce i 2 ∧ (boundedSrc (s.begun i) 1).isSome = true ∧
        decide ((s.reg (.ofNat 5 c)).toNat % 2 ^ 32 = 0x7F800000 ∨ (fmtF32.decode 0x3F800000).eq (fmtF32.decode ((s.reg (.ofNat 5 c)).toNat % 2 ^ 32)) = true) = decide (c = 5 ∨ c = 7)) ∧
    (let s := lane0State.upMyCl fun x => { x with s := [(5, 0x7F800000)] }
     let i := Instr.vaccept lane0 (vo 9 1 2 0 (5 * 2 ^ 16 + 2))
     readyB s i = true ∧ partialGuard (s.begun i).myCl lane0 = true ∧ ((s.begun i).mine.vname 1).bounded = true ∧ (boundedSrc (s.begun i) 2).isSome = true) := by unfold State.atOnce; decide +kernel

theorem witness_vectorMemory :
    (∀ i ∈ [Instr.vld bare (vo 7 1 0 0 (4 * 2 ^ 20)), .vst bare (vo 7 0 0 1 (4 * 2 ^ 20)), .vldx bare (vo 7 1 2 0 (4 * 2 ^ 20)), .vstx bare (vo 7 0 2 1 (4 * 2 ^ 20))],
      readyB vecState i = true ∧ readyB (exposed vecState) i = true ∧ vecAddr (vecState.begun i) (vo 7 1 0 0 (4 * 2 ^ 20)) = 0x27FF00) ∧
    ((vecState.begun (.vld bare (vo 7 1 0 0 (4 * 2 ^ 20)))).atOnce (.vld bare (vo 7 1 0 0 (4 * 2 ^ 20))) 6 ∧
      ¬ ((exposed vecState).begun (.vld bare (vo 7 1 0 0 (4 * 2 ^ 20)))).atOnce (.vld bare (vo 7 1 0 0 (4 * 2 ^ 20))) 6 ∧
      ¬ (vecState.begun (.vldx bare (vo 7 1 2 0 (4 * 2 ^ 20)))).atOnce (.vldx bare (vo 7 1 2 0 (4 * 2 ^ 20))) 10) ∧
    (∀ l ∈ List.range 64, laneAddr (vecState.begun (.nop bare)) (vo 7 1 2 0 (4 * 2 ^ 20)) l = 0x27FF00) ∧ vecLen (vo 7 1 0 0 (4 * 2 ^ 20)) = 256 ∧ localOk (vecState.begun (.nop bare)).mine 0x27FF00 256 ∧
    localOk (vecState.begun (.nop bare)).mine 0x27FF00 4 ∧ (vecState.begun (.nop bare)).mine.spPoison = [] := by unfold localOk State.atOnce; decide +kernel

/-- Vector accesses of the scratchpad, and what each traps on: a bounded index, source or partly written D; an address past the end; a tile that is not THREAD; a poisoned byte. -/
theorem witness_vectorAccessTraps :
    let i := [Instr.vld bare (vo 7 1 0 0 (4 * 2 ^ 20)), .vldx bare (vo 7 1 2 0 (4 * 2 ^ 20)), .vst bare (vo 7 0 0 1 (4 * 2 ^ 20)), .vstx bare (vo 7 0 2 1 (4 * 2 ^ 20))]
    (∀ j ∈ [Instr.vldx bare (vo 7 4 1 0 (4 * 2 ^ 20)), .vst bare (vo 7 0 0 1 (4 * 2 ^ 20)), .vstx bare (vo 7 0 1 2 (4 * 2 ^ 20)), .vld lane0 (vo 7 1 0 0 (4 * 2 ^ 20))],
      readyB lane0State j = true ∧ ((lane0State.begun j).mine.vname 1).bounded = true ∧ partialGuard (lane0State.begun j).myCl lane0 = true) ∧
    (∀ a ∈ [0x27FF01, 0x280000], ∀ j ∈ i, readyB (regs (base .V) [(4, a)]) j = true ∧ decide (a % 256 ≠ 0 ∨ 0x280000 < a + 256) = true ∧ decide (a % 4 ≠ 0 ∨ 0x280000 < a + 4) = true ∧
      vecAddr ((regs (base .V) [(4, a)]).begun j) (vo 7 1 0 0 (4 * 2 ^ 20)) = a) ∧
    (∀ j ∈ i, readyB (vecState.upMine fun k => k.setOwner 639 1) j = true ∧ ((vecState.upMine fun k => k.setOwner 639 1).begun j).mine.owner' (0x27FF00 / 4096) ≠ 0) ∧
    (∀ j ∈ i.take 2, let s := vecState.upMine fun k => { k with spPoison := [(0x27FF00, true)] }
      readyB s j = true ∧ sget false (s.begun j).mine.spPoison 0x27FF00 = true ∧ vecPd (vo 7 1 0 0 (4 * 2 ^ 20)) = 0 ∧ vecPd (vo 7 1 2 0 (4 * 2 ^ 20)) = 0) := by decide +kernel

/-! Tensor and crossbar words. -/

/-- Cluster T of core 0: 128 in s2, 2 in s3, and its group has two tasks. -/
def tenState : State := regs (base .T) [(2, 128), (3, 2)]

/-- The group has four tasks. -/
def wideState : State := tenState.upMine fun k => { k with task := k.task.map fun t => { t with gsize := 4 } }

/-- The tasks of the group number two. -/
def narrowState : State := tenState.upMine fun k => { k with task := k.task.map fun t => { t with gsize := 2 } }

theorem witness_tileEntry (s : State) (h1 : s = tenState.begun (.nop bare)) : s.mine.tailActive = false ∧ (s.reg 2).toNat % 128 = 0 := by subst h1; decide +kernel

theorem witness_tileWordEnters :
    (∀ i ∈ [Instr.tdset bare 1 2, .tdget bare 1 2, .mwldWindow bare 1 2 true 0, .mwldRange bare 1 1024 true 0 0, .mwswap bare true, .mma bare mo, .mms bare { mo with aty := 4, bty := 4, spm := 1 }],
      readyB tenState i = true ∧ (tenState.begun i).mine.tailActive = false ∧ ((tenState.begun i).reg 2).toNat % 128 = 0) ∧
    (let i := Instr.mma bare { mo with qj := true }
     readyB wideState i = true ∧ (wideState.begun i).mine.task.map (·.gsize) = some 4) := by decide +kernel

theorem witness_tileEntries (u : State) (hu : u.mine.tailActive = false) (h2 : (u.reg 2).toNat % 128 = 0) :
    TileEntry u (.mma bare mo) 0 (.mma mo) ∧ TileEntry u (.mms bare mo) 0 (.mms mo) ∧ TileEntry u (.mzero bare mo) 0 (.mzero mo) ∧ TileEntry u (.mstore bare mo) 0 (.mstore mo) ∧
    TileEntry u (.mload bare mo) 0 (.mload mo) ∧ TileEntry u (.mwldWindow bare 1 2 true 0) 0 (.mwldWindow 1 2 true 0) ∧ TileEntry u (.mwldRange bare 1 2 true 0 0) 0 (.mwldRange 1 2 true 0 0) ∧
    TileEntry u (.mwswap bare true) 0 (.mwswap true) ∧ TileEntry u (.tdset bare 1 2) 0 (.tdset 1 (u.reg 2).toNat) ∧ TileEntry u (.tdget bare 1 2) 0 (.tdget 1 (u.reg 2).toNat) := by
  have hm : mo.wb = u.mine.tailActive := by rw [hu]; decide
  have hq : mo.qj = true → u.mine.task.isSome = true ∧ wideGroup u := fun h => absurd h (by decide)
  have ht : true ≠ u.mine.tailActive := by rw [hu]; decide
  exact ⟨.mma _ _ hq hm, .mms _ _ hq hm, .mzero _ _, .mstore _ _, .mload _ _, .mwldWindow _ _ _ _ _ ht, .mwldRange _ _ _ _ _ _ ht, .mwswap _ _ ht, .tdset _ _ _ h2, .tdget _ _ _ h2⟩

theorem witness_tileWindow :
    (∀ i ∈ [Instr.mma bare { mo with wb := true }, .mms bare { mo with wb := true, aty := 4, bty := 4, spm := 1 }, .mwldWindow bare 1 2 false 0, .mwldRange bare 1 1024 false 0 0, .mwswap bare false],
      readyB tenState i = true ∧ (tenState.begun i).mine.tailActive = false ∧ (tenState.begun i).mine.task.isSome = true) ∧
    (∀ i ∈ [Instr.mma bare { mo with qj := true }, .mms bare { mo with qj := true, aty := 4, bty := 4, spm := 1 }], readyB narrowState i = true ∧ (narrowState.begun i).mine.task.map (·.gsize) = some 2) := by decide +kernel

theorem witness_nestWords :
    (∀ i ∈ [Instr.mnset bare 0 2 3, .mnset bare 5 2 3, .mgo bare 5 5 (some mo), .mgo bare 0 0 (some mo)], readyB tenState i = true) ∧
    (let s := tenState.upMine fun k => { k with shadow := [(0, { count := 2, dk := 1, dm := 0, dn := 0, dacc := 0 })] }
     readyB s (.mgo bare 0 0 (some mo)) = true ∧ ((sget NestLevel.reset (s.begun (.mgo bare 0 0 (some mo))).mine.shadow 0).count == 0) = false) := by decide +kernel

/-- An entry that has not executed heads the tile-step queue of core 0. -/
def withTile (k : TileKind) : State := tenState.upMine fun c => { c with tq := [{ step := 3, joint := 0, kind := k, push := 0, done := false }] }

/-- A dense scratchpad descriptor at 0: type, extents and strides. -/
def tdNat (t d0 d1 s0 s1 : Nat) : Nat := t + 2 ^ 16 + d0 * 2 ^ 128 + d1 * 2 ^ 160 + s0 * 2 ^ 256 + s1 * 2 ^ 288

/-- Copy 0 holds `d`, and the first tiles are the tensor unit's. -/
def withTd (s : State) (d : Nat) : State := s.upMine fun k => { k with tds := [(0, .ofNat 1024 d)], owner := (List.range 16).map fun i => (i, 3) }

theorem witness_tileHeads : ∀ k ∈ [TileKind.twin 1 2 1 5 7, .tnext 2, .twinGet 2 3 4, .twinGet 2 0 4, .mzero { mo with acc := 7 }, .mwswap true, .tdget 0 128],
    (withTile k).mine.tq = [{ step := 3, joint := 0, kind := k, push := 0, done := false }] ∧ (withTile k).mine.ws = [] ∧ (withTile k).power.stopped = false ∧ (withTile k).mine.ownPending = false := by decide +kernel

theorem dense_of (k : Core) (t d0 d1 s0 s1 : Nat) (h : k.tds = [(0, .ofNat 1024 (tdNat t d0 d1 s0 s1))])
    (g : let d := (BitVec.ofNat 1024 (tdNat t d0 d1 s0 s1)).toNat
      tdInvalid d = false ∧ tdSparse d = false ∧ tdLoc d = 1 ∧ tdType d = t ∧ 0 = d / 2 ^ 64 % 2 ^ 64 ∧ d0 = d / 2 ^ 128 % 2 ^ 32 ∧ d1 = d / 2 ^ 160 % 2 ^ 32 ∧ s0 = d / 2 ^ 256 % 2 ^ 32 ∧ s1 = d / 2 ^ 288 % 2 ^ 32) :
    Dense k 0 t 0 s0 s1 d0 d1 := ⟨_, by rw [h]; rfl, g⟩

/-- A row of two f32 cells is read into accumulator 1. -/
theorem witness_mload : let s := withTd (withTile (.mload { mo with acc := 1, oty := 7, m := 1, n := 2 })) (tdNat 7 2 1 4 8)
    Dense s.mine 0 7 0 4 8 2 1 ∧ s.mine.tq.length = 1 ∧ ∀ j < 2, ∀ b < 4, s.mine.owner' ((4 * j + b) / 4096) = 3 ∧ sget false s.mine.spPoison (4 * j + b) = false := by
  exact ⟨dense_of _ 7 2 1 4 8 (by rfl) (by decide +kernel), by decide +kernel, by decide +kernel⟩

theorem witness_tdget : let s := withTd (withTile (.tdget 0 128)) (tdNat 7 2 1 4 8)
    (sfind s.mine.tds 0).isSome = true ∧ ∀ j < 128, s.mine.owner' ((128 + j) / 4096) = 3 ∧ sget false s.mine.spPoison (128 + j) = false := by decide +kernel

/-- One row by two columns over two k's. -/
def productOps : MOps := { mo with m := 1, n := 2, k := 2 }

theorem witness_matrixProduct : let s := (withTd (withTile (.mma productOps)) (tdNat 0 2 1 1 2)).upMine fun c => { c with meta0 := { BankMeta.reset with rows := 2 } }
    Dense s.mine 0 0 0 1 2 2 1 ∧ s.power.stopped = false ∧ s.mine.ownPending = false ∧ s.mine.tq = [{ step := 3, joint := 0, kind := .mma productOps, push := 0, done := false }] ∧ s.mine.active = false ∧ s.mine.meta0.typ = 0 ∧ s.mine.meta0.poisoned = false ∧
    span productOps.m ≤ 1 ∧ span productOps.k ≤ 2 ∧ s.mine.meta0.kbase + s.mine.meta0.rows = 2 ∧ span productOps.n ≤ 128 ∧ productOps.wb = false ∧ productOps.qj = false ∧ productOps.sat = false ∧
    ∀ j < 2, s.mine.owner' (j / 4096) = 3 ∧ sget false s.mine.spPoison j = false := by
  exact ⟨dense_of _ 0 2 1 1 2 (by rfl) (by decide +kernel), by decide +kernel⟩

/-- An executed head of the queue. -/
def doneTile (k : TileKind) : State := tenState.upMine fun c => { c with tq := [{ step := 3, joint := 0, kind := k, push := 0, done := true }] }

theorem witness_tileStepComplete : ∀ csel ∈ [0, 64, 79, 128, 129], let s := doneTile (.mma { mo with csel := .ofNat 8 csel })
    s.mine.tq = [{ step := 3, joint := 0, kind := .mma { mo with csel := .ofNat 8 csel }, push := 0, done := true }] ∧ s.power.stopped = false ∧ ∀ m ∈ [0, 1, 2, 3], s.mine.roomFor .T m = true := by decide +kernel

theorem witness_nestStepPlace : let n : Nest := { levels := [{ count := 2, dk := 64, dm := 0, dn := 0, dacc := 1 }], klevel := 0, tmpl := mo, next := 1, entered := true, after := 1 }
    let s := tenState.upMine fun c => { c with nests := [n] }
    s.mine.nests = [n] ∧ s.mine.tsCount < 32 ∧ s.power.stopped = false ∧ n.next < (n.levels.map (·.count.toNat)).foldl (· * ·) 1 := by decide +kernel

/-- A fill of two rows into wb1 through handle 1. -/
def oneFill (started : Bool) : Fill := { seq := 1, ctx := 0, h := handleOf 0 1, desc := .ofNat 1024 (2 ^ 17 + 2 ^ 35), wb := true, koff := 0, rows := 2, noff := 0, started := started, aborted := false }

theorem witness_weightFill :
    (let s := (withHandle tenState).upMine fun c => { c with ws := [oneFill false] }
     s.mine.ws = [oneFill false] ∧ s.engineMayStart 0 0 = true ∧ tdH (oneFill false).desc.toNat = 1 ∧ (s.mine.handle 1).getLsbD 63 = true ∧ (s.mine.handle 1).getLsbD 62 = true) ∧
    (let s := (withHandle tenState).upMine fun c => { c with ws := [oneFill true], seqCtx := some 0 }
     s.mine.ws = [oneFill true] ∧ (s.fillRows (oneFill true)).2.all (fun b => !b.2) = true ∧ s.mine.seqCtx = some 0) := by decide +kernel

/-- mwld at the head, by range and by window 1, of a tensor of 8 rows of 4 bytes. -/
theorem witness_weightHandOff : ∀ k ∈ [TileKind.mwldRange 6 2 true 3 1, .mwldWindow 6 1 true 1],
    let d : BitVec 1024 := .ofNat 1024 (2 ^ 17 + 4 * 2 ^ 128 + 8 * 2 ^ 160 + 2 ^ 256 + 4 * 2 ^ 288)
    let s := (withTile k).upMine fun c => { c with tds := [(6, d)], win := [(1, .ofNat 256 (6 + 3 * 2 ^ 32 + 5 * 2 ^ 64))] }
    let v := sget 0 s.mine.win 1
    (s.mine.tq = [{ step := 3, joint := 0, kind := k, push := 0, done := false }] ∧ s.power.stopped = false ∧ s.mine.ownPending = false) ∧
      (winField v 0 8 = 6 ∧ winField v 32 32 = 3 ∧ winField v 64 32 - winField v 32 32 = 2) ∧ sfind s.mine.tds 6 = some d ∧
      (tdInvalid d.toNat = false ∧ tdSparse d.toNat = false ∧ tdLoc d.toNat = 2 ∧ tdType d.toNat = 0) ∧ 0 + (3 + 2 - 1) * 4 + (1 + 3 - 1) * 1 + 1 ≤ 2 ^ 21 := by decide +kernel

/-- Four cores of quad 0 with a .q step at their heads; member 3 has extent `k3`. -/
def jointState (k3 : Nat) : State :=
  let op (k : Nat) : TileOp := { step := 0, joint := 0, kind := .mma { mo with qj := true, m := 1, n := 1, k := .ofNat 8 k }, push := 0, done := false }
  (List.range 4).foldl (fun s q => s.upCore q fun c => { c with tq := [op (if q = 3 then k3 else 1)], task := (wideState.core 0).task, tds := [(0, .ofNat 1024 (tdNat 0 1 64 1 1))], owner := (List.range 16).map fun i => (i, 3), meta0 := { BankMeta.reset with rows := 1 } }) wideState

theorem witness_jointStep :
    (let s := jointState 1
     let heads := (List.range 4).filterMap fun q => (s.core q).jointHead
     heads.length = 4 ∧ s.oneQuartet 0 = true ∧ s.power.stopped = false ∧ (heads.all fun h => !h.2.2 && decide (h.1.joint = 0)) = true ∧ (heads.all fun h => decide (h.2.1 = { mo with qj := true, m := 1, n := 1, k := 1 })) = true ∧
     (let rows := Machine.gather (fun q => match heads[q]? with | some (_, o, _) => jointRows q q o false | none => pure ([], [])) s
      let kks := (rows.2.1.flatMap (·.2)).eraseDups
      rows.2.2 = [] ∧ (Machine.gather (fun q => match heads[q]? with | some (_, o, _) => jointCols q q o kks | none => pure []) rows.1).2.2 = [])) ∧
    (let s := jointState 2
     let heads := (List.range 4).filterMap fun q => (s.core q).jointHead
     heads.length = 4 ∧ s.oneQuartet 0 = true ∧ s.power.stopped = false ∧ (heads.all fun h => !h.2.2 && decide (h.1.joint = 0)) = true ∧ (heads.any fun h => heads.any fun g => decide ((jointFields h.2.1 false).2.2.2.1 ≠ (jointFields g.2.1 false).2.2.2.1)) = true) := by decide +kernel

/-- Every array is the context's, in state `st`. -/
def xbarState (st : XSt) : State := tenState.upMine fun k => { k with xb := (List.range 16).map fun n => (n, { XArr.reset with st := st, owner := some 0 }) }

/-- Words on arrays. -/
def xbarWords : List Instr := [.xprog bare 7 2 3 0, .xverify bare 0 2 15 0, .xcal bare 15 0, .xmvm bare 7 504 2 3 7 true 3 0, .xstat bare 15 4 11 7]

theorem witness_xbarWordEnters :
    (∀ i ∈ xbarWords, readyB (xbarState .erased) i = true ∧ readyB tenState i = true ∧
      (List.range 16).all (fun n => decide ((sget XArr.reset ((xbarState .erased).begun i).mine.xb n).owner = some 0) && decide ((sget XArr.reset (tenState.begun i).mine.xb n).owner = none)) = true) ∧
    readyB tenState (.xerase bare 15 0) = true := by decide +kernel

/-- An entry at the head of pair 7's queue; the first tiles are the crossbars'. -/
def withXop (s : State) (k : XKind) (started : Bool) : State :=
  s.upMine fun c => { c with xq := [(7, [{ num := 0, order := 0, csel := 0, push := 0, kind := k, started := started }])], owner := (List.range 64).map fun i => (i, 4) }

theorem witness_xbarHeads : ∀ e ∈ [(XKind.xerase 15, false), (.xerase 15, true), (.xstat 15 4 9 7, false), (.xstat 15 4 1 7, true), (.xstat 15 4 2 7, true), (.xstat 15 4 7 7, true), (.xstat 15 4 9 7, true), (.xcal 14, false), (.xcal 14, true),
      (.xverifyRun 1 [5], true), (.xprogRun 0x3F800000 [5], true), (.xmvmRun 504 0x3F800000 0 [], true)],
    (withXop (xbarState .ready) e.1 e.2).power.stopped = false ∧ (withXop (xbarState .ready) e.1 e.2).mine.ownPending = false ∧
      sget [] (withXop (xbarState .ready) e.1 e.2).mine.xq 7 = [{ num := 0, order := 0, csel := 0, push := 0, kind := e.1, started := e.2 }] := by decide +kernel

theorem witness_xbarStates : ∀ st ∈ [XSt.unknown, .erased, .programmed, .ready, .drifted, .faulty], ∀ n ∈ [14, 15], (sget XArr.reset (withXop (xbarState st) (.xcal 14) false).mine.xb n).st = st := by decide +kernel

theorem witness_xmvmStart : ((withXop (xbarState .ready) (.xmvm 504 0 0x3F800000 1 true 0) false).mine.xbarRead 0 512 64).isOk = true := by decide +kernel

/-- A core whose first 64 tiles are the crossbars' reads the plane that xprog and xverify name. -/
theorem witness_xprogStart : let k := (withXop (xbarState .erased) (.xprog 0 2) false).mine
    (k.owned 4 0 0x40000 = true ∧ k.spPoison = []) ∧ (k.t.reg 2).toNat % 2 ^ 32 < 0x7F800000 ∧ 0 < (k.t.reg 2).toNat % 2 ^ 32 := by decide +kernel

theorem plane_read (k : Core) (h : k.owned 4 0 0x40000 = true) (hp : k.spPoison = []) : k.xbarRead 0 4096 0x40000 = .ok (k.spRead 0 0x40000) := by
  have hq : k.spPoisoned 0 0x40000 = false := by simp [Core.spPoisoned, hp, sget]
  have h' : k.owned ownXbar 0 0x40000 = true := h
  have hs : ¬ (spSize < 0x40000) := by decide
  simp [Core.xbarRead, h', hq, hs]

/-! Tasks and continuations. -/

/-- The four clusters of core 0 wait at copies of `i`, tile 20 being the slot's. -/
def copies (i : Instr) : State := (base .A).upMine fun k => { k.upAll fun _ x => { x with wait := some i, s := [(1, 8), (2, 7)] } with cslot := .ofNat 64 (20 * 4096) }

/-- Clusters, tested one by one. -/
def eachCl (p : Cluster → Bool) : Bool := p .A && p .V && p .T && p .S

theorem eachCl_all {p : Cluster → Bool} (h : eachCl p = true) : ∀ c, p c = true := by
  simp only [eachCl, Bool.and_eq_true] at h
  intro c; cases c <;> simp [h]

/-- The conditions of `CopiesReady`, as a test. -/
def copiesReadyB (k : Core) (n : Nat) : Bool :=
  eachCl (fun c => decide ((k.cl c).copyAt = n) && decide ((k.cl c).flight = [])) && k.task.isSome && decide (k.trap = none) && !k.halted && k.drained && (!k.waitHeld || decide (k.conts.length < 64))

theorem copiesReady_of {k : Core} {n : Nat} (h : copiesReadyB k n = true) : CopiesReady k n := by
  simp only [copiesReadyB, Bool.and_eq_true, Bool.or_eq_true, Bool.not_eq_true', decide_eq_true_eq] at h
  have e := eachCl_all h.1.1.1.1.1
  simp only [Bool.and_eq_true, decide_eq_true_eq] at e
  exact ⟨fun c => (e c).1, ⟨h.1.1.1.1.2, h.1.1.1.2, h.1.1.2⟩, ⟨h.1.2, fun c => (e c).2⟩, h.2⟩

theorem witness_taskLevel :
    (∀ e ∈ [(Instr.tend bare, 1), (.yield bare, 2), (.waita bare 1 2 0, 3), (.bwait bare 3 0 0 15, 4), (.rprobe bare 3 0 2, 5)],
      let k := (copies e.1).mine
      copiesReadyB k e.2 = true ∧ k.inh = false ∧ k.slotOk (slotTile k.cslot) (slotSize k.cmask) = true ∧ k.conts.length < 64 ∧ k.rtb.length ≤ 512) ∧
    (∀ n ∈ [1, 2, 3, 4, 5], ∀ e ∈ [Instr.tend bare, .yield bare, .waita bare 1 2 0, .bwait bare 3 0 0 15, .rprobe bare 3 0 2],
      let s := (copies e).upCtx 0 fun x => { x with saving := true }
      (copyKind e = n → copiesReadyB s.mine n = true ∧ copiesReadyB ((copies e).upMine fun k => { k with preempt := 1 }).mine n = true) ∧ (s.ctx 0).saving = true ∧ ((copies e).ctx 0).saving = false ∧ s.power.stopped = false ∧ eachCl (fun c => s.mine.hasRoom c bare.pushes) = true) ∧
    (copies (.yield bare)).mine.preempt = 0 ∧ (copies (.yield bare)).power.stopped = false ∧ (copies (.yield bare)).mine.task.map (fun t => (t.ctx, t.ver)) = some (0, false) ∧
    ((copies (.yield bare)).upMine fun k => { k with preempt := 1 }).mine.preempt.getLsbD 0 = true := by decide +kernel

theorem witness_waita :
    (let k := (copies (.waita bare 1 2 0)).mine
     k.a.wait = some (.waita bare 1 2 0) ∧ (k.a.reg 1).toNat % 8 = 0 ∧ (k.a.reg 1).toNat < 0x280000 ∧ k.owner' ((k.a.reg 1).toNat / 4096) = 0) ∧
    (∀ cc ∈ [0, 1], let k := (copies (.waita bare 1 2 (.ofNat 3 cc))).mine
      ccHolds cc (.ofNat 64 (ofBytes (k.spRead (k.a.reg 1).toNat 8))) (k.a.reg 2) = decide (cc = 1)) := by decide +kernel

theorem witness_bwait : ∀ e ∈ [(0, 0, true), (1, 7, false), (1, 8, true), (2, 32774, true), (2, 32775, false), (1, 6, false)],
    let s := (placed (copies (.bwait bare 3 2 0 15))).setBar 15 { episode := e.2.1, tlast := false, taint := false, st := e.1, expect := 2, arrived := 0 }
    let gone := ((s.bar 15).episode + 2 ^ 16 - (s.mine.a.reg 2).toNat % 2 ^ 16) % 2 ^ 16
    s.mine.a.wait = some (.bwait bare 3 2 0 15) ∧ s.barAllowed 0 (barKey 0 0 15) = true ∧ (s.bar 15).st = e.1 ∧ decide ((s.bar 15).st = 0 ∨ (1 ≤ gone ∧ gone ≤ 32767)) = e.2.2 := by decide +kernel

theorem witness_rprobe :
    (let k := (copies (.rprobe bare 3 0 0)).mine
     k.a.wait = some (.rprobe bare 3 0 0) ∧ min (k.a.reg 0).toNat 512 = 0) ∧
    (let s := (copies (.rprobe bare 3 0 2)).upMine fun k => { k with rtb := (List.range 7).map fun n => { asid := 0, gen := 0, vpage := .ofNat 27 n, h := 0 } }
     s.mine.a.wait = some (.rprobe bare 3 0 2) ∧ (s.mine.a.reg 2).toNat = 7 ∧ ((List.range 7).all fun j => s.mine.rtb.any fun e => e.asid == (s.ctx s.mine.ctxNum).asid && e.gen == (s.ctx s.mine.ctxNum).gen && e.vpage.toNat == j) = true) := by decide +kernel

theorem witness_copiesDisagree :
    let s := ((copies (.yield bare)).upMine fun k => k.upCl .T fun x => { x with wait := some (.tend bare) }).upMine fun k => k.upCl .A fun x => { x with rets := [{ d := 1, val := 0, poisoned := false, ways := none, h := 0, off := 0, pc := 0, push := 0 }] }
    let k := s.mine
    eachCl (fun c => (k.cl c).copyAt != 0 && decide ((k.cl c).trapped = none) && decide ((k.cl c).flight = [])) = true ∧ k.t.copyAt ≠ k.a.copyAt ∧ k.trap = none ∧ k.halted = false ∧ k.inh = false ∧ k.drained = false ∧ k.waitHeld = false := by decide +kernel

/-- A continuation in slot 5 of the running task. -/
def contOf (on : WaitOn) (saving ready : Bool) : Cont :=
  { slot := 5, tile := 20, cmask := 0, task := ((base .A).mine.task).getD { ctx := 0, launch := 0, lser := 0, ord := 0, wid := 0, first := 0, gsize := 1, quad := 0, ver := false, steps := 0, w := 0, ttbase := 0, pcs := [], params := [] },
    on := on, saving := saving, ready := ready, result := 9, tinvs := [], leaves := [], tsteps := 0, jsteps := 0, xcount := 0, tds := [] }

/-- Core 0 with one continuation. -/
def contState (on : WaitOn) (saving ready : Bool) : State := (base .A).upMine fun k => { k with conts := [contOf on saving ready], task := none, ready := if ready then [.cont 5] else [] }

theorem witness_continuations :
    (∀ cc ∈ [0, 1], let k := (contState (.word 64 (.ofNat 3 cc) 2 7) false false).mine
      k.conts = [contOf (.word 64 (.ofNat 3 cc) 2 7) false false] ∧ ccHolds cc (k.spWord 64) (k.spWord (4096 * 20 + 0x100 + 8 * 2)) = decide (cc = 0)) ∧
    (contState (.word 64 0 2 7) true false).mine.conts = [contOf (.word 64 0 2 7) true false] ∧ (contState (.word 64 0 2 7) true false).power.stopped = false ∧
    ((∀ i ∈ [Instr.waita bare 1 2 0, .rprobe bare 3 0 2], (copies i).mine.conts.length < 64 ∧ 3 ≤ (copies i).mine.a.copyAt ∧ (copies i).mine.a.copyAt ≤ 5)) ∧
    (∀ on ∈ [WaitOn.word 64 0 2 7, .barrier 15 15 3 4], let s := contState on false true
      s.mine.conts = [contOf on false true] ∧ s.mine.ready = [.cont 5] ∧ s.mayTake 0 0 = true) := by decide +kernel

theorem witness_taskStarts :
    let tk := (contOf (.word 0 0 0 0) false false).task
    let s := (base .A).upMine fun k => { k with task := none, ready := [.task tk] }
    s.mine.ready = [.task tk] ∧ s.mine.readyCont = none ∧ s.mayTake 0 tk.ctx.toNat = true ∧ s.mine.steps = tk.steps ∧ tk.params.length ≤ 16 := by decide +kernel

theorem witness_watchdog :
    (∀ w ∈ [2, 3], let s := ({ (base .A) with cycle := 3 } : State).upMine fun k => { k.upCl .A fun x => { x with wdogFrom := 0 } with task := k.task.map fun t => { t with w := .ofNat 32 w } }
      s.mine.task.isSome = true ∧ s.mine.halted = false ∧ s.mine.preempt = 0 ∧ s.power.stopped = false ∧ ({ s with power := { s.power with stopped := true } } : State).power.stopped = true ∧ decide (w < s.cycle - (s.mine.cl .A).wdogFrom) = decide (w = 2)) ∧
    (let s := (base .A).upMyCl fun x => { x with dbgbp := [(3, 2 ^ 63 + x.pc.setWidth 64)] }
     s.canIssue = true ∧ (s.myCl.dbgbp.any fun e => e.2.getLsbD 63 && decide (e.2.setWidth 48 = s.myCl.pc)) = true ∧ eachCl (fun d => decide ((s.mine.cl d).flight = [])) = true) ∧
    ((base .A).upMine fun k => { k with halted := true }).mine.halted = true := by decide +kernel

/-! Lines at home, the copy engine, requests from outside. -/

theorem witness_homeWrites :
    let b : L2Byte := { val := 5, writers := 1, attr := { kd := 0, kind := 0, etype := 0 } }
    let s : State := { base .A with l2 := [(7, [(2 ^ 21 + 130, b)])] }
    ((s.l2Of 7).find? fun e => e.1 / 128 == 16385 && e.2.writers != 0) = some (2 ^ 21 + 130, b) ∧ (∀ d ∈ [0, 1, 6], s.l2Of d = []) ∧ plainB s (s.frameAcc (16385 / 2 ^ 14) b.attr) (128 * 16385 % 2 ^ 21) = true := by decide +kernel

theorem witness_linesFound : let acc := ((base .A).lineAcc 32768).1
    let o := ((base .A).lineAcc 32768).2
    let l := (base .A).lineNo acc o
    ((base .A).unfound acc o = false ∧ (base .A).weak = [] ∧ sget false ({ base .A with weak := [(l, true)] } : State).weak l = true ∧ ({ base .A with bad := [(l, true)] } : State).unfound acc o = true) ∧
    (base .A).other acc o = none ∧ (base .A).recKey acc o = none ∧
    (let s : State := { base .A with dpl := [(0, BitVec.allOnes 64)], bad := [(l, true)] }
     let cell := (s.recKey acc o).getD 0 / 128 * 128
     s.unfound acc o = true ∧ (s.recKey acc o).isSome = true ∧ s.cellHeld cell = false ∧ s.cellReach cell = true ∧ plainB s (State.planeAcc cell).1 (State.planeAcc cell).2 = true ∧
       s.lineNo (State.planeAcc cell).1 (State.planeAcc cell).2 ≠ l) := by decide +kernel

/-- Domain 3 is ROTATING to key 9, and line 0 is under its key `n`. -/
def rotatingAt (n : Nat) : State :=
  { base .A with kds := [(3, { st := .rotating, key0 := some 8, key1 := some 9, cur := true })], lines := [(0, { poisoned := false, key := some { kd := 3, serial := some n, frame := none, index := 0 } })] }

/-- Domain 3 is ROTATING to key 9, and line 0 is under its key 8. -/
def rotating : State := rotatingAt 8

/-- The conditions of `PatrolVisits` on the lines, of line 0. -/
def patrolB (s : State) : Bool :=
  let acc := (s.lineAcc 0).1
  let o := (s.lineAcc 0).2
  let l := s.lineNo acc o
  s.patrols 0 && !s.cellHeld 0 && s.cellReach 0 && decide ((s.line l).key = some { kd := 3, serial := some 8, frame := none, index := 0 }) && !(s.line l).poisoned && !s.unfound acc o && !sget false s.weak l &&
    decide (s.curKey 3 = some 9)

theorem witness_patrolVisits : patrolB rotating = true ∧ ({ rotating with patrolled := sset false rotating.patrolled 0 true } : State).passOver = false ∧
    ((rotatingAt 7).patrols 0 = true ∧ (rotatingAt 7).tagFails ((rotatingAt 7).lineAcc 0).1 ((rotatingAt 7).lineAcc 0).2 = true) := by decide +kernel

/-- A pass in which every other line has been visited. -/
theorem witness_patrolEnds : let s : State := { rotating with patrolled := List.replicate (patrolLines - 1) (5, true), patrolKds := BitVec.allOnes 256 }
    patrolB s = true ∧ ({ s with patrolled := sset false s.patrolled 0 true } : State).passOver = true := by
  refine ⟨witness_patrolVisits.1, ?_⟩
  have hr : patrolLines - 1 = (patrolLines - 2) + 1 := by decide
  have hs : sset false (List.replicate (patrolLines - 1) (5, true)) 0 true = (0, true) :: List.replicate (patrolLines - 1) (5, true) := by
    rw [hr, List.replicate_succ]; rfl
  show ((sset false (List.replicate (patrolLines - 1) (5, true)) 0 true).filter fun e => rotating.patrols e.1).length == patrolLines + ((List.range 4).map rotating.portLines).foldl (· + ·) 0
  have h0 : rotating.patrols 0 = true := by decide
  have h5 : rotating.patrols 5 = true := by decide
  have hp : ((List.range 4).map rotating.portLines).foldl (· + ·) 0 = 0 := by decide +kernel
  rw [hs, hp, List.filter_cons, if_pos h0, List.filter_replicate, if_pos h5, List.length_cons, List.length_replicate]
  decide

/-- Frame 2 lies in shared CXL memory. -/
def cxlState : State :=
  { base .A with frames := [(2, { Frame.reset with st := .resident, tier := 2, loc := .ofNat 31 (2 ^ 46 / 2 ^ 21), ilv := 4 })], links := (List.range 4).map fun c => (24 + c, { Link.reset with st := .up, shared := true, cap := 64 }), dpl := (List.range 64).map fun k => (k, BitVec.allOnes 64) }

theorem witness_backInvalidates :
    let acc := (cxlState.lineAcc (2 ^ 39)).1
    let o := (cxlState.lineAcc (2 ^ 39)).2
    let cell := (cxlState.recKey acc o).getD 0 / 128 * 128
    (tierOf (128 * 2 ^ 39) = some 2 ∧ cxlState.cellReach (128 * 2 ^ 39) = true ∧ cxlState.other acc o = none ∧ (cxlState.link (24 + (128 * 2 ^ 39 - 2 ^ 46) / 2 ^ 44)).shared = true ∧ cxlState.unfound acc o = false ∧ cxlState.weak = []) ∧
    ((cxlState.recKey acc o).isSome = true ∧ cxlState.cellHeld cell = false ∧ cxlState.cellReach cell = true ∧ plainB cxlState (State.planeAcc cell).1 (State.planeAcc cell).2 = true) ∧
    (let s : State := { cxlState with links := (List.range 4).map fun c => (24 + c, { Link.reset with st := .up, shared := false, cap := 64 }) }
     s.cellReach (128 * 2 ^ 39) = true ∧ s.other (s.lineAcc (2 ^ 39)).1 (s.lineAcc (2 ^ 39)).2 = none ∧ (s.link (24 + (128 * 2 ^ 39 - 2 ^ 46) / 2 ^ 44)).shared = false ∧ s.unfound (s.lineAcc (2 ^ 39)).1 (s.lineAcc (2 ^ 39)).2 = false) ∧
    (let s : State := { cxlState with dpl := [], bad := [(cxlState.lineNo acc o, true)] }
     s.cellReach (128 * 2 ^ 39) = true ∧ s.other (s.lineAcc (2 ^ 39)).1 (s.lineAcc (2 ^ 39)).2 = none ∧ s.unfound (s.lineAcc (2 ^ 39)).1 (s.lineAcc (2 ^ 39)).2 = true ∧
       s.recKey (s.lineAcc (2 ^ 39)).1 (s.lineAcc (2 ^ 39)).2 = none) := by decide +kernel

theorem witness_sealsBlock : ∀ left ∈ [1, 2],
    let s := withStore { memState with dpl := [(0, BitVec.allOnes 64)] } (.dgseal digestHandle 0 left)
    let acc := s.frameAcc (hFrame digestHandle) (hAttr digestHandle (s.ctx (s.core 0).ctxNum).kdom)
    let cell := (s.recKey acc 0).getD 0 / 128 * 128
    headFree s = true ∧ s.holdsAt digestHandle 0 = false ∧ (s.recKey acc 0).isSome = true ∧ (s.cellHeld cell = false ∧ s.cellReach cell = true ∧ plainB s (State.planeAcc cell).1 (State.planeAcc cell).2 = true) ∧
      ∀ j ∈ List.range 4, plainB s acc (128 * j) = true ∧ s.way0 (acc.cell (128 * j)) = none := by decide +kernel

/-- A copy of 8 bytes from `src` to `dst` in tile 1, its record at 0x800. -/
def copyEntry (op : Nat) : BitVec 512 := .ofNat 512 (op + 0x1000 * 2 ^ 64 + 0x1100 * 2 ^ 128 + 8 * 2 ^ 192 + 2 ^ 224 + 2 ^ 240 + 0x800 * 2 ^ 416)

/-- The entry lies in tile 2 of core 0's scratchpad, tiles 1 and 2 are the copy engine's, and its command is `cmd`. -/
def chainState (cmd : CopyCmd) : State :=
  memState.upMine fun k => { k with cp := [cmd], owner := [(1, 1), (2, 1)], sp := putBytes 0 [] 0x2000 ((toBytes 64 (copyEntry 0).toNat).map some) }

/-- A command that has not started. -/
def newCmd : CopyCmd := { seq := 1, ctx := 0, addr := 0x2000, released := false, aborted := false, entry := none, status := 0, handles := [], elems := [], complOk := true, flagOk := false, bitsOk := false, tag := 0 }

theorem witness_copyStarts : let s := chainState newCmd
    s.mine.cp = [] ++ newCmd :: [] ∧ s.engineMayStart 0 0 = true ∧ ceSstart (ofBytes (s.mine.spRead 0x2000 64)) = false ∧ ceFence (ofBytes (s.mine.spRead 0x2000 64)) = false ∧ (badHandle { newCmd with entry := some (.ofNat 512 (ofBytes (s.mine.spRead 0x2000 64))), handles := s.mine.h } (ofBytes (s.mine.spRead 0x2000 64))).isNone = true ∧ s.mine.ownPending = false ∧
    s.startStatus 0 newCmd (ofBytes (s.mine.spRead 0x2000 64)) = 0 := by decide +kernel

theorem witness_copyCompletes :
    (∀ e ∈ [(true, 0, 0), (false, 2, 0), (false, 0, 0), (true, 0, 3)],
      let cmd : CopyCmd := { newCmd with entry := some (copyEntry e.2.2), aborted := e.1, status := .ofNat 8 e.2.1 }
      let c := (chainState cmd).mine
      let x := (copyEntry e.2.2).toNat
      (c.cp.find? fun x => x.seq == cmd.seq && x.entry.isSome) = some cmd ∧ cmd.complOk = true ∧ cmd.flagOk = false ∧ cmd.bitsOk = false ∧ ceCompl x + 16 ≤ 0x280000 ∧ c.owned 0 (ceCompl x) 16 = true ∧
        (ceArr x = false ∧ ceRet x = false ∧ ceFlag x = false ∧ ceGen x = false) ∧ (ceOp x = e.2.2 ∧ ceCrc x = false ∧ ceN1 x = 1 ∧ ceN2 x = 1 ∧ epSpace (ceSrc x) = 0 ∧ epSpace (ceDst x) = 0) ∧
        cmd.elems = [] ∧ (chainState cmd).replies = [] ∧ c.spPoison = [] ∧ ceCompl x + 16 ≤ epAddr (ceDst x)) := by decide +kernel

theorem witness_tilesReturn :
    (∀ o ∈ [1, 2, 3, 4], let r : OwntReq := { ctx := 0, first := 1, n := 1, tq := 0, xq := 0, ws := 1, cp := 1 }
      let s := (chainState { newCmd with seq := 2 }).upMine fun k => { k with owner := [(1, .ofNat 3 o)], ownt := [r] }
      s.mine.ownt = [r] ∧ s.mine.ownPending = false ∧ s.classDone 0 r 1 = true) ∧
    (let r : OwntReq := { ctx := 0, first := 1, n := 1, tq := 0, xq := 0, ws := 1, cp := 2 }
     let s := (chainState newCmd).upMine fun k => { k with ownt := [r] }
     s.mine.ownt = [r] ∧ s.mine.ownPending = false ∧ s.classDone 0 r 1 = false ∧ s.mine.owner' 1 = 1) := by decide +kernel

/-- Entry 5 exports frame 1 for reads and writes, with arrivals at device barrier 4. -/
def exported : State := { base .A with exports := [(5, .ofNat 128 (1 + 2 ^ 127 + 2 ^ 126 + 2 ^ 125 + 2 ^ 124 + 2 * 2 ^ 122 + 4 * 2 ^ 114))] }

/-- An element of entry 5. -/
def element (kind : RemoteKind) (off : Nat) (op : Nat) (last : Bool) : RemoteReq := { dst := 0, src := 3, tag := 7, kind := kind, entry := 5, off := .ofNat 21 off, len := 4, data := [1, 2, 3, 4], op := .ofNat 2 op, fp := false, last := last, num := 0 }

theorem witness_remoteElements :
    (∀ k ∈ [RemoteKind.read, .write, .red], ∀ off ∈ [0, 0x1FFFFC],
      plainB exported (exported.exportAcc 5) off = true ∧ exported.l2 = [] ∧ exported.devid = 0 ∧ exported.exportOk 5 true = true ∧ exported.exportOk 5 false = true ∧ (element k off 0 false).off.toNat % 128 + 4 ≤ 128) ∧
    exported.recKey (exported.exportAcc 5) 0 = none ∧ (∀ k ∈ [RemoteKind.reply, .arrival], (element k 0 0 true).dst = exported.devid ∧ ({ element k 0 0 true with dst := 1 } : RemoteReq).dst ≠ exported.devid) ∧
    exported.exportOk 6 true = false ∧ ¬ ((element .write 0x1FFFFD 0 true).off.toNat + 4 ≤ 2 ^ 21) ∧ bit (sget 0 exported.exports 5).toNat 127 = true ∧ bit (sget 0 exported.exports 5).toNat 124 = true ∧ bits (sget 0 exported.exports 5).toNat 123 122 = 2 := by decide +kernel

theorem witness_salmusFlits : ({ base .A with links := [(23, { Link.reset with st := .degraded })] } : State).linkUp 23 = true ∧ (base .A).devid = 0 ∧ (element .write 0 0 false).data.length ≤ 224 ∧
    224 < ({ element .write 0 0 false with data := List.replicate 225 0 } : RemoteReq).data.length ∧ (element .write 0 0 false).dst = 0 ∧ ({ element .write 0 0 false with dst := 9 } : RemoteReq).dst ≠ 0 := by decide +kernel

/-- PCIe carries traffic. -/
def hosted (s : State) : State := { s with links := [(28, { Link.reset with st := .up })] }

theorem witness_windowAccesses :
    State.reset.started = false ∧ ({ hosted (base .A) with turnstat := 0x22 } : State).turnstat.toNat / 16 % 16 ≠ 0 ∧
    (let s := hosted (base .A)
     s.answers = true ∧ s.linkUp 28 = true ∧ s.posted = [] ∧ s.weak = [] ∧ s.l2 = [] ∧
       ∀ e ∈ [(0x400000, 1), (0x40007C, 4)], s.winHeld e.1 e.2 = false ∧ plainB s (s.winAcc 0 e.1) (e.1 % 2 ^ 21) = true ∧ bits s.win.toNat 51 36 * 2 ^ 36 + e.1 = e.1 ∧ s.way0 ((s.winAcc 0 e.1).cell (e.1 % 2 ^ 21)) = none) ∧
    ((base .A).answers = true ∧ ({ base .A with links := [] } : State).linkUp 28 = false) ∧
    (let s : State := { hosted (base .A) with win := .ofNat 64 (2 ^ 42), ways := [(3, .zeroS)] }
     s.answers = true ∧ s.linkUp 28 = true ∧ s.posted = [] ∧ s.winHeld (bits s.win.toNat 51 36 * 2 ^ 36 + 3 * 2 ^ 25) 8 = true) := by decide +kernel

/-! The dispatcher and contexts. -/

/-- A launch of context `n` with one group of one task in each superstep, in superstep 0. -/
def launchOf (n id : Nat) (supersteps : Nat) : Launch :=
  { id := id, ctx := .ofNat 6 n, recNo := 0, lser := 1, queue := .ofNat 14 n, entry := 0, image := .ofNat 2048 ((supersteps - 1) * 2 ^ 320 + 2 ^ 703 + 3 * 2 ^ 704), cpl := none, intr := false, superstep := 0, nextGroup := 0, groups := [],
    dropped := false, queuedAt := 0, waitFrom := 0, retiredNo := 0 }

/-- A group placed on quad 0, in state `st`. -/
def groupOf (st : GrpSt) : Group := { first := 0, quad := 0, st := st, ended := 1, unqueued := [], freed := false }

/-- Context 0 has all cores, and its one launch is QUEUED. -/
def launchState (l : List Launch) (st : CtxSt) (held : Sparse (Option QuadSt)) : State :=
  { base .A with launches := l, recs := [(0, { st := .queued, image := 0 }), (65536, { st := .queued, image := 0 })], quads := held,
                 ctxs := [(0, { (base .A).ctx 0 with st := st, desc := { ((base .A).ctx 0).desc with cores := BitVec.allOnes 256 } }), (1, { Ctx.reset with st := .resident, desc := { Desc.reset with cores := 0xF } })] }

theorem witness_dispatcher :
    candidates (base .A) = [] ∧
    (∀ e ∈ [(CtxSt.saved, 0), (.resident, 0), (.running, 1), (.running, 64)],
      let s := launchState [launchOf 0 7 1] e.1 ((List.range e.2).map fun q => (q, some { launch := 3, first := 0, tag := 0 }))
      s.claims = [] ∧ candidates s = [launchOf 0 7 1] ∧ (s.ctx 0).st = e.1 ∧ hasQuad (s.ctx 0) e.2 = decide (e.2 < 64) ∧ (s.record 0 0).st = .queued ∧
        ((List.range 64).all fun q => (sget none s.quads q).isNone == decide (e.2 ≤ q)) = true) := by decide +kernel

/-- A launch of a worse class holds the only quad of context 1's launch, and its context may be pre-empted. -/
theorem witness_victim :
    let s : State := { launchState [launchOf 1 7 1, { launchOf 0 8 1 with groups := [groupOf .running], nextGroup := 1 }] .running [(0, some { launch := 8, first := 0, tag := 0 })] with queues := [(0, { Queue.reset with qcfg := .ofNat 64 (3 * 2 ^ 48) }), (1, Queue.reset)] }
    s.claims = [] ∧ s.freeing (launchOf 1 7 1) = false ∧ s.victim (launchOf 1 7 1) = some 0 := by decide +kernel

/-- Context 0 is PREEMPTING already; it is still the victim of context 1's launch. -/
theorem witness_victimAgain :
    let s : State := { launchState [launchOf 1 7 1, { launchOf 0 8 1 with groups := [groupOf .running], nextGroup := 1 }] .preempting [(0, some { launch := 8, first := 0, tag := 0 })] with queues := [(0, { Queue.reset with qcfg := .ofNat 64 (3 * 2 ^ 48) }), (1, Queue.reset)] }
    s.claims = [] ∧ s.victim (launchOf 1 7 1) = some 0 := by decide +kernel

theorem witness_groupsEnd : ∀ st ∈ [GrpSt.draining, .faulted],
    let l := { launchOf 0 7 1 with groups := [groupOf st], nextGroup := 1 }
    let s := launchState [l] .running [(0, some { launch := 7, first := 0, tag := 0 })]
    s.groupOn 0 = some (l, groupOf st) ∧ s.quadQuiet 0 = true ∧ (s.ctx 0).st ≠ .sealing := by decide +kernel

theorem witness_stepsEnd : ∀ e ∈ [(2, 0), (2, 1), (1, 0)],
    let l := { launchOf 0 7 e.1 with groups := [groupOf .done], nextGroup := 1, superstep := e.2 }
    let s := launchState [l] .running []
    s.launch 7 = some l ∧ (s.ctx 0).coreList.length = 256 ∧ (∀ k ∈ (s.ctx 0).coreList, splitCp (s.core k).cp = none) ∧ s.launchLive l = true ∧ l.stepDone = true ∧ recSupersteps l.image.toNat = e.1 ∧
      (bit (recKcdst l.image.toNat) 63 = true ∧ (s.core 0).owner' 0 = 0 ∧ bits (recKcdst l.image.toNat) 29 0 = 0 ∧ (s.ctx 0).desc.cores.getLsbD 0 = true) := by decide +kernel

/-- Core 0's context in state `st`. -/
def ctxState (st : CtxSt) : State := { memState with ctxs := memState.ctxs.map fun e => (e.1, { e.2 with st := st }) }

theorem witness_contextCommands :
    (∀ st ∈ [CtxSt.free, .loading, .resident, .running, .preempting, .saved, .faulted, .sealing], ((ctxState st).ctx 0).st = st) ∧ (ctxState .running).coresOf 0 = [0] ∧
    (∀ c ∈ [0, 2 ^ 63], ∀ h ∈ [0, 1], let s : State := { ctxState .free with elog := { base := 0x10000, cfg := .ofNat 64 c, head := .ofNat 32 h, tail := 0, lost := 0 } }
      s.elog.cfg.getLsbD 63 = decide (c = 2 ^ 63) ∧ decide ((s.elog.head - s.elog.tail).toNat = s.elog.size) = decide (h = 1 ∧ s.elog.size = 1)) := by decide +kernel

/-- Context 2 loads the image `v` that lies at 16 MiB. -/
def loadingState (v : Nat) : State := holding { base .A with ctxs := [(2, { Ctx.reset with st := .loading, daddr := 0x1000000 })] } 0x1000000 256 v

/-- LERR of that load. -/
def loadCode (s : State) : Nat :=
  let r := s.devRead (s.ctx 2).daddr.toNat 256
  r.1.loadError 2 (Desc.ofImage (ofBytes r.2.1)) (ofBytes r.2.1) r.2.2

/-- A descriptor with one entry in each ring, and core 0. -/
theorem witness_contextLoads :
    ((loadingState 0).ctx 2).st = .loading ∧ ((loadingState 0).ctx 2).restoring = false ∧ loadCode (loadingState 0) = 4 ∧ loadCode (loadingState (2 ^ 640 + 2 ^ 656 + 2 ^ 768)) = 0 := by decide +kernel

theorem witness_contextSaves :
    (let s := (ctxState .preempting).upMine fun k => k.upAll fun _ x => { x with stopped := true }
     (s.ctx 0).saving = false ∧ s.power.stopped = false ∧ s.coresOf 0 = [0] ∧ (s.core 0).atPoint = true) ∧
    ((ctxState .preempting).coresOf 0 = [0] ∧ ((ctxState .preempting).core 0).atPoint = false) ∧
    (let s := (ctxState .preempting).upCtx 0 fun x => { x with saving := true }
     (s.ctx 0).st = .preempting ∧ (s.ctx 0).saving = true ∧ s.coresOf 0 = [0] ∧ (s.ctx 0).coreList = [0] ∧ (s.core 0).cp = [] ∧ (s.core 0).ws = []) ∧
    (let c : CopyCmd := { seq := 1, ctx := 0, addr := 0, released := false, aborted := false, entry := some 0, status := 0, handles := [], elems := [], complOk := true, flagOk := true, bitsOk := true, tag := 0 }
     let s := ((ctxState .preempting).upCtx 0 fun x => { x with saving := true }).upMine fun k => { k with cp := [c] }
     (s.ctx 0).saving = true ∧ ∃ d ∈ (s.core 0).cp, d.ctx = 0 ∧ d.entry.isSome = true) := by decide +kernel

theorem witness_saveWaits :
    (let s := (ctxState .preempting).upCtx 0 fun x => { x with saving := true }
     (s.ctx 0).saving = true ∧ s.coresOf 0 = [0] ∧ (s.core 0).atPoint = false ∧ (s.core 0).cp = [] ∧ (s.core 0).ws = []) ∧
    (let s := ((ctxState .preempting).upCtx 0 fun x => { x with saving := true }).upMine fun k => k.upAll fun _ x => { x with stopped := true }
     (s.ctx 0).saving = true ∧ (s.core 0).atPoint = true ∧ (s.ctx 0).coreList = [0] ∧ (s.core 0).cp = [] ∧ (s.core 0).ws = []) := by decide +kernel

/-- Context 2, of core 0, is SAVED at 16 MiB; its header names the core, and its group is to take quad 0 again. -/
def savedState (st : CtxSt) : State :=
  let x : Ctx := { Ctx.reset with st := st, restoring := true, desc := { Desc.reset with cores := 1, save := 0x1000000, config := .ofNat 64 (7 * 2 ^ 57) }, saved := [(0, memState.core 0)],
                                  savedQuads := [{ quad := 0, launch := 7, first := 0, tag := 0 }] }
  holding { State.reset with ctxs := [(2, x)] } 0x1000000 1 1

theorem witness_contextRestores :
    (∀ st ∈ [CtxSt.saved, .loading], let s := savedState st
      (s.ctx 2).st = st ∧ (s.ctx 2).restoring = true ∧ s.power.stopped = false ∧ (s.savedCores 2).2 = [0] ∧ (s.core 0).freeOfOthers 2 = true ∧ sget none s.quads 0 = none ∧ (s.ctx 2).savedQuads.length = 1) ∧
    (((savedState .saved).upCore 0 fun _ => memState.core 0).core 0).freeOfOthers 2 = false := by decide +kernel

theorem witness_contextSeals : (let s := (ctxState .sealing).upMine fun k => { k with task := none, ending := k.task }
    (s.ctx 0).st = .sealing ∧ s.coresOf 0 = [0] ∧ (s.core 0).drained = true ∧ (s.ctx 0).coreList = [0] ∧ s.usedByOthers 0 0 = false) := by decide +kernel

/-! Translations, queues, records. -/

/-- The kind of a walk's answer. -/
def walkKind : WalkRes → Nat | .fault => 0 | .fail => 1 | .page _ _ => 2

/-- A continuation that probes page `p`. -/
def probeState (p : Nat) : State := contState (.probe 3 4 p 1 [p] [] [] []) false false

/-- The walk cache holds both pointers of page 0. -/
def cachedWalk (s : State) : State := { s with walkCache := [(0, 0, 0, 2 ^ 27, .ofNat 64 (2 ^ 63 + 2105344)), (0, 0, 0, 0, .ofNat 64 (2 ^ 63 + 2101248))] }

/-- Page 0 maps; the pointer of page 2^18 has V = 0; with no frame mapped the walk of page 0 fails. -/
theorem witness_pagesWalk :
    walkKind ((cachedWalk (probeState 0)).walk 0 0 0).2 = 2 ∧ walkKind ((probeState (2 ^ 18)).walk 0 0 (2 ^ 18)).2 = 0 ∧ walkKind (({ cachedWalk (probeState 0) with frames := [] } : State).walk 0 0 0).2 = 1 := by decide +kernel

theorem witness_pagesAsked :
    (∀ p ∈ [0, 2 ^ 18], (probeState p).mine.conts = [contOf (.probe 3 4 p 1 [p] [] [] []) false false] ∧ (probeState p).mine.rtbFind ((probeState p).ctx 0) p = none) ∧
    ((((probeState (2 ^ 18)).ctx 0).fqHead - ((probeState (2 ^ 18)).ctx 0).fqTail).toNat = ((probeState (2 ^ 18)).ctx 0).frqSize) ∧
    (let x := ((probeState (2 ^ 18)).upCtx 0 fun x => { x with desc := { x.desc with rsize := 1 } }).ctx 0
     (x.fqHead - x.fqTail).toNat ≠ x.frqSize) := by decide +kernel

theorem witness_ringCounts : ((ctxState .running).ctx 0).st = .running ∧ ((ctxState .saved).ctx 0).st = .saved := by decide +kernel

theorem witness_hostInvalidates : bits (BitVec.ofNat 64 (2 ^ 32 + 5)).toNat 63 32 ≠ 0 ∧ bits (5 : Word).toNat 63 32 = 0 ∧ (memState.ctx 0).st ≠ .free ∧ hVpage (memState.mine.handle 1) = 0 := by decide +kernel

theorem witness_postedWrites : memState.posted = [] ∧ ({ memState with posted := [(0, 0, [])] } : State).posted ≠ [] := by decide +kernel

/-- Queue 3 of context 0, with a ring of 64 entries in host memory, in state `st` with `tail` entries published. -/
def queueState (st : QSt) (tail : Nat) : State :=
  { hosted memState with queues := [(3, { Queue.reset with st := st, qbase := .ofNat 64 (2 ^ 63), qcfg := .ofNat 64 (2 ^ 63 + 2 ^ 40), tail := .ofNat 32 tail })], recs := [(0, { st := .armed, image := 7 })] }

theorem witness_queueCommands :
    (∀ st ∈ [QSt.disabled, .idle, .active, .blocked, .draining, .error], ((queueState st 0).queue 3).st = st ∧ ((queueState st 0).queue 3).pending = [] ∧ ((queueState st 0).queue 3).devapp = false) ∧
    (∀ e ∈ [(2 ^ 40, true), (0, false), (2 ^ 40 + 11, false), (2 ^ 40 + 10, true), (2 ^ 40 + 2 ^ 62, false), (2 ^ 40 + 5 * 2 ^ 50, false)], let v := BitVec.ofNat 64 e.1
      decide (10 < bits v.toNat 3 0 ∨ bits v.toNat 47 40 = 0 ∨ ((queueState .disabled 0).ctx (bits v.toNat 55 50)).loaded = false ∨ (v.getLsbD 62 = true ∧ ((queueState .disabled 0).queue 3).host = true)) = !e.2) ∧
    (∀ e ∈ [(64, true), (65, false), (0, true)], decide (((BitVec.ofNat 32 e.1) - ((queueState .idle 0).queue 3).tail).toNat < 2 ^ 31) = true ∧ decide (((BitVec.ofNat 32 e.1) - ((queueState .idle 0).queue 3).head).toNat ≤ ((queueState .idle 0).queue 3).size) = e.2) ∧
    ¬ (((BitVec.ofNat 32 (2 ^ 32 - 1)) - ((queueState .idle 0).queue 3).tail).toNat < 2 ^ 31) := by decide +kernel

/-- An entry of zeros names record 0 and waits for nothing; with bit 16 it waits for an entry of a queue; GATE 5 is malformed. -/
theorem witness_entriesHanded :
    (∀ e ∈ [(0, true, true), (2 ^ 16 + 3 * 2 ^ 64, true, true), (5 * 2 ^ 20, false, true), (1, true, false)],
      let s := queueState .active 1
      let x := s.queue 3
      x.head ≠ x.tail ∧ (s.entryBad 3 x (x.head + 1) e.1).isNone = e.2.1) ∧
    (let s := queueState .active 1
     s.entryFree (s.queue 3) 1 0 = true ∧ s.entryFree (s.queue 3) 1 1 = false ∧ s.linkUp 28 = true) ∧
    ({ queueState .active 1 with links := [] } : State).linkUp 28 = false := by decide +kernel

theorem witness_readEntry : ofBytes ((List.range 64).map fun i => (queueState .active 1).hostByte (((queueState .active 1).queue 3).slot 1 + i)) = 0 ∧ ((queueState .active 1).queue 3).host = true := by decide +kernel

theorem readEntry_host {s : State} {x : Queue} {j : BitVec 32} (h : x.host = true) : s.readEntry x j = (s, ofBytes ((List.range 64).map fun i => s.hostByte (x.slot j + i)), false) := by
  simp [State.readEntry, h]

theorem witness_entriesRetire : ∀ n ∈ [0, 1, 2, 3],
    let l : Launch := { launchOf 0 7 1 with retiredNo := 1, queue := 3, entry := 1, intr := n % 2 == 0, cpl := if n < 2 then none else some (.ofNat 64 (2 ^ 63 + 0x1000), 5) }
    let s : State := { queueState .idle 1 with launches := [l], recs := [(0, { st := .retired, image := 0 })] }
    s.launches = [] ++ l :: [] ∧ s.linkUp 28 = true ∧ ({ s with links := [] } : State).linkUp 28 = false ∧ (s.record 0 0).st = .retired ∧ l.entry = (s.queue 3).cseq + 1 ∧ (s.queue 3).retired = [] ∧ (s.queue 3).st ≠ .draining := by decide +kernel

/-- Record 0 of a context with quad 0 is in state `st`; memory at 16 MiB holds the image `v`. -/
def recState (st : RecSt) (v : Nat) : State :=
  holding { base .A with recs := [(0, { st := st, image := 0 })], ctxs := [(0, { (base .A).ctx 0 with rpool := 0x1000000, desc := { ((base .A).ctx 0).desc with cores := 0xF } })] } 0x1000000 256 v

theorem witness_recordCommands :
    (∀ st ∈ [RecSt.blank, .patched, .armed, .queued, .dispatching, .running, .retired, .faulted], ((recState st 0).record 0 0).st = st) ∧ ((base .A).ctx 0).st = .running ∧
    (∀ e ∈ [(2 ^ 512 + 7 * 2 ^ 296, true), (0, false)], let s := recState .blank e.1
      s.posted = [] ∧ plainAtB s (recordAt (s.ctx 0) 0) = true ∧ plainAtB s (recordAt (s.ctx 0) 0 + 128) = true ∧ recordBytes s (recordAt (s.ctx 0) 0) = e.1 ∧ decide (armVerdict (s.ctx 0) e.1 = 0) = e.2) := by decide +kernel

/-- A turnover is under way. -/
def turning (s : State) : State := { s with turn := some { ctxMask := 1, kdMask := 0, nonce := 0, fail := 0 } }

theorem witness_turning : (turning (ctxState .free)).turn ≠ none ∧ ((turning (ctxState .free)).ctx 0).st = .free ∧ (ctxState .free).turn = none ∧ ((turning (queueState .disabled 0)).queue 3).st = .disabled ∧
    ((turning (recState .blank 0)).ctx 0).st = .running ∧ (recState .blank 0).turn = none := by decide +kernel

theorem witness_qcfgWrites : let q := (queueState .idle 0).queue 3
    ((BitVec.ofNat 64 (2 ^ 40) ^^^ q.qcfg) &&& 0x40FFFFFF0000000F = 0) ∧ ((BitVec.ofNat 64 (2 ^ 40 + 1) ^^^ q.qcfg) &&& 0x40FFFFFF0000000F ≠ 0) := by decide +kernel

/-- Record 0 is FAULTED; its launch has a group on quad 0. -/
theorem witness_faultedRecord :
    (let l := { launchOf 0 7 1 with groups := [groupOf .running], nextGroup := 1 }
     let s : State := { recState .faulted 0 with launches := [l] }
     (s.record 0 0).st = .faulted ∧ s.launchOf 0 0 = some l ∧ (groupOf .running).st = .running) ∧ (recState .faulted 0).launchOf 0 0 = none := by decide +kernel

theorem witness_poolAndBarriers : ((base .A).recs = []) ∧ ((recState .armed 0).recs = [(0, { st := .armed, image := 0 })]) ∧ ((base .A).bar 1027).st = 0 ∧ ((withBar (base .A) 2051 2).bar 2051).st = 2 := by decide +kernel

/-! Frames, slices, power, links, integrity, registers. -/

/-- Frame 1 in state `st`, moving from HBM to LPDDR. -/
def frameState (st : FrameSt) : State := { base .A with frames := [(1, { placedFrame with st := st, dest := .ofNat 31 (2 ^ 40 / 2 ^ 21) })], fltbase := 0x800000 }

theorem witness_frameCommands :
    (∀ st ∈ [FrameSt.unmapped, .resident, .inMotion, .committing], ((frameState st).frame 1).st = st ∧ 1 < (frameState st).fltlim.toNat) ∧ (frameState .resident).fltlim.toNat ≤ 2 ∧
    (let s := frameState .resident
     ∀ e ∈ [(2, 0, 2, 0), (2 ^ 19, 1, 2, 0), (3 * 2 ^ 19, 9, 2, 2), (2 ^ 21, 9, 2, 2), (2 ^ 21 + 48, 3, 7, 6), (2 ^ 25, 2, 2, 0)],
       locationCode s (.ofNat 31 e.1) (.ofNat 3 e.2.2.1) = e.2.2.2 ∧ (e.2.1 < 9 → tierOf (e.1 * 2 ^ 21) = some e.2.1)) ∧
    locationCode { frameState .resident with ways := [(1, .storage)] } (.ofNat 31 (2 ^ 21 + 16 + 48)) 7 = 6 ∧
    (frameState .resident).freeSlot 1 = some 0 ∧
    ({ frameState .resident with frames := (List.range 512).map fun f => (f, { placedFrame with st := if f = 1 then .resident else .inMotion, slot := .ofNat 4 (f / 16) }) } : State).freeSlot 1 = none := by decide +kernel

/-- The conditions of `Streams`, as a test. -/
def streamsB (s : State) (e : Frame) : Bool := decide (e.st = .inMotion) && !e.parked && !s.destFenced e && !e.destLost && !s.unreachable e

/-- `RecordNear`, as a test, where way 0 does not hold the record. -/
def nearB (s : State) (k : Nat) : Bool :=
  !s.cellHeld (k / 128 * 128) && s.cellReach (k / 128 * 128) && plainB s (State.planeAcc (k / 128 * 128)).1 (State.planeAcc (k / 128 * 128)).2

theorem witness_lineCopy : ∀ dpl ∈ [false, true],
    let s : State := { frameState .inMotion with dpl := if dpl then (List.range 64).map fun k => (k, BitVec.allOnes 64) else [] }
    let e := s.frame 1
    let src := motionSrc 1 e
    let dst := motionDst 1 e
    streamsB s e = true ∧ e.copied 0 = false ∧ s.isHeld src 0 = false ∧ s.isHeld dst 0 = false ∧ s.reach src 0 = true ∧ s.reach dst 0 = true ∧ s.unfound src 0 = false ∧ s.weak = [] ∧
      (s.line (s.lineNo src 0)).poisoned = false ∧ s.digests = [] ∧ (s.recKey src 0).isSome = dpl ∧ (s.recKey dst 0).isSome = dpl ∧
      ([s.recKey src 0, s.recKey dst 0].all fun k => match k with
        | some k => nearB s k && decide (s.lineNo (State.planeAcc (k / 128 * 128)).1 (State.planeAcc (k / 128 * 128)).2 ≠ s.lineNo dst 0)
        | none => true) = true ∧
      decide (way0Key ((s.recKey src 0).getD 0) = way0Key ((s.recKey dst 0).getD 0)) = !dpl := by decide +kernel

/-- A frame moves to memory of a CXL port whose link is up but has no byte; to a fenced channel; to a port whose link is down. -/
theorem witness_motionEnds :
    (let s : State := { frameState .inMotion with frames := [(1, { placedFrame with st := .inMotion, dest := .ofNat 31 (2 ^ 46 / 2 ^ 21) })], links := (List.range 4).map fun c => (24 + c, { Link.reset with st := .up }) }
     streamsB s (s.frame 1) = true ∧ s.isHeld (motionDst 1 (s.frame 1)) 0 = false ∧ s.reach (motionDst 1 (s.frame 1)) 0 = false) ∧
    (let s : State := { frameState .inMotion with frames := [(1, { placedFrame with st := .inMotion, dest := 0 })], remap := (List.range 512).map fun c => (c, { rows := [], held := false, fenced := true }) }
     s.destFenced (s.frame 1) = true) ∧
    (let s : State := { frameState .inMotion with frames := [(1, { placedFrame with st := .inMotion, dest := .ofNat 31 (2 ^ 46 / 2 ^ 21) })] }
     (s.frame 1).st = .inMotion ∧ s.destFenced (s.frame 1) = false ∧ (s.frame 1).destLost = false ∧ s.unreachable (s.frame 1) = true ∧ (s.frame 1).parked = false) := by decide +kernel

theorem witness_motionSteps :
    (∀ n ∈ [16383, 16384], let s : State := { frameState .inMotion with frames := [(1, { placedFrame with st := .inMotion, dest := .ofNat 31 (2 ^ 40 / 2 ^ 21), wmark := .ofNat 15 n })] }
     streamsB s (s.frame 1) = true ∧ (s.frame 1).wmark.toNat = n) ∧
    (∀ us ∈ [99999, 100000], let s : State := { frameState .inMotion with us := us, frames := [(1, { placedFrame with st := .inMotion, parked := true })] }
      (s.frame 1).parked = true ∧ decide ((s.frame 1).parkedAt + 100000 ≤ s.us) = decide (us = 100000)) := by decide +kernel

theorem witness_limit : (BitVec.ofNat 64 (2 ^ 28)).toNat ≤ 2 ^ 28 ∧ 2 ^ 28 < (BitVec.ofNat 64 (2 ^ 28 + 1)).toNat ∧ ((frameState .resident).frames.map (·.1)).count 1 ≤ 1 := by decide +kernel

/-- Slot 3 in state `st` with COUNT `n`. -/
def dictState (st : DictSt) (n : Nat) : State := { base .A with dicts := [(3, { Dict.reset with st := st, count := .ofNat 32 n, addr := 0x1000000 })] }

theorem witness_dictionarySlots :
    (∀ st ∈ [DictSt.empty, .loading, .armed, .retiring], ∀ n ∈ [0, 1], ((dictState st n).dict 3).st = st ∧ ((dictState st n).dict 3).count = .ofNat 32 n) ∧
    overSubscribed [] = false ∧ overSubscribed [(1024, 0x11), (1025, 0x11)] = true := by decide +kernel

/-- A load whose image is all zeros, and one whose image is poisoned. -/
theorem witness_dictionaryLoads :
    ((dictState .loading 0).dict 3).addr = 0x1000000 ∧
    (let r := (dictState .loading 0).devRead 0x1000000 1184
     r.2.2 = false ∧ r.2.1.length = 1184 ∧ r.2.1.all (· == 0) = true) ∧
    (let s : State := { dictState .loading 0 with lines := [(placeOfAddr (base .A) 0x1000000 / 128, { poisoned := true, key := none })] }
     (s.devRead 0x1000000 1184).2.2 = true ∧ (s.devRead 0x1000000 1184).2.1.length = 1184) := by decide +kernel

theorem witness_waysChange : ∀ st ∈ [WaySt.cache, .flushing, .zeroS, .storage, .zeroC], ({ base .A with ways := [(5, st)] } : State).way 0 5 = st := by decide +kernel

/-- The power manager's fields. -/
def powerState (step above below : Nat) : State := { base .A with power := { (base .A).power with step := .ofNat 4 step, above := above, below := below } }

theorem witness_powerManager :
    (∀ e ∈ [(3201, 40, 0, 1, 0), (3000, 96, 0, 0, 0), (3201, 40, 6, 1, 0), (2879, 89, 1, 0, 99), (2880, 89, 1, 0, 99)], let p := (powerState e.2.2.1 e.2.2.2.1 e.2.2.2.2).power
      decide ((e.1 > p.cap ∧ 1 ≤ p.above) ∨ 95 < e.2.1) = decide (e.1 > 2999) ∧ decide (e.1 * 10 < p.cap * 9 ∧ e.2.1 < 90 ∧ 99 ≤ p.below) = decide (e.1 = 2879)) ∧
    (powerState 6 100 0).power.step = 6 ∧ (powerState 6 100 0).power.above = 100 ∧ (powerState 6 100 0).agenda.head? ≠ some (.event .coldReset) := by decide +kernel

theorem witness_links :
    (∀ st ∈ [LinkSt.down, .training, .up, .degraded, .quarantined], ∀ l ∈ [0, 28], ∀ us ∈ [99999, 100000], let s : State := { base .A with us := us, links := [(l, { Link.reset with st := st, lanes := 8 })] }
      (s.link l).st = st ∧ decide ((s.link l).since + 100000 ≤ s.us) = decide (us = 100000) ∧ (7 : BitVec 5).toNat < (s.link l).lanes.toNat ∧ (0 : BitVec 5).toNat < (s.link l).lanes.toNat) ∧ 28 < (29 : BitVec 5).toNat := by decide +kernel

theorem witness_keyCommands : ∀ st ∈ [KdSt.free, .active, .rotating, .retired], ({ base .A with kds := [(3, { st := st, key0 := some 1, key1 := none, cur := false })] } : State).kd 3 = { st := st, key0 := some 1, key1 := none, cur := false } := by decide +kernel

/-- An FLR and a turnover of a module with one context that is not FREE. -/
theorem witness_turnovers :
    ((∀ n < 64, ((base .A).ctx n).st ≠ .free → (1 : BitVec 64).getLsbD n = true) ∧ ((base .A).ctx 0).st ≠ .free ∧ (0 : BitVec 64).getLsbD 0 = false) ∧
    (rotating.kd 3).st = .rotating ∧ (2 ^ 3 : BitVec 256).getLsbD 3 = true ∧ rotating.hostKd ≠ some (.ofNat 8 3) ∧
    (State.reset.cores = [] ∧ (State.reset.core 0).task = none ∧ (State.reset.core 0).cp = [] ∧ (State.reset.core 0).ws = [] ∧ (State.reset.core 0).drained = true) := by decide +kernel

theorem witness_failedTurnover : ({ base .A with turnstat := 0x22 } : State).turnFailed = true ∧ (base .A).turnFailed = false ∧ (base .A).turn = none ∧ (turning (base .A)).turn ≠ none ∧ (turning (base .A)).turnFailed = false := by decide +kernel

/-- A turnover of context 0 that stands at step `i`, to fail at step `fail`. -/
def stepping (i fail : Nat) (s : State) : State := { s with turnstat := .ofNat 64 i, turn := some { ctxMask := 1, kdMask := 2 ^ 3, nonce := 5, fail := .ofNat 4 fail } }

theorem witness_turnoverSteps : ∀ i ∈ List.range' 1 7, ∀ fail ∈ [0, i],
    let s := stepping i fail rotating
    s.turn = some { ctxMask := 1, kdMask := 2 ^ 3, nonce := 5, fail := .ofNat 4 fail } ∧ 1 ≤ i ∧ i ≤ 7 ∧ s.turnstat.toNat % 16 = i ∧ decide ((BitVec.ofNat 4 fail).toNat = i) = decide (fail = i) := by decide +kernel

/-- A module with all 256 cores, each with its 16 arrays ERASED. -/
def erasedState : State := { State.reset with cores := (List.range 256).map fun k => (k, { Core.reset with xb := (List.range 16).map fun x => (x, { XArr.reset with st := .erased }) }) }

theorem witness_arraysErased : (∀ k < 256, ∀ x < 16, ((erasedState.core k).array x).st = .erased ∧ ((erasedState.core k).array x).errc = 0) ∧ ((State.reset.core 0).array 0).st = .unknown := by decide +kernel

/-- The frame table's entry 5 at 8 MiB holds `v`. -/
def tableAt (v : Nat) : State := holding (base .A) (0x800000 + 16 * 5) 16 v

theorem witness_frameTable :
    (tableAt 0).framesAt 0x800000 = [] ∧ (tableAt 3).framesAt 0x800000 = [5] ∧ plainAtB (tableAt 3) (0x800000 + 16 * 5) = true ∧ ((0x800000 : Word) &&& 0xFFFFFFFFFF000).toNat = 0x800000 := by decide +kernel

/-- A record of class 9 waits for a log at 1 MiB with CFG `c` and `n` records in it. -/
def logging (c n : Nat) : State :=
  { base .A with elog := { base := 0x100000, cfg := .ofNat 64 c, head := .ofNat 32 n, tail := 0, lost := 0 }, todo := [.record { cls := 9, sev := 0, unit := 0x6000, ck := none, addr := 0, us := 0, detail := [] }] }

theorem witness_recordsWritten :
    (∀ e ∈ [(0, 0, true), (2 ^ 63, 0, false), (2 ^ 63, 64, true), (2 ^ 63, 63, false)], let s := logging e.1 e.2.1
      s.todo.length = 1 ∧ s.heldHit = false ∧ decide (s.elog.cfg.getLsbD 63 = false ∨ (s.elog.head - s.elog.tail).toNat = s.elog.size) = e.2.2) ∧
    (∀ n ∈ [0, 63], let s := logging (2 ^ 63) n
      let a := bits s.elog.base.toNat 51 12 * 4096 + 64 * (s.elog.head.toNat % s.elog.size)
      plainAtB s a = true ∧ s.recKey (s.physAcc a) (a % 2 ^ 21) = none) ∧
    (let s : State := { logging (2 ^ 63) 0 with remap := (List.range 512).map fun c => (c, { rows := [], held := true, fenced := false }) }
     s.isHeld (s.physAcc 0x100000) 0x100000 = true) := by decide +kernel

theorem witness_channelTables : ({ base .A with remap := [(511, { rows := [(7, 3)], held := true, fenced := false })] } : State).remapOf 511 = { rows := [(7, 3)], held := true, fenced := false } ∧ ((base .A).remapOf 0).held = false := by decide +kernel

/-! Decoding, steps and the invariant. -/

theorem witness_decodeEncode : (Instr.add { bare with e := true, g := 3 } 5 6 7).wf .A = true ∧ (Instr.vadd bare (vo 3 1 2 3 0)).wf .V = true ∧ (Instr.tnext bare 1).wf .T = true := by decide

/-- Core 0's cluster A, whose turn it is, in the reset state with the word `w` at its PC. -/
def turnState (w : Nat) : State := State.reset.withFetchWord 32 w

theorem witness_begin : let s := turnState (52 * 2 ^ 15)
    s.posted = [] ∧ s.todo = [] ∧ s.held = false ∧ s.begin.agenda = [.issue 0 .A] ∧ s.heldHit = false ∧ (s.core 0).debug ≠ .hit ∧ ({ s with heldHit := true } : State).heldHit = true := by decide +kernel

theorem witness_turn : let u := ({ (turnState (52 * 2 ^ 15)).begin with agenda := [] }).at 0 .A
    u.canIssue = true ∧ u.myCl.atBreak = false ∧ wordY .A (52 * 2 ^ 15) = false ∧ (match decode .A (52 * 2 ^ 15) 0 with | .ok i => decide (i = .nop bare) | .bad _ => false) = true := by decide +kernel

theorem witness_fetchAt : (match (({ (turnState (52 * 2 ^ 15)).begin with agenda := [] }).at 0 .A).fetchAt 0 .A with | (_, .words w _) => decide (w = 52 * 2 ^ 15) | _ => false) = true := by decide +kernel

theorem witness_badWord : (match decodeAt .A (61 * 2 ^ 15) 0 with | .bad _ => true | .ok _ => false) = true ∧ wordY .A (61 * 2 ^ 15) = false := by decide +kernel

/-- Reset with `m` first in the agenda, started, the PCIe link up. -/
def movesState (m : Move) : State := { hosted State.reset with agenda := [m], started := true }

theorem witness_events : let i : Instr := .bar2Write 0 []
    (i.kind = .event ∧ viaBar i = true ∧ Instr.coldReset.kind = .event ∧ viaBar .coldReset = false) ∧
    ∀ m ∈ [Move.event i, .turnover, .event .coldReset], let s := movesState m
      s.held = false ∧ s.begin.agenda = [m] ∧ s.begin.started = true ∧ s.begin.turnFailed = false ∧ s.begin.linkUp 28 = true ∧ s.begin.heldHit = false ∧
        ({ s with started := false } : State).begin.started = false ∧ ({ s with links := [] } : State).begin.linkUp 28 = false ∧ ({ s with turnstat := 0x22 } : State).begin.turnFailed = true := by decide +kernel

theorem witness_stepKeepsInv : State.reset.Inv ∧ (State.reset.withFetchWord 32 (52 * 2 ^ 15)).Inv := by unfold State.Inv; decide +kernel

/-! Words the manual prints with their code (R45, R161, R171, R178, R185, R204, R232, R248, R252, R311, R318, R336, R352, R365, R366, R371). -/

theorem test_decode_printed :
    decode .A 0x00191446 0xE8000000 = .ok (.ld bare 5 2 6 { lit true 3 0 with ac := 1 }) ∧ decode .A 0x001F0CA0 0x0C000002 = .ok (.xlat bare 3 5 2) ∧
    decode .A 0x001F90A6 0x02000000 = .ok (.cpq bare 4 5 6) ∧ decode .A 0x001F90A6 0x11000000 = .ok (.qapp bare 4 5 6) ∧ decode .A 0x001F90A6 0x0F000003 = .ok (.lpatch bare 4 5 6 3) ∧
    decode .A 0x001F90A0 0x10000000 = .ok (.larm bare 4 5) ∧ decode .A 0x001F80A6 0x17000000 = .ok (.tinv bare 5 6) ∧ decode .A 0x001F8000 0x17000001 = .ok (.tinvAll bare) := by decide +kernel

theorem test_decode_printed_rest :
    decode .A 0x001F9060 0x15000001 = .ok (.pmig bare 4 3 1) ∧ decode .A 0x001F9060 0x15000004 = .ok (.pmigAbort bare 4 3) ∧ decode .A 0x001F9060 0x16000000 = .ok (.pheat bare 4 3) ∧
    decode .A 0x001F90A0 0x18000000 = .ok (.lstat bare 4 5) ∧ decode .A 0x001F90A0 0x12000003 = .ok (.binit bare 4 5 0 3) ∧ decode .A 0x001F9000 0x13000003 = .ok (.barv bare 4 0 3) ∧
    decode .A 0x001F90A0 0x14000003 = .ok (.bwait bare 4 5 0 3) := by decide +kernel

theorem test_decode_units :
    decode .V 0x0002037005002A01600B8000 0 = .ok (.vfma bare (vo 7 20 21 22 (23 * 2 ^ 15))) ∧
    decode .V 0x001204500A0000000051AA82 0 = .ok (.vldg bare (vo 5 40 0 0 0x51AA82)) ∧
    decode .T 0x00080004100F5FF800000000000000000000000000000000 0 = .ok (.tcut bare 4 1 15 1 1023) ∧
    decode .T 0x000A0362014DE00000000000000000800000000000000000 0 = .ok (.xmvm bare 3 64 5 6 7 true 0 0x80) := by decide +kernel

/-! Single steps, with results from the manual's tables and worked examples. -/

/-- Register `d` of the issuing cluster after `i`, with what `i` left in flight written. -/
def after (i : Instr) (s : State) (d : Reg) : Option Word := match exec i s with | .next t => some (t.drainCl.myCl.reg d) | _ => none

/-- Division (R64, R142): towards zero, the remainder with the dividend's sign, and the corners. -/
theorem test_division : let m7 : Nat := 2 ^ 64 - 7
    let mn : Nat := 2 ^ 63
    after (.divs bare 1 2 3) (regs (base .A) [(2, m7), (3, 2)]) 1 = some (BitVec.ofInt 64 (-3)) ∧ after (.rems bare 1 2 3) (regs (base .A) [(2, m7), (3, 2)]) 1 = some (BitVec.ofInt 64 (-1)) ∧
    after (.divs bare 1 2 3) (regs (base .A) [(2, m7)]) 1 = some (.allOnes 64) ∧ after (.remn bare 1 2 3) (regs (base .A) [(2, m7)]) 1 = some (.ofNat 64 m7) ∧
    after (.divs bare 1 2 3) (regs (base .A) [(2, mn), (3, 2 ^ 64 - 1)]) 1 = some (.ofNat 64 mn) ∧ after (.rems bare 1 2 3) (regs (base .A) [(2, mn), (3, 2 ^ 64 - 1)]) 1 = some 0 := by decide +kernel

/-- A register that holds 17.0, 464.0, 465.0, −∞, 2^−10 and 3 × 2^−10 in its first lanes (R62). -/
def table62 : VReg := .ofNat 2048 (0x41880000 + 0x43E80000 * 2 ^ 32 + 0x43E88000 * 2 ^ 64 + 0xFF800000 * 2 ^ 96 + 0x3A800000 * 2 ^ 128 + 0x3B400000 * 2 ^ 160)

/-- The conversions of R62's table, and the flags that they set together: ES, NX and UF. -/
theorem test_vcvt_e4m3 :
    let s := (base .V).upMine fun k => { k with vr := [(2, { VVal.zero with val := table62 })] }
    (match exec (.vcvt bare (vo 4 1 2 0 7)) s with
     | .next t => some ((List.range 6).map fun l => ((t.mine.vname 1).val >>> (8 * l)).toNat % 256, t.myCl.aflags)
     | _ => none) = some ([0x58, 0x7E, 0x7E, 0xFE, 0x00, 0x02], 0x38) := by decide +kernel

/-- One row of one i8 element 100 against one bank element `b0`, on an accumulator of `acc`. -/
def sumState (sat : Bool) (acc : Nat) (b0 : Nat) : State :=
  (withTd (withTile (.mma { productOps with n := 1, k := 1, am := 1, sat := sat })) (tdNat 0 1 1 1 1)).upMine fun c =>
    { c with meta0 := { BankMeta.reset with rows := 1 }, acc := [(0, .ofNat 32 acc)], sp := [(0, 100)], bank := [(0, .ofNat 8 b0)] }

/-- The accumulator's first cell and AFLAGS after the step. -/
def sumAfter (s : State) : Option (BitVec 32 × BitVec 8) := match exec (.tileStepExecute 0) s with | .next t => some (sget 0 (t.core 0).acc 0, (t.core 0).t.aflags) | _ => none

/-- R70's table: +1,000 on 2,147,483,000 wraps, or is clamped and sets IS. -/
theorem test_mma_sums : sumAfter (sumState false 2147483000 10) = some (BitVec.ofInt 32 (-2147483296), 0) ∧ (sumAfter (sumState true 2147483000 10)).map (·.1) = some 2147483647 ∧
    (sumAfter (sumState true 2147483000 10)).map (·.2) ≠ some 0 ∧ (sumAfter (sumState true 2147483647 246)).map (·.1) = some 2147482647 := by decide +kernel

/-- The element of R67's worked example: four terms at 0, sa at 64, sb at 128, 0.25 in the accumulator. -/
def fp8State : State :=
  (withTile (.mma { mo with aty := 4, bty := 4, sa := 1, sb := 2, m := 1, n := 1, k := 4, am := 1 })).upMine fun c =>
    { c with tds := [(0, .ofNat 1024 (tdNat 4 4 1 1 4)), (1, .ofNat 1024 (tdNat 7 1 1 4 4 + 64 * 2 ^ 64)), (2, .ofNat 1024 (tdNat 7 1 1 4 4 + 128 * 2 ^ 64))], owner := [(0, 3)], acc := [(0, 0x3E800000)],
             meta0 := { BankMeta.reset with rows := 4, typ := 4 }, bank := [(0, 0x44), (128, 0x28), (256, 0x40), (384, 0x38)],
             sp := [(0, 0x38), (1, 0x40), (2, 0xB0), (3, 0x7E), (64, 0xCD), (65, 0xCC), (66, 0xCC), (67, 0x3D), (130, 0x20), (131, 0x41)] }

/-- R67's worked example gives 450.75, and no flag is set. -/
theorem test_mma_fp8 : sumAfter fp8State = some (0x43E16000, 0) := by decide +kernel

/-! Hypotheses of the value statements of the tensor unit. -/

/-- `TensHeld`, as a test. -/
def heldB (k : Core) (td t : Nat) (x : Tens) : Bool :=
  match sfind k.tds td with
  | some d => let d := d.toNat
    !tdInvalid d && !tdSparse d && decide (tdLoc d = 1 ∧ tdType d = t ∧ x.base = d / 2 ^ 64 % 2 ^ 64 ∧ x.d0 = d / 2 ^ 128 % 2 ^ 32 ∧ x.d1 = d / 2 ^ 160 % 2 ^ 32 ∧ x.s0 = d / 2 ^ 256 % 2 ^ 32 ∧ x.s1 = d / 2 ^ 288 % 2 ^ 32 ∧ d / 2 ^ 20 % 8 = x.g)
  | none => false

theorem held_of {k : Core} {td t : Nat} {x : Tens} (h : heldB k td t x = true) : TensHeld k td t x := by
  unfold heldB at h
  split at h
  · next d hd =>
    simp only [Bool.and_eq_true, Bool.not_eq_true', decide_eq_true_eq] at h
    obtain ⟨⟨h1, h2⟩, h3, h4, h5, h6, h7, h8, h9, h10⟩ := h
    exact ⟨⟨d, hd, h1, h2, h3, h4, h5, h6, h7, h8, h9⟩, d, hd, h10⟩
  · exact absurd h (by simp)

/-- `tensorOk`, as a test. -/
def tensorB (k : Core) (a n : Nat) : Bool := decide (a + n ≤ 0x280000) && (List.range n).all fun j => decide (k.owner' ((a + j) / 4096) = 3) && !sget false k.spPoison (a + j)

theorem tensorOk_of {k : Core} {a n : Nat} (h : tensorB k a n = true) : tensorOk k a n := by
  simp only [tensorB, Bool.and_eq_true, Bool.not_eq_true', decide_eq_true_eq, List.all_eq_true, List.mem_range] at h
  exact h

/-- What `StepReady` asks of an mma or mms at the head of core 0's queue. -/
def stepB (s : State) (o : MOps) : Bool :=
  !s.power.stopped && !s.mine.ownPending && (match s.mine.tq with | [op] => !op.done && (decide (op.kind = .mma o) || decide (op.kind = .mms o)) | _ => false) && !o.qj &&
    decide ((o.aty, o.bty) ∈ ([(4, 4), (0, 0), (1, 0), (5, 5), (6, 6)] : List (BitVec 4 × BitVec 4))) && decide (o.wb = s.mine.active ∧ (bankOf s.mine o).typ = o.bty ∧ (bankOf s.mine o).poisoned = false ∧ o.noff.toNat + span o.n ≤ 128)

/-- A scaled e4m3 step of one row by one column over four k's, and a step that stores its cell. -/
theorem witness_denseStep :
    let k := fp8State.mine
    let o : MOps := { mo with aty := 4, bty := 4, sa := 1, sb := 2, m := 1, n := 1, k := 4, am := 1 }
    let A : Tens := { base := 0, s0 := 1, s1 := 4, d0 := 4, d1 := 1, g := 0 }
    let SA : Tens := { base := 64, s0 := 4, s1 := 4, d0 := 1, d1 := 1, g := 0 }
    let SB : Tens := { base := 128, s0 := 4, s1 := 4, d0 := 1, d1 := 1, g := 0 }
    stepB fp8State o = true ∧ (heldB k 0 4 A = true ∧ heldB k 1 7 SA = true ∧ heldB k 2 7 SB = true) ∧ (span o.m = 1 ∧ span o.n = 1 ∧ span o.k = 4) ∧ (∀ kk < 4, tensorB k (A.at' 0 kk) 1 = true) ∧
      (bankOf k o).kbase = 0 ∧ (bankOf k o).nbase = 0 ∧ (bankOf k o).rows = 4 ∧ tensorB k (SA.at' 0 0) 4 = true ∧ tensorB k (SB.at' 0 0) 4 = true := by decide +kernel

theorem witness_storeStep :
    let o : MOps := { mo with oty := 3, m := 1, n := 2 }
    let s := withTd (withTile (.mstore o)) (tdNat 3 2 1 4 8)
    let T : Tens := { base := 0, s0 := 4, s1 := 8, d0 := 2, d1 := 1, g := 0 }
    s.power.stopped = false ∧ s.mine.ownPending = false ∧ s.mine.tq = [{ step := 3, joint := 0, kind := .mstore o, push := 0, done := false }] ∧ heldB s.mine 0 3 T = true ∧
      (∀ j < 2, tensorB s.mine (T.at' 0 j) 4 = true) ∧ T.at' 0 0 + 4 ≤ T.at' 0 1 := by decide +kernel

/-- A sparse A of one block: column 1 holds row 0, column 3 the rows 2 and 5. -/
def sparseX : SparseA := { typ := 0, base := 0x500, blocks := 1, kdim := 8, fmt := 1, pos1 := 0x100, crd1 := 0x200, pos2 := 0x300, crd2 := 0x400 }

/-- Its descriptor (R197, R199). -/
def sparseTd : Nat := 2 ^ 16 + 2 ^ 23 + 2 ^ 26 + 2 ^ 28 + 0x500 * 2 ^ 64 + 8 * 2 ^ 128 + 128 * 2 ^ 160 + 2 ^ 448 + 0x100 * 2 ^ 480 + 0x200 * 2 ^ 512 + 8 * 2 ^ 544 + 0x300 * 2 ^ 576 + 0x400 * 2 ^ 608 + 128 * 2 ^ 640

/-- Core 0 holds it as td0, a dense i8 tensor as td3 and an output as td4 of `dim0` records; window 1 is `v`, window 2 is cut with serial 5, window 5 names positions 1 to 3 of td3. -/
def sparseState (kind : TileKind) (v dim0 : Nat) : State :=
  (withTile kind).upMine fun c =>
    { c with tds := [(0, .ofNat 1024 sparseTd), (3, .ofNat 1024 (tdNat 0 16 1 1 16)), (4, .ofNat 1024 (tdNat 3 dim0 1 16 16 + 0x2000 * 2 ^ 64))], owner := (List.range 16).map fun i => (i, 3),
             meta0 := { BankMeta.reset with rows := 8 }, win := [(1, .ofNat 256 v), (2, .ofNat 256 (5 * 2 ^ 16)), (5, .ofNat 256 (3 + 2 ^ 160 + 4 * 2 ^ 192))],
             sp := [(0x104, 2), (0x200, 1), (0x204, 3), (0x304, 1), (0x308, 3), (0x401, 2), (0x402, 5), (0x500, 10), (0x501, 20), (0x502, 30)] }

/-- `SparseHeld`, as a test. -/
def sparseB (k : Core) (td : Nat) (x : SparseA) : Bool :=
  match sfind k.tds td with
  | some d => let d := d.toNat
    !tdInvalid d && decide (tdLoc d = 1) && tdLevels d && decide (1 ≤ x.fmt ∧ x.fmt ≤ 3) && decide (x.typ = tdType d ∧ x.base = d / 2 ^ 64 % 2 ^ 64 ∧ x.blocks = d / 2 ^ 448 % 2 ^ 32 ∧ x.kdim = d / 2 ^ 544 % 2 ^ 32 ∧
      x.fmt = d / 2 ^ 28 % 4 ∧ x.pos1 = d / 2 ^ 480 % 2 ^ 32 ∧ x.crd1 = d / 2 ^ 512 % 2 ^ 32 ∧ x.pos2 = d / 2 ^ 576 % 2 ^ 32 ∧ x.crd2 = d / 2 ^ 608 % 2 ^ 32)
  | none => false

/-- The columns of block 0 are well formed, and everything they name can be read. -/
theorem witness_sparseA : let k := (sparseState (.tnext 1) 0 8).mine
    sparseB k 0 sparseX = true ∧ (tensorB k 0x100 8 = true ∧ spNum k 0x100 4 = 0 ∧ spNum k 0x104 4 = 2) ∧
    (∀ q < 2, tensorB k (0x200 + 4 * q) 4 = true ∧ sparseX.col k q < 8 ∧ tensorB k (0x300 + 4 * q) 8 = true ∧ sparseX.first k q ≤ spNum k (0x300 + 4 * q + 4) 4) ∧ sparseX.col k 0 < sparseX.col k 1 ∧
    entriesFrom sparseX k 0 2 0 = [(0, 1, 0), (2, 3, 1), (5, 3, 2)] ∧ (∀ p < 3, tensorB k (0x400 + p) 1 = true ∧ tensorB k (0x500 + p) 1 = true) := by decide +kernel

/-- A window with three entries, and one that is EMPTY. -/
theorem witness_sparseStep : ∀ e ∈ [(5 * 2 ^ 16 + 3 * 2 ^ 96 + 2 * 2 ^ 192, 0), (5 * 2 ^ 16 + 2 ^ 10, 1)],
    let o : MOps := { mo with aw := 1, bw := 2, n := 1 }
    let s := sparseState (.mms o) e.1 8
    let v := sget 0 s.mine.win 1
    stepB s o = true ∧ winField v 16 16 ≠ 0 ∧ winField v 16 16 = winField (sget 0 s.mine.win 2) 16 16 ∧ winField v 10 1 = e.2 ∧ winField v 0 8 = 0 ∧ winField v 160 32 = 0 ∧ winField v 224 32 = 0 ∧
      (e.2 = 0 → winField v 96 13 = 3) ∧ (bankOf s.mine o).kbase = 0 ∧ (bankOf s.mine o).rows = 8 := by decide +kernel

/-- Cuts from START: a budget that ends at the second column, one that splits it, one that takes all; and one that goes on from cursors. -/
theorem witness_cutStep : ∀ e ∈ [(0, 2, 0, 1), (2 * 2 ^ 32, 1, 1, 0), (0, 8, 0, 2), (2 ^ 13 + 2 ^ 8 + 2 ^ 160 + 2 ^ 224, 2, 1, 1)],
    let s := sparseState (.tcut 0 1 e.2.1 1 8) e.1 8
    let k := s.mine
    let v := sget 0 k.win 1
    let q := e.2.2.1 + e.2.2.2
    (s.power.stopped = false ∧ k.ownPending = false ∧ k.tq = [{ step := 3, joint := 0, kind := .tcut 0 1 e.2.1 1 8, push := 0, done := false }]) ∧ winField v 128 16 = 0 ∧
      (if winField v 13 1 = 1 then winField v 0 8 = 0 ∧ winField v 8 2 = 1 ∧ winField v 160 32 = e.2.2.1 ∧ winField v 224 32 = sparseX.first k e.2.2.1
       else ((List.range 2).filter fun c => sparseX.col k c < winField v 32 32).length = e.2.2.1) ∧
      ((List.range e.2.2.2).map fun c => sparseX.count k (e.2.2.1 + c)).foldl (· + ·) 0 ≤ e.2.1 ∧
      (q < 2 → e.2.1 < ((List.range (e.2.2.2 + 1)).map fun c => sparseX.count k (e.2.2.1 + c)).foldl (· + ·) 0) := by decide +kernel

/-- A cut leader; one that is not cut; a sparse partner. -/
theorem witness_partnerStep : ∀ e ∈ [((3 : BitVec 8), (2 : BitVec 4), 5), (3, 6, 0), (0, 2, 5)],
    let s := sparseState (.tcocut e.1 1 e.2.1 1) 0 8
    s.power.stopped = false ∧ s.mine.ownPending = false ∧ s.mine.tq = [{ step := 3, joint := 0, kind := .tcocut e.1 1 e.2.1 1, push := 0, done := false }] ∧
      winField (sget 0 s.mine.win e.2.1.toNat) 16 16 = e.2.2 ∧ winField (sget 0 s.mine.win e.2.1.toNat) 32 32 ≤ winField (sget 0 s.mine.win e.2.1.toNat) 64 32 ∧
      (match sfind s.mine.tds e.1.toNat with | some d => decide (tdSparse d.toNat = decide (e.1 = 0) ∧ tdLoc d.toNat = 1 ∧ tdInvalid d.toNat = false) | none => false) = true := by decide +kernel

/-- The stream of columns 1 and 3 and the dense one of 1 to 3 meet; with one record to write, the limit stops the merge. -/
theorem witness_mergeStep : ∀ mode ∈ [false, true], ∀ dim0 ∈ [1, 8],
    let s := sparseState (.tmerge 9 1 5 mode 4) (2 ^ 8 + 2 * 2 ^ 192) dim0
    let k := s.mine
    (s.power.stopped = false ∧ k.ownPending = false ∧ k.tq = [{ step := 3, joint := 0, kind := .tmerge 9 1 5 mode 4, push := 0, done := false }]) ∧
      (winField (sget 0 k.win 1) 0 8 = 0 ∧ winField (sget 0 k.win 1) 8 2 = 1 ∧ winField (sget 0 k.win 1) 160 32 = 0 ∧ winField (sget 0 k.win 1) 192 32 = 2 ∧ sparseX.col k 0 = 1 ∧ sparseX.col k 1 = 3) ∧
      (winField (sget 0 k.win 5) 0 8 = 3 ∧ winField (sget 0 k.win 5) 160 32 = 1 ∧ winField (sget 0 k.win 5) 192 32 = 4) ∧ (∀ j < 48, k.owner' ((0x2000 + j) / 4096) = 3) ∧
      (mergeOf (!mode) 6 (min 4096 dim0) [(1, 0), (3, 1)] [(1, 1), (2, 2), (3, 3)]).2.2.2 = decide (dim0 = 1) ∧
      (mergeOf (!mode) 6 (min 4096 dim0) [(1, 0), (3, 1)] [(1, 1), (2, 2), (3, 3)]).1.length = (if dim0 = 1 then 1 else if mode then 3 else 2) := by decide +kernel

/-- What a loop entry holds: ITER, REM, PREM and whether it is STOPPED. -/
def entryOf (e : LoopEnt) : Nat × Nat × Nat × Bool := (e.iter.toNat, e.rem.toNat, e.prem.toNat, decide (e.st = LoopSt.stopped))

/-- R152's example: the lbr that finds TAIL 0 in DRAIN, after iteration 6, stops the loop with ITER 7 − 2 and REM 7. -/
theorem test_lbr_drain :
    let e : LoopEnt := { endA := 4, startA := 0, iter := 6, prem := 7, rem := 0, rb := 6, tail := 0, stg := 2, st := .drain }
    (match exec (.lbr (xhdr 15 true) 1023) (((base .A).upMyCl fun x => { x with pc := 4, loops := [e] }).upMine fun k => { k with preempt := 1 }) with
     | .next t => t.myCl.loops.map entryOf
     | _ => []) = [(5, 7, 0, true)] := by decide +kernel

/-- In exposed mode the product of the earlier mul is due two cycles after the sum of the add that issues next (R142's example). -/
theorem test_exposed_order :
    (match exec (.mul bare 7 5 5) (exposed (regs (base .A) [(5, 3)])) with
     | .next t => (match exec (.add bare 7 0 0) t with
        | .next u => (match u.myCl.flight.map (·.due) with | [a, m] => decide (m = a + 2) | _ => false)
        | _ => false)
     | _ => false) = true := by decide +kernel

/-- A token that owng pushes is there when its tiles have their owner: at once, or, behind a store in flight, when the store has written (R251, R275). -/
theorem test_owng_push :
    let s := regs (base .A) [(1, 5), (2, 1)]
    let i : Instr := .owng { bare with k := 1 } 1 2 4
    (match exec i s with | .next t => ((t.mine.fifoTo .A .right).length, t.mine.owner' 5) | _ => (0, 0)) = (1, 4) ∧
    (match exec i (s.upMyCl fun x => { x with flight := [{ due := x.icyc + 3, what := .sp 0 [some 1], need := 0 }] }) with
     | .next t => ((t.mine.fifoTo .A .right).length, t.mine.owner' 5, t.myCl.flight.map fun f => (decide (f.due = t.myCl.icyc + 2), f.need)) | _ => (9, 0, [])) =
      (0, 0, [(true, 0), (true, 0), (true, 1)]) := by decide +kernel

/-- In scoreboard mode a word that waits for a token lets the push of a mul before it be made, but no scratchpad store stand (R45, R49, R191). -/
theorem test_stall :
    (match exec (.mul { bare with k := 1 } 7 5 5) (base .A) with
     | .next t => (match exec (.nop { bare with k := 4 }) (t.upMyCl fun x => { x with flight := x.flight ++ [{ due := x.icyc + 9, what := .sp 0 [some 1], need := 0 }] }) with
        | .next u => ((t.mine.fifoTo .A .right).length, (u.mine.fifoTo .A .right).length, u.myCl.flight.length, decide (u.myCl.pc = t.myCl.pc))
        | _ => (9, 9, 9, false))
     | _ => (9, 9, 9, false)) = (0, 1, 1, true) := by decide +kernel

/-- qb3 armed for two arrivals is ARMED with EXPECT 2, and the code is 0 (R335, R337). -/
theorem test_binit : (match exec (.binitPerform 0 .A) (withStore memState (.binit 3 2 4 0)) with | .next t => some ((t.bar 3).st, (t.bar 3).expect, (t.bar 3).arrived) | _ => none) = some (1, 2, 0) := by decide +kernel

/-- The words of db 63 of die 7 and of gb 0 and gb 255, and BCFG of db 0 and gb 0, stand at R374's offsets. -/
theorem test_bar0_barriers :
    (let s : State := { State.reset with barriers := [(1535, 1), (2048, 2), (2303, 3)], bcfg := [(1024, 4), (2048, 5)] }
     [0x22FF8, 0x23000, 0x237F8, 0x24000, 0x25000].map fun a => (s.bar0Get a).toNat) = [1, 2, 3, 4, 5] := by decide +kernel

end Sys2Proof.Tests
end

section
/-! What work at a home slice leaves as it was, whatever it finds there. -/

namespace Sys2Proof.Machine

open Sys2Proof

/-- The state beside what home slices work on: memory and its side-band, way 0, the lines of the slices and of the L2s, the frames' entries, the counts, and what the
    device notes for itself. -/
def State.besideHome (s : State) : State :=
  { s with mem := [], lines := [], bad := [], weak := [], digests := [], slices := [], hotCnt := [], l2 := [], frames := [], todo := [], cecnt := [], ceSeen := [],
           heldHit := false }

/-- `t` is `s` after work at home slices: nothing beside them differs, and the device's own writes that waited still wait, in their order. -/
structure HomeWork (s t : State) : Prop where
  beside : t.besideHome = s.besideHome
  todo : s.todo <+: t.todo

namespace HomeWork

variable {s t u : State}

theorem refl (s : State) : HomeWork s s := ⟨rfl, List.prefix_rfl⟩

theorem trans (h : HomeWork s t) (g : HomeWork t u) : HomeWork s u := ⟨g.beside.trans h.beside, h.todo.trans g.todo⟩

/-- A change of what home slices work on, but for what waits to be written. -/
theorem of_eq (h : HomeWork s t) (hb : u.besideHome = t.besideHome) (ht : u.todo = t.todo) : HomeWork s u := ⟨hb.trans h.beside, ht ▸ h.todo⟩

theorem foldl {α : Type} {f : State → α → State} (hf : ∀ t x, HomeWork s t → HomeWork s (f t x)) (l : List α) (h : HomeWork s t) : HomeWork s (l.foldl f t) := by
  induction l generalizing t with
  | nil => exact h
  | cons x r ih => exact ih (hf t x h)

theorem cores (h : HomeWork s t) : t.cores = s.cores := show t.besideHome.cores = s.besideHome.cores by rw [h.beside]
theorem ctxs (h : HomeWork s t) : t.ctxs = s.ctxs := show t.besideHome.ctxs = s.besideHome.ctxs by rw [h.beside]
theorem fltlim (h : HomeWork s t) : t.fltlim = s.fltlim := show t.besideHome.fltlim = s.besideHome.fltlim by rw [h.beside]

/-! One lemma for each operation of a home. -/

theorem meetHold (h : HomeWork s t) : HomeWork s t.meetHold := h.of_eq rfl rfl

theorem logError (h : HomeWork s t) (cls sev unit : Nat) (ck : Option (Nat × Nat)) (addr : Nat) (detail : List Byte) :
    HomeWork s (t.logError cls sev unit ck addr detail) := ⟨h.beside, h.todo.trans (List.prefix_append _ _)⟩

theorem logAccess (h : HomeWork s t) (sev : Nat) (acc : Acc) (o : Nat) : HomeWork s (t.logAccess sev acc o) := h.logError _ _ _ _ _ _

theorem setFrame (h : HomeWork s t) (f : Nat) (e : Frame) : HomeWork s (t.setFrame f e) := ⟨h.beside, h.todo.trans (List.prefix_append _ _)⟩

theorem uncopy (h : HomeWork s t) (f line : Nat) : HomeWork s (t.uncopy f line) := h.setFrame _ _

theorem corrected (h : HomeWork s t) (die region : Nat) (ck : Option (Nat × Nat)) (addr : Nat) : HomeWork s (t.corrected die region ck addr) := by
  unfold State.corrected
  dsimp only
  split
  · exact h.of_eq rfl rfl
  · refine logError ?_ _ _ _ _ _ _
    exact h.of_eq rfl rfl

theorem way0Back (h : HomeWork s t) (key : Nat) : HomeWork s (t.way0Back key) := by
  unfold State.way0Back
  split
  · exact h
  · next d _ =>
    have g : HomeWork s { t with digests := serase t.digests key } := h.of_eq rfl rfl
    dsimp only
    split
    · exact g
    · split
      · exact g.meetHold
      · split
        · exact g.logAccess _ _ _
        · exact g.of_eq rfl rfl

theorem findPlane (h : HomeWork s t) (acc : Acc) (o : Nat) : HomeWork s (t.findPlane acc o) := by
  unfold State.findPlane
  dsimp only
  split
  · refine logError ?_ _ _ _ _ _ _
    exact h.of_eq rfl rfl
  · split
    · exact h.corrected _ _ _ _
    · exact h

theorem loadRec (h : HomeWork s t) (k : Nat) : HomeWork s (t.loadRec k) := by
  unfold State.loadRec
  split
  · exact h
  · have g := h.way0Back (way0Key k)
    dsimp only
    split
    · exact g.meetHold
    · split
      · exact (g.findPlane (State.planeAcc (k / 128 * 128)).1 (State.planeAcc (k / 128 * 128)).2).of_eq rfl rfl
      · exact (g.logAccess 1 (State.planeAcc (k / 128 * 128)).1 (State.planeAcc (k / 128 * 128)).2).of_eq rfl rfl

theorem setRec (h : HomeWork s t) (k : Nat) (d : DRec) : HomeWork s (t.setRec k d) := by
  unfold State.setRec
  dsimp only
  split
  · exact (h.loadRec k).of_eq rfl rfl
  · exact h.loadRec k

theorem planeOut (h : HomeWork s t) (acc : Acc) (o : Nat) : HomeWork s (t.planeOut acc o) := by
  unfold State.planeOut State.evictRec
  split
  · exact h
  · split
    · exact h.way0Back _
    · exact h

theorem upRecAt (h : HomeWork s t) (acc : Acc) (o : Nat) (f : DRec → DRec) : HomeWork s (t.upRecAt acc o f) := by
  unfold State.upRecAt
  split
  · exact (h.loadRec _).setRec _ _
  · exact h

theorem both (h : HomeWork s t) (acc : Acc) (o : Nat) {f : State → Acc → State} (hf : ∀ t a, HomeWork s t → HomeWork s (f t a)) : HomeWork s (t.both acc o f) := by
  unfold State.both
  dsimp only
  split
  · split
    · exact (hf t acc h).uncopy _ _
    · exact hf _ _ (hf t acc h)
  · exact hf t acc h

theorem upRec (h : HomeWork s t) (acc : Acc) (o : Nat) (f : DRec → DRec) : HomeWork s (t.upRec acc o f) := h.both acc o fun _ a g => g.upRecAt a o f

theorem l2Stale (h : HomeWork s t) (acc : Acc) (o : Nat) : HomeWork s (t.l2Stale acc o) := by
  unfold State.l2Stale State.l2Lose
  refine foldl (fun u d g => ?_) _ h
  exact g.of_eq rfl rfl

theorem findLine (h : HomeWork s t) (acc : Acc) (o : Nat) : HomeWork s (t.findLine acc o) := by
  unfold State.findLine
  dsimp only
  split
  · refine logError (upRec ?_ acc o DRec.found) _ _ _ _ _ _
    exact h.of_eq rfl rfl
  · split
    · exact h.corrected _ _ _ _
    · exact h

theorem touch (h : HomeWork s t) (acc : Acc) (o : Nat) : HomeWork s (t.touch acc o) := by
  unfold State.touch
  split
  · exact h
  · dsimp only
    split
    · exact h
    · split
      · exact h.of_eq rfl rfl
      · refine setFrame ?_ _ _
        exact h.of_eq rfl rfl

end HomeWork

/-- A use of a line changes nothing but the lines that slices hold (R92). -/
theorem State.sliceUse_eq (s : State) (acc : Acc) (o : Nat) (dirty : Bool) : ∃ m, s.sliceUse acc o dirty = { s with slices := m } := by
  unfold State.sliceUse
  dsimp only
  split
  · exact ⟨_, rfl⟩
  · exact ⟨_, rfl⟩
  · split
    · exact ⟨_, rfl⟩
    · split
      · exact ⟨_, rfl⟩
      · split <;> exact ⟨_, rfl⟩

namespace HomeWork

variable {s t : State}

theorem sliceUse (h : HomeWork s t) (acc : Acc) (o : Nat) (dirty : Bool) : HomeWork s (t.sliceUse acc o dirty) := by
  obtain ⟨m, hm⟩ := t.sliceUse_eq acc o dirty
  exact hm ▸ h.of_eq rfl rfl

theorem lineRead (h : HomeWork s t) (acc : Acc) (o n : Nat) : HomeWork s (t.lineRead acc o n).1 := by
  unfold State.lineRead
  split
  · exact h.meetHold
  · split
    · exact h.logAccess _ _ _
    · exact (((h.planeOut acc o).findLine acc o).touch acc o).sliceUse acc o false

theorem homeReadLoop (h : HomeWork s t) (k : Nat) (acc : Acc) (o n : Nat) : HomeWork s (t.homeReadLoop k acc o n).1 := by
  induction k generalizing t o n with
  | zero => exact h
  | succ k ih =>
    unfold State.homeReadLoop
    dsimp only
    split
    · exact h
    · exact ih (h.lineRead acc o _) _ _

theorem devReadAs (h : HomeWork s t) (ilv : Option Nat) (a n : Nat) : HomeWork s (t.devReadAs ilv a n).1 := by
  unfold State.devReadAs
  dsimp only
  split
  · exact h.homeReadLoop _ _ _ _
  · exact (h.homeReadLoop _ _ _ _).homeReadLoop _ _ _ _

theorem putAt (h : HomeWork s t) (acc : Acc) (o : Nat) (bs : List (Option Byte)) : HomeWork s (t.putAt acc o bs) := by
  have g : HomeWork s (if wholeLine o bs && (t.recKey acc o).isNone then t.planeOut acc o else (t.planeOut acc o).findLine acc o) := by
    split
    · exact h.planeOut acc o
    · exact (h.planeOut acc o).findLine acc o
  unfold State.putAt
  dsimp only
  generalize (if wholeLine o bs && (t.recKey acc o).isNone then t.planeOut acc o else (t.planeOut acc o).findLine acc o) = v at g ⊢
  split
  · exact g.logAccess _ _ _
  · refine upRecAt ?_ acc o _
    exact g.of_eq rfl rfl

theorem entryAt (h : HomeWork s t) (acc : Acc) (o : Nat) (bs : List (Option Byte)) : HomeWork s (t.entryAt acc o bs) := by
  have g : HomeWork s (((t.walkStale acc o).putAt acc o bs).sliceUse acc o true) := ((h.l2Stale _ o).putAt acc o bs).sliceUse acc o true
  unfold State.entryAt
  dsimp only
  split
  · next f d _ _ =>
    have w := (g.l2Stale { d with frame := none } o).putAt d o bs
    split
    · exact g.uncopy _ _
    · split
      · exact g
      · split
        · exact g.meetHold
        · split
          · exact w.of_eq rfl rfl
          · exact w
  · exact g

theorem l2Flush (h : HomeWork s t) (acc : Acc) (f o die : Nat) : HomeWork s (t.l2Flush acc f o die) := by
  have g : HomeWork s (t.setL2 die ((t.l2Of die).filter fun e => lineOf e.1 != lineOf (byteKey f o))) := h.of_eq rfl rfl
  unfold State.l2Flush
  dsimp only
  split
  · exact g
  · split
    · exact g.meetHold
    · split
      · exact g.logAccess _ _ _
      · exact (g.touch acc o).entryAt _ _ _

theorem othersFlush (h : HomeWork s t) (acc : Acc) (f o : Nat) (but : Option Nat) : HomeWork s (t.othersFlush acc f o but) := by
  unfold State.othersFlush
  split
  · exact h
  · refine foldl (fun u d g => ?_) _ h
    split
    · exact g
    · exact g.l2Flush acc f o d

theorem homeEntry (h : HomeWork s t) (die : Option Nat) (acc : Acc) (o : Nat) (bs : List (Option Byte)) : HomeWork s (t.homeEntry die acc o bs) := by
  unfold State.homeEntry
  split
  · exact h.meetHold
  · split
    · exact h.logAccess _ _ _
    · refine ((l2Stale ?_ acc o).touch acc o).entryAt acc o bs
      split
      · exact h.othersFlush acc _ o die
      · exact h

theorem homeWriteLoop (h : HomeWork s t) (die : Option Nat) (k : Nat) (acc : Acc) (o : Nat) (bs : List (Option Byte)) :
    HomeWork s (t.homeWriteLoop die k acc o bs) := by
  induction k generalizing t o bs with
  | zero => exact h
  | succ k ih =>
    unfold State.homeWriteLoop
    split
    · exact h
    · refine ih ?_ _ _
      split
      · exact h.homeEntry die acc o _
      · exact h

theorem devWriteAs (h : HomeWork s t) (ilv : Option Nat) (a : Nat) (bs : List Byte) : HomeWork s (t.devWriteAs ilv a bs) := by
  unfold State.devWriteAs
  dsimp only
  split
  · exact h.homeWriteLoop _ _ _ _ _
  · exact (h.homeWriteLoop _ _ _ _ _).homeWriteLoop _ _ _ _ _

theorem devWrite (h : HomeWork s t) (a : Nat) (bs : List Byte) : HomeWork s (t.devWrite a bs) := h.devWriteAs none a bs

end HomeWork

end Sys2Proof.Machine
end

section
/-! What the check of the frames in motion leaves as it was (R361, R364). -/

namespace Sys2Proof.Machine

open Sys2Proof

/-- The state beside what home slices, migration engines and their free-location rings work on. -/
def State.besideMotion (s : State) : State := { s.besideHome with flr := [] }

/-- `t` is `s` after work of the migration engines: nothing beside them and the home slices differs, and the device's own writes that waited still wait. -/
structure MotionWork (s t : State) : Prop where
  beside : t.besideMotion = s.besideMotion
  todo : s.todo <+: t.todo

theorem HomeWork.motion {s t : State} (h : HomeWork s t) : MotionWork s t := ⟨congrArg (fun x : State => { x with flr := [] }) h.beside, h.todo⟩

namespace MotionWork

variable {s t u : State}

theorem refl (s : State) : MotionWork s s := (HomeWork.refl s).motion

theorem trans (h : MotionWork s t) (g : MotionWork t u) : MotionWork s u := ⟨g.beside.trans h.beside, h.todo.trans g.todo⟩

theorem cores (h : MotionWork s t) : t.cores = s.cores := show t.besideMotion.cores = s.besideMotion.cores by rw [h.beside]
theorem remap (h : MotionWork s t) : t.remap = s.remap := show t.besideMotion.remap = s.besideMotion.remap by rw [h.beside]

theorem setRing (h : MotionWork s t) (n ilv : Nat) (r : Flr) : MotionWork s (t.setRing n ilv r) := ⟨h.beside, h.todo⟩

end MotionWork

theorem State.logMotion_motion (s : State) (sev f : Nat) (detail : List Byte) : MotionWork s (s.logMotion sev f detail) :=
  ((HomeWork.refl s).logError _ _ _ _ _ _).motion

/-- The function is unfolded before it is applied: applied to an open address, its match on the tier is one that Lean's kernel would try to evaluate. -/
theorem State.returnLoc_motion (s : State) (f : Nat) (loc : BitVec 31) (ilv : Nat) : MotionWork s (s.returnLoc f loc ilv) := by
  suffices h : ∀ g, g = @State.returnLoc → MotionWork s (g s f loc ilv) from h _ rfl
  intro g hg
  delta State.returnLoc at hg
  subst hg
  beta_reduce
  generalize tierOf (loc.toNat * 2 ^ 21) = tier
  split
  · exact .refl s
  · exact .refl s
  · dsimp only
    split
    · exact s.logMotion_motion _ _ _
    · exact ((HomeWork.refl s).devWrite _ _).motion.setRing _ _ _

theorem State.abortMotion_motion (s : State) (f : Nat) (last : BitVec 3) : MotionWork s (s.abortMotion f last) := by
  unfold State.abortMotion
  exact (((HomeWork.refl s).setFrame f _).motion.trans (State.returnLoc_motion _ f _ _)).trans (State.logMotion_motion _ _ _ _)

theorem State.checkMotion_motion (s : State) (f : Nat) : MotionWork s (s.checkMotion f) := by
  unfold State.checkMotion
  dsimp only
  split
  · exact .refl s
  · split
    · exact s.abortMotion_motion f 4
    · split
      · exact ((HomeWork.refl s).setFrame f _).motion
      · split
        · exact ((HomeWork.refl s).setFrame f _).motion
        · exact .refl s

theorem State.checkMotions_motion (s : State) : MotionWork s s.checkMotions := by
  have fold (l : List Nat) (t : State) (h : MotionWork s t) : MotionWork s (l.foldl State.checkMotion t) := by
    induction l generalizing t with
    | nil => exact h
    | cons f r ih => exact ih _ (h.trans (t.checkMotion_motion f))
  exact fold _ s (.refl s)

end Sys2Proof.Machine
end

section
/-! Reads and writes of a line in its place: where `PlainLine` holds, the exact state that the home leaves. -/

namespace Sys2Proof.Machine

open Sys2Proof Sys2Proof.Spec

theorem mem_of_sfind {α : Type} {m : Sparse α} {k : Nat} {v : α} (h : sfind m k = some v) : (k, v) ∈ m := by
  induction m with
  | nil => cases h
  | cons e r ih =>
    obtain ⟨j, w⟩ := e
    simp only [sfind] at h
    split at h
    · next hk => cases h; exact hk ▸ List.mem_cons_self
    · exact List.mem_cons_of_mem _ (ih h)

/-- Work that writes L2s alone, one after the other, while `P` holds. -/
theorem foldl_l2 {α : Type} {P : State → Prop} {f : State → α → State} (hf : ∀ u x, P u → P (f u x) ∧ ∃ m, f u x = { u with l2 := m }) (l : List α) (s : State)
    (h : P s) : ∃ m, l.foldl f s = { s with l2 := m } := by
  induction l generalizing s with
  | nil => exact ⟨s.l2, rfl⟩
  | cons x r ih =>
    obtain ⟨hp, m, hm⟩ := hf s x h
    obtain ⟨n, hn⟩ := ih (f s x) hp
    exact ⟨n, by rw [List.foldl_cons, hn, hm]⟩

theorem State.l2Stale_eq (s : State) (acc : Acc) (o : Nat) : ∃ m, s.l2Stale acc o = { s with l2 := m } :=
  foldl_l2 (P := fun _ => True) (fun _ _ _ => ⟨trivial, _, rfl⟩) _ s trivial

theorem State.l2Of_setL2 (s : State) (die d : Nat) (m : Sparse L2Byte) : (s.setL2 die m).l2Of d = if d = die then m else s.l2Of d := sget_sset _ _ _ _ _

/-- The L2s of dies other than `die` hold no byte of a frame's line. -/
def State.Alone (s : State) (die : Option Nat) (f o : Nat) : Prop := ∀ d, some d ≠ die → ∀ b ∈ s.l2Of d, lineOf b.1 ≠ lineOf (byteKey f o)

theorem State.Alone.l2Flush {s : State} {die : Option Nat} {f o d : Nat} (h : s.Alone die f o) (hd : some d ≠ die) (acc : Acc) :
    (s.l2Flush acc f o d).Alone die f o ∧ ∃ m, s.l2Flush acc f o d = { s with l2 := m } := by
  have none : ((s.l2Of d).find? fun e => lineOf e.1 == lineOf (byteKey f o) && e.2.dirty) = none := by
    simp only [List.find?_eq_none, Bool.and_eq_true, beq_iff_eq, not_and]
    exact fun b hb e => absurd e (h d hd b hb)
  have eq : s.l2Flush acc f o d = s.setL2 d ((s.l2Of d).filter fun e => lineOf e.1 != lineOf (byteKey f o)) := by
    unfold State.l2Flush
    dsimp only
    rw [none]
  refine ⟨fun k hk b hb => ?_, _, eq⟩
  rw [eq, State.l2Of_setL2] at hb
  split at hb
  · next e => exact h d hd b (List.mem_filter.1 hb).1
  · exact h k hk b hb

theorem State.Alone.othersFlush {s : State} {die : Option Nat} {f o : Nat} (h : s.Alone die f o) (acc : Acc) :
    ∃ m, s.othersFlush acc f o die = { s with l2 := m } := by
  unfold State.othersFlush
  split
  · exact ⟨s.l2, rfl⟩
  · refine foldl_l2 (P := fun u => u.Alone die f o) (fun u d hu => ?_) _ s h
    split
    · exact ⟨hu, u.l2, rfl⟩
    · next hd => exact hu.l2Flush (fun e => hd (by simp [e])) acc

/-- A line that leaves way 0 unchanged leaves nothing behind. -/
theorem State.planeOut_clean {s : State} (h : ∀ d ∈ s.digests, d.2.dirty = false) (acc : Acc) (o : Nat) : ∃ ds, s.planeOut acc o = { s with digests := ds } := by
  unfold State.planeOut State.evictRec State.way0Back
  split
  · exact ⟨s.digests, rfl⟩
  · split
    · split
      · exact ⟨s.digests, rfl⟩
      · next d hd =>
        have clean : d.dirty = false := h _ (mem_of_sfind hd)
        simp only [clean, Bool.not_false, if_true]
        exact ⟨_, rfl⟩
    · exact ⟨s.digests, rfl⟩

theorem State.findLine_sound {s : State} {acc : Acc} {o : Nat} (good : s.unfound acc o = false) (firm : sget false s.weak (s.lineNo acc o) = false) :
    s.findLine acc o = s := by
  simp [State.findLine, good, firm]

theorem State.touch_uncounted {s : State} {acc : Acc} (h : ∀ f, acc.frame = some f → (s.frame f).hoten = false) (o : Nat) : s.touch acc o = s := by
  unfold State.touch
  split
  · rfl
  · next f hf => simp [h f hf]

theorem State.other_still {s : State} {acc : Acc} (h : ∀ f, acc.frame = some f → (s.frame f).st ≠ .inMotion) (o : Nat) : s.other acc o = none := by
  unfold State.other
  split
  · rfl
  · next f hf => simp [h f hf]

theorem State.memByte_congr {s t : State} (h : t.mem = s.mem) (y : Nat) : t.memByte y = s.memByte y := by
  unfold State.memByte
  rw [h]

theorem State.memBytes_congr {s t : State} (h : t.mem = s.mem) (a n : Nat) : t.memBytes a n = s.memBytes a n := by
  unfold State.memBytes
  simp only [State.memByte_congr h]

/-- Bytes written in their place, with their line's side-band. -/
def State.putPlain (s : State) (acc : Acc) (o : Nat) (bs : List (Option Byte)) : State :=
  { s with mem := putBytes unwritten s.mem (s.spot acc o) bs, lines := sset LineSt.reset s.lines (s.lineNo acc o) { poisoned := false, key := s.keyFor acc o },
           bad := sset false s.bad (s.lineNo acc o) false, weak := sset false s.weak (s.lineNo acc o) false }

end Sys2Proof.Machine

namespace Sys2Proof.Spec

open Sys2Proof Sys2Proof.Machine

variable {s : State} {acc : Acc} {o : Nat}

theorem PlainLine.touch (h : PlainLine s acc o) : s.touch acc o = s := State.touch_uncounted (fun f hf => (h.still f hf).2) o

/-- What L2s and clean lines of way 0 hold is no matter of a plain line. -/
theorem PlainLine.ofL2 (h : PlainLine s acc o) (m : Sparse (Sparse L2Byte)) : PlainLine { s with l2 := m } acc o := ⟨h.1, h.2, h.3, h.4, h.5, h.6, h.7⟩

theorem PlainLine.ofTodo (h : PlainLine s acc o) (l : List Todo) : PlainLine { s with todo := l } acc o := ⟨h.1, h.2, h.3, h.4, h.5, h.6, h.7⟩

/-- A read of a plain line answers the bytes in their place, not poisoned, and changes nothing but what way 0 and the slices hold. -/
theorem PlainLine.lineRead (h : PlainLine s acc o) (n : Nat) :
    ∃ ds sl, s.lineRead acc o n = ({ s with digests := ds, slices := sl }, s.memBytes (s.spot acc o) n, false) := by
  obtain ⟨ds, hds⟩ := State.planeOut_clean h.records acc o
  have find : State.findLine { s with digests := ds } acc o = { s with digests := ds } := State.findLine_sound h.good h.firm
  have touch : State.touch { s with digests := ds } acc o = { s with digests := ds } := State.touch_uncounted (s := { s with digests := ds }) (fun f hf => (h.still f hf).2) o
  obtain ⟨sl, hsl⟩ := State.sliceUse_eq { s with digests := ds } acc o false
  refine ⟨ds, sl, ?_⟩
  simp only [State.lineRead, h.free, h.there, hds, find, touch, hsl, Bool.not_true, Bool.false_eq_true, if_false]
  exact congrArg (fun p => (_, _, p)) h.clean

theorem PlainLine.homeRead (h : PlainLine s acc o) {n : Nat} (hn : 0 < n) (hl : o % 128 + n ≤ 128) :
    ∃ ds sl, s.homeRead acc o n = ({ s with digests := ds, slices := sl }, (s.memBytes (s.spot acc o) n).map fun b => (b, false)) := by
  obtain ⟨ds, sl, hr⟩ := h.lineRead n
  have hm : min n (128 - o % 128) = n := by omega
  refine ⟨ds, sl, ?_⟩
  have h0 : (n == 0) = false := by simp; omega
  simp only [State.homeRead, State.homeReadLoop, h0, hm, hr, Nat.sub_self, beq_self_eq_true, List.append_nil, Bool.false_eq_true, if_true, if_false]

/-- An entry on a plain line with no digest record is made in its place. -/
theorem PlainLine.putAt (h : PlainLine s acc o) (hr : s.recKey acc o = none) (bs : List (Option Byte)) :
    ∃ ds, s.putAt acc o bs = { s.putPlain acc o bs with digests := ds } := by
  obtain ⟨ds, hds⟩ := State.planeOut_clean h.records acc o
  have find : State.findLine { s with digests := ds } acc o = { s with digests := ds } := State.findLine_sound h.good h.firm
  have clean : (State.line { s with digests := ds } (s.lineNo acc o)).poisoned = false := h.clean
  refine ⟨ds, ?_⟩
  simp only [State.putAt, hds, find, ite_self, clean, Bool.false_and, Bool.false_eq_true, if_false]
  unfold State.upRecAt
  split
  · next k hk => exact absurd (hk.symm.trans hr) (by simp)
  · rfl

/-- A write to a plain line with no digest record, whose bytes no other L2 holds, is made in its place and changes nothing else but what L2s, way 0 and the slices hold. -/
theorem PlainLine.homeEntry (h : PlainLine s acc o) (hr : s.recKey acc o = none) (die : Option Nat) (alone : ∀ f, acc.frame = some f → s.Alone die f o)
    (bs : List (Option Byte)) : ∃ l2 ds sl, s.homeEntry die acc o bs = { s.putPlain acc o bs with l2 := l2, digests := ds, slices := sl } := by
  have flush : ∃ m, (match acc.frame with | some f => s.othersFlush acc f o die | none => s) = { s with l2 := m } := by
    split
    · next f hf => exact (alone f hf).othersFlush acc
    · exact ⟨s.l2, rfl⟩
  obtain ⟨m, hm⟩ := flush
  obtain ⟨m1, hm1⟩ := State.l2Stale_eq { s with l2 := m } acc o
  obtain ⟨m2, hm2⟩ := State.l2Stale_eq { s with l2 := m1 } { acc with frame := none } o
  obtain ⟨ds, hds⟩ := (h.ofL2 m2).putAt hr bs
  obtain ⟨sl, hsl⟩ := State.sliceUse_eq { (State.putPlain { s with l2 := m2 } acc o bs) with digests := ds } acc o true
  have other : State.other { s with l2 := m1 } acc o = none := State.other_still (fun f hf => (h.still f hf).1) o
  refine ⟨m2, ds, sl, ?_⟩
  have entry : State.entryAt { s with l2 := m1 } acc o bs = { s.putPlain acc o bs with l2 := m2, digests := ds, slices := sl } := by
    unfold State.entryAt State.walkStale
    rw [hm2, hds, hsl, other]
    dsimp only
    split
    · next e => cases e
    · rfl
  unfold State.homeEntry
  rw [h.free, h.there]
  simp only [Bool.false_eq_true, Bool.not_true, if_false]
  refine (congrArg (fun u : State => ((u.l2Stale acc o).touch acc o).entryAt acc o bs) hm).trans ?_
  simp only [hm1, (h.ofL2 m1).touch, entry]

theorem PlainAt.ofTodo {a : Nat} (h : PlainAt s a) (l : List Todo) : PlainAt { s with todo := l } a := ⟨h.line.ofTodo l, h.alone⟩

/-- The device reads bytes of a line at a plain address as they stand in their place. -/
theorem PlainAt.devRead {a n : Nat} (h : PlainAt s a) (hn : 0 < n) (hl : a % 128 + n ≤ 128) :
    ∃ ds sl, s.devRead a n = ({ s with digests := ds, slices := sl }, s.memBytes (placeOfAddr s a) n, false) := by
  obtain ⟨ds, sl, hr⟩ := h.line.homeRead hn (by omega)
  have hm : min n (2 ^ 21 - a % 2 ^ 21) = n := by omega
  refine ⟨ds, sl, ?_⟩
  simp only [State.devRead, State.devReadAs, State.physAccAs, hm, hr, beq_self_eq_true, if_true, List.map_map, List.any_map]
  simp [Function.comp_def, placeOfAddr]

/-- The device writes bytes of a line at a plain address, of a block with no digest record, in their place. -/
theorem PlainAt.pokeMem {a : Nat} (h : PlainAt s a) (hr : s.recKey (s.physAcc a) (a % 2 ^ 21) = none) (bs : List Byte) :
    ∃ l2 ds sl, s.pokeMem a bs = { s.putPlain (s.physAcc a) (a % 2 ^ 21) (allOf bs) with l2 := l2, digests := ds, slices := sl } :=
  h.line.homeEntry hr none (fun f hf d _ b hb => h.alone f hf d b hb) (allOf bs)

/-- Whole bytes written are read back in their place, and no other byte of memory differs. -/
theorem memByte_putPlain (s : State) (acc : Acc) (o : Nat) (bs : List Byte) (y : Nat) :
    (s.putPlain acc o (allOf bs)).memByte y = if s.spot acc o ≤ y ∧ y < s.spot acc o + bs.length then bs.getD (y - s.spot acc o) 0 else s.memByte y := by
  refine (sget_putBytes unwritten s.mem (s.spot acc o) (allOf bs) y).trans ?_
  by_cases h : s.spot acc o ≤ y
  · by_cases g : y < s.spot acc o + bs.length
    · have hi : y - s.spot acc o < bs.length := by omega
      simp [h, g, allOf, List.getElem?_eq_getElem hi]
    · have hi : bs.length ≤ y - s.spot acc o := by omega
      simp [h, g, allOf, List.getElem?_eq_none hi, State.memByte]
  · simp [h, State.memByte]

theorem memBytes_putPlain (s : State) (acc : Acc) (o : Nat) (bs : List Byte) : (s.putPlain acc o (allOf bs)).memBytes (s.spot acc o) bs.length = bs := by
  refine List.ext_getElem (by simp [State.memBytes]) fun i hi hb => ?_
  simp [State.memBytes, memByte_putPlain, hb]

end Sys2Proof.Spec
end

section
/-! The error log: a record that waits alone enters the ring, is counted, or goes on waiting (R380, R381; log 69). -/

namespace Sys2Proof.Machine

open Sys2Proof Sys2Proof.Spec

variable {s : State} {r : LogRec}

theorem State.flushLoop_done {t : State} (h : t.todo = []) (n : Nat) : t.flushLoop n = t := by
  cases n with
  | zero => rfl
  | succ n => unfold State.flushLoop; rw [h]

/-- One write that waits alone is made, and stays when its home holds it. -/
theorem State.flushTodo_single {x : Todo} (h : s.todo = [x]) :
    s.flushTodo = if (({ s with todo := [] } : State).writeTodo x).heldHit then s else (({ s with todo := [] } : State).writeTodo x).flushLoop 255 := by
  show State.flushLoop (255 + 1) s = _
  rw [State.flushLoop, h]

theorem Elog.closed_iff (e : Elog) : e.closed = true ↔ e.cfg.getLsbD 63 = false ∨ (e.head - e.tail).toNat = e.size := by
  simp [Elog.closed]

theorem LogRec.bytes_length (r : LogRec) (n : BitVec 32) : (r.bytes n).length = 64 := by
  have h (k v : Nat) : (toBytes k v).length = k := by
    induction k generalizing v with
    | zero => rfl
    | succ k ih => simp [toBytes, ih]
  simp [LogRec.bytes, h]

/-- A record that the ring does not take is counted in LOST. -/
theorem State.flushTodo_closed (h : s.todo = [.record r]) (hh : s.heldHit = false) (hc : s.elog.closed = true) :
    s.flushTodo = { s with todo := [], elog := { s.elog with lost := if s.elog.lost = .allOnes 32 then s.elog.lost else s.elog.lost + 1 } } := by
  rw [State.flushTodo_single h]
  simp [State.writeTodo, hc, hh, State.flushLoop_done]

/-- A record whose place is held goes on waiting. -/
theorem State.flushTodo_held (h : s.todo = [.record r]) (hc : s.elog.closed = false)
    (held : s.isHeld (s.physAcc s.elog.slot) (s.elog.slot % 2 ^ 21) = true) : s.flushTodo = s := by
  have poke (bs : List Byte) : State.pokeMem { s with todo := [] } s.elog.slot bs = State.meetHold { s with todo := [] } := by
    unfold State.pokeMem State.homeEntry
    exact if_pos held
  rw [State.flushTodo_single h, State.writeTodo]
  simp [hc, poke, State.meetHold]

/-- A record enters the ring at HEAD where its place is plain. -/
theorem State.flushTodo_written (h : s.todo = [.record r]) (hh : s.heldHit = false) (hc : s.elog.closed = false) (hp : PlainAt s s.elog.slot)
    (hr : s.recKey (s.physAcc s.elog.slot) (s.elog.slot % 2 ^ 21) = none) :
    ∃ l2 ds sl, s.flushTodo = { s.putPlain (s.physAcc s.elog.slot) (s.elog.slot % 2 ^ 21) (allOf (r.bytes s.elog.head)) with
                                 todo := [], elog := { s.elog with head := s.elog.head + 1 }, l2 := l2, digests := ds, slices := sl } := by
  obtain ⟨l2, ds, sl, hw⟩ := (hp.ofTodo []).pokeMem hr (r.bytes s.elog.head)
  refine ⟨l2, ds, sl, ?_⟩
  rw [State.flushTodo_single h, State.writeTodo]
  simp only [hc, hw, Bool.false_eq_true, if_false]
  exact (if_neg (by simp [State.putPlain, hh])).trans (State.flushLoop_done rfl 255)

end Sys2Proof.Machine

namespace Sys2Proof.Spec

open Sys2Proof Sys2Proof.Machine

theorem recordsWritten : RecordsWritten := by
  intro s r htodo hheld e a shut
  have hs : shut ↔ e.closed = true := (Elog.closed_iff e).symm
  have ha : a = e.slot := rfl
  clear_value a shut
  subst ha
  refine ⟨fun hc => State.flushTodo_closed htodo hheld (hs.1 hc), fun hc => State.flushTodo_held htodo (by simpa [hs] using hc), ?_⟩
  intro hc hp hr t
  obtain ⟨l2, ds, sl, hw⟩ := State.flushTodo_written htodo hheld (by simpa [hs] using hc) hp hr
  have hm : t.mem = (s.putPlain (s.physAcc e.slot) (e.slot % 2 ^ 21) (allOf (r.bytes e.head))).mem := by show s.flushTodo.mem = _; rw [hw]
  have todo : t.todo = [] := by show s.flushTodo.todo = _; rw [hw]
  have elog : t.elog = { e with head := e.head + 1 } := by show s.flushTodo.elog = _; rw [hw]
  have cores : t.cores = s.cores := by show s.flushTodo.cores = _; rw [hw]; rfl
  refine ⟨todo, elog, cores, ?_, fun y hy => ?_⟩
  · have place := memBytes_putPlain s (s.physAcc e.slot) (e.slot % 2 ^ 21) (r.bytes e.head)
    rw [LogRec.bytes_length] at place
    refine (State.memBytes_congr hm _ _).trans (place.trans ?_)
    rfl
  · refine (State.memByte_congr hm y).trans ((memByte_putPlain s _ _ _ y).trans (if_neg ?_))
    rw [LogRec.bytes_length]
    exact fun h => by rcases hy with hy | hy <;> simp only [placeOfAddr] at hy <;> omega

end Sys2Proof.Spec
end

section
/-! Channel tables and refreshes (R367, R368). -/

namespace Sys2Proof.Machine

open Sys2Proof

theorem State.remapOf_setRemap (s : State) (g j : Nat) (r : Remap) : (s.setRemap g r).remapOf j = if j = g then r else s.remapOf j := sget_sset _ _ _ _ _

theorem sfind_sput {α : Type} (m : Sparse α) (k j : Nat) (v : α) : sfind (sput m k v) j = if j = k then some v else sfind m j := by
  induction m with
  | nil => simp [sput, sfind]
  | cons e r ih =>
    obtain ⟨i, w⟩ := e
    by_cases hlt : k < i
    · simp [sput, hlt, sfind]
    · by_cases heq : k = i
      · subst heq
        simp only [sput, hlt, if_false, if_true, sfind]
        split <;> rfl
      · simp only [sput, hlt, heq, if_false, sfind, ih]
        by_cases hj : j = i
        · subst hj; simp [Ne.symm heq]
        · simp [hj]

end Sys2Proof.Machine

namespace Sys2Proof.Spec

open Sys2Proof Sys2Proof.Machine

/-- No channel's table but `g`'s differs, and that one is `r`. -/
def OnlyTable (g : Nat) (r : Remap) (s t : State) : Prop := t.remapOf g = r ∧ ∀ j, j ≠ g → t.remapOf j = s.remapOf j

theorem onlyTable_setRemap (s : State) (g : Nat) (r : Remap) : OnlyTable g r s (s.setRemap g r) :=
  ⟨by simp [State.remapOf_setRemap], fun j hj => by simp [State.remapOf_setRemap, hj]⟩

theorem OnlyTable.of_remap {g : Nat} {r : Remap} {s t u : State} (h : OnlyTable g r s t) (hu : u.remap = t.remap) : OnlyTable g r s u := by
  unfold OnlyTable State.remapOf
  rw [hu]
  exact h

/-- A table error with no good copy: the channel is fenced, and its record waits for the error log, whatever becomes of the motions. -/
theorem remapTableError_fences (s : State) (stack : BitVec 4) (channel : BitVec 5) :
    ∃ t, exec (.remapTableError stack channel false) s = .next t ∧ OnlyTable (channelNo stack channel) { rows := [], held := false, fenced := true } s t ∧ t.cores = s.cores ∧
      ∃ e : LogRec, .record e ∈ t.todo ∧ e.cls = 1 ∧ e.unit = 0x2000 + stack.toNat ∧ e.detail = toBytes 8 (channelNo stack channel) := by
  let u := (s.setRemap (channelNo stack channel) { rows := [], held := false, fenced := true }).logError 1 1 (unitBase stack.toNat) none 0 (toBytes 8 (channelNo stack channel))
  have work : MotionWork u u.checkMotions := u.checkMotions_motion
  refine ⟨u.checkMotions, rfl, ((onlyTable_setRemap s _ _).of_remap (t := s.setRemap _ _) work.remap), work.cores, _, work.todo.subset (List.mem_append_right _ List.mem_cons_self), rfl, rfl, rfl⟩

theorem remapTableReloadDone_resumes (s : State) (stack : BitVec 4) (channel : BitVec 5) (held : (s.remapOf (channelNo stack channel)).held = true) :
    ∃ t, exec (.remapTableReloadDone stack channel) s = .next t ∧ OnlyTable (channelNo stack channel) { s.remapOf (channelNo stack channel) with held := false } s t ∧
      Recorded 0 { s with remap := t.remap } t :=
  ⟨_, congrArg Host.Outcome.next (if_pos held), (onlyTable_setRemap s _ _).of_remap rfl, _, rfl, rfl, rfl⟩

theorem remapTableReloadDone_idle (s : State) (stack : BitVec 4) (channel : BitVec 5) (held : (s.remapOf (channelNo stack channel)).held = false) :
    exec (.remapTableReloadDone stack channel) s = .next s :=
  congrArg Host.Outcome.next (if_neg (by simp [held]))

/-- Firmware's write sends a row to a spare, ends the fencing, and leaves the other rows. -/
theorem rowRemapTableWrite_row (s : State) (stack : BitVec 4) (channel : BitVec 5) (row spare : BitVec 16) :
    ∃ t, exec (.rowRemapTableWrite stack channel row spare) s = .next t ∧
      OnlyTable (channelNo stack channel) { s.remapOf (channelNo stack channel) with rows := sput (s.remapOf (channelNo stack channel)).rows row.toNat spare, fenced := false } s t ∧
      { t with remap := s.remap } = s :=
  ⟨_, rfl, onlyTable_setRemap s _ _, rfl⟩

theorem channelTables : ChannelTables := by
  intro s stack channel row spare g r
  refine ⟨?_, ?_, fun held => ?_, remapTableReloadDone_idle s stack channel, ?_, ⟨_, rfl, sget_sset_self _ _ _ _, rfl⟩⟩
  · obtain ⟨same, others⟩ := onlyTable_setRemap s g { r with held := true }
    exact ⟨_, rfl, same, others, rfl⟩
  · obtain ⟨t, ht, ⟨same, others⟩, hc, log⟩ := remapTableError_fences s stack channel
    exact ⟨t, ht, same, others, hc, log⟩
  · obtain ⟨t, ht, ⟨same, others⟩, log⟩ := remapTableReloadDone_resumes s stack channel held
    exact ⟨t, ht, same, others, log⟩
  · obtain ⟨t, ht, ⟨same, others⟩, rest⟩ := rowRemapTableWrite_row s stack channel row spare
    refine ⟨t, ht, ?_, fun j hj => ?_, congrArg Remap.fenced same, others, rest⟩
    · exact (congrArg (fun x : Remap => sfind x.rows row.toNat) same).trans ((sfind_sput _ _ _ _).trans (if_pos rfl))
    · exact (congrArg (fun x : Remap => sfind x.rows j) same).trans ((sfind_sput _ _ _ _).trans (if_neg hj))

end Sys2Proof.Spec
end

section
/-! A cold reset (R23, R369, R390; log 43). -/

namespace Sys2Proof.Machine

open Sys2Proof

/-- Data changed key by key reads changed, where what an unlisted key reads as is changed alike. -/
theorem sget_map {α β : Type} {d : α} {e : β} {g : α → β} (hg : g d = e) (m : Sparse α) (k : Nat) : sget e (m.map fun p => (p.1, g p.2)) k = g (sget d m k) := by
  induction m with
  | nil => exact hg.symm
  | cons p r ih =>
    simp only [List.map_cons, sget, ih]
    split <;> rfl

/-- A core after power on: as after reset, but for its arrays' cells. -/
def Core.cold (k : Core) : Core := { Core.reset with xb := k.xb.map fun (x : Nat × XArr) => (x.1, x.2.cold) }

theorem State.core_powerOn (s : State) (k : Nat) : s.powerOn.core k = (s.core k).cold := sget_map (d := Core.reset) (g := Core.cold) rfl s.cores k

theorem Core.array_cold (k : Core) (x : Nat) : k.cold.array x = (k.array x).cold := sget_map (d := XArr.reset) (g := XArr.cold) rfl k.xb x

/-- Work that writes measurement slots alone. -/
theorem foldl_slots {α : Type} {f : State → α → State} (hf : ∀ t x, ∃ m, f t x = { t with slots := m }) (l : List α) (s : State) :
    ∃ m, l.foldl f s = { s with slots := m } := by
  induction l generalizing s with
  | nil => exact ⟨s.slots, rfl⟩
  | cons x r ih =>
    obtain ⟨n, hn⟩ := hf s x
    obtain ⟨m, hm⟩ := ih (f s x)
    exact ⟨m, by rw [List.foldl_cons, hm, hn]⟩

/-- The PCIe link after start-up: DOWN where it found no lanes, else UP at full width or DEGRADED. -/
def pcieStart (lanes : Nat) : Link :=
  if lanes = 0 then Link.reset else { Link.reset with st := if 16 ≤ lanes then .up else .degraded, lanes := .ofNat 5 (min lanes 16) }

theorem pcieStart_st (lanes : Nat) : (pcieStart lanes).st = if lanes = 0 then .down else if 16 ≤ lanes then .up else .degraded := by
  unfold pcieStart
  split <;> rfl

/-- A record that start-up writes: its class, severity, unit and detail. -/
def startRecord (us cls sev unit : Nat) (detail : List Byte) : LogRec := { cls := cls, sev := sev, unit := unit, ck := none, addr := 0, us := us, detail := detail }

/-- Start-up trains the PCIe link and leaves a record where it stays DOWN. -/
theorem State.trainHost_eq (s : State) :
    s.trainHost = { s with links := sset Link.reset s.links 28 (pcieStart (Config.pcieLanes s.seq).toNat),
                           todo := s.todo ++ if (Config.pcieLanes s.seq).toNat = 0 then [.record (startRecord s.us 3 2 (unitLink 28) [])] else [] } := by
  by_cases h : (Config.pcieLanes s.seq).toNat = 0
  · simp only [State.trainHost, pcieStart, h, beq_self_eq_true, if_true]
    rfl
  · have hb : ((Config.pcieLanes s.seq).toNat == 0) = false := by simpa using h
    simp only [State.trainHost, pcieStart, h, hb, if_false, Bool.false_eq_true, List.append_nil]
    rfl

/-- The records that wait for the error log after a cold reset: of a PCIe link that stays DOWN, of a trip, and of the start. -/
def startRecords (us lanes : Nat) (tripped : Bool) (health : Word) : List Todo :=
  (if lanes = 0 then [.record (startRecord us 3 2 (unitLink 28) [])] else []) ++ (if tripped then [.record (startRecord us 10 3 unitMgmt [])] else []) ++
    [.record (startRecord us 9 0 unitMgmt (toBytes 8 health.toNat))]

/-- The state that a cold reset leaves, but for what is measured. -/
theorem State.start_eq (s : State) : ∃ slots health, s.start =
    { s.powerOn with slots := slots, health := health, elog := startElog, links := sset Link.reset s.powerOn.links 28 (pcieStart (Config.pcieLanes s.seq).toNat),
                     kds := sset Kd.reset [] Config.hostDomain.toNat { st := .active, key0 := some s.nextKey, key1 := none, cur := false },
                     nextKey := s.nextKey + 1, hostKd := some Config.hostDomain,
                     todo := startRecords 0 (Config.pcieLanes s.seq).toNat s.power.tripped health, started := true } := by
  obtain ⟨m, hm⟩ := foldl_slots (f := fun (t : State) i => t.extend i (Config.imageDigest t.seq i)) (fun _ _ => ⟨_, rfl⟩) (List.range 8) s.powerOn
  unfold State.start
  extract_lets measured trained tested kd keyed counted tripped
  have htrained : trained = { s.powerOn with
      slots := m
      elog := startElog
      links := sset Link.reset s.powerOn.links 28 (pcieStart (Config.pcieLanes s.seq).toNat)
      todo := if (Config.pcieLanes s.seq).toNat = 0 then [.record (startRecord 0 3 2 (unitLink 28) [])] else [] } := by
    have hmeasured : measured = { s.powerOn with slots := m } := hm
    clear_value measured
    subst hmeasured
    exact State.trainHost_eq _
  have htripped : tripped = { counted with todo := trained.todo ++ (if s.power.tripped then [.record (startRecord trained.us 10 3 unitMgmt [])] else []) } := by
    show (if s.power.tripped then _ else _) = _
    cases s.power.tripped
    · simp only [Bool.false_eq_true, if_false, List.append_nil]
      rfl
    · rfl
  clear_value trained tripped
  subst htrained htripped
  exact ⟨m, tested.health, rfl⟩

end Sys2Proof.Machine

namespace Sys2Proof.Spec

open Sys2Proof Sys2Proof.Machine

/-- The links after a cold reset: all DOWN but PCIe's. -/
theorem links_start (s : State) (lanes l : Nat) : sget Link.reset (sset Link.reset s.powerOn.links 28 (pcieStart lanes)) l = if l = 28 then pcieStart lanes else Link.reset := by
  rw [sget_sset]
  split
  · rfl
  · next h => simp [State.powerOn, State.reset, sget, h]

/-- The error log that start-up sets up is enabled, whatever its size. -/
theorem startElog_enabled : startElog.cfg.getLsbD 63 = true := by
  show (0x8000000000000000 + Config.startLogsize.setWidth 64).getLsbD 63 = true
  generalize Config.startLogsize = n
  revert n
  decide

/-- A core after power on has no work and an empty scratchpad, and its arrays have lost their state but not their cells. -/
theorem cold_still {c k : Core} (h : c = k.cold) : c.task = none ∧ c.ready = [] ∧ c.conts = [] ∧ c.sp = [] ∧ c.steps = 0 ∧
    ∀ x, (c.array x).st = .unknown ∧ (c.array x).cells = (k.array x).cells := by
  subst h
  exact ⟨rfl, rfl, rfl, rfl, rfl, fun x => by rw [Core.array_cold]; exact ⟨rfl, rfl⟩⟩

theorem kd_of_kds {t : State} {n : Nat} {x : Kd} (h : t.kds = sset Kd.reset [] n x) : t.kd n = x := by
  rw [State.kd, h, sget_sset_self]

theorem coldResets : ColdResets := by
  intro s lanes
  obtain ⟨slots, health, h⟩ := s.start_eq
  have link := links_start s lanes
  refine ⟨_, congrArg Host.Outcome.next h, rfl, rfl, rfl, rfl, rfl, rfl, rfl, rfl, rfl, rfl, rfl, rfl, rfl, fun l hl => (link l).trans (if_neg hl),
    (congrArg Link.st (link 28)).trans (pcieStart_st lanes), rfl, startElog_enabled, rfl, rfl, rfl, ?_, fun k => ?_, fun k hk => ?_⟩
  · show (startRecords 0 lanes s.power.tripped health).map _ = _
    by_cases hl : lanes = 0 <;> cases s.power.tripped <;> simp [startRecords, startRecord, hl]
  · exact cold_still (s.core_powerOn k)
  · cases hk
    exact congrArg Kd.st (kd_of_kds (x := { st := .active, key0 := some s.nextKey, key1 := none, cur := false }) rfl)

end Sys2Proof.Spec
end

section
/-! Registers that a write only stores (R7). -/

namespace Sys2Proof.Machine

open Sys2Proof Sys2Proof.Spec

/-- FREEZE of one context written. -/
def State.freezeOne (v : Word) (s : State) (n : Nat) : State := if (s.ctx n).freeze == v.getLsbD n then s else s.upCtx n fun x => { x with freeze := v.getLsbD n }

theorem State.setFreeze_foldl (s : State) (v : Word) : s.setFreeze v = (List.range 64).foldl (State.freezeOne v) s := rfl

theorem State.ctx_freezeOne (s : State) (v : Word) (m n : Nat) :
    (s.freezeOne v m).ctx n = if n = m then { s.ctx n with freeze := v.getLsbD n } else s.ctx n := by
  unfold State.freezeOne
  by_cases h : n = m
  · subst h
    by_cases he : (s.ctx n).freeze = v.getLsbD n
    · simp [← he]
    · simp [he]
  · split <;> simp [h, State.ctx_upCtx]

theorem State.ctx_foldl_freezeOne (s : State) (v : Word) (n k : Nat) :
    ((List.range k).foldl (State.freezeOne v) s).ctx n = if n < k then { s.ctx n with freeze := v.getLsbD n } else s.ctx n := by
  induction k with
  | zero => simp
  | succ k ih =>
    rw [List.range_succ, List.foldl_append, List.foldl_cons, List.foldl_nil, State.ctx_freezeOne, ih]
    rcases Nat.lt_trichotomy n k with h | h | h
    · simp [h, Nat.ne_of_lt h, Nat.lt_succ_of_lt h]
    · simp [h]
    · simp [Nat.not_lt_of_gt h, Nat.ne_of_gt h, show ¬ n < k + 1 by omega]

/-- FREEZE of a context after a write: its own bit, and nothing else of the context. -/
theorem State.ctx_setFreeze (s : State) (v : Word) (n : Nat) :
    (s.setFreeze v).ctx n = if n < 64 then { s.ctx n with freeze := v.getLsbD n } else s.ctx n := s.ctx_foldl_freezeOne v n 64

theorem State.setFreeze_eq (s : State) (v : Word) : ∃ m, s.setFreeze v = { s with ctxs := m } := by
  rw [State.setFreeze_foldl]
  generalize List.range 64 = l
  induction l generalizing s with
  | nil => exact ⟨s.ctxs, rfl⟩
  | cons n r ih =>
    obtain ⟨m, hm⟩ := ih (s.freezeOne v n)
    rw [List.foldl_cons, hm, State.freezeOne]
    split <;> exact ⟨m, rfl⟩

/-- The 4 KiB page that a register names in bits 51 to 12, as a number and as a mask. -/
theorem bits_page (w : Word) : bits w.toNat 51 12 * 4096 = (w &&& 0xFFFFFFFFFF000).toNat := by
  refine Nat.eq_of_testBit_eq fun i => ?_
  rw [BitVec.toNat_and, show (0xFFFFFFFFFF000 : Word).toNat = (2 ^ 40 - 1) * 2 ^ 12 from rfl, bits, Nat.testBit_and, show 4096 = 2 ^ 12 from rfl,
    Nat.testBit_mul_two_pow, Nat.testBit_mul_two_pow, Nat.testBit_mod_two_pow, Nat.testBit_div_two_pow, Nat.testBit_two_pow_sub_one]
  by_cases h : 12 ≤ i
  · simp [h, Nat.sub_add_cancel h, Bool.and_comm]
  · simp [h]

/-- The frames read so far, whatever their entries hold: nothing beside the home slices differs. -/
theorem HomeWork.readFrames (base : Nat) (l : List Nat) (p : State × Sparse Frame) : HomeWork p.1 (l.foldl (readFrame base) p).1 := by
  induction l generalizing p with
  | nil => exact .refl _
  | cons f r ih =>
    have one : HomeWork p.1 (readFrame base p f).1 := (HomeWork.refl p.1).devReadAs none (base + 16 * f) 16
    exact one.trans (ih _)

/-- An entry of the table at a base where it can be read in its place. -/
theorem readFrame_plain {s : State} {base f : Nat} (hb : base % 4096 = 0) (h : PlainAt s (base + 16 * f)) (m : Sparse Frame) :
    (readFrame base (s, m) f).2 = sset Frame.reset m f ((s.frame f).ofBits (ofBytes (s.memBytes (placeOfAddr s (base + 16 * f)) 16))) := by
  obtain ⟨ds, sl, hr⟩ := h.devRead (n := 16) (by omega) (by omega)
  simp only [readFrame, State.devNum, hr, Bool.false_eq_true, if_false]
  rfl

theorem State.setFltbase_eq (s : State) (v : Word) (base : Nat) (hb : bits v.toNat 51 12 * 4096 = base) :
    s.setFltbase v = { ((s.framesAt base).foldl (readFrame base) (s, [])).1 with fltbase := .ofNat 64 base, frames := ((s.framesAt base).foldl (readFrame base) (s, [])).2 } := by
  subst hb
  rfl

end Sys2Proof.Machine

namespace Sys2Proof.Spec

open Sys2Proof Sys2Proof.Machine

/-- FLTBASE takes the base, and the frames are those of the table there. -/
theorem setFltbase_table (s : State) (w : Word) (base : Nat) (hb : bits w.toNat 51 12 * 4096 = base) :
    (s.setFltbase w).fltbase.toNat = base ∧ (s.setFltbase w).fltlim = s.fltlim ∧ (s.setFltbase w).cores = s.cores ∧ (s.setFltbase w).ctxs = s.ctxs ∧
      (s.setFltbase w).frames = ((s.framesAt base).foldl (readFrame base) (s, [])).2 := by
  have small : base < 2 ^ 64 := by rw [← hb, bits]; omega
  have work : HomeWork s ((s.framesAt base).foldl (readFrame base) (s, [])).1 := .readFrames base _ (s, [])
  rw [s.setFltbase_eq w base hb]
  exact ⟨Nat.mod_eq_of_lt small, work.fltlim, work.cores, work.ctxs, rfl⟩

theorem storedRegister_fltbase (s : State) (v : BitVec 128) : storedRegister s (s.setFltbase (v.setWidth 64)) v .fltbase := by
  have hb := bits_page (v.setWidth 64)
  have aligned : (v.setWidth 64 &&& (0xFFFFFFFFFF000 : Word)).toNat % 4096 = 0 := by omega
  obtain ⟨hbase, hlim, hcores, hctxs, hframes⟩ := setFltbase_table s _ _ hb
  refine ⟨hbase, hlim, hcores, hctxs, fun h => ?_, fun f h hp => ?_⟩
  · rw [hframes, h]
    rfl
  · show sget Frame.reset (s.setFltbase _).frames f = _ ∧ ∀ g, g ≠ f → sget Frame.reset (s.setFltbase _).frames g = _
    rw [hframes, h, List.foldl_cons, List.foldl_nil, readFrame_plain aligned hp []]
    exact ⟨sget_sset_self _ _ _ _, fun g hg => (sget_sset _ _ _ _ _).trans (if_neg hg)⟩

theorem storedRegister_dbgctl (s : State) (v : BitVec 128) : storedRegister s (s.setFreeze (v.setWidth 64)) v .dbgctl := by
  refine ⟨fun n hn => ?_, ?_⟩
  · rw [State.ctx_setFreeze, if_pos hn]
    exact ⟨by simp [hn], rfl⟩
  · obtain ⟨m, hm⟩ := s.setFreeze_eq (v.setWidth 64)
    rw [hm]

theorem storedRegister_flr (s : State) (v : BitVec 128) (n : BitVec 2) (sch : BitVec 3) : storedRegister s (s.writeReg (.flr n sch) v) v (.flr n sch) := by
  have ring : (s.writeReg (.flr n sch) v).ring n.toNat sch.toNat = (s.ring n.toNat sch.toNat).write v := sget_sset_self _ _ _ _
  exact ⟨by rw [ring]; rfl, by rw [ring]; rfl, by rw [ring]; rfl, rfl⟩

theorem storedRegister_dbgbp (s : State) (v : BitVec 128) (k : CoreId) (c : Cluster) (i : BitVec 2) : storedRegister s (s.writeReg (.dbgbp k c i) v) v (.dbgbp k c i) := by
  have core : (s.writeReg (.dbgbp k c i) v).core k.toNat = _ := State.core_upCore_self s k.toNat _
  refine ⟨?_, ?_, ?_, fun d hd => ?_, fun n hn => State.core_upCore_ne s hn _, rfl⟩
  · rw [core, Core.cl_upCl_self]
    exact sget_sset_self _ _ _ _
  · rw [core, Core.cl_upCl_self]
  · rw [core, Core.cl_upCl_self]
  · rw [core, Core.cl_upCl_ne _ hd]

theorem storedRegister_lctl (s : State) (v : BitVec 128) (l : BitVec 5) : storedRegister s (s.writeReg (.lctl l) v) v (.lctl l) := by
  intro hl
  have link (m : Nat) : (s.writeReg (.lctl l) v).link m = if m = l.toNat then { s.link l.toNat with
      thresh := .ofNat 16 (bits (v.setWidth 64).toNat 31 16)
      shared := decide (24 ≤ l.toNat && l.toNat < 28) && (v.setWidth 64).getLsbD 32 } else s.link m := by
    rw [State.writeReg, if_neg (by omega)]
    exact sget_sset _ _ _ _ _
  refine ⟨?_, ?_, ?_, fun m hm => ?_, ?_⟩
  · rw [link, if_pos rfl]
    simp only [bits, BitVec.toNat_setWidth]
    congr 1
    omega
  · rw [link, if_pos rfl]
    simp
  · rw [link, if_pos rfl]
  · rw [link, if_neg hm]
  · rw [State.writeReg, if_neg (by omega)]
    rfl

/-- The mask of the fields that R377 does not reserve. -/
theorem exportMask_eq : exportMask = .ofNat 128 (2 ^ 128 - 2 ^ 111 + 2 ^ 70 - 2 ^ 64 + 2 ^ 28 - 1) := by decide

theorem registerWrites : RegisterWrites := by
  intro s reg v
  refine ⟨s.writeReg reg v, rfl, ?_⟩
  cases reg with
  | fltbase => exact storedRegister_fltbase s v
  | dbgctl => exact storedRegister_dbgctl s v
  | flr n sch => exact storedRegister_flr s v n sch
  | dbgbp k c i => exact storedRegister_dbgbp s v k c i
  | lctl l => exact storedRegister_lctl s v l
  | dpl b n => exact ⟨sget_sset_self _ _ _ _, rfl⟩
  | rtag b k => exact ⟨sget_sset_self _ _ _ _, rfl⟩
  | route d =>
    refine ⟨(sget_sset_self _ _ _ _).trans ?_, rfl⟩
    exact BitVec.setWidth_setWidth_of_le v (by omega)
  | exportEntry e => exact ⟨(sget_sset_self _ _ _ _).trans (congrArg (v &&& ·) exportMask_eq), rfl⟩
  | dbgsel => exact congrArg (fun x => { s with dbgsel := x }) (BitVec.setWidth_setWidth_of_le v (show 8 ≤ 64 by omega))
  | devid => exact congrArg (fun x => { s with devid := x }) (BitVec.setWidth_setWidth_of_le v (show 10 ≤ 64 by omega))
  | eltail => exact congrArg (fun x => { s with elog := { s.elog with tail := x } }) (BitVec.setWidth_setWidth_of_le v (show 32 ≤ 64 by omega))
  | dseed => rfl
  | win => rfl
  | tinvarg => rfl
  | elbase => rfl
  | elcfg => rfl

/-- Settles O54, each of its four parts by its own theorem. -/
theorem moduleRegisters : Obligations.ModuleRegisters := ⟨channelTables, coldResets, registerWrites, recordsWritten⟩

end Sys2Proof.Spec
end

section
/-! The power manager: samples and the thermal trip (R20, R23; log 48, log 73). -/

namespace Sys2Proof.Machine

open Sys2Proof

/-- What calls for a slower clock: the second sample running above the cap, or a die above 95 °C (R20). -/
abbrev Power.Hot (p : Power) (watts temp : Nat) : Prop := (watts > p.cap ∧ 1 ≤ p.above) ∨ 95 < temp

/-- What allows a faster clock: 10 ms below nine tenths of the cap with every die below 90 °C (R20). -/
abbrev Power.Cool (p : Power) (watts temp : Nat) : Prop := watts * 10 < p.cap * 9 ∧ temp < 90 ∧ 99 ≤ p.below

theorem Power.two_le_count_above (p : Power) (watts temp : Nat) : 2 ≤ (p.count watts temp).above ↔ watts > p.cap ∧ 1 ≤ p.above := by
  by_cases exceeds : watts > p.cap
  · have full : samples10ms = 100 := rfl
    simp only [Power.count, exceeds, if_true, true_and]
    split <;> omega
  · simp [Power.count, exceeds]

theorem Power.samples10ms_le_count_below (p : Power) (watts temp : Nat) : samples10ms ≤ (p.count watts temp).below ↔ p.Cool watts temp := by
  simp only [Power.count, Power.Cool, samples10ms, Bool.and_eq_true, decide_eq_true_eq]
  split <;> omega

/-- CHANGES stops at its greatest value (R21). -/
theorem Power.moveTo_changes (p : Power) (step : BitVec 4) : (p.moveTo step).changes = if p.changes = .allOnes 32 then p.changes else p.changes + 1 := by
  simp only [Power.moveTo, beq_iff_eq, ← BitVec.toNat_inj, BitVec.toNat_allOnes]

/-- A sample, with R20's two conditions read off the counts as they stood before it. -/
theorem Power.sample_eq (p : Power) (watts temp : Nat) :
    p.sample watts temp =
      if p.Hot watts temp then
        if p.step.toNat < 6 then
          { (p.count watts temp).moveTo (p.step + 1) with cause := if watts > p.cap ∧ 1 ≤ p.above then (if p.capLowered then 3 else 1) else 2 }
        else p.count watts temp
      else if p.Cool watts temp ∧ p.step ≠ 0 then (p.count watts temp).moveTo (p.step - 1) else p.count watts temp := by
  simp only [Power.sample, Power.Hot, ← Power.two_le_count_above p watts temp, ← Power.samples10ms_le_count_below p watts temp, ge_iff_le, gt_iff_lt,
    Bool.or_eq_true, Bool.and_eq_true, bne_iff_ne, decide_eq_true_eq]
  rfl

/-- No sample writes the cap or undoes a trip. -/
theorem Power.sample_cap_tripped (p : Power) (watts temp : Nat) : (p.sample watts temp).cap = p.cap ∧ (p.sample watts temp).tripped = p.tripped := by
  rw [Power.sample_eq]
  split_ifs <;> exact ⟨rfl, rfl⟩

/-- After a trip nothing but a cold reset moves the module. -/
theorem State.held_of_tripped {s : State} (trip : s.power.tripped = true) (next : s.agenda.head? ≠ some (.event .coldReset)) : s.held = true := by
  unfold State.held
  rw [trip, Bool.true_and]
  split
  · next h => exact absurd (by rw [h, List.head?_cons]) next
  · rfl

theorem step_of_held {s : State} (held : s.held = true) : step s = .fault .heldInReset := if_pos held

/-- At the 100th sample above the cap at step 6 the alarm is raised, and the count goes past it. -/
theorem execPowerOvercapAlarm_raised {s : State} (step : s.power.step = 6) (above : s.power.above = 100) :
    exec .powerOvercapAlarm s = .next { s.logError 2 0 unitMgmt none 0 [] with power := { s.power with above := 101 }, fwSignals := s.fwSignals + 1 } :=
  congrArg Host.Outcome.next (if_pos (by simp [step, above, samples10ms]))

theorem execPowerOvercapAlarm_idle {s : State} (quiet : s.power.step ≠ 6 ∨ s.power.above ≠ 100) : exec .powerOvercapAlarm s = .next s :=
  congrArg Host.Outcome.next (if_neg (by simpa [samples10ms, imp_iff_not_or] using quiet))

theorem execPowerCapWrite_taken {watts : Nat} (low : watts ≤ 3200) (s : State) :
    exec (.powerCapWrite watts) s = .next { s with power := { s.power with cap := watts, capLowered := decide (watts < 3200) } } :=
  congrArg Host.Outcome.next (if_neg (Nat.not_lt.2 low))

theorem execPowerCapWrite_refused {watts : Nat} (high : 3200 < watts) (s : State) : exec (.powerCapWrite watts) s = .next s :=
  congrArg Host.Outcome.next (if_pos high)

end Sys2Proof.Machine

namespace Sys2Proof.Spec

open Sys2Proof Sys2Proof.Machine

/-- Every sample moves the step by the rules of R20. -/
theorem stepMoves_sample (p : Power) (watts temp : Nat) : StepMoves p (p.sample watts temp) watts temp := by
  obtain ⟨cap, tripped⟩ := p.sample_cap_tripped watts temp
  refine ⟨cap, tripped, fun hot room => ?slower, fun hot full => ?slowest, fun calm cool room => ?faster, fun calm steady => ?steady⟩
  case slower =>
    rw [Power.sample_eq, if_pos hot, if_pos room]
    exact ⟨rfl, rfl, rfl, (p.count watts temp).moveTo_changes (p.step + 1)⟩
  case slowest =>
    rw [Power.sample_eq, if_pos hot, if_neg (Nat.not_lt.2 full)]
    exact ⟨rfl, rfl, rfl⟩
  case faster =>
    rw [Power.sample_eq, if_neg calm, if_pos ⟨cool, room⟩]
    exact ⟨rfl, rfl, rfl, (p.count watts temp).moveTo_changes (p.step - 1)⟩
  case steady =>
    rw [Power.sample_eq, if_neg calm, if_neg fun ⟨cool, room⟩ => steady.elim (· cool) room]
    exact ⟨rfl, rfl, rfl, rfl⟩

/-- Settles O51: a sample by the cases of R20, the alarm, the cap and the trip each by the lemma of its event. -/
theorem powerManager : Obligations.PowerManager := by
  intro s watts temp p
  refine ⟨⟨_, rfl, stepMoves_sample p watts temp, rfl⟩, ⟨_, rfl, rfl⟩, fun low => ?taken, fun high => execPowerCapWrite_refused high s, fun step above => ?raised,
    execPowerOvercapAlarm_idle, ?trip⟩
  case taken => exact ⟨_, execPowerCapWrite_taken low s, rfl, rfl, rfl⟩
  case raised => exact ⟨_, execPowerOvercapAlarm_raised step above, rfl, rfl, _, rfl, rfl, rfl⟩
  case trip => exact ⟨_, rfl, rfl, fun next => step_of_held (State.held_of_tripped rfl next)⟩

end Sys2Proof.Spec
end

section
/-! The state after reset. -/

namespace Sys2Proof.Machine

open Sys2Proof

/-- No core is listed after reset: each reads as a core after reset. -/
@[simp] theorem State.core_reset (k : Nat) : State.reset.core k = Core.reset := rfl

/-- All four clusters of a core begin alike. -/
@[simp] theorem Core.cl_reset (c : Cluster) : Core.reset.cl c = Cl.reset := by cases c <;> rfl

/-- PCIe leaves DOWN for TRAINING at reset; no other link does (R369). -/
theorem State.link_reset_st (l : Nat) : (State.reset.link l).st = if l = 28 then .training else .down := by
  show (sget Link.reset [(28, { Link.reset with st := .training })] l).st = _
  rw [sget, sget]
  split <;> rfl

/-- Every barrier is IDLE after reset. -/
theorem State.bar_reset_st (key : Nat) : (State.reset.bar key).st = 0 := show (Bar.ofWord 0).st = 0 by decide

/-- Both memories are empty, which is canonical. -/
theorem State.inv_reset : State.reset.Inv := ⟨rfl, rfl⟩

end Sys2Proof.Machine

namespace Sys2Proof.Spec

open Sys2Proof Sys2Proof.Machine

/-- Settles O59: what reset lists nothing of reads as its own reset value, and the rest is PCIe's link and the four clusters of a core. -/
theorem resetState : Obligations.ResetState := by
  refine ⟨fun _ => rfl, fun _ => rfl, fun _ _ => rfl, fun _ => rfl, State.link_reset_st, fun _ _ => ⟨rfl, rfl, rfl, rfl, rfl⟩, fun _ _ => rfl, fun _ => ⟨rfl, rfl, rfl, rfl⟩,
    fun k c => ?_, rfl, fun _ _ => rfl, fun _ => rfl, State.bar_reset_st, fun _ => rfl, rfl, rfl, rfl, rfl, State.inv_reset⟩
  rw [State.core_reset, Core.cl_reset]
  exact ⟨rfl, rfl, rfl⟩

end Sys2Proof.Spec
end

section
/-! What reads and writes through the caches of a die leave as it was (R89, R90, R91), and what a walk and a fetch do (R112, R345, R348). -/

namespace Sys2Proof.Machine

open Sys2Proof

namespace HomeWork

variable {s t : State}

theorem setL2 (h : HomeWork s t) (die : Nat) (m : Sparse L2Byte) : HomeWork s (t.setL2 die m) := h.of_eq rfl rfl

theorem l2Send (h : HomeWork s t) (die l : Nat) (p : L2Byte → Bool) : HomeWork s (t.l2Send die l p) := by
  unfold State.l2Send
  dsimp only
  split
  · exact h
  · next e _ =>
    split
    · exact h.meetHold
    · have g := (h.othersFlush (t.lineAt l e.2.attr).1 (128 * l / 2 ^ 21) (t.lineAt l e.2.attr).2 (some die)).setL2 die
        (afterSend l p (t.othersDirty die l) ((t.othersFlush (t.lineAt l e.2.attr).1 (128 * l / 2 ^ 21) (t.lineAt l e.2.attr).2 (some die)).l2Of die))
      split
      · exact (g.touch _ _).entryAt _ _ _
      · exact g.logAccess _ _ _

theorem l2Back (h : HomeWork s t) (die l : Nat) : HomeWork s (t.l2Back die l) := (h.l2Send die l _).setL2 _ _

theorem l2Room (h : HomeWork s t) (die l : Nat) : HomeWork s (t.l2Room die l) := by
  unfold State.l2Room
  split
  · exact h.l2Back _ _
  · exact h

theorem l2Put (h : HomeWork s t) (k l : Nat) (bs : List (Nat × Byte × PAttr)) : HomeWork s (t.l2Put k l bs) := (h.l2Room _ l).setL2 _ _

theorem l2Release (h : HomeWork s t) (k : Nat) (p : Nat → Bool) : HomeWork s (t.l2Release k p) := foldl (fun _ l g => g.l2Send _ l _) _ h

theorem homeRead (h : HomeWork s t) (acc : Acc) (o n : Nat) : HomeWork s (t.homeRead acc o n).1 := h.homeReadLoop _ acc o n

theorem homeWrite (h : HomeWork s t) (acc : Acc) (o : Nat) (bs : List (Option Byte)) : HomeWork s (t.homeWrite acc o bs) := h.homeWriteLoop none _ acc o bs

theorem l2Get (h : HomeWork s t) (die : Nat) (acc : Acc) (attr : PAttr) (o n : Nat) : HomeWork s (t.l2Get die acc attr o n).1 := by
  unfold State.l2Get
  dsimp only
  split
  · exact h
  · exact ((h.homeRead acc _ 128).l2Room die _).setL2 die _

theorem l2Num (h : HomeWork s t) (die a n : Nat) : HomeWork s (t.l2Num die a n).1 := h.l2Get die _ _ _ n

theorem sector (h : HomeWork s t) (acc : Acc) (slot n : Nat) : HomeWork s (t.sector acc slot n).1 := by
  have g := h.homeRead acc (4 * n) 4
  unfold State.sector
  dsimp only
  split
  · exact h
  · split
    · exact g
    · split
      · exact g
      · exact g
      · split
        · exact g
        · have r (o m : Nat) : HomeWork s ((t.homeRead acc (4 * n) 4).1.homeRead acc o m).1 := g.homeRead acc o m
          split
          · exact r _ _
          · split <;> exact r _ _

theorem codecLoop (h : HomeWork s t) (k : Nat) (acc : Acc) (slot o n : Nat) : HomeWork s (t.codecLoop k acc slot o n).1 := by
  induction k generalizing t o n with
  | zero => exact h
  | succ k ih =>
    have g := h.sector acc slot (o / 256)
    unfold State.codecLoop
    dsimp only
    split
    · exact h
    · refine ih ?_ _ _
      split
      · exact g.logError _ _ _ _ _ _
      · exact g

theorem pageRead (h : HomeWork s t) (hd : BitVec 128) (kd : BitVec 8) (o n : Nat) : HomeWork s (t.pageRead hd kd o n).1 := by
  unfold State.pageRead
  dsimp only
  split
  · exact h.codecLoop _ _ _ _ _
  · exact h.homeRead _ _ _

theorem l2ReadLoop (h : HomeWork s t) (j k : Nat) (hd : BitVec 128) (kd : BitVec 8) (o n : Nat) : HomeWork s (t.l2ReadLoop j k hd kd o n).1 := by
  induction j generalizing t o n with
  | zero => exact h
  | succ j ih =>
    unfold State.l2ReadLoop
    dsimp only
    split
    · exact h
    · exact ih (h.l2Get _ _ _ _ _) _ _

theorem l2Read (h : HomeWork s t) (k : Nat) (hd : BitVec 128) (kd : BitVec 8) (o n : Nat) : HomeWork s (t.l2Read k hd kd o n).1 := by
  unfold State.l2Read
  split
  · exact h.pageRead hd kd o n
  · exact h.l2ReadLoop _ k hd kd o n

end HomeWork

/-! Walks and fetches also renew the walk caches. -/

/-- The state beside what home slices and walk caches work on. -/
def State.besideWalk (s : State) : State := { s.besideHome with walkCache := [] }

/-- `t` is `s` after walks of page tables: nothing beside the caches and the home slices differs, and the device's own writes that waited still wait. -/
structure WalkWork (s t : State) : Prop where
  beside : t.besideWalk = s.besideWalk
  todo : s.todo <+: t.todo

theorem HomeWork.walk {s t : State} (h : HomeWork s t) : WalkWork s t := ⟨congrArg (fun x : State => { x with walkCache := [] }) h.beside, h.todo⟩

namespace WalkWork

variable {s t u : State}

theorem refl (s : State) : WalkWork s s := (HomeWork.refl s).walk

theorem trans (h : WalkWork s t) (g : WalkWork t u) : WalkWork s u := ⟨g.beside.trans h.beside, h.todo.trans g.todo⟩

theorem cores (h : WalkWork s t) : t.cores = s.cores := show t.besideWalk.cores = s.besideWalk.cores by rw [h.beside]
theorem ctxs (h : WalkWork s t) : t.ctxs = s.ctxs := show t.besideWalk.ctxs = s.besideWalk.ctxs by rw [h.beside]
theorem curCl (h : WalkWork s t) : t.curCl = s.curCl := show t.besideWalk.curCl = s.besideWalk.curCl by rw [h.beside]

theorem noteWalk (h : WalkWork s t) (e : WalkEnt) : WalkWork s (t.noteWalk e) := ⟨h.beside, h.todo⟩

theorem walkRead (h : WalkWork s t) (x : Ctx) (die key a : Nat) : WalkWork s (t.walkRead x die key a).1 := by
  unfold State.walkRead
  split
  · exact h.noteWalk _
  · exact h.trans ((HomeWork.refl t).l2Num die a 8).walk

theorem pointer (h : WalkWork s t) (x : Ctx) (die key a : Nat) : WalkWork s (t.pointer x die key a).1 := by
  have g := h.walkRead x die key a
  unfold State.pointer
  dsimp only
  split
  · exact g
  · split
    · exact g
    · split
      · exact g
      · exact g.noteWalk _

theorem walk (h : WalkWork s t) (ctx die vpage : Nat) : WalkWork s (t.walk ctx die vpage).1 := by
  have g := h.pointer (t.ctx ctx) die (vpage / 2 ^ 18) ((t.ctx ctx).desc.ptroot.toNat + 8 * (vpage / 2 ^ 18))
  unfold State.walk
  dsimp only
  generalize t.pointer _ _ _ _ = p at g
  obtain ⟨t2, a2, r2⟩ := p
  dsimp only
  cases r2 with
  | some r => exact g
  | none =>
    have g3 := g.pointer (t.ctx ctx) die (2 ^ 27 + vpage / 2 ^ 9) (a2 + 8 * (vpage / 2 ^ 9 % 512))
    dsimp only at g3 ⊢
    generalize State.pointer t2 _ _ _ _ = q at g3
    obtain ⟨t3, a3, r3⟩ := q
    cases r3 with
    | some r => exact g3
    | none =>
      have g4 := g3.trans ((HomeWork.refl t3).l2Num die (a3 + 8 * (vpage % 512)) 8).walk
      dsimp only at g4 ⊢
      split
      · exact g4
      · split
        · exact g4
        · split <;> exact g4

theorem fetch (h : WalkWork s t) (k : Nat) (c : Cluster) (pc : VAddr) : WalkWork s (t.fetch k c pc).1 := by
  have g := h.walk (t.core k).ctxNum (dieOf k) (pc.toNat / 2 ^ 21)
  unfold State.fetch
  dsimp only
  generalize t.walk _ _ _ = p at g
  obtain ⟨u, r⟩ := p
  cases r with
  | fault => exact g
  | fail => exact g
  | page hd hen =>
    dsimp only
    split
    · exact g
    · have f := g.trans ((HomeWork.refl u).l2Read k hd (u.ctx (t.core k).ctxNum).kdom (pc.toNat % 2 ^ 21) c.wordBytes).walk
      split <;> exact f

theorem fetchAt (h : WalkWork s t) (k : Nat) (c : Cluster) : WalkWork s (t.fetchAt k c).1 := by
  have g := h.fetch k c ((t.core k).cl c).pc
  unfold State.fetchAt
  dsimp only
  generalize t.fetch _ _ _ = p at g
  obtain ⟨u, r⟩ := p
  cases r with
  | trap x o => exact g
  | word w =>
    dsimp only
    split
    · exact g
    · have f := g.fetch k c (pcPlus c ((t.core k).cl c).pc 1)
      dsimp only at f
      generalize State.fetch u _ _ _ = q at f
      obtain ⟨v, r2⟩ := q
      cases r2 <;> exact f

end WalkWork

end Sys2Proof.Machine
end

section
/-! One step: what begins it, and the move that it performs (log 3, log 5). -/

namespace Sys2Proof.Spec

open Sys2Proof Sys2Proof.Machine

/-- With nothing waiting to go home a step begins with the passing of time alone. -/
theorem begin_of_nothing_waiting {s : State} (posted : s.posted = []) (todo : s.todo = []) : s.begin = s.elapse.noteChanges := by
  have drained : s.elapse.drainPosted = s.elapse := by
    unfold State.drainPosted
    exact if_pos (by rw [show s.elapse.posted = s.posted from rfl, posted]; rfl)
  have flushed : s.elapse.flushTodo = s.elapse := State.flushLoop_done (t := s.elapse) todo 256
  simp only [State.begin, drained, ite_self, flushed]

/-- A step performs the first move of the agenda. -/
theorem step_move {s : State} {m : Move} {r : List Move} (held : s.held = false) (next : s.begin.agenda = m :: r) :
    step s = moveDone s.begin (moveBody { s.begin with agenda := r } m) := by
  have perform : step s = performMove s.begin m r := by
    simp only [step, stepMove, held, next, Bool.false_eq_true, if_false]
  rw [perform]
  unfold performMove
  cases moveBody { s.begin with agenda := r } m <;> rfl

/-- A carrier with W2 decodes to no word (R128). -/
theorem decodeScalar_w2 {h : Hdr} {w lit : Nat} {stray wide : Bool} {i : Instr} : decodeScalar h w lit stray wide true ≠ .ok i := by
  unfold decodeScalar
  generalize decodeBody h w (lit % 2 ^ 32) = r
  cases r with
  | ok j =>
    simp only [if_true]
    split
    · exact Dec.noConfusion
    · split <;> exact Dec.noConfusion
  | bad b =>
    simp only
    split
    · exact Dec.noConfusion
    · split
      · exact Dec.noConfusion
      · split <;> simp

/-- What decodes passes the order of R131 as it is. -/
theorem decodeAt_of_decode {c : Cluster} {w next : Nat} {i : Instr} (ok : decode c w next = .ok i) : decodeAt c w next = .ok i := by
  unfold decodeAt
  split
  · exact ok
  · next vector =>
    have hc : c = .V := by simpa using vector
    subst hc
    split
    · next carrier =>
      simp only [Bool.and_eq_true] at carrier
      obtain ⟨unit, w2⟩ := carrier
      unfold decode at ok
      simp only [unit, w2, if_true] at ok
      split at ok
      · cases ok
      · exact absurd ok decodeScalar_w2
    · split
      · next compare =>
        simp only [Bool.and_eq_true, Bool.or_eq_true, beq_iff_eq] at compare
        obtain ⟨unit, op⟩ := compare
        unfold decode at ok
        rw [unit] at ok
        have refused : decodeV (Hdr.ofNat (w / 2 ^ (Cluster.V.width - 11))) 2 (bits w 80 72) (VOps.ofNat w) = .bad (.illop 0x06) := by
          rcases op with op | op <;> rw [op] <;> rfl
        simp only [Nat.reduceBEq, Bool.false_eq_true, if_false, refused] at ok
        split at ok <;> cases ok
      · exact ok

/-- A cluster's word with Y clear that can issue is fetched and runs alone. -/
theorem issueMove_alone {u t : State} {core : CoreId} {c : Cluster} {w next : Nat} (can : (u.at core c).canIssue = true) (break_ : (u.at core c).myCl.atBreak = false)
    (fetched : (u.at core c).fetchAt core.toNat c = (t, .words w next)) (alone : wordY c w = false) :
    issueMove u core c = halting core (issueAlone t w next) ∧ t.curCl = c := by
  constructor
  · simp only [issueMove, can, break_, fetched, alone, Bool.not_true, Bool.not_false, Bool.false_eq_true, if_false, if_true]
  · have work := (WalkWork.refl (u.at core c)).fetchAt core.toNat c
    rw [fetched] at work
    exact work.curCl

theorem haltHit_of_not_hit {t : State} {k : Nat} (quiet : (t.core k).debug ≠ .hit) : t.haltHit k = t := if_neg (by simpa using quiet)

/-- Settles O58: the first move of the agenda, by the kind of the move. -/
theorem stepRuns : Obligations.StepRuns := by
  refine ⟨fun s => begin_of_nothing_waiting, ?word, ?halts, ?event, fun s r held next => step_move held next⟩
  case word =>
    intro s core c r w next t held agenda u can break_ fetched alone
    obtain ⟨run, cluster⟩ := issueMove_alone can break_ fetched alone
    have moved : step s = wordDone s.begin core (issueAlone t w next) := (step_move held agenda).trans (congrArg _ run)
    refine ⟨fun i ok => ?_, fun b bad => ?_⟩
    · rw [moved, issueAlone, cluster, decodeAt_of_decode ok]
    · rw [moved, issueAlone, cluster, bad]
  case halts =>
    intro b t core quiet
    have done : wordDone b core (.next t) = if t.heldHit then b.firstTry b.tries else .next t :=
      congrArg (fun x => moveDone b (.next x)) (haltHit_of_not_hit quiet)
    exact ⟨fun held => done.trans (if_pos held), fun free => done.trans (if_neg (by simp [free]))⟩
  case event =>
    intro s i r held agenda event b u
    have moved := step_move held agenda
    have body : moveBody u (.event i) = if viaBar i && !u.barOpen then .next u else exec i u := by
      simp only [moveBody, event, bne_self_eq_false, Bool.false_or]
    have opened : u.barOpen = ((b.started && !b.turnFailed) && b.linkUp 28) := rfl
    refine ⟨fun bar => ?_, fun via shut free => ?_⟩
    · refine moved.trans (congrArg _ (body.trans (if_neg ?_)))
      rw [opened]
      by_cases via : viaBar i = true
      · obtain ⟨started, failed, link⟩ := bar via
        simp [started, failed, link]
      · simp [via]
    · refine ⟨u, moved.trans ?_, rfl⟩
      have closed : u.barOpen = false := by
        rw [opened]
        rcases shut with h | h | h <;> simp [h]
      have dropped : moveBody u (.event i) = .next u := body.trans (if_pos (by simp [via, closed]))
      rw [dropped]
      exact if_neg (by rw [show u.heldHit = b.heldHit from rfl, free]; exact Bool.false_ne_true)

end Sys2Proof.Spec
end

section
/-! Results in flight that reach their registers: what they leave as it was (R45, R49). -/

namespace Sys2Proof.Machine

open Sys2Proof

/-- A cluster beside the registers that results in flight reach, and what is in flight. -/
def Cl.besideResults (x : Cl) : Cl := { x with s := [], p := [], aflags := 0, outL := none, outR := none, flight := [], loadQ := [] }

/-- A core beside its clusters, what results in flight reach, and the continuations that their writes may wake. -/
def Core.besideResults (k : Core) : Core :=
  { k with a := Cl.reset, v := Cl.reset, t := Cl.reset, sc := Cl.reset, toRight := [], toLeft := [], vr := [], q := [],
           latch := [], h := [], sp := [], spPoison := [], owner := [], conts := [], ready := [] }

/-- `j` is `k` after results have reached their registers: nothing beside those differs. -/
structure Core.Delivered (k j : Core) : Prop where
  clusters : ∀ c, (j.cl c).besideResults = (k.cl c).besideResults
  rest : j.besideResults = k.besideResults

namespace Core.Delivered

variable {k j l : Core}

theorem refl (k : Core) : Core.Delivered k k := ⟨fun _ => rfl, rfl⟩

theorem trans (h : Core.Delivered k j) (g : Core.Delivered j l) : Core.Delivered k l := ⟨fun c => (g.clusters c).trans (h.clusters c), g.rest.trans h.rest⟩

theorem pc (h : Core.Delivered k j) (c : Cluster) : (j.cl c).pc = (k.cl c).pc := (congrArg Cl.pc (h.clusters c) : _)
theorem exposed (h : Core.Delivered k j) (c : Cluster) : (j.cl c).exposed = (k.cl c).exposed := (congrArg Cl.exposed (h.clusters c) : _)
theorem icyc (h : Core.Delivered k j) (c : Cluster) : (j.cl c).icyc = (k.cl c).icyc := (congrArg Cl.icyc (h.clusters c) : _)
theorem wait (h : Core.Delivered k j) (c : Cluster) : (j.cl c).wait = (k.cl c).wait := (congrArg Cl.wait (h.clusters c) : _)
theorem phaseReq (h : Core.Delivered k j) : j.phaseReq = k.phaseReq := (congrArg Core.phaseReq h.rest : _)

/-- What a core holds beside its clusters changes where results reach. -/
theorem of_cl (hc : ∀ c, j.cl c = k.cl c) (hr : j.besideResults = k.besideResults) : Core.Delivered k j := ⟨fun c => by rw [hc], hr⟩

/-- The same update of a cluster on both sides. -/
theorem upCl (h : Core.Delivered k j) (c : Cluster) {f g : Cl → Cl} (hf : (g (j.cl c)).besideResults = (f (k.cl c)).besideResults) :
    Core.Delivered (k.upCl c f) (j.upCl c g) := by
  refine ⟨fun e => ?_, ?_⟩
  · by_cases he : e = c
    · subst he
      rw [Core.cl_upCl_self, Core.cl_upCl_self, hf]
    · rw [Core.cl_upCl_ne _ he, Core.cl_upCl_ne _ he, h.clusters e]
  · have drop (x : Core) (f : Cl → Cl) : (x.upCl c f).besideResults = x.besideResults := by cases c <;> rfl
    rw [drop, drop, h.rest]

/-- An update of a cluster where results reach. -/
theorem up (k : Core) (c : Cluster) {f : Cl → Cl} (hf : (f (k.cl c)).besideResults = (k.cl c).besideResults) : Core.Delivered k (k.upCl c f) := by
  have same : k.upCl c id = k := Core.setCl_cl k c
  have up := (refl k).upCl c (f := id) (g := f) hf
  rwa [same] at up

theorem setFifo (h : Core.Delivered k j) (c : Cluster) (d : Dir) (l : List (Option Word)) : Core.Delivered k (j.setFifo c d l) :=
  h.trans (.of_cl (fun e => Core.setFifo_cl j c d l e) (by cases d <;> rfl))

theorem enter (h : Core.Delivered k j) (c : Cluster) (d : Dir) : Core.Delivered k (j.enter c d) := by
  unfold Core.enter
  exact (h.trans (.up j c (by cases d <;> rfl))).setFifo c d _

theorem pushBits (h : Core.Delivered k j) (c : Cluster) (m : BitVec 2) : Core.Delivered k (j.pushBits c m) := by
  unfold Core.pushBits
  have left : Core.Delivered k (if m.getLsbD 1 then j.enter c .left else j) := by
    split
    · exact h.enter c _
    · exact h
  dsimp only
  split
  · exact left.enter c _
  · exact left

theorem setVname (h : Core.Delivered k j) (n : Nat) (v : VVal) : Core.Delivered k (j.setVname n v) :=
  h.trans (.of_cl (Core.setVname_cl j n v) (by unfold Core.setVname; split_ifs <;> rfl))

theorem latchIn (h : Core.Delivered k j) (port : Nat) (v : VVal) : Core.Delivered k (j.latchIn port v) := by
  have at0 : Core.Delivered k (j.latchAt port 0 v) :=
    h.trans (.of_cl (fun e => by unfold Core.latchAt; cases e <;> rfl) (by unfold Core.latchAt; rfl))
  unfold Core.latchIn
  dsimp only
  split
  · exact at0.trans (.up (j.latchAt port 0 v) .V (f := fun x => { x with loadQ := x.loadQ.map LoadEnt.passed }) rfl)
  · exact at0

theorem setOwners (h : Core.Delivered k j) (t : Nat) (o : BitVec 3) (l : List Nat) :
    Core.Delivered k (l.foldl (fun k i => k.setOwner (t + i) o) j) := by
  induction l generalizing j with
  | nil => exact h
  | cons i r ih => exact ih (h.trans (.of_cl (fun e => by cases e <;> rfl) rfl))

theorem applyVal (h : Core.Delivered k j) (c : Cluster) (v : RegVal) : Core.Delivered k (j.applyVal c v) := by
  cases v with
  | sreg r v => exact h.trans (.up j c (f := fun x => x.setReg r v) (by unfold Cl.setReg; split <;> rfl))
  | pred p m v => exact h.trans (.up j c (f := fun x => x.setPred p m v) (by unfold Cl.setPred; split <;> rfl))
  | vreg n m v bd b part port =>
    unfold Core.applyVal
    dsimp only
    split
    · exact (h.setVname n _).latchIn _ _
    · exact h.setVname n _
  | handle r v => exact h.trans (.of_cl (fun e => by cases e <;> rfl) rfl)
  | flags f => exact h.trans (.up j c (f := fun x => { x with aflags := x.aflags ||| f }) rfl)
  | sp a bs => exact h.trans (.of_cl (fun e => by cases e <;> rfl) rfl)
  | own t n o => exact h.setOwners t o _
  | payload d v => exact h.trans (.up j c (f := fun x => x.setOutgoing d v) (by cases d <;> rfl))
  | pushes m | storePushes m => exact h.pushBits c m

theorem writeDue (h : Core.Delivered k j) (c : Cluster) (l : List InFlight) : Core.Delivered k (Core.writeDue c l j).1 := by
  induction l generalizing j with
  | nil => exact h
  | cons f r ih =>
    unfold Core.writeDue
    split
    · exact ih (h.applyVal c _)
    · exact ih h

theorem commitBy (h : Core.Delivered k j) (c : Cluster) (n : Nat) : Core.Delivered k (j.commitBy c n) := by
  have due := (h.trans (.up j c (f := fun x => { x with flight := (j.cl c).flight.filter fun f => !decide (f.due ≤ n) }) rfl)).writeDue c
    ((j.cl c).flight.filter fun f => f.due ≤ n)
  unfold Core.commitBy
  dsimp only
  split
  · exact due
  · exact due.trans (.up _ c rfl)

theorem commitWhere (h : Core.Delivered k j) (c : Cluster) (p : RegVal → Bool) : Core.Delivered k (j.commitWhere c p) := by
  have due := (h.trans (.up j c (f := fun x => { x with flight := (j.cl c).flight.filter fun f => !p f.what }) rfl)).writeDue c
    ((j.cl c).flight.filter fun f => p f.what)
  unfold Core.commitWhere
  dsimp only
  split
  · exact due
  · exact due.trans (.up _ c rfl)

theorem recheck (h : Core.Delivered k j) : Core.Delivered k j.recheck := by
  refine h.trans (.of_cl (Core.recheck_cl j) ?_)
  unfold Core.recheck Core.wake
  split
  · rfl
  · dsimp only
    split <;> rfl

end Core.Delivered

/-! What results in flight that reach their registers leave in flight. -/

theorem Core.enter_flight (k : Core) (c : Cluster) (d : Dir) (e : Cluster) : ((k.enter c d).cl e).flight = (k.cl e).flight := by
  unfold Core.enter
  rw [Core.setFifo_cl]
  by_cases he : e = c
  · subst he
    rw [Core.cl_upCl_self]
    cases d <;> rfl
  · rw [Core.cl_upCl_ne _ he]

theorem Core.pushBits_flight (k : Core) (c : Cluster) (m : BitVec 2) (e : Cluster) : ((k.pushBits c m).cl e).flight = (k.cl e).flight := by
  unfold Core.pushBits
  dsimp only
  split <;> split <;> simp only [Core.enter_flight]

theorem Core.upCl_flight {k : Core} {c : Cluster} {f : Cl → Cl} (h : (f (k.cl c)).flight = (k.cl c).flight) (e : Cluster) :
    ((k.upCl c f).cl e).flight = (k.cl e).flight := by
  by_cases he : e = c
  · subst he
    rw [Core.cl_upCl_self, h]
  · rw [Core.cl_upCl_ne _ he]

theorem Core.latchIn_flight (k : Core) (port : Nat) (v : VVal) (e : Cluster) : ((k.latchIn port v).cl e).flight = (k.cl e).flight := by
  have at0 : (k.latchAt port 0 v).cl e = k.cl e := by unfold Core.latchAt; cases e <;> rfl
  unfold Core.latchIn
  dsimp only
  split
  · rw [← at0]
    exact Core.upCl_flight (k := k.latchAt port 0 v) (c := .V) (f := fun x => { x with loadQ := x.loadQ.map LoadEnt.passed }) rfl e
  · rw [at0]

theorem Core.applyVal_flight (k : Core) (c : Cluster) (v : RegVal) (e : Cluster) : ((k.applyVal c v).cl e).flight = (k.cl e).flight := by
  cases v with
  | sreg r v => exact Core.upCl_flight (Cl.setReg_flight _ r v) e
  | pred p m v => exact Core.upCl_flight (Cl.setPred_flight _ p m v) e
  | vreg n m v bd b part port =>
    unfold Core.applyVal
    dsimp only
    split
    · rw [Core.latchIn_flight, Core.setVname_cl]
    · rw [Core.setVname_cl]
  | handle r v => cases e <;> rfl
  | flags f => exact Core.upCl_flight (f := fun x => { x with aflags := x.aflags ||| f }) rfl e
  | sp a bs => cases e <;> rfl
  | own t n o => exact congrArg Cl.flight (Core.setOwners_cl k t o _ e)
  | payload d v => exact Core.upCl_flight (by cases d <;> rfl) e
  | pushes m | storePushes m => exact Core.pushBits_flight k c m e

theorem Core.writeDue_flight (c : Cluster) (l : List InFlight) (k : Core) (e : Cluster) : ((Core.writeDue c l k).1.cl e).flight = (k.cl e).flight := by
  induction l generalizing k with
  | nil => rfl
  | cons f r ih =>
    unfold Core.writeDue
    split
    · rw [ih, Core.applyVal_flight]
    · exact ih k

/-- What is not due by issue cycle `n` stays in flight (R49). -/
theorem Core.mem_flight_commitBy {k : Core} {c : Cluster} {n : Nat} {f : InFlight} (hf : f ∈ (k.cl c).flight) (later : n < f.due) :
    f ∈ ((k.commitBy c n).cl c).flight := by
  have kept : f ∈ ((Core.writeDue c ((k.cl c).flight.filter fun f => f.due ≤ n)
      (k.upCl c fun x => { x with flight := (k.cl c).flight.filter fun f => !decide (f.due ≤ n) })).1.cl c).flight := by
    rw [Core.writeDue_flight, Core.cl_upCl_self]
    simp [hf, later]
  unfold Core.commitBy
  dsimp only
  split
  · exact kept
  · rw [Core.cl_upCl_self]
    exact List.mem_append_right _ kept

/-! The same of the state that issues. -/

theorem State.upMine_upMine (s : State) (f g : Core → Core) : ((s.upMine f).upMine g).mine = g (f s.mine) := by simp

/-- `t` is `s` after results of the issuing cluster have reached their registers. -/
structure Delivered (s t : State) : Prop where
  outside : SameOutside s t
  core : Core.Delivered s.mine t.mine

namespace Delivered

variable {s t u : State}

theorem refl (s : State) : Delivered s s := ⟨.refl s, .refl _⟩

theorem trans (h : Delivered s t) (g : Delivered t u) : Delivered s u := ⟨h.outside.trans g.outside, h.core.trans g.core⟩

theorem upMine {f : Core → Core} (h : Core.Delivered s.mine (f s.mine)) : Delivered s (s.upMine f) :=
  ⟨.upMine s f, by rw [State.mine_upMine]; exact h⟩

theorem recheck (h : Delivered s t) : Delivered s (t.recheck t.me) := h.trans (.upMine (.recheck (.refl _)))

theorem curCl (h : Delivered s t) : t.curCl = s.curCl := h.outside.curCl

theorem pc (h : Delivered s t) : t.myCl.pc = s.myCl.pc := by
  unfold State.myCl
  rw [h.curCl, h.core.pc]

theorem icyc (h : Delivered s t) : t.myCl.icyc = s.myCl.icyc := by
  unfold State.myCl
  rw [h.curCl, h.core.icyc]

theorem exposed (h : Delivered s t) : t.myCl.exposed = s.myCl.exposed := by
  unfold State.myCl
  rw [h.curCl, h.core.exposed]

end Delivered

/-- The issuing cluster at issue cycle `n`. -/
def State.atCycle (s : State) (n : Nat) : State := s.upMyCl fun x => { x with icyc := n }

/-- Issue cycles pass: what is then due is written, and the waits on it are looked at again (R49). -/
theorem State.tickTo_eq (s : State) (n : Nat) : s.tickTo n =
    if (s.atCycle n).myCl.flight.isEmpty then s.atCycle n else ((s.atCycle n).upMine fun k => k.commitBy s.curCl n).recheck s.me := rfl

theorem State.tickTo_delivered (s : State) (n : Nat) : Delivered (s.atCycle n) (s.tickTo n) := by
  rw [State.tickTo_eq]
  split
  · exact .refl _
  · exact (Delivered.upMine (.commitBy (.refl _) _ n)).recheck

theorem State.drainCl_delivered (s : State) : Delivered s s.drainCl := by
  unfold State.drainCl
  split
  · exact .refl _
  · exact (Delivered.upMine (.commitWhere (.refl _) _ _)).recheck

theorem State.stall_delivered (s : State) : Delivered s.stand s.stall := by
  unfold State.stall
  dsimp only
  split
  · exact .refl _
  · exact (Delivered.upMine (.commitWhere (.refl _) _ _)).recheck

theorem State.holdBack_delivered (s : State) (i : Instr) : Delivered s.stand (s.holdBack i) := by
  unfold State.holdBack
  split
  · exact s.stand.drainCl_delivered
  · exact s.stall_delivered

theorem SameOutside.upMyCl (s : State) (f : Cl → Cl) : SameOutside s (s.upMyCl f) := .upMine s _

theorem SameOutside.tickTo (s : State) (n : Nat) : SameOutside s (s.tickTo n) := (SameOutside.upMyCl s _).trans (s.tickTo_delivered n).outside

theorem SameOutside.tick (s : State) (i : Instr) : SameOutside s (s.tick i) := by
  unfold State.tick
  dsimp only
  split
  · exact .tickTo s _
  · exact (SameOutside.tickTo s _).trans (.tickTo _ _)

theorem State.tickTo_pc (s : State) (n : Nat) : (s.tickTo n).myCl.pc = s.myCl.pc := by
  rw [(s.tickTo_delivered n).pc]
  simp [State.atCycle]

theorem State.tick_pc (s : State) (i : Instr) : (s.tick i).myCl.pc = s.myCl.pc := by
  unfold State.tick
  dsimp only
  split
  · exact s.tickTo_pc _
  · rw [State.tickTo_pc, State.tickTo_pc]

/-- In exposed mode an issue cycle is the next one, whatever is in flight (R49). -/
theorem State.tick_exposed {s : State} (h : s.myCl.exposed = true) (i : Instr) : s.tick i = s.tickTo (s.myCl.icyc + 1) := by
  unfold State.tick
  exact if_pos (by simp [h])

theorem State.tick_empty {s : State} (h : s.myCl.flight = []) (i : Instr) : s.tick i = s.atCycle (s.myCl.icyc + 1) := by
  have flight : (s.atCycle (s.myCl.icyc + 1)).myCl.flight = [] := by simp [State.atCycle, h]
  have tick : s.tick i = s.tickTo (s.myCl.icyc + 1) := by
    unfold State.tick
    exact if_pos (by simp [h])
  rw [tick, State.tickTo_eq, if_pos (by rw [flight]; rfl)]

theorem State.mem_flight_tickTo {s : State} {n : Nat} {f : InFlight} (hf : f ∈ s.myCl.flight) (later : n < f.due) : f ∈ (s.tickTo n).myCl.flight := by
  have there : f ∈ (s.atCycle n).myCl.flight := by simpa [State.atCycle] using hf
  have nonempty : ((s.atCycle n).myCl.flight).isEmpty = false := List.isEmpty_eq_false_iff_exists_mem.2 ⟨f, there⟩
  rw [State.tickTo_eq, if_neg (by rw [nonempty]; exact Bool.false_ne_true)]
  show f ∈ ((((s.atCycle n).upMine _).recheck _).mine.cl s.curCl).flight
  rw [State.recheck]
  show f ∈ (((((s.atCycle n).upMine _).upMine Core.recheck)).mine.cl s.curCl).flight
  rw [State.upMine_upMine, Core.recheck_cl]
  exact Core.mem_flight_commitBy there later

theorem regsWait_exposed {k : Core} {c : Cluster} (h : (k.cl c).exposed = true) (i : Instr) : regsWait k c i = false := by
  unfold regsWait
  simp [h]

/-- In exposed mode a held word stands still, and so does what is in flight (R49). -/
theorem State.holdBack_exposed {s : State} (h : s.myCl.exposed = true) (i : Instr) : s.holdBack i = s.stand := by
  have still : s.stand.myCl.exposed = true := by simp [State.stand, h]
  unfold State.holdBack
  rw [if_neg (by rw [regsWait_exposed h]; exact Bool.false_ne_true)]
  unfold State.stall
  exact if_pos (by simp [still])

theorem State.holdBack_empty {s : State} (h : s.myCl.flight = []) (i : Instr) : s.holdBack i = s.stand := by
  have still : s.stand.myCl.flight = [] := by simp [State.stand, h]
  unfold State.holdBack
  split
  · exact if_pos (by simp [still])
  · exact if_pos (by simp [still])

/-- A word issues through `issue`, with a body of its own. -/
theorem exec_word {i : Instr} (hk : i.kind ≠ .event) : ∃ body, ∀ s, exec i s = issue s i body := by
  cases i <;> first | exact absurd rfl hk | exact ⟨_, fun _ => rfl⟩

end Sys2Proof.Machine
end

section
/-! What issue does before a word acts (R48, R119, R131, R132). -/

namespace Sys2Proof.Machine

open Sys2Proof

/-- A word whose guard is false only passes; an lbr acts all the same (R119, R150). -/
theorem Passes.issue {s : State} {i : Instr} (h : Passes s i) (notLbr : ∀ h f, i ≠ .lbr h f) (body : State → Eff) :
    issue s i body = .next ((s.ticked i).advance i) := by
  obtain ⟨issues, formed, free, room, guard⟩ := h
  have held : (!s.joint && (s.ticked i).holds i) = false := by
    cases joint : s.joint
    · simpa [State.ticked, joint] using free
    · rfl
  have passes : s.issueWord i body = (s.ticked i).advance i := by
    unfold State.issueWord
    have ticked : (if s.joint = true then s else s.tick i) = s.ticked i := rfl
    simp only [issues, Bool.not_true, Bool.false_eq_true, if_false, formed, ticked, room, held, guard]
  rw [Machine.issue, passes]

/-- A held word stands where it is, and with nothing in flight nothing of its core changes (R48, R49). -/
theorem State.holdBack_tick_empty {s : State} (h : s.myCl.flight = []) (i : Instr) : ((s.tick i).holdBack i).mine = s.mine := by
  have empty : (s.atCycle (s.myCl.icyc + 1)).myCl.flight = [] := by simp [State.atCycle, h]
  have core (k : Core) (c : Cluster) (n : Nat) (hn : n = (k.cl c).icyc) :
      (k.upCl c fun x => { x with icyc := n + 1 }).upCl c (fun x => { x with icyc := x.icyc - 1 }) = k := by
    subst hn
    cases c <;> rfl
  rw [State.tick_empty h, State.holdBack_empty empty]
  show ((s.upMine fun k => k.upCl s.curCl fun x => { x with icyc := s.myCl.icyc + 1 }).upMine fun k => k.upCl s.curCl fun x => { x with icyc := x.icyc - 1 }).mine = _
  rw [State.upMine_upMine]
  exact core s.mine s.curCl s.myCl.icyc rfl

theorem State.stand_pc (s : State) : s.stand.myCl.pc = s.myCl.pc := by simp [State.stand]

/-- In exposed mode the cycle of a held word is no issue cycle (R49). -/
theorem State.holdBack_tick_exposed {s : State} (h : s.myCl.exposed = true) (i : Instr) : (s.tick i).holdBack i = (s.tickTo (s.myCl.icyc + 1)).stand := by
  have still : (s.tick i).myCl.exposed = true := by
    rw [State.tick_exposed h, (s.tickTo_delivered _).exposed]
    simpa [State.atCycle] using h
  rw [State.holdBack_exposed still, State.tick_exposed h]

end Sys2Proof.Machine

namespace Sys2Proof.Spec

open Sys2Proof Sys2Proof.Machine

theorem falseGuardPasses : FalseGuardPasses := by
  intro s i word notLbr passes
  obtain ⟨body, run⟩ := exec_word word
  exact (run s).trans (passes.issue notLbr body)

theorem malformedTraps : MalformedTraps := by
  intro s i b word issues bad
  obtain ⟨body, run⟩ := exec_word word
  rw [run s, issue_malformed body issues bad]
  cases b <;> rfl

theorem heldWordWaits : HeldWordWaits := by
  intro s i word alone issues formed room held
  obtain ⟨body, run⟩ := exec_word word
  refine ⟨_, (run s).trans (issue_held body issues formed alone room held), ?pc, ?outside, fun empty => State.holdBack_tick_empty empty i, fun exposed => ?_⟩
  case pc => rw [((s.tick i).holdBack_delivered i).pc, State.stand_pc, State.tick_pc]
  case outside => exact ((SameOutside.tick s i).trans (.upMyCl _ _)).trans ((s.tick i).holdBack_delivered i).outside
  rw [State.holdBack_tick_exposed exposed]
  refine ⟨?_, fun f hf later => ?_⟩
  · simp [State.stand, (s.tickTo_delivered _).icyc, State.atCycle]
  · simpa [State.stand] using State.mem_flight_tickTo hf later

/-- Settles O8: a word passes, traps or stands by the lemma of `issue` for its case. -/
theorem issueChecks : Obligations.IssueChecks := ⟨falseGuardPasses, malformedTraps, heldWordWaits⟩

end Sys2Proof.Spec
end

section
/-! Words that wait where they stand, and words that retire when an event has acted on them (R32, R45, R50, R85, R160). -/

namespace Sys2Proof.Machine

open Sys2Proof

/-! Updates one after the other are one update. -/

theorem sput_sput {α : Type} (m : Sparse α) (k : Nat) (v w : α) : sput (sput m k v) k w = sput m k w := by
  induction m with
  | nil => simp [sput]
  | cons e r ih =>
    obtain ⟨i, x⟩ := e
    by_cases lt : k < i
    · simp [sput, lt]
    · by_cases eq : k = i
      · subst eq
        simp [sput]
      · simp [sput, lt, eq, ih]

theorem State.setCore_setCore (s : State) (k : Nat) (x y : Core) : (s.setCore k x).setCore k y = s.setCore k y := by
  simp only [State.setCore, sput_sput]

theorem State.upCore_upCore (s : State) (k : Nat) (f g : Core → Core) : (s.upCore k f).upCore k g = s.upCore k fun x => g (f x) := by
  show (s.setCore k (f (s.core k))).setCore k (g ((s.upCore k f).core k)) = _
  rw [State.core_upCore_self, State.setCore_setCore]
  rfl

theorem State.upMine_comp (s : State) (f g : Core → Core) : (s.upMine f).upMine g = s.upMine fun x => g (f x) := s.upCore_upCore s.me f g

theorem Core.upCl_comp (k : Core) (c : Cluster) (f g : Cl → Cl) : (k.upCl c f).upCl c g = k.upCl c fun x => g (f x) := by cases c <;> rfl

theorem State.upMyCl_comp (s : State) (f g : Cl → Cl) : (s.upMyCl f).upMyCl g = s.upMyCl fun x => g (f x) := by
  refine (s.upMine_comp _ _).trans (congrArg s.upMine (funext fun k => ?_))
  exact k.upCl_comp s.curCl f g

/-! A word that waits where it stands. -/

theorem State.drainCl_empty {s : State} (h : s.myCl.flight = []) : s.drainCl = s := if_pos (by rw [h]; rfl)

theorem State.retire_waiting {s : State} {i : Instr} (h : s.myCl.wait.isSome = true) : s.retire i = s.upMyCl fun x => { x with need := 0 } := by
  have still : (s.upMyCl fun x => { x with need := 0 }).myCl.wait.isSome = true := by simpa using h
  unfold State.retire
  exact if_pos still

theorem State.waitHere_wait (s : State) (i : Instr) : (s.waitHere i).myCl.wait = some i := by
  unfold State.waitHere
  rw [State.myCl_upMyCl]

theorem State.waitHere_delivered {s : State} {i : Instr} (h : ∀ g e, i ≠ .lmode g e) : s.waitHere i = s.drainCl.upMyCl fun x => { x with wait := some i } := by
  unfold State.waitHere
  split
  · next g e => exact absurd rfl (h g e)
  · rfl

/-- A word that waits leaves its PC where it is, and with nothing in flight nothing but its wait differs. -/
theorem State.waitHere_retired {u : State} {i : Instr} (h : ∀ g e, i ≠ .lmode g e) :
    (((u.noted i).waitHere i).retire i).myCl.wait = some i ∧ (((u.noted i).waitHere i).retire i).myCl.pc = u.myCl.pc ∧ SameOutside u (((u.noted i).waitHere i).retire i) ∧
      (u.myCl.flight = [] → ((u.noted i).waitHere i).retire i = u.upMyCl fun x => { x with wait := some i, need := 0 }) := by
  rw [State.retire_waiting (by rw [State.waitHere_wait]; rfl), State.waitHere_delivered h]
  refine ⟨by simp, ?_, ?_, fun empty => ?_⟩
  · simp only [State.myCl_upMyCl]
    rw [(u.noted i).drainCl_delivered.pc]
    simp [State.noted]
  · exact (((SameOutside.upMyCl u _).trans (u.noted i).drainCl_delivered.outside).trans (.upMyCl _ _)).trans (.upMyCl _ _)
  · have still : (u.noted i).myCl.flight = [] := by simpa [State.noted] using empty
    rw [State.drainCl_empty still, State.upMyCl_comp, State.noted, State.upMyCl_comp]

/-- A word that is ready and whose body makes it wait. -/
theorem Ready.waits {s : State} {i : Instr} {body : State → Eff} (ready : Ready s i) (stays : i.stays = true) (h : ∀ g e, i ≠ .lmode g e)
    (run : body ((s.begun i).noted i) = .ok (((s.begun i).noted i).waitHere i)) :
    ∃ t, issue s i body = .next t ∧ t.myCl.wait = some i ∧ t.myCl.pc = (s.begun i).myCl.pc ∧ SameOutside (s.begun i) t ∧
      ((s.begun i).myCl.flight = [] → t = (s.begun i).upMyCl fun x => { x with wait := some i, need := 0 }) :=
  ⟨_, ready.ok (by rw [if_pos stays]; exact run), State.waitHere_retired h⟩

theorem SameOutside.begun (s : State) (i : Instr) : SameOutside s (s.begun i) := by
  unfold State.begun
  split
  · exact .refl s
  · refine (SameOutside.tick s i).trans ?_
    unfold State.popsOf
    split
    · exact .upMine _ _
    · exact .refl _

theorem State.begun_curCl (s : State) (i : Instr) : (s.begun i).curCl = s.curCl := (SameOutside.begun s i).curCl

/-! A word that an event makes retire. -/

/-- `j` is `k` after cluster `c` has moved on from where it waited, to `pc`, and pushed. -/
structure Core.Finished (c : Cluster) (k j : Core) (pc : VAddr) : Prop where
  others : ∀ e, e ≠ c → j.cl e = k.cl e
  rest : { j with a := k.a, v := k.v, t := k.t, sc := k.sc, toRight := k.toRight, toLeft := k.toLeft } = k
  cluster : { j.cl c with
    pc := (k.cl c).pc, wait := (k.cl c).wait, flight := (k.cl c).flight, need := (k.cl c).need, outL := (k.cl c).outL, outR := (k.cl c).outR,
    popped := (k.cl c).popped } = k.cl c
  wait : (j.cl c).wait = none
  pc : (j.cl c).pc = pc

theorem Core.Still.pushSoon (c : Cluster) (k : Core) (m : BitVec 2) : Core.Still c k (k.pushSoon c m) := by
  unfold Core.pushSoon
  split
  · exact .refl c k
  · split
    · exact .pushBits c k m
    · exact .upCl c k _ rfl

theorem Core.Still.pc {c : Cluster} {k j : Core} (h : Core.Still c k j) : (j.cl c).pc = (k.cl c).pc := (congrArg Cl.pc h.cluster : _)
theorem Core.Still.wait {c : Cluster} {k j : Core} (h : Core.Still c k j) : (j.cl c).wait = (k.cl c).wait := (congrArg Cl.wait h.cluster : _)

/-- The cluster has moved to an address, and waits no longer. -/
def Core.moveTo (k : Core) (c : Cluster) (pc : VAddr) : Core := k.upCl c fun x => { x with pc := pc, wait := none, popped := [] }

/-- A cluster that has moved on and only pushes. -/
theorem Core.Still.finished {c : Cluster} {k j : Core} {pc : VAddr} (still : Core.Still c (k.moveTo c pc) j) : Core.Finished c k j pc := by
  have moved : (k.moveTo c pc).cl c = { k.cl c with pc := pc, wait := none, popped := [] } := Core.cl_upCl_self k c _
  refine ⟨fun e he => (still.others e he).trans (Core.cl_upCl_ne k he _), ?_, ?_, ?_, ?_⟩
  · refine (congrArg (fun z : Core => { z with a := k.a, v := k.v, t := k.t, sc := k.sc, toRight := k.toRight, toLeft := k.toLeft }) still.rest).trans ?_
    unfold Core.moveTo
    cases c <;> rfl
  · refine (congrArg (fun z : Cl => { z with
      pc := (k.cl c).pc, wait := (k.cl c).wait, flight := (k.cl c).flight, need := (k.cl c).need, outL := (k.cl c).outL, outR := (k.cl c).outR,
      popped := (k.cl c).popped }) still.cluster).trans ?_
    rw [moved]
  · rw [still.wait, moved]
  · rw [still.pc, moved]

/-- An update of a cluster is what it makes of that cluster. -/
theorem Core.upCl_congr {k : Core} {c : Cluster} {f g : Cl → Cl} (h : f (k.cl c) = g (k.cl c)) : k.upCl c f = k.upCl c g := congrArg (k.setCl c) h

theorem Core.finishWord_none {k : Core} {c : Cluster} (h : (k.cl c).wait = none) : k.finishWord c = k := by
  unfold Core.finishWord
  rw [h]

/-- The word at which a cluster waits retires: the cluster moves past it and pushes (R32, R45). -/
theorem Core.finishWord_some {k : Core} {c : Cluster} {i : Instr} (h : (k.cl c).wait = some i) :
    Core.Finished c k (k.finishWord c) (pcPlus c (k.cl c).pc i.words) := by
  have moved : (k.upCl c fun x => { x with pc := pcPlus c x.pc i.words, wait := none, popped := [] }) = k.moveTo c (pcPlus c (k.cl c).pc i.words) :=
    Core.upCl_congr rfl
  refine Core.Still.finished ?_
  unfold Core.finishWord
  rw [h]
  dsimp only
  rw [moved]
  split
  · exact .pushSoon c _ _
  · exact .refl c _

/-- `y` is `x` after the word at which cluster `c` waited, if it did, has retired. -/
structure Cl.Finished (c : Cluster) (x y : Cl) : Prop where
  rest : { y with pc := x.pc, wait := x.wait, flight := x.flight, need := x.need, outL := x.outL, outR := x.outR, popped := x.popped } = x
  wait : y.wait = none
  pc : ∀ i, x.wait = some i → y.pc = pcPlus c x.pc i.words

namespace Cl.Finished

variable {c : Cluster} {x y : Cl}

theorem s (h : Cl.Finished c x y) : y.s = x.s := (congrArg Cl.s h.rest : _)
theorem loops (h : Cl.Finished c x y) : y.loops = x.loops := (congrArg Cl.loops h.rest : _)
theorem trapPc (h : Cl.Finished c x y) : y.trapPc = x.trapPc := (congrArg Cl.trapPc h.rest : _)

end Cl.Finished

theorem Core.finishWord_cl (k : Core) (c : Cluster) : Cl.Finished c (k.cl c) ((k.finishWord c).cl c) := by
  cases h : (k.cl c).wait with
  | none =>
    rw [Core.finishWord_none h]
    exact ⟨rfl, h, fun i hi => absurd (h.symm.trans hi) (by simp)⟩
  | some i =>
    have done := Core.finishWord_some h
    exact ⟨done.cluster, done.wait, fun j hj => done.pc.trans (by rw [Option.some.inj (h.symm.trans hj)])⟩

theorem Core.finishWord_cl_ne (k : Core) {c e : Cluster} (he : e ≠ c) : (k.finishWord c).cl e = k.cl e := by
  cases h : (k.cl c).wait with
  | none => rw [Core.finishWord_none h]
  | some i => exact (Core.finishWord_some h).others e he

theorem Core.finishWord_rest (k : Core) (c : Cluster) :
    { k.finishWord c with a := k.a, v := k.v, t := k.t, sc := k.sc, toRight := k.toRight, toLeft := k.toLeft } = k := by
  cases h : (k.cl c).wait with
  | none => rw [Core.finishWord_none h]
  | some i => exact (Core.finishWord_some h).rest

/-- The words at which the four clusters wait retire. -/
def Core.finishEach (k : Core) : Core := Cluster.all.foldl Core.finishWord k

theorem Core.finishEach_cl (k : Core) (c : Cluster) : Cl.Finished c (k.cl c) (k.finishEach.cl c) := by
  have list (l : List Cluster) (nodup : l.Nodup) (k : Core) : (c ∉ l → (l.foldl Core.finishWord k).cl c = k.cl c) ∧
      (c ∈ l → Cl.Finished c (k.cl c) ((l.foldl Core.finishWord k).cl c)) := by
    induction l generalizing k with
    | nil => exact ⟨fun _ => rfl, fun h => absurd h List.not_mem_nil⟩
    | cons d r ih =>
      obtain ⟨hd, hr⟩ := List.nodup_cons.1 nodup
      obtain ⟨out, inside⟩ := ih hr (k.finishWord d)
      refine ⟨fun h => ?_, fun h => ?_⟩
      · obtain ⟨hc, hcr⟩ := not_or.1 (List.mem_cons.not.1 h)
        exact (out hcr).trans (Core.finishWord_cl_ne k hc)
      · by_cases hc : c = d
        · subst hc
          rw [List.foldl_cons, out hd]
          exact Core.finishWord_cl k c
        · rw [← Core.finishWord_cl_ne k hc]
          exact inside ((List.mem_cons.1 h).resolve_left hc)
  exact (list Cluster.all (by decide) k).2 (by cases c <;> decide)

theorem Core.finishEach_rest (k : Core) :
    { k.finishEach with a := k.a, v := k.v, t := k.t, sc := k.sc, toRight := k.toRight, toLeft := k.toLeft } = k := by
  have list (l : List Cluster) (j : Core) (h : { j with a := k.a, v := k.v, t := k.t, sc := k.sc, toRight := k.toRight, toLeft := k.toLeft } = k) :
      { l.foldl Core.finishWord j with a := k.a, v := k.v, t := k.t, sc := k.sc, toRight := k.toRight, toLeft := k.toLeft } = k := by
    induction l generalizing j with
    | nil => exact h
    | cons d r ih =>
      exact ih _ ((congrArg (fun z : Core => { z with a := k.a, v := k.v, t := k.t, sc := k.sc, toRight := k.toRight, toLeft := k.toLeft })
        (j.finishWord_rest d)).trans h)
  exact list _ k rfl

/-! eret (R160, R300). -/

/-- Every cluster resumes at its TRAP_PC, and nothing else of its registers changes. -/
theorem Core.eretAct_cl (k : Core) (c : Cluster) : (k.eretAct.cl c).pc = ((k.cl c).trapPc).setWidth 48 ∧ (k.eretAct.cl c).wait = none ∧ (k.eretAct.cl c).s = (k.cl c).s ∧
    (k.eretAct.cl c).loops = (k.cl c).loops ∧ (k.eretAct.cl c).stopped = (k.cl c).stopped := by
  have done := k.finishEach_cl c
  have act : k.eretAct.cl c = { k.finishEach.cl c with
      pc := (k.finishEach.cl c).trapPc.setWidth 48
      trapCause := (k.finishEach.cl c).trapCause &&& ~~~(0x8000 : Word) } := by cases c <;> rfl
  rw [act]
  exact ⟨congrArg (BitVec.setWidth 48) done.trapPc, done.wait, done.s, done.loops, (congrArg Cl.stopped done.rest : _)⟩

theorem Core.eretBad_none {k : Core} (loops : k.hloops = [k.a.loops, k.v.loops, k.t.loops, k.sc.loops]) (targets : ∀ c, badTarget c (k.cl c).trapPc = false) :
    k.eretBad = none := by
  unfold Core.eretBad
  rw [loops]
  have found : (Cluster.all.zip [k.a.loops, k.v.loops, k.t.loops, k.sc.loops]).find? (fun e => (k.cl e.1).loops != e.2) = none := by
    simp [Cluster.all, Core.cl]
  rw [found]
  simp [targets]

end Sys2Proof.Machine

namespace Sys2Proof.Spec

open Sys2Proof Sys2Proof.Machine

theorem copiesWait : CopiesWait := by
  intro s h d a b cc lv num i hi ready
  rcases hi with rfl | rfl | rfl | rfl | rfl <;> exact ready.waits rfl (fun g e => Instr.noConfusion) rfl

/-- Where the fourth eret waits, with nothing in flight, only its own wait and need differ. -/
theorem eret_waits {u : State} (h : Hdr) (empty : u.myCl.flight = []) :
    (u.noted (.eret h)).waitHere (.eret h) = u.upMyCl fun x => { x with need := pushesOf (.eret h), wait := some (.eret h) } := by
  have still : (u.noted (.eret h)).myCl.flight = [] := by simpa [State.noted] using empty
  rw [State.waitHere_delivered fun _ _ => Instr.noConfusion, State.drainCl_empty still, State.noted, State.upMyCl_comp]

/-- The fourth copy of eret returns, unless a check of R300 fails. -/
theorem eretBody_fourth {u w : State} {h : Hdr} (inside : u.mine.inh = true) (waits : u.waitHere (.eret h) = w)
    (copies : ∀ c, ∃ g, (w.mine.cl c).wait = some (.eret g)) (good : w.mine.eretBad = none) : eretBody h u = .ok (w.upMine Core.eretAct) := by
  have kinds (c : Cluster) : (w.mine.cl c).copyAt = 6 := by
    obtain ⟨g, hg⟩ := copies c
    simp only [Cl.copyAt, hg, copyKind]
  have all : w.mine.allCopies = true := by simp [Core.allCopies, kinds]
  have same : w.mine.sameCopies = true := by simp [Core.sameCopies, kinds, show w.mine.a.copyAt = 6 from kinds .A]
  have returns : w.eretAll = w.upMine Core.eretAct := by
    unfold State.eretAll
    simp only [good]
  unfold eretBody
  simp only [inside, Bool.not_true, Bool.false_eq_true, if_false, waits, all, same, Bool.and_self, if_true, returns]

/-- What eret makes of the clusters stands when it retires. -/
theorem eret_returned {u w t : State} {h : Hdr} (go : u.myCl.stopped = false) (hw : w = u.upMyCl fun x => { x with need := pushesOf (.eret h), wait := some (.eret h) })
    (ht : t = (w.upMine Core.eretAct).retire (.eret h)) :
    t.mine.inh = false ∧ ∀ c, (t.mine.cl c).pc = ((u.mine.cl c).trapPc).setWidth 48 ∧ (t.mine.cl c).wait = none ∧ (t.mine.cl c).s = (u.mine.cl c).s ∧
      (t.mine.cl c).loops = (u.mine.cl c).loops := by
  have before (c : Cluster) : (w.mine.cl c).trapPc = (u.mine.cl c).trapPc ∧ (w.mine.cl c).s = (u.mine.cl c).s ∧ (w.mine.cl c).loops = (u.mine.cl c).loops ∧
      (w.mine.cl c).stopped = (u.mine.cl c).stopped := by
    subst hw
    simp only [State.upMyCl, State.mine_upMine]
    by_cases hc : c = u.curCl
    · subst hc
      simp
    · simp [hc]
  have act (c : Cluster) := w.mine.eretAct_cl c
  have clusters (c : Cluster) : ((w.upMine Core.eretAct).mine.cl c) = (w.mine.eretAct.cl c) := by rw [State.mine_upMine]
  have moves : (w.upMine Core.eretAct).myCl.stopped = false := by
    have cur : w.curCl = u.curCl := by rw [hw]; rfl
    show ((w.upMine Core.eretAct).mine.cl w.curCl).stopped = false
    rw [clusters, (act _).2.2.2.2, (before _).2.2.2, cur]
    exact go
  obtain ⟨quiet, same⟩ := State.retire_still moves (.eret h)
  rw [← ht] at quiet same
  have inh : t.mine.inh = (w.upMine Core.eretAct).mine.inh := (congrArg Core.inh quiet.core.2 : _)
  refine ⟨by rw [inh, State.mine_upMine]; rfl, fun c => ?_⟩
  obtain ⟨hpc, hwait, hs, hloops, -⟩ := act c
  obtain ⟨htrap, hs0, hloops0, -⟩ := before c
  have kept : (t.mine.cl c).pc = (w.mine.eretAct.cl c).pc ∧ (t.mine.cl c).wait = (w.mine.eretAct.cl c).wait ∧ (t.mine.cl c).s = (w.mine.eretAct.cl c).s ∧
      (t.mine.cl c).loops = (w.mine.eretAct.cl c).loops := by
    rw [← clusters]
    by_cases hc : c = w.curCl
    · have cur : t.curCl = w.curCl := quiet.outside.curCl
      have mine : t.mine.cl c = t.myCl := by rw [State.myCl, cur, hc]
      have theirs : (w.upMine Core.eretAct).mine.cl c = (w.upMine Core.eretAct).myCl := by rw [hc]; rfl
      rw [mine, theirs]
      exact ⟨same.pc, quiet.wait, same.regs, (congrArg Cl.loops quiet.cluster : _)⟩
    · rw [quiet.core.1 c hc]
      exact ⟨rfl, rfl, rfl, rfl⟩
  obtain ⟨kpc, kwait, ks, kloops⟩ := kept
  exact ⟨by rw [kpc, hpc, htrap], by rw [kwait, hwait], by rw [ks, hs, hs0], by rw [kloops, hloops, hloops0]⟩

theorem eretReturns : EretReturns := by
  intro s h ready u
  have noted (f : Cl → Cl) : (u.upMyCl f).mine.inh = u.mine.inh := by simp [State.upMyCl]
  refine ⟨fun outside => ?priv, fun inside missing => ?waits, fun inside copies loops targets empty => ?returns⟩
  case priv =>
    have body : eretBody h (u.noted (.eret h)) = .trap .priv 0 (wordImage s.curCl (.eret h)) := by
      have out : (u.noted (.eret h)).mine.inh = false := (noted _).trans outside
      unfold eretBody
      rw [out]
      show privNow (u.noted (.eret h)) _ = _
      rw [privNow, show (u.noted (.eret h)).curCl = s.curCl from s.begun_curCl _]
    have trap := ready.trap (body := eretBody h) body
    rwa [s.begun_curCl] at trap
  case waits =>
    obtain ⟨c, hc, none⟩ := missing
    have cur : u.curCl = s.curCl := s.begun_curCl _
    refine ready.waits (body := eretBody h) rfl (fun _ _ => Instr.noConfusion) ?_
    have still : (((u.noted (.eret h)).waitHere (.eret h)).mine.cl c).wait = Option.none := by
      rw [State.waitHere_delivered fun _ _ => Instr.noConfusion]
      have drained := (u.noted (.eret h)).drainCl_delivered
      simp only [State.upMyCl, State.mine_upMine]
      rw [Core.cl_upCl_ne _ (by rw [drained.curCl]; exact fun e => hc (e.trans cur)), drained.core.wait]
      simp only [State.noted, State.upMyCl, State.mine_upMine]
      rw [Core.cl_upCl_ne _ (fun e => hc (e.trans cur)), none]
    have few : ((u.noted (.eret h)).waitHere (.eret h)).mine.allCopies = false := by
      simp only [Core.allCopies, List.all_eq_false]
      exact ⟨c, by cases c <;> decide, by simp [Cl.copyAt, still]⟩
    have inn : (u.noted (.eret h)).mine.inh = true := (noted _).trans inside
    unfold eretBody
    simp only [show s.begun (.eret h) = u from rfl, inn, Bool.not_true, Bool.false_eq_true, if_false, few, Bool.false_and]
  case returns =>
    have cur : u.curCl = s.curCl := s.begun_curCl _
    have waits := eret_waits h empty
    have inn : (u.noted (.eret h)).mine.inh = true := (noted _).trans inside
    have field {α : Type} (g : Cl → α) (hg : ∀ x n i, g { x with need := n, wait := i } = g x) (c : Cluster) :
        g ((u.upMyCl fun x => { x with need := pushesOf (.eret h), wait := some (.eret h) }).mine.cl c) = g (u.mine.cl c) := by
      simp only [State.upMyCl, State.mine_upMine]
      by_cases e : c = u.curCl
      · subst e
        rw [Core.cl_upCl_self, hg]
      · rw [Core.cl_upCl_ne _ e]
    have body := eretBody_fourth (u := u.noted (.eret h)) inn waits (fun c => ?_) (Core.eretBad_none ?_ fun c => ?_)
    · exact ⟨_, ready.ok (body := eretBody h) body, eret_returned ready.stopped rfl rfl⟩
    · simp only [State.upMyCl, State.mine_upMine]
      by_cases e : c = u.curCl
      · subst e
        rw [Core.cl_upCl_self]
        exact ⟨h, rfl⟩
      · rw [Core.cl_upCl_ne _ e]
        exact copies c fun e' => e (e'.trans cur.symm)
    · have hl (f : Cl → Cl) : (u.upMyCl f).mine.hloops = u.mine.hloops := by simp [State.upMyCl]
      have l (c : Cluster) := field Cl.loops (fun _ _ _ => rfl) c
      rw [hl, loops]
      exact (congrArg₂ List.cons (l .A) (congrArg₂ List.cons (l .V) (congrArg₂ List.cons (l .T) (congrArg₂ List.cons (l .S) rfl)))).symm
    · rw [field Cl.trapPc (fun _ _ _ => rfl) c]
      exact targets c

/-- Settles O11: the copies of the five words by one lemma on words that wait, eret by its three cases. -/
theorem taskLevelWords : Obligations.TaskLevelWords := ⟨copiesWait, eretReturns⟩

end Sys2Proof.Spec
end

section
/-! What the caches of one core leave as it was (R89, R90). -/

namespace Sys2Proof.Machine

open Sys2Proof

/-- The state beside the cores and what home slices work on. -/
def State.besideCaches (s : State) : State := { s.besideHome with cores := [] }

/-- `t` is `s` after the caches of core `k` have worked: no other core differs, and of core `k` nothing but its L1. -/
structure CacheWork (k : Nat) (s t : State) : Prop where
  beside : t.besideCaches = s.besideCaches
  todo : s.todo <+: t.todo
  others : ∀ j, j ≠ k → t.core j = s.core j
  core : { t.core k with l1 := (s.core k).l1 } = s.core k

theorem State.core_congr {s t : State} (h : t.cores = s.cores) (j : Nat) : t.core j = s.core j := by
  unfold State.core
  rw [h]

theorem HomeWork.caches {s t : State} (k : Nat) (h : HomeWork s t) : CacheWork k s t :=
  ⟨congrArg (fun x : State => { x with cores := [] }) h.beside, h.todo, fun j _ => State.core_congr h.cores j, by rw [State.core_congr h.cores k]⟩

namespace CacheWork

variable {k : Nat} {s t u : State}

theorem refl (k : Nat) (s : State) : CacheWork k s s := (HomeWork.refl s).caches k

theorem trans (h : CacheWork k s t) (g : CacheWork k t u) : CacheWork k s u :=
  ⟨g.beside.trans h.beside, h.todo.trans g.todo, fun j hj => (g.others j hj).trans (h.others j hj),
    (congrArg (fun c : Core => { c with l1 := (s.core k).l1 }) g.core).trans h.core⟩

theorem ctxs (h : CacheWork k s t) : t.ctxs = s.ctxs := show t.besideCaches.ctxs = s.besideCaches.ctxs by rw [h.beside]
theorem ctx (h : CacheWork k s t) (n : Nat) : t.ctx n = s.ctx n := by
  unfold State.ctx
  rw [h.ctxs]

theorem cl (h : CacheWork k s t) (c : Cluster) : (t.core k).cl c = (s.core k).cl c := by
  have core := h.core
  cases c
  · exact (congrArg Core.a core : _)
  · exact (congrArg Core.v core : _)
  · exact (congrArg Core.t core : _)
  · exact (congrArg Core.sc core : _)

/-- The L1 of the core changes. -/
theorem upL1 (h : CacheWork k s t) {f : Core → Core} (hf : { f (t.core k) with l1 := (t.core k).l1 } = t.core k) : CacheWork k s (t.upCore k f) :=
  h.trans ⟨rfl, List.prefix_rfl, fun _ hj => State.core_upCore_ne t hj f, by rw [State.core_upCore_self]; exact hf⟩

theorem setL1 (h : CacheWork k s t) (m : Sparse L1Byte) : CacheWork k s (t.setCore k { t.core k with l1 := m }) := h.upL1 (f := fun c => { c with l1 := m }) rfl

theorem home (h : CacheWork k s t) (g : HomeWork t u) : CacheWork k s u := h.trans (g.caches k)

theorem l1ToL2 (h : CacheWork k s t) (p : Nat → Bool) : CacheWork k s (t.l1ToL2 k p) := by
  unfold State.l1ToL2
  dsimp only
  split
  · exact h
  · refine upL1 (h.home ?_) rfl
    exact HomeWork.foldl (fun v l g => g.l2Put k l _) _ (.refl t)

theorem evictL1 (h : CacheWork k s t) (line : Nat) : CacheWork k s (t.evictL1 k line) := (h.l1ToL2 _).upL1 rfl

theorem l1Room (h : CacheWork k s t) (l : Nat) : CacheWork k s (t.l1Room k l) := by
  unfold State.l1Room
  split
  · exact h.evictL1 _
  · exact h

theorem l2Read (h : CacheWork k s t) (j : Nat) (hd : BitVec 128) (kd : BitVec 8) (o n : Nat) : CacheWork k s (t.l2Read j hd kd o n).1 :=
  h.home ((HomeWork.refl t).l2Read j hd kd o n)

theorem l1Read (h : CacheWork k s t) (hd : BitVec 128) (kd : BitVec 8) (o n : Nat) : CacheWork k s (t.l1Read k hd kd o n).1 := by
  unfold State.l1Read
  dsimp only
  split
  · exact h.l2Read k hd kd o n
  · split
    · exact h
    · exact ((h.l2Read k hd kd _ 128).l1Room _).setL1 _

theorem coreReadLoop (h : CacheWork k s t) (j : Nat) (hd : BitVec 128) (kd : BitVec 8) (o n : Nat) : CacheWork k s (t.coreReadLoop j k hd kd o n).1 := by
  induction j generalizing t o n with
  | zero => exact h
  | succ j ih =>
    unfold State.coreReadLoop
    dsimp only
    split
    · exact h
    · exact ih (h.l1Read hd kd o _) _ _

theorem coreRead (h : CacheWork k s t) (hd : BitVec 128) (kd : BitVec 8) (o n : Nat) : CacheWork k s (t.coreRead k hd kd o n).1 := by
  unfold State.coreRead
  dsimp only
  split
  · exact h.coreReadLoop _ hd kd o n
  · exact h.coreReadLoop _ hd kd _ _

theorem l2Release (h : CacheWork k s t) (p : Nat → Bool) : CacheWork k s (t.l2Release k p) := h.home ((HomeWork.refl t).l2Release k p)

theorem releaseOn (h : CacheWork k s t) (scope : Nat) (p : Nat → Bool) : CacheWork k s (t.releaseOn k scope p) := by
  unfold State.releaseOn
  split
  · exact h
  · split
    · exact h.l1ToL2 p
    · exact (h.l1ToL2 p).l2Release p

theorem release (h : CacheWork k s t) (scope : Nat) : CacheWork k s (t.release k scope) := h.releaseOn scope _

theorem acquire (h : CacheWork k s t) (scope : Nat) : CacheWork k s (t.acquire k scope) := by
  unfold State.acquire
  split
  · exact h
  · exact h.upL1 rfl

end CacheWork

end Sys2Proof.Machine
end

section
/-! lmode and phase: they pass, wait, and act (R50, R85, R164, R165). -/

namespace Sys2Proof.Machine

open Sys2Proof

/-- A word that names what is already so only passes. -/
theorem Ready.passesOn {s : State} {i : Instr} {body : State → Eff} (ready : Ready s i) (stays : i.stays = true)
    (run : body ((s.begun i).noted i) = .ok (((s.begun i).noted i).advance i)) :
    ∃ t, issue s i body = .next t ∧ Passed i (s.begun i) t ∧ RegsBut none (s.begun i) t := by
  refine ⟨_, ready.ok (by rw [if_pos stays]; exact run), ?_⟩
  have quiet : Quiet (s.begun i) (((s.begun i).noted i).advance i) := (Quiet.upMyCl _ _ rfl).trans (.advance _ i)
  have retired := State.retire_still (quiet.stopped.trans ready.stopped) i
  obtain ⟨outside, core, cluster⟩ := quiet.trans retired.quiet
  refine ⟨⟨outside, core, cluster, ?_⟩, fun r _ => ?_⟩
  · rw [retired.same.pc, State.advance_pc]
    simp [State.noted]
  · rw [retired.same.reg, State.advance_reg]
    simp [State.noted, State.reg, Cl.reg]

theorem State.settle_untrapped {s : State} {k : Nat} (h : (s.core k).trap = none) : s.settle k = s := by
  unfold State.settle
  simp only [h]

/-- An update of a core that leaves its trap as it is. -/
theorem Core.finishWord_trap (k : Core) (c : Cluster) : (k.finishWord c).trap = k.trap := (congrArg Core.trap (k.finishWord_rest c) : _)

/-! The fields of a core that lmode and phase speak of, after the word at which a cluster waits has retired. -/

theorem Core.finishWord_s (k : Core) (c d : Cluster) : ((k.finishWord c).cl d).s = (k.cl d).s := by
  by_cases h : d = c
  · subst h
    exact (k.finishWord_cl d).s
  · rw [Core.finishWord_cl_ne k h]

theorem Core.recheck_trap (k : Core) : k.recheck.trap = k.trap := by
  unfold Core.recheck Core.wake
  split
  · rfl
  · dsimp only
    split <;> rfl

/-- Nothing is in flight. -/
theorem Core.upCl_flight_nil {k : Core} {c : Cluster} (h : (k.cl c).flight = []) : (k.upCl c fun x => { x with flight := [] }) = k := by
  have id : k.upCl c (fun x => x) = k := k.setCl_cl c
  rw [← id]
  exact (Core.upCl_comp k c _ _).trans (Core.upCl_congr (by rw [← h]))

theorem Core.commitBy_empty {k : Core} {c : Cluster} (h : (k.cl c).flight = []) (n : Nat) : k.commitBy c n = k := by
  unfold Core.commitBy
  simp only [h, List.filter_nil, Core.writeDue, List.isEmpty_nil, if_true, Core.upCl_flight_nil h]

/-- A phase joins those that wait. -/
def Core.askPhase (c : Cluster) (n : BitVec 3) (k : Core) : Core := { k with phaseReq := k.phaseReq ++ [(c, n)] }

@[simp] theorem Core.askPhase_cl (c : Cluster) (n : BitVec 3) (k : Core) (d : Cluster) : (k.askPhase c n).cl d = k.cl d := by cases d <;> rfl

theorem State.myCl_askPhase (s : State) (c : Cluster) (n : BitVec 3) : (s.upMine (Core.askPhase c n)).myCl = s.myCl := by
  unfold State.myCl
  rw [State.mine_upMine, Core.askPhase_cl]
  rfl

/-- A phase that waits retires no further: its number is noted beside what its wait changes. -/
theorem State.retire_askPhase {s : State} {i : Instr} (h : s.myCl.wait.isSome = true) (c : Cluster) (n : BitVec 3) :
    (s.upMine (Core.askPhase c n)).retire i = (s.retire i).upMine (Core.askPhase c n) := by
  rw [State.retire_waiting (by rw [State.myCl_askPhase]; exact h), State.retire_waiting h]
  refine (s.upMine_comp _ _).trans ((s.upMine_comp _ _).trans (congrArg s.upMine (funext fun k => ?_))).symm
  show _ = (k.askPhase c n).upCl s.curCl _
  cases s.curCl <;> rfl

end Sys2Proof.Machine

namespace Sys2Proof.Spec

open Sys2Proof Sys2Proof.Machine

theorem modeWordsWait : ModeWordsWait := by
  intro s h n e
  refine ⟨fun ready => ?phase, fun ready => ?lmode⟩
  case phase =>
    intro u
    have steps : (u.noted (.phase h n)).mine.steps = u.mine.steps := by simp [State.noted, State.upMyCl]
    have reqs : (u.noted (.phase h n)).mine.phaseReq = u.mine.phaseReq := by simp [State.noted, State.upMyCl]
    have cur : (u.noted (.phase h n)).curCl = s.curCl := s.begun_curCl _
    let body : State → Eff := fun s =>
      if s.mine.steps == n && s.mine.phaseReq.isEmpty then .ok (s.advance (.phase h n))
      else .ok ((s.waitHere (.phase h n)).upMine fun k => { k with phaseReq := k.phaseReq ++ [(s.curCl, n)] })
    refine ⟨fun same none => ready.passesOn (body := body) rfl (if_pos ?_), fun other => ?_⟩
    · rw [steps, reqs, same, none]
      simp
    · have waits : body (u.noted (.phase h n)) =
          .ok (((u.noted (.phase h n)).waitHere (.phase h n)).upMine fun k => { k with phaseReq := k.phaseReq ++ [(s.curCl, n)] }) := by
        refine (if_neg ?_).trans (by rw [cur])
        rw [steps, reqs]
        simpa [imp_iff_not_or] using other
      refine ⟨_, ready.ok (body := body) waits, ?_⟩
      have isWaiting : (((u.noted (.phase h n)).waitHere (.phase h n)).myCl.wait).isSome = true := by
        rw [State.waitHere_wait]
        rfl
      obtain ⟨wait, pc, outside, only⟩ := State.waitHere_retired (u := u) (i := .phase h n) fun _ _ => Instr.noConfusion
      have retired := State.retire_askPhase (i := .phase h n) isWaiting s.curCl n
      have kept : (((u.noted (.phase h n)).waitHere (.phase h n)).retire (.phase h n)).mine.phaseReq = u.mine.phaseReq := by
        rw [State.retire_waiting isWaiting, State.waitHere_delivered fun _ _ => Instr.noConfusion]
        simp only [State.upMyCl, State.mine_upMine, Core.upCl_phaseReq]
        exact (u.noted (.phase h n)).drainCl_delivered.core.phaseReq.trans reqs
      refine ⟨?_, ?_, ?_, outside.trans ?_, fun empty => ?_⟩
      · exact (congrArg (fun x : State => x.myCl.wait) retired).trans ((congrArg Cl.wait (State.myCl_askPhase _ _ _)).trans wait)
      · exact (congrArg (fun x : State => x.myCl.pc) retired).trans ((congrArg Cl.pc (State.myCl_askPhase _ _ _)).trans pc)
      · refine (congrArg (fun x : State => x.mine.phaseReq) retired).trans ?_
        rw [State.mine_upMine]
        exact congrArg (· ++ [(s.curCl, n)]) kept
      · exact retired ▸ SameOutside.upMine _ _
      · exact retired.trans (congrArg (State.upMine · (Core.askPhase s.curCl n)) (only empty))
  case lmode =>
    have mode : ((s.begun (.lmode h e)).noted (.lmode h e)).myCl.exposed = (s.begun (.lmode h e)).myCl.exposed := by simp [State.noted]
    let body : State → Eff := fun s => if s.myCl.exposed == e then .ok (s.advance (.lmode h e)) else .ok (s.waitHere (.lmode h e))
    refine ⟨fun same => ready.passesOn (body := body) rfl (if_pos (by rw [mode, same]; simp)), fun other => ?_⟩
    have waits : body ((s.begun (.lmode h e)).noted (.lmode h e)) = .ok (((s.begun (.lmode h e)).noted (.lmode h e)).waitHere (.lmode h e)) :=
      if_neg (by rw [mode]; simpa using other)
    refine (ready.ok (body := body) waits).trans (congrArg Host.Outcome.next ?_)
    rw [State.retire_waiting (by rw [State.waitHere_wait]; rfl)]
    unfold State.waitHere State.noted
    rw [State.upMyCl_comp, State.upMyCl_comp]

/-- A waiting lmode whose cluster is idle changes the mode and retires (R50). -/
theorem lmodeSwitch_eq {s : State} {k : Nat} {c : Cluster} {h : Hdr} {e : Bool} (wait : ((s.core k).cl c).wait = some (.lmode h e))
    (flight : ((s.core k).cl c).flight = []) (quiet : ((s.core k).cl c).quiet = true) (steps : (s.core k).tsCount = 0) (nests : (s.core k).nests = [])
    (trap : (s.core k).trap = none) (clock : s.power.stopped = false) :
    s.lmodeSwitch k c = (s.setCore k (((s.core k).upCl c fun y => { y with exposed := e, icyc := y.icyc + 8 }).finishWord c)).recheck k := by
  have empty : (((s.core k).upCl c fun y => { y with exposed := e, icyc := y.icyc + 8 }).cl c).flight = [] := by simp [flight]
  unfold State.lmodeSwitch
  simp only [wait, quiet, steps, nests, clock, beq_self_eq_true, List.isEmpty_nil, Bool.and_self, Bool.not_true, Bool.or_self, Bool.false_eq_true, if_false,
    Core.commitBy_empty empty]
  refine State.settle_untrapped ?_
  rw [State.recheck, State.core_upCore_self, State.core_setCore_self, Core.recheck_trap, Core.finishWord_trap, Core.upCl_trap]
  exact trap

theorem lmodeActs : LmodeActs := by
  intro s core c h e wait flight loads stores rets steps nests trap clock
  have quiet : ((s.core core.toNat).cl c).quiet = true := by simp [Cl.quiet, loads, stores, rets]
  refine ⟨_, congrArg Host.Outcome.next (lmodeSwitch_eq wait flight quiet steps nests trap clock), ?_⟩
  let x := (s.core core.toNat).upCl c fun y => { y with exposed := e, icyc := y.icyc + 8 }
  have self : x.cl c = { (s.core core.toNat).cl c with exposed := e, icyc := ((s.core core.toNat).cl c).icyc + 8 } := Core.cl_upCl_self _ c _
  have waits : (x.cl c).wait = some (.lmode h e) := by rw [self]; exact wait
  have done := Core.finishWord_some waits
  have after (d : Cluster) : (((s.setCore core.toNat (x.finishWord c)).recheck core.toNat).core core.toNat).cl d = (x.finishWord c).cl d := by
    rw [State.recheck, State.core_upCore_self, State.core_setCore_self, Core.recheck_cl]
  have same := x.finishWord_cl c
  refine ⟨(congrArg Cl.exposed (after c)).trans ?_, (congrArg Cl.wait (after c)).trans done.wait, (congrArg Cl.pc (after c)).trans ?_,
    (congrArg Cl.icyc (after c)).trans ?_, (congrArg Cl.s (after c)).trans ?_, (congrArg Cl.p (after c)).trans ?_, fun d hd => (after d).trans ?_, fun n hn => ?_, rfl⟩
  · rw [show ((x.finishWord c).cl c).exposed = (x.cl c).exposed from (congrArg Cl.exposed same.rest : _), self]
  · rw [done.pc, self]
    rfl
  · rw [show ((x.finishWord c).cl c).icyc = (x.cl c).icyc from (congrArg Cl.icyc same.rest : _), self]
  · rw [same.s, self]
  · rw [show ((x.finishWord c).cl c).p = (x.cl c).p from (congrArg Cl.p same.rest : _), self]
  · rw [Core.finishWord_cl_ne x hd, Core.cl_upCl_ne _ hd]
  · rw [State.recheck, State.core_upCore_ne _ hn, State.core_setCore, if_neg hn]

end Sys2Proof.Spec

namespace Sys2Proof.Machine

open Sys2Proof

/-- The first of the phases that wait, cluster `c`'s, retires, and those in `r` wait on (R85). -/
def Core.phaseDone (k : Core) (c : Cluster) (r : List (Cluster × BitVec 3)) : Core := ({ k with phaseReq := r } : Core).finishWord c

theorem Core.phaseDone_rest (k : Core) (c : Cluster) (r : List (Cluster × BitVec 3)) :
    { k.phaseDone c r with a := k.a, v := k.v, t := k.t, sc := k.sc, toRight := k.toRight, toLeft := k.toLeft, phaseReq := k.phaseReq } = k :=
  (congrArg (fun x : Core => { x with phaseReq := k.phaseReq }) (Core.finishWord_rest { k with phaseReq := r } c) : _)

theorem Core.phaseDone_phaseReq (k : Core) (c : Cluster) (r : List (Cluster × BitVec 3)) : (k.phaseDone c r).phaseReq = r :=
  (congrArg Core.phaseReq (Core.finishWord_rest { k with phaseReq := r } c) : _)

theorem Core.phaseDone_s (k : Core) (c : Cluster) (r : List (Cluster × BitVec 3)) (d : Cluster) : ((k.phaseDone c r).cl d).s = (k.cl d).s := by
  unfold Core.phaseDone
  rw [Core.finishWord_s]
  cases d <;> rfl

/-- The phase's cluster moves past its word. -/
theorem Core.phaseDone_word {k : Core} {c : Cluster} {i : Instr} (r : List (Cluster × BitVec 3)) (wait : (k.cl c).wait = some i) :
    ((k.phaseDone c r).cl c).wait = none ∧ ((k.phaseDone c r).cl c).pc = pcPlus c (k.cl c).pc i.words := by
  have same : ({ k with phaseReq := r } : Core).cl c = k.cl c := by cases c <;> rfl
  have done := Core.finishWord_some (k := { k with phaseReq := r }) (c := c) (i := i) (by rw [same]; exact wait)
  rw [same] at done
  exact ⟨done.wait, done.pc⟩

/-! Tiles that change hands (R85). -/

/-- `m` tiles from `t` on pass to an owner. -/
def Core.giveTiles (k : Core) (t m : Nat) (o : BitVec 3) : Core := (List.range m).foldl (fun c i => c.setOwner (t + i) o) k

theorem Core.giveTiles_owner (k : Core) (t m : Nat) (o : BitVec 3) (j : Nat) :
    (k.giveTiles t m o).owner' j = if t ≤ j ∧ j < t + m then o else k.owner' j := by
  unfold Core.giveTiles
  induction m with
  | zero => exact (if_neg (by omega)).symm
  | succ m ih =>
    rw [List.range_succ, List.foldl_append]
    show sget 0 (sset 0 _ (t + m) o) j = _
    rw [sget_sset]
    by_cases h : j = t + m
    · rw [if_pos h, if_pos (by omega)]
    · rw [if_neg h]
      refine ih.trans (if_congr (by omega) rfl rfl)

theorem Core.giveTiles_rest (k : Core) (t m : Nat) (o : BitVec 3) : { k.giveTiles t m o with owner := k.owner } = k := by
  unfold Core.giveTiles
  generalize List.range m = l
  have list (j : Core) (h : { j with owner := k.owner } = k) : { l.foldl (fun c i => c.setOwner (t + i) o) j with owner := k.owner } = k := by
    induction l generalizing j with
    | nil => exact h
    | cons i r ih => exact ih _ h
  exact list k rfl

theorem Core.tileTaken_none {k : Core} {n : Nat} (hn : n ≤ 4) (hs : k.steps.toNat ≤ 4)
    (thread : ∀ i, k.steps.toNat < n → 640 - 32 * n ≤ i ∧ i < 640 - 32 * k.steps.toNat → k.owner' i = 0) : k.tileTaken n = none := by
  unfold Core.tileTaken
  split
  · rfl
  · next more =>
    simp only [passing, firstHeld, List.find?_eq_none, List.mem_map, List.mem_range, ownThread]
    rintro i ⟨j, hj, rfl⟩
    have max : max k.steps.toNat n = n := by omega
    have min : min k.steps.toNat n = k.steps.toNat := by omega
    rw [max, min] at hj
    simp only [max, bne_iff_ne, ne_eq, not_not]
    exact thread _ (by omega) (by omega)

/-- What the change of the split makes of the core, its caches emptied (R85 steps 3 to 6). -/
theorem State.setSteps_core (s : State) (k : Nat) (n : BitVec 3) : ∃ y : Core, { y with l1 := (s.core k).l1, steps := (s.core k).steps, sp := (s.core k).sp, spPoison := (s.core k).spPoison } = s.core k ∧
    y.l1 = [] ∧ y.steps = n ∧
    (s.setSteps k n).core k = y.giveTiles (640 - 32 * max (s.core k).steps.toNat n.toNat) (32 * (max (s.core k).steps.toNat n.toNat - min (s.core k).steps.toNat n.toNat))
      (if (s.core k).steps.toNat < n.toNat then ownCache else ownThread) := by
  have work := (CacheWork.refl k s).l1ToL2 fun _ => true
  have steps : ((s.l1ToL2 k fun _ => true).core k).steps = (s.core k).steps := (congrArg Core.steps work.core : _)
  have core := work.core
  generalize hx : (s.l1ToL2 k fun _ => true).core k = x at core steps
  let t := 640 - 32 * max (s.core k).steps.toNat n.toNat
  let m := 32 * (max (s.core k).steps.toNat n.toNat - min (s.core k).steps.toNat n.toNat)
  refine ⟨{ x with sp := seraseRange x.sp (4096 * t) (4096 * (t + m)), spPoison := seraseRange x.spPoison (4096 * t) (4096 * (t + m)), l1 := [], steps := n }, ?_, rfl, rfl, ?_⟩
  · exact (congrArg (fun z : Core => { z with steps := (s.core k).steps, sp := (s.core k).sp, spPoison := (s.core k).spPoison }) core : _)
  · unfold State.setSteps
    rw [State.core_upCore_self, hx, steps]
    rfl

end Sys2Proof.Machine

namespace Sys2Proof.Spec

open Sys2Proof Sys2Proof.Machine

theorem phaseChange_same {s : State} {k : Nat} {c : Cluster} {n : BitVec 3} {r : List (Cluster × BitVec 3)} (req : (s.core k).phaseReq = (c, n) :: r)
    (quiet : ∀ d, ((s.core k).cl d).quiet = true) (trap : (s.core k).trap = none) (clock : s.power.stopped = false) (same : n = (s.core k).steps) :
    s.phaseChange k = s.upCore k fun y => y.phaseDone c r := by
  have untrapped : ((s.upCore k fun y => y.phaseDone c r).core k).trap = none := by
    rw [State.core_upCore_self]
    exact (congrArg Core.trap ((s.core k).phaseDone_rest c r)).trans trap
  have drained : Cluster.all.all (fun d => ((s.core k).cl d).quiet) = true := List.all_eq_true.2 fun d _ => quiet d
  unfold State.phaseChange
  simp only [req, drained, clock, Bool.not_true, Bool.or_self, Bool.false_eq_true, if_false, same, beq_self_eq_true, if_true]
  exact State.settle_untrapped untrapped

theorem phaseChange_moves {s : State} {k : Nat} {c : Cluster} {n : BitVec 3} {r : List (Cluster × BitVec 3)} (req : (s.core k).phaseReq = (c, n) :: r)
    (quiet : ∀ d, ((s.core k).cl d).quiet = true) (trap : ((s.setSteps k n).core k).trap = none) (clock : s.power.stopped = false) (other : n ≠ (s.core k).steps)
    (free : (s.core k).tileTaken n.toNat = none) : s.phaseChange k = (s.setSteps k n).upCore k fun y => y.phaseDone c r := by
  have untrapped : (((s.setSteps k n).upCore k fun y => y.phaseDone c r).core k).trap = none := by
    rw [State.core_upCore_self]
    exact (congrArg Core.trap (((s.setSteps k n).core k).phaseDone_rest c r)).trans trap
  have drained : Cluster.all.all (fun d => ((s.core k).cl d).quiet) = true := List.all_eq_true.2 fun d _ => quiet d
  unfold State.phaseChange
  simp only [req, drained, clock, Bool.not_true, Bool.or_self, Bool.false_eq_true, if_false, beq_iff_eq, other, free]
  exact State.settle_untrapped untrapped

theorem phaseActs : PhaseActs := by
  intro s core c n r req k drained trap clock
  have quiet (d : Cluster) : (k.cl d).quiet = true := by
    obtain ⟨loads, stores, rets⟩ := drained d
    simp [Cl.quiet, loads, stores, rets]
  refine ⟨fun other hn hs thread => ?moves, fun same => ?stays⟩
  case moves =>
    obtain ⟨y, hy, l1, steps, after⟩ := s.setSteps_core core.toNat n
    generalize ht : 640 - 32 * max k.steps.toNat n.toNat = t at after
    generalize hm : 32 * (max k.steps.toNat n.toNat - min k.steps.toNat n.toNat) = m at after
    generalize ho : (if k.steps.toNat < n.toNat then ownCache else ownThread) = o at after
    have gave := y.giveTiles_rest t m o
    have clusters (d : Cluster) : ((s.setSteps core.toNat n).core core.toNat).cl d = k.cl d := by
      rw [after]
      have g : (y.giveTiles t m o).cl d = y.cl d := by
        cases d
        · exact (congrArg Core.a gave : _)
        · exact (congrArg Core.v gave : _)
        · exact (congrArg Core.t gave : _)
        · exact (congrArg Core.sc gave : _)
      rw [g]
      cases d
      · exact (congrArg Core.a hy : _)
      · exact (congrArg Core.v hy : _)
      · exact (congrArg Core.t hy : _)
      · exact (congrArg Core.sc hy : _)
    have trapped : ((s.setSteps core.toNat n).core core.toNat).trap = none := by
      rw [after]
      exact (congrArg Core.trap gave : _).trans ((congrArg Core.trap hy : _).trans trap)
    have run := phaseChange_moves req quiet trapped clock other (Core.tileTaken_none hn hs thread)
    have owners (i : Nat) : ((s.setSteps core.toNat n).core core.toNat).owner' i = if t ≤ i ∧ i < t + m then o else k.owner' i := by
      rw [after, Core.giveTiles_owner]
      exact congrArg (fun w => if t ≤ i ∧ i < t + m then o else w) (congrArg (fun z : Core => z.owner' i) hy : _)
    refine ⟨_, congrArg Host.Outcome.next run, ?_⟩
    rw [State.core_upCore_self]
    generalize (s.setSteps core.toNat n).core core.toNat = z at after clusters owners
    have rest := z.phaseDone_rest c r
    have own (i : Nat) : (z.phaseDone c r).owner' i = if t ≤ i ∧ i < t + m then o else k.owner' i := (congrArg (fun w : Core => w.owner' i) rest : _).trans (owners i)
    refine ⟨?_, z.phaseDone_phaseReq c r, ?_, fun i lo hi => ?_, fun i lo hi => ?_, fun i lo hi => ?_, fun d => ?_, fun h wait => ?_⟩
    · refine (congrArg Core.steps rest : _).trans ?_
      rw [after]
      exact (congrArg Core.steps gave : _).trans steps
    · refine (congrArg Core.l1 rest : _).trans ?_
      rw [after]
      exact (congrArg Core.l1 gave : _).trans l1
    · rw [own, if_pos (by omega), ← ho, if_pos (by omega)]
      rfl
    · rw [own, if_pos (by omega), ← ho, if_neg (by omega)]
      rfl
    · rw [own, if_neg (by omega)]
    · rw [Core.phaseDone_s, clusters]
    · have word := Core.phaseDone_word (k := z) r (by rw [clusters]; exact wait)
      rwa [clusters] at word
  case stays =>
    refine ⟨_, congrArg Host.Outcome.next (phaseChange_same req quiet trap clock same), ?_⟩
    rw [State.core_upCore_self]
    have rest := k.phaseDone_rest c r
    exact ⟨(congrArg Core.steps rest : _), k.phaseDone_phaseReq c r, (congrArg Core.l1 rest : _), fun i => (congrArg (fun w : Core => w.owner' i) rest : _), fun d => k.phaseDone_s c r d,
      fun h wait => k.phaseDone_word r wait⟩

/-- Settles O12: the words by what their bodies answer, their events by what an idle core lets them do. -/
theorem modeWords : Obligations.ModeWords := ⟨modeWordsWait, lmodeActs, phaseActs⟩

end Sys2Proof.Spec
end

section
/-! Token FIFOs: what pops, pushes and results in flight of one cluster do to its own tokens, and that they leave the other clusters alone (R12, R45, R154). -/

namespace Sys2Proof.Machine

open Sys2Proof Sys2Proof.Spec

theorem Core.fifoTo_setFifo (k : Core) (c : Cluster) (d : Dir) (l : List (Option Word)) (e : Cluster) (f : Dir) :
    (k.setFifo c d l).fifoTo e f = if e = c ∧ f = d then l else k.fifoTo e f := by
  have num : e.num = c.num ↔ e = c := by cases e <;> cases c <;> decide
  cases d <;> cases f <;> simp [Core.setFifo, Core.fifoTo, sget_sset, num]

theorem Core.fifoTo_upCl (k : Core) (c : Cluster) (f : Cl → Cl) (e : Cluster) (d : Dir) : (k.upCl c f).fifoTo e d = k.fifoTo e d := by
  cases d
  · exact congrArg (fun m => sget [] m e.num) (k.upCl_toLeft c f)
  · exact congrArg (fun m => sget [] m e.num) (k.upCl_toRight c f)

theorem Core.hasRoom_congr {k j : Core} {c : Cluster} (h : ∀ d, j.fifoTo c d = k.fifoTo c d) (m : BitVec 2) : j.hasRoom c m = k.hasRoom c m := by
  unfold Core.hasRoom
  rw [h, h]

/-! What one cluster's results leave of the others. -/

/-- `j` is `k` after work of cluster `p`: no other cluster and no FIFO that another pushes differs, but for the vldgs of V that results pass (R171). -/
structure Core.Apart (p : Cluster) (k j : Core) : Prop where
  cl : ∀ e, e ≠ p → { j.cl e with loadQ := (k.cl e).loadQ } = k.cl e
  fifo : ∀ e, e ≠ p → ∀ d, j.fifoTo e d = k.fifoTo e d

namespace Core.Apart

variable {p : Cluster} {k j l : Core}

theorem refl (p : Cluster) (k : Core) : Core.Apart p k k := ⟨fun _ _ => rfl, fun _ _ _ => rfl⟩

theorem trans (h : Core.Apart p k j) (g : Core.Apart p j l) : Core.Apart p k l :=
  ⟨fun e he => (congrArg (fun x : Cl => { x with loadQ := (k.cl e).loadQ }) (g.cl e he)).trans (h.cl e he), fun e he d => (g.fifo e he d).trans (h.fifo e he d)⟩

theorem of_rest (hc : ∀ e, j.cl e = k.cl e) (hf : ∀ e d, j.fifoTo e d = k.fifoTo e d) : Core.Apart p k j := ⟨fun e _ => by rw [hc], fun e _ d => hf e d⟩

theorem upCl (p : Cluster) (k : Core) (f : Cl → Cl) : Core.Apart p k (k.upCl p f) := ⟨fun e he => by rw [Core.cl_upCl_ne k he], fun e _ d => k.fifoTo_upCl p f e d⟩

theorem setFifo (p : Cluster) (k : Core) (d : Dir) (l : List (Option Word)) : Core.Apart p k (k.setFifo p d l) :=
  ⟨fun e _ => by rw [Core.setFifo_cl], fun e he f => by rw [Core.fifoTo_setFifo, if_neg fun h => he h.1]⟩

theorem pushBits (p : Cluster) (k : Core) (m : BitVec 2) : Core.Apart p k (k.pushBits p m) := by
  have enter (k : Core) (d : Dir) : Core.Apart p k (k.enter p d) := (upCl p k _).trans (setFifo p _ d _)
  unfold Core.pushBits
  dsimp only
  split <;> split
  · exact (enter k _).trans (enter _ _)
  · exact enter k _
  · exact enter k _
  · exact refl p k

theorem setVname (p : Cluster) (k : Core) (n : Nat) (v : VVal) : Core.Apart p k (k.setVname n v) := by
  refine of_rest (Core.setVname_cl k n v) fun e d => ?_
  unfold Core.setVname
  split_ifs <;> cases d <;> rfl

theorem latchIn (p : Cluster) (k : Core) (port : Nat) (v : VVal) : Core.Apart p k (k.latchIn port v) := by
  have at0 : Core.Apart p k (k.latchAt port 0 v) := of_rest (fun e => by unfold Core.latchAt; cases e <;> rfl) fun e d => by unfold Core.latchAt; cases d <;> rfl
  unfold Core.latchIn
  dsimp only
  split
  · exact at0.trans ⟨fun e _ => by cases e <;> rfl, fun e _ d => by cases d <;> rfl⟩
  · exact at0

theorem setOwners (p : Cluster) (k : Core) (t : Nat) (o : BitVec 3) (l : List Nat) : Core.Apart p k (l.foldl (fun k i => k.setOwner (t + i) o) k) := by
  induction l generalizing k with
  | nil => exact refl p k
  | cons i r ih => exact (of_rest (fun e => by cases e <;> rfl) fun e d => by cases d <;> rfl).trans (ih (k.setOwner (t + i) o))

theorem applyVal (p : Cluster) (k : Core) (v : RegVal) : Core.Apart p k (k.applyVal p v) := by
  cases v with
  | sreg r v => exact upCl p k fun x => x.setReg r v
  | pred q m v => exact upCl p k fun x => x.setPred q m v
  | vreg n m v bd b part port =>
    unfold Core.applyVal
    dsimp only
    split
    · exact (setVname p k n _).trans (latchIn p _ _ _)
    · exact setVname p k n _
  | handle r v => exact of_rest (fun e => by cases e <;> rfl) fun e d => by cases d <;> rfl
  | flags f => exact upCl p k fun x => { x with aflags := x.aflags ||| f }
  | sp a bs => exact of_rest (fun e => by cases e <;> rfl) fun e d => by cases d <;> rfl
  | own t n o => exact setOwners p k t o _
  | payload d v => exact upCl p k fun x => x.setOutgoing d v
  | pushes m | storePushes m => exact pushBits p k m

theorem writeDue (p : Cluster) (l : List InFlight) (k : Core) : Core.Apart p k (Core.writeDue p l k).1 := by
  induction l generalizing k with
  | nil => exact refl p k
  | cons f r ih =>
    unfold Core.writeDue
    split
    · exact (applyVal p k _).trans (ih _)
    · exact ih k

theorem commitBy (p : Cluster) (k : Core) (n : Nat) : Core.Apart p k (k.commitBy p n) := by
  have due := (upCl p k fun x => { x with flight := (k.cl p).flight.filter fun f => !decide (f.due ≤ n) }).trans
    (writeDue p ((k.cl p).flight.filter fun f => f.due ≤ n) _)
  unfold Core.commitBy
  dsimp only
  split
  · exact due
  · exact due.trans (upCl p _ _)

end Core.Apart

/-! Pushes. -/

theorem Core.enter_fifoTo (k : Core) (c : Cluster) (d f : Dir) :
    (k.enter c d).fifoTo c f = if f = d then k.fifoTo c f ++ [outgoing (k.cl c) f] else k.fifoTo c f := by
  unfold Core.enter
  dsimp only
  rw [Core.fifoTo_setFifo, Core.fifoTo_upCl, Core.fifoTo_upCl]
  cases d <;> cases f <;> simp [outgoing]

theorem Core.enter_outgoing (k : Core) (c : Cluster) (d f : Dir) : outgoing ((k.enter c d).cl c) f = if f = d then none else outgoing (k.cl c) f := by
  unfold Core.enter
  dsimp only
  rw [Core.setFifo_cl, Core.cl_upCl_self]
  cases d <;> cases f <;> simp [outgoing]

/-- Whether K[1:0] asks for a push in a direction (R45). -/
def pushBit (m : BitVec 2) : Dir → Bool
  | .left => m.getLsbD 1
  | .right => m.getLsbD 0

/-- A push enters the payload last written for its direction and leaves none (R45). -/
theorem Core.pushBits_tokens (k : Core) (c : Cluster) (m : BitVec 2) (d : Dir) :
    (k.pushBits c m).fifoTo c d = (if pushBit m d then k.fifoTo c d ++ [outgoing (k.cl c) d] else k.fifoTo c d) ∧
      outgoing ((k.pushBits c m).cl c) d = if pushBit m d then none else outgoing (k.cl c) d := by
  unfold Core.pushBits pushBit
  generalize m.getLsbD 1 = left
  generalize m.getLsbD 0 = right
  cases left <;> cases right <;> cases d <;> simp [Core.enter_fifoTo, Core.enter_outgoing]

theorem mem_insertFlight (f : InFlight) (l : List InFlight) : f ∈ insertFlight f l := by
  induction l with
  | nil => simp [insertFlight]
  | cons g r ih =>
    unfold insertFlight
    split
    · exact List.mem_cons_of_mem _ ih
    · exact List.mem_cons_self

theorem mem_insertFlight_of_mem {f g : InFlight} {l : List InFlight} (h : g ∈ l) : g ∈ insertFlight f l := by
  induction l with
  | nil => exact absurd h List.not_mem_nil
  | cons e r ih =>
    unfold insertFlight
    split
    · rcases List.mem_cons.1 h with rfl | h
      · exact List.mem_cons_self
      · exact List.mem_cons_of_mem _ (ih h)
    · exact List.mem_cons_of_mem _ h

/-- The pushes of a word of latency 1 are made as it retires where its FIFOs have space (R45). -/
theorem Core.pushAfter_now {k : Core} {c : Cluster} {m : BitVec 2} (now : m = 0 ∨ ((k.cl c).exposed = false ∧ k.hasRoom c m = true)) :
    k.pushAfter c false 1 m = k.pushBits c m := by
  unfold Core.pushAfter
  by_cases zero : m = 0
  · subst zero
    rfl
  · obtain ⟨mode, room⟩ := now.resolve_left zero
    rw [if_neg (by rwa [beq_iff_eq])]
    simp [mode, room]

/-- Else they are on their way. -/
theorem Core.pushAfter_later {k : Core} {c : Cluster} {m : BitVec 2} (some_ : m ≠ 0) (later : (k.cl c).exposed = true ∨ k.hasRoom c m = false) :
    k.pushAfter c false 1 m = k.upCl c fun x => x.send 1 m (.pushes m) := by
  unfold Core.pushAfter
  rw [if_neg (by rwa [beq_iff_eq])]
  rcases later with h | h <;> simp [h]

/-! Pops. -/

/-- `j` is `k` after a pop of cluster `c` in direction `d`, whether its FIFO held an entry or not. -/
structure Core.Popped (c : Cluster) (d : Dir) (k j : Core) : Prop where
  own : { j.cl c with inL := (k.cl c).inL, inR := (k.cl c).inR, popped := (k.cl c).popped, loadQ := (k.cl c).loadQ } = k.cl c
  incoming : ∀ f, f ≠ d → (j.cl c).incoming f = (k.cl c).incoming f
  fifo : ∀ q, q ≠ (popSide c d).1 → ∀ f, j.fifoTo q f = k.fifoTo q f
  others : ∀ q, q ≠ c → q ≠ (popSide c d).1 → { j.cl q with loadQ := (k.cl q).loadQ } = k.cl q

theorem popSide_ne (c : Cluster) (d : Dir) : (popSide c d).1 ≠ c := by cases c <;> cases d <;> decide
theorem popSides_ne (c : Cluster) : (popSide c .left).1 ≠ (popSide c .right).1 := by cases c <;> decide

/-- The core once an entry has been taken out of a FIFO, before the neighbour that waited for the space retires. -/
def Core.taken (k : Core) (c : Cluster) (d : Dir) (e : Option Word) (r : List (Option Word)) : Core :=
  (k.setFifo (popSide c d).1 (popSide c d).2 r).upCl c fun x => match d with | .left => { x with inL := e.getD 0 } | .right => { x with inR := e.getD 0 }

theorem Core.pop_cons {k : Core} {c : Cluster} {d : Dir} {e : Option Word} {r : List (Option Word)} (h : k.fifoFrom c d = e :: r) :
    k.pop c d = if ((k.taken c d e r).cl (popSide c d).1).blocked then (k.taken c d e r).commitBy (popSide c d).1 ((k.taken c d e r).cl (popSide c d).1).icyc
      else k.taken c d e r := by
  unfold Core.pop
  rw [h]
  cases d <;> rfl

theorem Core.taken_cl_ne (k : Core) {c q : Cluster} (d : Dir) (e : Option Word) (r : List (Option Word)) (hq : q ≠ c) : (k.taken c d e r).cl q = k.cl q := by
  unfold Core.taken
  rw [Core.cl_upCl_ne _ hq, Core.setFifo_cl]

theorem Core.taken_fifoTo (k : Core) (c : Cluster) (d : Dir) (e : Option Word) (r : List (Option Word)) (q : Cluster) (f : Dir) :
    (k.taken c d e r).fifoTo q f = if q = (popSide c d).1 ∧ f = (popSide c d).2 then r else k.fifoTo q f := by
  unfold Core.taken
  rw [Core.fifoTo_upCl, Core.fifoTo_setFifo]

theorem Core.pop_apart {k : Core} {c : Cluster} {d : Dir} {e : Option Word} {r : List (Option Word)} (h : k.fifoFrom c d = e :: r) :
    Core.Apart (popSide c d).1 (k.taken c d e r) (k.pop c d) := by
  rw [Core.pop_cons h]
  split
  · exact .commitBy _ _ _
  · exact .refl _ _

theorem Core.popNoted_cons {k : Core} {c : Cluster} {d : Dir} {e : Option Word} {r : List (Option Word)} (h : k.fifoFrom c d = e :: r) :
    ∃ f : Cl → Cl, (∀ x : Cl, ∃ l, f x = { x with popped := l }) ∧ k.popNoted c d = (k.pop c d).upCl c f := by
  unfold Core.popNoted
  rw [h]
  exact ⟨_, fun x => ⟨_, rfl⟩, rfl⟩

theorem Core.popNoted_popped (k : Core) (c : Cluster) (d : Dir) : Core.Popped c d k (k.popNoted c d) := by
  cases h : k.fifoFrom c d with
  | nil =>
    have same : k.popNoted c d = k := by
      unfold Core.popNoted
      rw [h]
    rw [same]
    exact ⟨rfl, fun _ _ => rfl, fun _ _ _ => rfl, fun _ _ _ => rfl⟩
  | cons e r =>
    obtain ⟨f, hf, noted⟩ := Core.popNoted_cons h
    have apart := Core.pop_apart h
    have self : (k.taken c d e r).cl c = (match d with | .left => { k.cl c with inL := e.getD 0 } | .right => { k.cl c with inR := e.getD 0 }) := by
      unfold Core.taken
      rw [Core.cl_upCl_self, Core.setFifo_cl]
      cases d <;> rfl
    have mine := apart.cl c (popSide_ne c d).symm
    obtain ⟨l, hl⟩ := hf ((k.pop c d).cl c)
    rw [noted]
    refine ⟨?_, fun g hg => ?_, fun q hq g => ?_, fun q hc hq => ?_⟩
    · rw [Core.cl_upCl_self, hl]
      refine (congrArg (fun x : Cl => { x with inL := (k.cl c).inL, inR := (k.cl c).inR, popped := (k.cl c).popped, loadQ := (k.cl c).loadQ }) mine).trans ?_
      rw [self]
      cases d <;> rfl
    · rw [Core.cl_upCl_self, hl]
      refine (congrArg (fun x : Cl => x.incoming g) mine : _).trans ?_
      rw [self]
      cases d <;> cases g <;> first | rfl | exact absurd rfl hg
    · rw [Core.fifoTo_upCl, apart.fifo q hq, Core.taken_fifoTo, if_neg fun h => hq h.1]
    · rw [Core.cl_upCl_ne _ hc]
      have there := apart.cl q hq
      rwa [k.taken_cl_ne d e r hc] at there

/-- K[1:0] of a word that pushes in one direction only (R45). -/
def pushOf : Dir → BitVec 2
  | .left => 2
  | .right => 1

theorem pushOf_ne (d : Dir) : pushOf d ≠ 0 := by cases d <;> decide
theorem pushBit_pushOf (d : Dir) : pushBit (pushOf d) d = true := by cases d <;> rfl
theorem Core.hasRoom_pushOf {k : Core} {c : Cluster} {d : Dir} (h : (k.fifoTo c d).length < 8) : k.hasRoom c (pushOf d) = true := by
  cases d <;> simp [Core.hasRoom, pushOf, fifoDepth, h]

/-- Pushes that waited for space, and nothing else in flight, are made once there is space (R45). -/
theorem Core.commitBy_pushes {k : Core} {c : Cluster} {d : Dir} {m n : Nat} (waits : (k.cl c).flight = [{ due := m, what := .pushes (pushOf d), need := pushOf d }])
    (due : m ≤ n) (space : (k.fifoTo c d).length < 8) : k.commitBy c n = (k.upCl c fun x => { x with flight := [] }).pushBits c (pushOf d) := by
  have room : (k.upCl c fun x => { x with flight := [] }).hasRoom c (pushOf d) = true := by
    rw [Core.hasRoom_congr fun f => k.fifoTo_upCl c _ c f]
    exact Core.hasRoom_pushOf space
  have rest : ([{ due := m, what := .pushes (pushOf d), need := pushOf d }] : List InFlight).filter (fun f => !decide (f.due ≤ n)) = [] := by simp [due]
  have taken : ([{ due := m, what := .pushes (pushOf d), need := pushOf d }] : List InFlight).filter (fun f => f.due ≤ n) =
      [{ due := m, what := .pushes (pushOf d), need := pushOf d }] := by simp [due]
  unfold Core.commitBy
  dsimp only
  rw [waits, rest, taken]
  simp only [Core.writeDue, room, if_true, List.isEmpty_nil]
  rfl

/-- `j` is `k` once cluster `c` has taken the entry `e` of a FIFO and left `r`: where the neighbour's pushes waited for the space, they are made (R45). -/
structure Core.Takes (c : Cluster) (d : Dir) (e : Option Word) (r : List (Option Word)) (k j : Core) : Prop where
  incoming : (j.cl c).incoming d = e.getD 0
  alone : (k.cl (popSide c d).1).flight = [] → j.fifoTo (popSide c d).1 (popSide c d).2 = r
  waited : ∀ m, (k.cl (popSide c d).1).flight = [{ due := m, what := .pushes (pushOf (popSide c d).2), need := pushOf (popSide c d).2 }] →
    m ≤ (k.cl (popSide c d).1).icyc → r.length < 8 →
      j.fifoTo (popSide c d).1 (popSide c d).2 = r ++ [outgoing (k.cl (popSide c d).1) (popSide c d).2] ∧ (j.cl (popSide c d).1).flight = [] ∧
        outgoing (j.cl (popSide c d).1) (popSide c d).2 = none

theorem Core.popNoted_takes {k : Core} {c : Cluster} {d : Dir} {e : Option Word} {r : List (Option Word)} (h : k.fifoFrom c d = e :: r) :
    Core.Takes c d e r k (k.popNoted c d) := by
  let n := (popSide c d).1
  let nd := (popSide c d).2
  let j := k.popNoted c d
  obtain ⟨f, hf, noted⟩ := Core.popNoted_cons h
  obtain ⟨l, hl⟩ := hf ((k.pop c d).cl c)
  have apart := Core.pop_apart h
  have side : n ≠ c := popSide_ne c d
  have theirs : (k.taken c d e r).cl n = k.cl n := k.taken_cl_ne d e r side
  have took : (k.taken c d e r).fifoTo n nd = r := by rw [Core.taken_fifoTo, if_pos ⟨rfl, rfl⟩]
  have clN : j.cl n = (k.pop c d).cl n := by
    show (k.popNoted c d).cl n = _
    rw [noted, Core.cl_upCl_ne _ side]
  have fifoN : j.fifoTo n nd = (k.pop c d).fifoTo n nd := by
    show (k.popNoted c d).fifoTo n nd = _
    rw [noted, Core.fifoTo_upCl]
  have pop := Core.pop_cons h
  refine ⟨?_, fun (none : (k.cl n).flight = []) => ?_,
    fun m (waits : (k.cl n).flight = [{ due := m, what := .pushes (pushOf nd), need := pushOf nd }]) due space => ?_⟩
  · show ((k.popNoted c d).cl c).incoming d = _
    rw [noted, Core.cl_upCl_self, hl]
    refine (congrArg (fun x : Cl => x.incoming d) (apart.cl c side.symm) : _).trans ?_
    unfold Core.taken
    rw [Core.cl_upCl_self]
    cases d <;> rfl
  · have free : ((k.taken c d e r).cl n).blocked = false := by simp [Cl.blocked, theirs, none]
    rw [fifoN, pop, if_neg (by rw [free]; exact Bool.false_ne_true), took]
  · have blocked : ((k.taken c d e r).cl n).blocked = true := by
      rw [theirs]
      simp only [Cl.blocked, waits, List.any_cons, List.any_nil, Bool.or_false, Bool.and_eq_true, bne_iff_ne, decide_eq_true_eq]
      exact ⟨pushOf_ne nd, due⟩
    have made : k.pop c d = ((k.taken c d e r).upCl n fun x => { x with flight := [] }).pushBits n (pushOf nd) := by
      rw [pop, if_pos blocked]
      exact Core.commitBy_pushes (by rw [theirs]; exact waits) (by rw [theirs]; exact due) (by rw [took]; exact space)
    obtain ⟨entered, gone⟩ := Core.pushBits_tokens ((k.taken c d e r).upCl n fun x => { x with flight := [] }) n (pushOf nd) nd
    rw [← made, pushBit_pushOf, if_pos rfl] at entered gone
    rw [Core.fifoTo_upCl, took, Core.cl_upCl_self, theirs] at entered
    refine ⟨fifoN.trans entered, ?_, (congrArg (outgoing · nd) clN).trans gone⟩
    rw [clN, made, Core.pushBits_flight, Core.cl_upCl_self]

/-! The header's pops. -/

theorem Core.Popped.wait {c : Cluster} {d : Dir} {k j : Core} (h : Core.Popped c d k j) : (j.cl c).wait = (k.cl c).wait := (congrArg Cl.wait h.own : _)
theorem Core.Popped.outgoing {c : Cluster} {d : Dir} {k j : Core} (h : Core.Popped c d k j) (f : Dir) : Spec.outgoing (j.cl c) f = Spec.outgoing (k.cl c) f :=
  (congrArg (Spec.outgoing · f) h.own : _)

/-- What the pops of a header leave of the cluster itself: its incoming registers apart, nothing changes. -/
structure Core.Pops (c : Cluster) (k j : Core) : Prop where
  own : { j.cl c with inL := (k.cl c).inL, inR := (k.cl c).inR, popped := (k.cl c).popped, loadQ := (k.cl c).loadQ } = k.cl c
  fifo : ∀ f, j.fifoTo c f = k.fifoTo c f

theorem Core.Popped.pops {c : Cluster} {d : Dir} {k j : Core} (h : Core.Popped c d k j) : Core.Pops c k j := ⟨h.own, h.fifo c (popSide_ne c d).symm⟩

namespace Core.Pops

variable {c : Cluster} {k j l : Core}

theorem trans (h : Core.Pops c k j) (g : Core.Pops c j l) : Core.Pops c k l :=
  ⟨(congrArg (fun x : Cl => { x with inL := (k.cl c).inL, inR := (k.cl c).inR, popped := (k.cl c).popped, loadQ := (k.cl c).loadQ }) g.own).trans h.own,
    fun f => (g.fifo f).trans (h.fifo f)⟩

theorem wait (h : Core.Pops c k j) : (j.cl c).wait = (k.cl c).wait := (congrArg Cl.wait h.own : _)
theorem exposed (h : Core.Pops c k j) : (j.cl c).exposed = (k.cl c).exposed := (congrArg Cl.exposed h.own : _)
theorem icyc (h : Core.Pops c k j) : (j.cl c).icyc = (k.cl c).icyc := (congrArg Cl.icyc h.own : _)
theorem outgoing (h : Core.Pops c k j) (f : Dir) : Spec.outgoing (j.cl c) f = Spec.outgoing (k.cl c) f := (congrArg (Spec.outgoing · f) h.own : _)

end Core.Pops

/-- The pops of a header, one direction after the other (R45). -/
theorem Core.pops_eq (k : Core) (c : Cluster) (h : Hdr) : k.pops c h =
    let start := k.upCl c fun x => { x with popped := [] }
    let left := if popsFrom h .left then start.popNoted c .left else start
    if popsFrom h .right then left.popNoted c .right else left := rfl

theorem Core.pops_pops (k : Core) (c : Cluster) (h : Hdr) : Core.Pops c k (k.pops c h) := by
  have start : Core.Pops c k (k.upCl c fun x => { x with popped := [] }) := ⟨by rw [Core.cl_upCl_self], fun f => Core.fifoTo_upCl _ _ _ _ _⟩
  have one (j : Core) (d : Dir) : Core.Pops c k j → Core.Pops c k (if popsFrom h d then j.popNoted c d else j) := fun p => by
    split
    · exact p.trans (Core.popNoted_popped j c d).pops
    · exact p
  rw [Core.pops_eq]
  exact one _ .right (one _ .left start)

theorem Delivered.wait {s t : State} (h : Delivered s t) : t.myCl.wait = s.myCl.wait := by
  unfold State.myCl
  rw [h.curCl, h.core.wait]

theorem State.tickTo_wait (s : State) (n : Nat) : (s.tickTo n).myCl.wait = s.myCl.wait := by
  rw [(s.tickTo_delivered n).wait]
  simp [State.atCycle]

theorem State.tick_wait (s : State) (i : Instr) : (s.tick i).myCl.wait = s.myCl.wait := by
  unfold State.tick
  dsimp only
  split
  · exact s.tickTo_wait _
  · rw [State.tickTo_wait, State.tickTo_wait]

/-- A word that is ready issues in a cluster that waits for nothing. -/
theorem Ready.unwaited {s : State} {i : Instr} (ready : Ready s i) : (s.begun i).myCl.wait = none := by
  have waits : s.myCl.wait = none := by
    have can := ready.issues
    simp only [State.canIssue, Bool.and_eq_true] at can
    exact Option.isNone_iff_eq_none.1 can.1.1.2
  unfold State.begun
  split
  · exact waits
  · have ticked : (s.tick i).myCl.wait = none := (State.tick_wait s i).trans waits
    unfold State.popsOf
    split
    · unfold State.myCl
      rw [State.mine_upMine]
      exact (Core.pops_pops _ _ _).wait.trans ticked
    · exact ticked

/-! A word's pushes. -/

/-- A word that neither waits nor stops makes its pushes as it retires (R45). -/
theorem State.retire_mine {s : State} (wait : s.myCl.wait = none) (stopped : s.myCl.stopped = false) (i : Instr) :
    (s.retire i).mine = (s.mine.upCl s.curCl fun x => { x with need := 0, popped := [] }).pushAfter s.curCl i.late i.latency (pushesOf i) := by
  have cleared : (((s.upMyCl fun x => { x with need := 0 }).upMyCl fun x => { x with popped := [] }).upMine fun k =>
      k.pushAfter s.curCl i.late i.latency (pushesOf i)).mine =
        (s.mine.upCl s.curCl fun x => { x with need := 0, popped := [] }).pushAfter s.curCl i.late i.latency (pushesOf i) := by
    rw [State.mine_upMine]
    refine congrArg (fun k : Core => k.pushAfter s.curCl i.late i.latency (pushesOf i)) ?_
    exact (congrArg State.mine (State.upMyCl_comp s _ _)).trans (State.mine_upMine _ _)
  have quiet := (Still.upMyCl s (fun x => { x with need := 0 }) rfl).trans (.upMyCl _ (fun x => { x with popped := [] }) rfl)
  have pushed := quiet.trans (Still.upMine (f := fun k => k.pushAfter s.curCl i.late i.latency (pushesOf i)) (.pushAfter s.curCl _ _ _ _))
  have waits : (s.upMyCl fun x => { x with need := 0 }).myCl.wait = none := by rw [State.myCl_upMyCl]; exact wait
  unfold State.retire
  dsimp only
  rw [if_neg (by rw [waits]; exact Bool.false_ne_true)]
  exact (congrArg State.mine (if_neg (ne_of_eq_of_ne (pushed.quiet.stopped.trans stopped) Bool.false_ne_true))).trans cleared

/-- What a word does whose pushes are those of `i`, and which is of latency 1 and does not retire late. -/
structure Prompt (i : Instr) : Prop where
  late : i.late = false
  latency : i.latency = 1

variable {s : State} {i : Instr}

/-- Whether the pushes of a word can be made as it retires (R45, R48). -/
def State.pushesNow (s : State) (i : Instr) : Prop := pushesOf i = 0 ∨ (s.myCl.exposed = false ∧ s.mine.hasRoom s.curCl (pushesOf i) = true)

/-- The core as a word's pushes find it: the note of what its body needed and popped is gone. -/
def State.unnoted (s : State) : Core := s.mine.upCl s.curCl fun x => { x with need := 0, popped := [] }

theorem State.unnoted_cl (s : State) : s.unnoted.cl s.curCl = { s.myCl with need := 0, popped := [] } := Core.cl_upCl_self _ _ _
theorem State.unnoted_fifoTo (s : State) (d : Dir) : s.unnoted.fifoTo s.curCl d = s.mine.fifoTo s.curCl d := Core.fifoTo_upCl _ _ _ _ _
theorem State.unnoted_hasRoom (s : State) (m : BitVec 2) : s.unnoted.hasRoom s.curCl m = s.mine.hasRoom s.curCl m := Core.hasRoom_congr s.unnoted_fifoTo m

theorem State.retire_prompt (prompt : Prompt i) (wait : s.myCl.wait = none) (stopped : s.myCl.stopped = false) :
    (s.retire i).curCl = s.curCl ∧ (s.retire i).mine = s.unnoted.pushAfter s.curCl false 1 (pushesOf i) := by
  have retired := State.retire_mine wait stopped i
  rw [prompt.late, prompt.latency] at retired
  exact ⟨(State.retire_still stopped i).quiet.outside.curCl, retired⟩

/-- A word whose FIFOs have space pushes as it retires (R45, R48). -/
theorem State.retire_now (prompt : Prompt i) (wait : s.myCl.wait = none) (stopped : s.myCl.stopped = false) (now : s.pushesNow i) :
    (s.retire i).myCl.flight = s.myCl.flight ∧ ∀ d,
      outgoing (s.retire i).myCl d = (if pushBit (pushesOf i) d then none else outgoing s.myCl d) ∧
      (s.retire i).mine.fifoTo s.curCl d = if pushBit (pushesOf i) d then s.mine.fifoTo s.curCl d ++ [outgoing s.myCl d] else s.mine.fifoTo s.curCl d := by
  obtain ⟨cur, retired⟩ := State.retire_prompt prompt wait stopped
  rw [Core.pushAfter_now (by rw [s.unnoted_cl, s.unnoted_hasRoom]; exact now)] at retired
  have mine : (s.retire i).myCl = (s.unnoted.pushBits s.curCl (pushesOf i)).cl s.curCl := by
    unfold State.myCl
    rw [cur, retired]
  have kept (d : Dir) : outgoing (s.unnoted.cl s.curCl) d = outgoing s.myCl d := (congrArg (outgoing · d) s.unnoted_cl : _)
  refine ⟨?_, fun d => ?_⟩
  · rw [mine, Core.pushBits_flight]
    exact (congrArg Cl.flight s.unnoted_cl : _)
  · obtain ⟨entered, out⟩ := s.unnoted.pushBits_tokens s.curCl (pushesOf i) d
    rw [s.unnoted_fifoTo, kept] at entered
    rw [kept] at out
    exact ⟨mine ▸ out, retired ▸ entered⟩

/-- Else its pushes are on their way, and its tokens stay as they are (R45, R49). -/
theorem State.retire_later (prompt : Prompt i) (wait : s.myCl.wait = none) (stopped : s.myCl.stopped = false) (later : ¬ s.pushesNow i) :
    (∀ d, outgoing (s.retire i).myCl d = outgoing s.myCl d ∧ (s.retire i).mine.fifoTo s.curCl d = s.mine.fifoTo s.curCl d) ∧
      ({ due := s.myCl.icyc + 1, what := .pushes (pushesOf i), need := pushesOf i } : InFlight) ∈ (s.retire i).myCl.flight ∧
      ∀ f ∈ s.myCl.flight, f ∈ (s.retire i).myCl.flight := by
  obtain ⟨cur, retired⟩ := State.retire_prompt prompt wait stopped
  unfold State.pushesNow at later
  rw [not_or, not_and_or, Bool.not_eq_false, Bool.not_eq_true] at later
  rw [Core.pushAfter_later later.1 (by rw [s.unnoted_cl, s.unnoted_hasRoom]; exact later.2)] at retired
  have mine : (s.retire i).myCl = { s.myCl with need := 0, popped := [] }.send 1 (pushesOf i) (.pushes (pushesOf i)) := by
    unfold State.myCl
    rw [cur, retired, Core.cl_upCl_self]
    exact congrArg (fun x : Cl => x.send 1 (pushesOf i) (.pushes (pushesOf i))) s.unnoted_cl
  rw [mine, retired]
  exact ⟨fun d => ⟨rfl, (Core.fifoTo_upCl _ _ _ _ _).trans (s.unnoted_fifoTo d)⟩, mem_insertFlight _ _, fun f hf => mem_insertFlight_of_mem hf⟩

/-! The token words. -/

/-- `w` is what the body of a token word `i` makes of `u`: the outgoing registers are `out` where its result is written at once, and else stay. -/
structure TokenBody (i : Instr) (out : Dir → Option Word) (u w : State) : Prop where
  quiet : Quiet u w
  pc : w.myCl.pc = pcPlus u.curCl u.myCl.pc i.words
  regs : RegsBut none u w
  preds : PredsKept u w
  icyc : w.myCl.icyc = u.myCl.icyc
  fifo : ∀ d, w.mine.fifoTo u.curCl d = u.mine.fifoTo u.curCl d
  now : u.atOnce i 1 → w.myCl.flight = u.myCl.flight ∧ ∀ d, outgoing w.myCl d = out d
  later : ¬ u.atOnce i 1 → ∀ d, outgoing w.myCl d = outgoing u.myCl d

theorem State.fifoTo_bodyOf (s : State) (i : Instr) (d : Dir) : (s.bodyOf i).mine.fifoTo (s.begun i).curCl d = (s.begun i).mine.fifoTo (s.begun i).curCl d := by
  have step (t : State) (f : Cl → Cl) : (t.upMyCl f).mine.fifoTo t.curCl d = t.mine.fifoTo t.curCl d := by
    unfold State.upMyCl
    rw [State.mine_upMine, Core.fifoTo_upCl]
  exact (step ((s.begun i).advance i) _).trans (step (s.begun i) _)

theorem State.bodyOf_own (s : State) (i : Instr) : ∃ pc, (s.bodyOf i).myCl = { (s.begun i).myCl with pc := pc, need := pushesOf i } := by
  refine ⟨pcPlus (s.begun i).curCl (s.begun i).myCl.pc i.words, ?_⟩
  unfold State.bodyOf State.noted State.advance
  rw [State.myCl_upMyCl, State.myCl_upMyCl]

theorem State.bodyOf_tokens (s : State) (i : Instr) : TokenBody i (outgoing (s.begun i).myCl) (s.begun i) (s.bodyOf i) := by
  obtain ⟨pc, own⟩ := s.bodyOf_own i
  exact ⟨s.bodyOf_quiet i, s.bodyOf_pc i, fun r _ => s.bodyOf_reg i r, s.bodyOf_pmask i, by rw [own], s.fifoTo_bodyOf i, fun _ => ⟨by rw [own], fun d => by rw [own]; rfl⟩,
    fun _ d => by rw [own]; rfl⟩

theorem TokenBody.upMyCl {i : Instr} {out out' : Dir → Option Word} {u b : State} (h : TokenBody i out u b) {f : Cl → Cl}
    (own : { f b.myCl with flight := b.myCl.flight, outL := b.myCl.outL, outR := b.myCl.outR } = b.myCl)
    (now : u.atOnce i 1 → (f b.myCl).flight = u.myCl.flight ∧ ∀ d, outgoing (f b.myCl) d = out' d)
    (later : ¬ u.atOnce i 1 → ∀ d, outgoing (f b.myCl) d = outgoing u.myCl d) : TokenBody i out' u (b.upMyCl f) := by
  have self := State.myCl_upMyCl b f
  have still : Still b (b.upMyCl f) := .upMyCl b f (congrArg (fun x : Cl => { x with need := b.myCl.need, popped := b.myCl.popped }) own : _)
  refine ⟨h.quiet.trans still.quiet, still.same.pc.trans h.pc, fun r hr => (still.same.reg r).trans (h.regs r hr), fun p => (still.same.kept p).trans (h.preds p), ?_, fun d => ?_, ?_, ?_⟩
  · rw [self]
    exact (congrArg Cl.icyc own : _).trans h.icyc
  · refine Eq.trans ?_ (h.fifo d)
    unfold State.upMyCl
    rw [State.mine_upMine, Core.fifoTo_upCl]
  · rwa [self]
  · rwa [self]

theorem TokenBody.atOnce {i : Instr} {out : Dir → Option Word} {u b : State} (h : TokenBody i out u b) {n : Nat} (now : b.atOnce i n) : u.atOnce i n := by
  obtain ⟨mode, short, room⟩ := now
  rw [h.quiet.exposed] at mode
  rw [h.quiet.outside.curCl, Core.hasRoom_congr h.fifo] at room
  exact ⟨mode, short, room⟩

/-- A result that is not written at once goes on its way (R48, R49; log 6). -/
theorem State.deliver_later {s : State} {i : Instr} {n : Nat} (h : ¬ s.atOnce i n) (need : s.myCl.need = pushesOf i) (v : RegVal) :
    s.deliver n v = s.upMyCl fun x => x.send n x.need v := by
  have sent : s.mine.deliver s.curCl n v = s.mine.upCl s.curCl fun x => x.send n x.need v := by
    unfold Core.deliver
    dsimp only
    refine if_pos ?_
    unfold State.atOnce at h
    show (s.myCl.exposed || decide (n > lmodeReach) || (s.myCl.need != 0 && (decide (n > 1) || !s.mine.hasRoom s.curCl s.myCl.need))) = true
    rw [need]
    by_contra no
    refine h ?_
    simp only [Bool.or_eq_true, Bool.and_eq_true, Bool.not_eq_true', decide_eq_true_eq, bne_iff_ne] at no
    grind
  unfold State.deliver State.upMyCl State.upMine State.upCore
  exact congrArg (s.setCore s.me) sent

theorem Cl.setOutgoing_rest (x : Cl) (d : Dir) (v : Word) : { x.setOutgoing d v with outL := x.outL, outR := x.outR } = x := by cases d <;> rfl
theorem Cl.outgoing_setOutgoing (x : Cl) (d : Dir) (v : Word) (e : Dir) : outgoing (x.setOutgoing d v) e = if e = d then some v else outgoing x e := by
  cases d <;> cases e <;> rfl

/-- tkwr writes the outgoing register of its direction, at once or on its way (R154; log 22). -/
theorem State.deliver_tokens (s : State) (i : Instr) (dir : Dir) (v : Word) :
    TokenBody i (fun d => if d = dir then some v else outgoing (s.begun i).myCl d) (s.begun i) ((s.bodyOf i).deliver 1 (.payload dir v)) ∧
      (¬ (s.begun i).atOnce i 1 → Sent i (s.begun i) ((s.bodyOf i).deliver 1 (.payload dir v)) 1 (.payload dir v)) := by
  have base := s.bodyOf_tokens i
  have need := s.bodyOf_need i
  by_cases now : (s.begun i).atOnce i 1
  · rw [State.deliver_atOnce (State.bodyOf_atOnce now) need]
    refine ⟨base.upMyCl (f := fun x => x.setOutgoing dir v) ?_ (fun _ => ?_) fun h => absurd now h, fun h => absurd now h⟩
    · exact (congrArg (fun x : Cl => { x with flight := (s.bodyOf i).myCl.flight }) (Cl.setOutgoing_rest _ dir v) : _)
    · obtain ⟨flight, out⟩ := base.now now
      exact ⟨(congrArg Cl.flight (Cl.setOutgoing_rest _ dir v) : _).trans flight, fun d => by rw [Cl.outgoing_setOutgoing, out]⟩
  · rw [State.deliver_later (fun h => now (base.atOnce h)) need]
    refine ⟨base.upMyCl (f := fun x => x.send 1 x.need (.payload dir v)) rfl (fun h => absurd h now) fun _ => base.later now, fun _ => ?_⟩
    unfold Sent
    rw [State.myCl_upMyCl, ← base.icyc, ← need]
    exact mem_insertFlight _ _

/-- A token word retires with its pushes once its body has acted (R45, R154, R166). -/
theorem TokenBody.retire {s : State} {i : Instr} {h : Hdr} {out : Dir → Option Word} {w : State} (ready : Ready s i) (prompt : Prompt i)
    (asked : pushesOf i = h.k.setWidth 2) (body : TokenBody i out (s.begun i) w) :
    let u := s.begun i
    let t := w.retire i
    Passed i u t ∧ RegsBut none u t ∧ PredsKept u t ∧
      (u.atOnce i 1 → t.myCl.flight = u.myCl.flight ∧ ∀ d,
        (pushesTo h d = false → outgoing t.myCl d = out d ∧ t.mine.fifoTo u.curCl d = u.mine.fifoTo u.curCl d) ∧
        (pushesTo h d = true → outgoing t.myCl d = none ∧ t.mine.fifoTo u.curCl d = u.mine.fifoTo u.curCl d ++ [out d])) ∧
      (¬ u.atOnce i 1 → (∀ d, outgoing t.myCl d = outgoing u.myCl d ∧ t.mine.fifoTo u.curCl d = u.mine.fifoTo u.curCl d) ∧
        (∀ f ∈ w.myCl.flight, f ∈ t.myCl.flight) ∧ (h.k.setWidth 2 ≠ (0 : BitVec 2) → Sent i u t 1 (.pushes (h.k.setWidth 2)))) := by
  intro u t
  have bit (d : Dir) : pushBit (pushesOf i) d = pushesTo h d := by rw [asked]; cases d <;> simp [pushBit, pushesTo]
  have wait : w.myCl.wait = none := body.quiet.wait.trans ready.unwaited
  have stopped : w.myCl.stopped = false := body.quiet.stopped.trans ready.stopped
  have cur : w.curCl = u.curCl := body.quiet.outside.curCl
  have still := State.retire_still stopped i
  obtain ⟨outside, core, cluster⟩ := body.quiet.trans still.quiet
  have mode : w.myCl.exposed = u.myCl.exposed := body.quiet.exposed
  have room : w.mine.hasRoom w.curCl (pushesOf i) = u.mine.hasRoom u.curCl (pushesOf i) := by rw [cur, Core.hasRoom_congr body.fifo]
  have nowOf : u.atOnce i 1 → w.pushesNow i := fun now => by
    unfold State.pushesNow
    rw [mode, room]
    exact now.2.2.imp id fun h => ⟨now.1, h.2⟩
  have laterOf : ¬ u.atOnce i 1 → pushesOf i ≠ 0 → ¬ w.pushesNow i := fun later some now => by
    unfold State.pushesNow at now
    rw [mode, room] at now
    obtain ⟨free, space⟩ := now.resolve_left some
    exact later ⟨free, by decide, .inr ⟨Nat.le_refl 1, space⟩⟩
  refine ⟨⟨outside, core, cluster, still.same.pc.trans body.pc⟩, fun r hr => (still.same.reg r).trans (body.regs r hr),
    fun p => (still.same.kept p).trans (body.preds p), fun now => ?_, fun later => ?_⟩
  · obtain ⟨flight, tokens⟩ := State.retire_now prompt wait stopped (nowOf now)
    obtain ⟨sent, outs⟩ := body.now now
    refine ⟨flight.trans sent, fun d => ?_⟩
    obtain ⟨o, q⟩ := tokens d
    rw [bit, outs, cur, body.fifo] at q
    rw [bit, outs] at o
    exact ⟨fun none => by rw [none] at o q; exact ⟨o, q⟩, fun some => by rw [some] at o q; exact ⟨o, q⟩⟩
  · by_cases none : pushesOf i = 0
    · obtain ⟨flight, tokens⟩ := State.retire_now prompt wait stopped (.inl none)
      refine ⟨fun d => ?_, fun f hf => flight ▸ hf, fun some => absurd (asked ▸ none) some⟩
      obtain ⟨o, q⟩ := tokens d
      have no : pushBit (pushesOf i) d = false := by rw [none]; cases d <;> rfl
      rw [no] at o q
      exact ⟨o.trans (body.later later d), cur ▸ q.trans (by rw [cur]; exact body.fifo d)⟩
    · obtain ⟨tokens, sent, kept⟩ := State.retire_later prompt wait stopped (laterOf later none)
      refine ⟨fun d => ⟨(tokens d).1.trans (body.later later d), ?_⟩, kept, fun _ => ?_⟩
      · exact cur ▸ (tokens d).2.trans (by rw [cur]; exact body.fifo d)
      · rw [body.icyc, asked] at sent
        unfold Sent
        rwa [asked]

/-- tkwr, nop and cwait: tokens move, and no register changes (R45, R154, R155, R166). -/
theorem tokenWords : Spec.TokenWords := by
  unfold Spec.TokenWords
  intro s i h dir a ld st cp ts form ready u out
  suffices settles : ∃ w, exec i s = .next (w.retire i) ∧ Prompt i ∧ pushesOf i = h.k.setWidth 2 ∧ TokenBody i out u w ∧
      (¬ u.atOnce i 1 → i = .tkwr h a dir → Sent i u w 1 (.payload dir (u.reg a))) by
    obtain ⟨w, acts, prompt, asked, body, sent⟩ := settles
    have done := body.retire ready prompt asked
    dsimp only at done
    rw [s.begun_curCl] at done
    obtain ⟨passed, regs, preds, now, later⟩ := done
    exact ⟨_, acts, passed, regs, preds, now, fun l => ⟨(later l).1, fun e => (later l).2.1 _ (sent l e), (later l).2.2⟩⟩
  rcases form with rfl | rfl | rfl
  · exact ⟨_, ready.ok rfl, ⟨rfl, rfl⟩, rfl, s.bodyOf_tokens _, nofun⟩
  · exact ⟨_, ready.ok rfl, ⟨rfl, rfl⟩, rfl, s.bodyOf_tokens _, nofun⟩
  · have written : out = fun d => if d = dir then some (u.reg a) else outgoing u.myCl d := by
      funext d
      exact if_congr (by simp [eq_comm]) rfl rfl
    obtain ⟨body, sent⟩ := s.deliver_tokens (.tkwr h a dir) dir (u.reg a)
    refine ⟨_, ready.ok ?_, ⟨rfl, rfl⟩, rfl, written ▸ body, fun l _ => sent l⟩
    exact congrArg (fun v => Eff.ok ((s.bodyOf (.tkwr h a dir)).deliver 1 (.payload dir v))) (s.bodyOf_reg _ a)

/-! The pops of a header, in both directions. -/

namespace Core.Takes

variable {c : Cluster} {d : Dir} {e : Option Word} {r : List (Option Word)} {k l j : Core}

/-- What the neighbour is before does not depend on work that leaves it alone. -/
theorem after (h : Core.Takes c d e r l j) (same : { l.cl (popSide c d).1 with loadQ := (k.cl (popSide c d).1).loadQ } = k.cl (popSide c d).1) :
    Core.Takes c d e r k j := by
  have flight : (l.cl (popSide c d).1).flight = (k.cl (popSide c d).1).flight := (congrArg Cl.flight same : _)
  have icyc : (l.cl (popSide c d).1).icyc = (k.cl (popSide c d).1).icyc := (congrArg Cl.icyc same : _)
  have out : outgoing (l.cl (popSide c d).1) (popSide c d).2 = outgoing (k.cl (popSide c d).1) (popSide c d).2 := (congrArg (outgoing · (popSide c d).2) same : _)
  obtain ⟨incoming, alone, waited⟩ := h
  rw [flight] at alone waited
  rw [icyc, out] at waited
  exact ⟨incoming, alone, waited⟩

/-- Nor does what it becomes. -/
theorem before (h : Core.Takes c d e r k l) (incoming : (j.cl c).incoming d = (l.cl c).incoming d) (fifo : ∀ f, j.fifoTo (popSide c d).1 f = l.fifoTo (popSide c d).1 f)
    (same : { j.cl (popSide c d).1 with loadQ := (l.cl (popSide c d).1).loadQ } = l.cl (popSide c d).1) : Core.Takes c d e r k j := by
  have flight : (j.cl (popSide c d).1).flight = (l.cl (popSide c d).1).flight := (congrArg Cl.flight same : _)
  have out : outgoing (j.cl (popSide c d).1) (popSide c d).2 = outgoing (l.cl (popSide c d).1) (popSide c d).2 := (congrArg (outgoing · (popSide c d).2) same : _)
  refine ⟨incoming.trans h.incoming, fun none => (fifo _).trans (h.alone none), fun m w due space => ?_⟩
  obtain ⟨entered, gone, out'⟩ := h.waited m w due space
  exact ⟨(fifo _).trans entered, flight.trans gone, out.trans out'⟩

end Core.Takes

theorem Core.pops_takes {k : Core} {c : Cluster} {h : Hdr} {d : Dir} {e : Option Word} {r : List (Option Word)} (asked : popsFrom h d = true)
    (held : k.fifoFrom c d = e :: r) : Core.Takes c d e r k (k.pops c h) := by
  have start_cl (q : Cluster) (hq : q ≠ c) : (k.upCl c fun x => { x with popped := [] }).cl q = k.cl q := Core.cl_upCl_ne k hq _
  have start_fifo (q : Cluster) (f : Dir) : (k.upCl c fun x => { x with popped := [] }).fifoTo q f = k.fifoTo q f := Core.fifoTo_upCl _ _ _ _ _
  rw [Core.pops_eq]
  dsimp only
  generalize (k.upCl c fun x => { x with popped := [] }) = start at start_cl start_fifo
  have same : { start.cl (popSide c d).1 with loadQ := (k.cl (popSide c d).1).loadQ } = k.cl (popSide c d).1 := by rw [start_cl _ (popSide_ne c d)]
  refine Core.Takes.after ?_ same
  have held : start.fifoFrom c d = e :: r := (start_fifo _ _).trans held
  cases d with
  | left =>
    rw [if_pos asked]
    have took := Core.popNoted_takes held
    split
    · have right := Core.popNoted_popped (start.popNoted c .left) c .right
      exact took.before (right.incoming .left nofun) (right.fifo _ (popSides_ne c)) (right.others _ (popSide_ne c .left) (popSides_ne c))
    · exact took
  | right =>
    rw [if_pos asked]
    split
    · have left := Core.popNoted_popped start c .left
      exact (Core.popNoted_takes ((left.fifo _ (popSides_ne c).symm _).trans held)).after (left.others _ (popSide_ne c .right) (popSides_ne c).symm)
    · exact Core.popNoted_takes held

theorem Core.Apart.pushAfter (c : Cluster) (k : Core) (late : Bool) (n : Nat) (m : BitVec 2) : Core.Apart c k (k.pushAfter c late n m) := by
  unfold Core.pushAfter
  split
  · exact .refl c k
  · split
    · exact .upCl c k _
    · split
      · exact .upCl c k _
      · exact .pushBits c k m

/-- A word that only pops and pushes leaves its neighbours alone as it retires. -/
theorem State.retired_apart {s : State} {i : Instr} (ready : Ready s i) : Core.Apart s.curCl (s.begun i).mine ((s.bodyOf i).retire i).mine := by
  have quiet := s.bodyOf_quiet i
  have cur : (s.bodyOf i).curCl = s.curCl := quiet.outside.curCl.trans (s.begun_curCl i)
  have step (t : State) (f : Cl → Cl) : Core.Apart t.curCl t.mine (t.upMyCl f).mine := by
    unfold State.upMyCl
    rw [State.mine_upMine]
    exact .upCl _ _ _
  have body : Core.Apart s.curCl (s.begun i).mine (s.bodyOf i).mine := by
    rw [← s.begun_curCl i]
    exact (step (s.begun i) _).trans (step ((s.begun i).advance i) _)
  refine body.trans ?_
  rw [State.retire_mine (quiet.wait.trans ready.unwaited) (quiet.stopped.trans ready.stopped), cur]
  exact (Core.Apart.upCl _ _ _).trans (.pushAfter _ _ _ _ _)

/-- Whether a header's pushes have space (R45). -/
theorem Core.hasRoom_iff (k : Core) (c : Cluster) (h : Hdr) : k.hasRoom c (h.k.setWidth 2) = true ↔ ∀ d, pushesTo h d = true → (k.fifoTo c d).length < 8 := by
  have one (b : Bool) (n : Nat) : (!b || decide (n < fifoDepth)) = true ↔ (b = true → n < 8) := by
    cases b <;> simp [show fifoDepth = 8 from rfl]
  unfold Core.hasRoom
  rw [Bool.and_eq_true, one, one]
  have bits : (h.k.setWidth 2).getLsbD 1 = pushesTo h .left ∧ (h.k.setWidth 2).getLsbD 0 = pushesTo h .right := by simp [pushesTo]
  rw [bits.1, bits.2]
  exact ⟨fun ⟨l, r⟩ d => by cases d; exacts [l, r], fun a => ⟨a .left, a .right⟩⟩

theorem neighbour_eq (c : Cluster) (d : Dir) : neighbour c d = popSide c d := by cases d <;> rfl

/-- The core after the pops of a word that is ready and is not one that all clusters issue together. -/
theorem State.begun_mine {s : State} {i : Instr} {h : Hdr} (header : i.hdr? = some h) (joint : s.joint = false) :
    (s.begun i).mine = (s.tick i).mine.pops (s.tick i).curCl h := by
  unfold State.begun State.popsOf
  simp only [joint, Bool.false_eq_true, if_false, header]
  exact State.mine_upMine _ _

/-- Pops and pushes move payloads through the neighbours' FIFOs (R12, R45, R154). -/
theorem popAndPush : Spec.PopAndPush := by
  unfold Spec.PopAndPush
  intro s h ready joint mode u room
  have cur : u.curCl = s.curCl := (SameOutside.tick s _).curCl
  have begun := State.begun_mine (i := .nop h) rfl joint
  rw [show (s.tick (.nop h)).curCl = s.curCl from cur] at begun
  have pops : Core.Pops s.curCl u.mine (s.begun (.nop h)).mine := begun ▸ u.mine.pops_pops s.curCl h
  have out (d : Dir) : outgoing (s.begun (.nop h)).myCl d = outgoing u.myCl d := by
    unfold State.myCl
    rw [s.begun_curCl, pops.outgoing, cur]
  have empty : h.k.setWidth 2 = (0 : BitVec 2) → room := fun none => (Core.hasRoom_iff u.mine s.curCl h).1 (by rw [none]; rfl)
  have atOnce : (s.begun (.nop h)).atOnce (.nop h) 1 ↔ room := by
    have free : (s.begun (.nop h)).myCl.exposed = false := by
      unfold State.myCl
      rw [s.begun_curCl, pops.exposed, ← cur]
      exact mode
    have space : (s.begun (.nop h)).mine.hasRoom (s.begun (.nop h)).curCl (h.k.setWidth 2) = true ↔ room := by
      rw [s.begun_curCl, Core.hasRoom_congr pops.fifo]
      exact Core.hasRoom_iff _ _ _
    exact ⟨fun a => a.2.2.elim empty fun r => space.1 r.2, fun r => ⟨free, by decide, .inr ⟨Nat.le_refl 1, space.2 r⟩⟩⟩
  have apart := State.retired_apart ready
  have done := (s.bodyOf_tokens (.nop h)).retire ready ⟨rfl, rfl⟩ rfl
  dsimp only at done
  rw [s.begun_curCl] at done
  obtain ⟨passed, regs, preds, now, later⟩ := done
  have acts : exec (.nop h) s = .next ((s.bodyOf (.nop h)).retire (.nop h)) := ready.ok rfl
  generalize (s.bodyOf (.nop h)).retire (.nop h) = t at acts apart passed now later
  have tcur : t.curCl = s.curCl := passed.outside.curCl.trans (s.begun_curCl _)
  refine ⟨t, acts, fun d asked e r => ?_, fun space d asked => ?_, fun full => ?_⟩
  · rw [neighbour_eq]
    intro n nd q held
    have takes : Core.Takes s.curCl d e r u.mine t.mine := by
      have popped := Core.pops_takes (h := h) asked held
      rw [← begun] at popped
      have side := passed.core.1 (popSide s.curCl d).1 (by rw [s.begun_curCl]; exact popSide_ne _ d)
      refine popped.before ?_ (apart.fifo _ (popSide_ne _ d)) (by rw [side])
      have own := (congrArg (fun x : Cl => x.incoming d) passed.cluster : _)
      unfold State.myCl at own
      rw [s.begun_curCl, tcur] at own
      cases d <;> exact own
    refine ⟨?_, takes.alone, takes.waited⟩
    have incoming := takes.incoming
    rw [← tcur] at incoming
    cases d <;> exact incoming
  · obtain ⟨o, f⟩ := ((now (atOnce.2 space)).2 d).2 asked
    exact ⟨o, by rw [f, pops.fifo, out]⟩
  · obtain ⟨tokens, kept, sent⟩ := later (atOnce.not.2 full)
    refine ⟨?_, fun d => ⟨(tokens d).1.trans (out d), (tokens d).2.trans (pops.fifo d)⟩⟩
    have found := sent fun none => full (empty none)
    have icyc : (s.begun (.nop h)).myCl.icyc = u.myCl.icyc := by
      unfold State.myCl
      rw [s.begun_curCl, pops.icyc, cur]
    unfold Sent at found
    rwa [icyc] at found

/-- Settles O4: the body of a token word moves at most a payload, retiring makes the header's pushes or sends them on their way, and a pop touches
    only its FIFO, the incoming register and the neighbour whose pushes waited for the space. -/
theorem tokens : Obligations.Tokens := ⟨tokenWords, popAndPush⟩

end Sys2Proof.Machine
end

section
/-! The watchdog, debugger halts and the debug window (R53, R292, R303, R304). -/

namespace Sys2Proof.Machine

open Sys2Proof Sys2Proof.Spec

theorem Core.commitCl_empty {k : Core} {c : Cluster} (h : (k.cl c).flight = []) : k.commitCl c = k := by
  unfold Core.commitCl Core.commitWhere
  simp only [h, List.filter_nil, Core.writeDue, List.isEmpty_nil, if_true, Core.upCl_flight_nil h]

theorem Core.commitAll_empty {k : Core} (h : ∀ d, (k.cl d).flight = []) : k.commitAll = k := by
  unfold Core.commitAll
  simp only [List.foldl_cons, List.foldl_nil, Core.commitCl_empty (h _)]

theorem onlyCore_setCore (s : State) (n : Nat) (k : Core) : OnlyCore n s (s.setCore n k) := ⟨fun j hj => by rw [State.core_setCore, if_neg hj], rfl⟩

theorem State.haltCore_empty {s : State} {k : Nat} (h : ∀ d, ((s.core k).cl d).flight = []) :
    s.haltCore k = s.setCore k { s.core k with halted := true, haltedAt := s.cycle } :=
  congrArg (fun c : Core => s.setCore k { c with halted := true, haltedAt := s.cycle }) (Core.commitAll_empty h)

/-- A cluster that has run for more than W cycles raises WATCHDOG; one that has not, one that stands for a pre-emption, and any while the clock is stopped do nothing (R20, R53). -/
theorem watchdog_counts (s : State) (core : CoreId) (c : Cluster) (tk : Task) (task : (s.core core.toNat).task = some tk)
    (running : (s.core core.toNat).halted = false) (clock : s.power.stopped = false)
    (points : (s.core core.toNat).preempt.getLsbD tk.ctx.toNat = false ∨ (s.core core.toNat).atPoint = false) :
    exec (.watchdog core c) s = .next (if s.wdogCount core.toNat c ≤ tk.w.toNat then s else
      s.raise core.toNat c .watchdog ((s.core core.toNat).cl c).pc (.ofNat 64 (s.wdogCount core.toNat c % 2 ^ 32 + 2 ^ 32 * tk.w.toNat)) []) := by
  have stands : ((s.core core.toNat).asked && (s.core core.toNat).atPoint) = false := by
    unfold Core.asked
    rw [task]
    rcases points with h | h <;> simp [h]
  refine congrArg Host.Outcome.next ?_
  unfold State.watchdog
  simp only [task, running, clock, stands, Bool.false_or, Bool.or_false, decide_eq_true_eq]

theorem length_toBytes (n v : Nat) : (toBytes n v).length = n := by
  induction n generalizing v with
  | zero => rfl
  | succ n ih => rw [toBytes, List.length_cons, ih]

/-- Bytes at the front stay at the front. -/
theorem padTo_append {n : Nat} {a : List Byte} (b : List Byte) (h : a.length ≤ n) : padTo n (a ++ b) = a ++ (b ++ List.replicate n 0).take (n - a.length) := by
  unfold padTo
  rw [List.append_assoc, List.take_append, List.take_of_length_le h]

theorem length_padTo (n : Nat) (l : List Byte) : (padTo n l).length = n := by simp [padTo]

/-- Bytes of one of the blocks of equal size that a list is made of. -/
theorem take_drop_flatMap {α : Type} {f : α → List Byte} {b : Nat} (size : ∀ x, (f x).length = b) (l : List α) (rest : List Byte) {i : Nat} (hi : i < l.length)
    {o n : Nat} (within : o + n ≤ b) : ((l.flatMap f ++ rest).drop (b * i + o)).take n = ((f l[i]).drop o).take n := by
  induction l generalizing i with
  | nil => exact absurd hi (Nat.not_lt_zero i)
  | cons x r ih =>
    rw [List.flatMap_cons, List.append_assoc]
    cases i with
    | zero =>
      rw [Nat.mul_zero, Nat.zero_add, List.drop_append_of_le_length (by rw [size]; omega), List.take_append_of_le_length (by rw [List.length_drop, size]; omega)]
      rfl
    | succ i =>
      have past : b * (i + 1) + o = (f x).length + (b * i + o) := by rw [size, Nat.mul_succ]; omega
      rw [past, List.drop_length_add_append]
      exact ih (Nat.lt_of_succ_lt_succ hi)

theorem Cluster.all_num (c : Cluster) (h : c.num < Cluster.all.length) : Cluster.all[c.num] = c := by cases c <;> rfl

/-- The fixed part of an image begins with the PCs (R35). -/
theorem fixedImage_pc (k : Core) (cmask : Word) (wait : Nat) (id : Word) (rest : List Byte) (c : Cluster) :
    ((fixedImage k cmask wait id ++ rest).drop (8 * c.num)).take 8 = toBytes 8 (k.cl c).pc.toNat := by
  have short : (Cluster.all.flatMap fun c => toBytes 8 (k.cl c).pc.toNat).length ≤ 64 := by simp [Cluster.all, length_toBytes]
  have number : c.num < Cluster.all.length := by cases c <;> decide
  unfold fixedImage
  simp only [List.append_assoc, padTo_append _ short]
  refine (take_drop_flatMap (fun c => length_toBytes 8 (k.cl c).pc.toNat) Cluster.all _ number (o := 0) (Nat.le_refl 8)).trans ?_
  rw [Cluster.all_num, List.drop_zero, List.take_of_length_le (length_toBytes 8 _).le]

/-- From 0x100 on it holds the scalar registers (R35). -/
theorem fixedImage_reg (k : Core) (cmask : Word) (wait : Nat) (id : Word) (rest : List Byte) (c : Cluster) (r : Reg) :
    ((fixedImage k cmask wait id ++ rest).drop (0x100 + 256 * c.num + 8 * r.toNat)).take 8 = toBytes 8 ((k.cl c).reg r).toNat := by
  have number : c.num < Cluster.all.length := by cases c <;> decide
  have low : r.toNat < (List.range 32).length := by rw [List.length_range]; exact r.isLt
  have word (c : Cluster) (r : Nat) := length_toBytes 8 ((k.cl c).reg (.ofNat 5 r)).toNat
  have block (c : Cluster) : ((List.range 32).flatMap fun r => toBytes 8 ((k.cl c).reg (.ofNat 5 r)).toNat).length = 256 := by
    rw [List.length_flatMap]
    simp [word]
  unfold fixedImage
  generalize hf : padTo 64 (_ ++ toBytes 8 (pack (Cluster.all.map fun c => (1, b2n (k.cl c).exposed)))) = first
  generalize hp : padTo 64 (predBits k.a ++ predBits k.t ++ predBits k.sc) = preds
  generalize hm : ((List.range 16).flatMap fun p => toBytes 8 (k.v.pmask (.ofNat 4 p)).toNat) = masks
  have front : (first ++ (preds ++ masks)).length = 0x100 := by
    rw [List.length_append, List.length_append, ← hf, ← hp, ← hm, length_padTo, length_padTo, List.length_flatMap]
    simp [length_toBytes]
  have split : 0x100 + 256 * c.num + 8 * r.toNat = (first ++ (preds ++ masks)).length + (256 * c.num + 8 * r.toNat) := by rw [front]; omega
  simp only [List.append_assoc]
  rw [← List.append_assoc preds, ← List.append_assoc first, split, List.drop_length_add_append]
  refine (take_drop_flatMap block Cluster.all _ number (by omega)).trans ?_
  have inner := take_drop_flatMap (word c) (List.range 32) [] low (o := 0) (n := 8) (Nat.le_refl 8)
  rw [List.append_nil, Nat.add_zero, List.drop_zero, List.take_of_length_le (word c _).le, List.getElem_range, BitVec.ofNat_toNat, BitVec.setWidth_eq] at inner
  rwa [Cluster.all_num]

theorem registerImage_pc (k : Core) (c : Cluster) : ((registerImage k).drop (8 * c.num)).take 8 = toBytes 8 (k.cl c).pc.toNat := by
  unfold registerImage
  simp only [List.append_assoc]
  exact fixedImage_pc k _ _ _ _ c

/-- Settles O40: each event acts as its definition says, and a halt or a resumption touches its own core only. -/
theorem watchdogAndDebugger : Obligations.WatchdogAndDebugger := by
  unfold Obligations.WatchdogAndDebugger
  intro s core c k
  refine ⟨fun stopped => ?_, fun tk task running clock points => ?_, fun issues breaks empty => ?_, fun halted => ?_, ?_⟩
  · refine congrArg Host.Outcome.next ?_
    unfold State.watchdog
    dsimp only
    split
    · rfl
    · rw [if_pos (by simp [stopped])]
  · have counts := watchdog_counts s core c tk task running clock points
    exact ⟨fun past => counts.trans (congrArg _ (if_neg (Nat.not_le.2 past))), fun within => counts.trans (congrArg _ (if_pos within))⟩
  · have stops : s.debugHalt core.toNat c = s.haltCore core.toNat := by
      unfold State.debugHalt
      simp only [BitVec.ofNat_toNat, BitVec.setWidth_eq, issues, Bool.not_true, Bool.false_eq_true, if_false]
      have here : (k.cl c).atBreak = true := by
        obtain ⟨e, at_, armed, stands⟩ := breaks
        exact List.any_eq_true.2 ⟨e, at_, by rw [armed, stands, beq_self_eq_true]; rfl⟩
      exact if_pos here
    have halted := stops.trans (State.haltCore_empty empty)
    exact ⟨_, congrArg Host.Outcome.next halted, State.core_setCore_self _ _ _, onlyCore_setCore _ _ _⟩
  · refine ⟨_, congrArg Host.Outcome.next (if_neg (by rw [halted]; decide)), ?_, onlyCore_setCore _ _ _, fun d => ?_⟩
    · rw [State.core_setCore_self]
    · rw [State.core_setCore_self]
      exact Core.cl_upAll _ (fun _ x => { x with wdogFrom := x.wdogFrom + (s.cycle - k.haltedAt) }) d
  · have small : 8 * c.num < 2 ^ 24 := by cases c <;> decide
    have offset : (BitVec.ofNat 24 (8 * c.num)).toNat = 8 * c.num := by rw [BitVec.toNat_ofNat, Nat.mod_eq_of_lt small]
    refine ⟨{ s with hostRead := padTo 8 (((registerImage (s.core s.dbgsel.toNat)).drop (8 * c.num)).take 8), hostReadPoisoned := false }, ?_, ?_, rfl, rfl⟩
    · refine congrArg Host.Outcome.next ?_
      unfold State.debugWindow
      rw [offset]
      rfl
    · show padTo 8 (((registerImage (s.core s.dbgsel.toNat)).drop (8 * c.num)).take 8) = _
      rw [registerImage_pc]
      exact List.take_left' (length_toBytes 8 _)

end Sys2Proof.Machine
end

section
/-! Task starts (R30, R39, R315, R320, R330). -/

namespace Sys2Proof.Machine

open Sys2Proof Sys2Proof.Spec

/-- `j` is `k` but for its ready queue. -/
def Core.Queued (k j : Core) : Prop := { j with ready := k.ready } = k

theorem Core.Queued.refl (k : Core) : k.Queued k := rfl
theorem Core.Queued.trans {k j l : Core} (h : k.Queued j) (g : j.Queued l) : k.Queued l := by
  unfold Core.Queued at h g ⊢
  exact (congrArg (fun x : Core => { x with ready := k.ready }) g).trans h
theorem Core.Queued.cl {k j : Core} (h : k.Queued j) (c : Cluster) : j.cl c = k.cl c := (congrArg (Core.cl · c) h : _)

theorem enterTasks_queued (l : List Task) (cores : List (Nat × Core)) (n : Nat) : (sget Core.reset cores n).Queued (sget Core.reset (enterTasks cores l).1 n) := by
  induction l generalizing cores with
  | nil => exact .refl _
  | cons t r ih =>
    unfold enterTasks
    dsimp only
    split
    · refine Core.Queued.trans ?_ (ih _)
      rw [sget_sput]
      split
      · next at_ =>
        rw [at_]
        rfl
      · exact .refl _
    · exact ih cores

/-- What entering ready queues leaves of a state: everything but the cores' ready queues and the launches. -/
structure State.Queued (s t : State) : Prop where
  core : ∀ n, (s.core n).Queued (t.core n)
  rest : { t with cores := s.cores, launches := s.launches } = s
  placed : ∀ l ∈ t.launches, ∃ m ∈ s.launches, m.id = l.id ∧ ∀ g ∈ l.groups, ∃ f ∈ m.groups, f.first = g.first ∧ f.st = g.st

theorem State.refill_queued (s : State) (id first : Nat) : s.Queued (s.refill id first) := by
  have same : s.Queued s := ⟨fun _ => .refl _, rfl, fun l hl => ⟨l, hl, rfl, fun g hg => ⟨g, hg, rfl, rfl⟩⟩⟩
  unfold State.refill
  split
  · exact same
  · next g found =>
    split
    · exact same
    · refine ⟨fun n => enterTasks_queued g.unqueued s.cores n, rfl, fun l hl => ?_⟩
      obtain ⟨m, hm, rfl⟩ := List.mem_map.1 hl
      refine ⟨m, hm, ?_, fun g hg => ?_⟩
      · split <;> rfl
      · split at hg
        · obtain ⟨f, hf, rfl⟩ := List.mem_map.1 hg
          exact ⟨f, hf, by split <;> rfl, by split <;> rfl⟩
        · exact ⟨g, hg, rfl, rfl⟩

/-- A started task's group is not PLACED any more (R315). -/
theorem State.noteStarted_placed (s : State) (t : Task) : ∀ l ∈ (s.noteStarted t).launches, l.id = t.launch → ∀ g ∈ l.groups, g.first = t.first → g.st ≠ .placed := by
  have grouped : ∀ l ∈ (s.upGroup t.launch t.first fun g => { g with st := if g.st == .placed then .running else g.st }).launches,
      l.id = t.launch → ∀ g ∈ l.groups, g.first = t.first → g.st ≠ .placed := by
    intro l hl hid g hg hfirst
    obtain ⟨m, hm, rfl⟩ := List.mem_map.1 hl
    by_cases mine : m.id == t.launch
    · rw [if_pos mine] at hg
      obtain ⟨f, hf, rfl⟩ := List.mem_map.1 hg
      by_cases this : f.first == t.first
      · rw [if_pos this]
        dsimp only
        split <;> simp_all
      · rw [if_neg this] at hfirst
        exact absurd (beq_iff_eq.2 hfirst) this
    · rw [if_neg mine] at hid
      exact absurd (beq_iff_eq.2 hid) mine
  unfold State.noteStarted
  dsimp only
  split
  · exact grouped
  · split <;> exact grouped

theorem State.noteStarted_rest (s : State) (t : Task) : { s.noteStarted t with launches := s.launches, recs := s.recs } = s := by
  unfold State.noteStarted
  dsimp only
  split
  · rfl
  · split <;> rfl

theorem sget_params (ps : List Word) (a n : Nat) (m : Sparse Word) (q : Nat) (short : ps.length ≤ n) :
    sget 0 (((List.range' a n).zip ps).foldl (fun m e => sset 0 m (16 + e.1) e.2) m) q =
      if 16 + a ≤ q ∧ q < 16 + a + ps.length then ps.getD (q - 16 - a) 0 else sget 0 m q := by
  induction ps generalizing a n m with
  | nil =>
    rw [List.zip_nil_right, if_neg (by simp)]
    rfl
  | cons v r ih =>
    obtain ⟨n, rfl⟩ : ∃ k, n = k + 1 := ⟨n - 1, by simp at short; omega⟩
    rw [List.range'_succ, List.zip_cons_cons, List.foldl_cons, ih _ _ _ (by simpa using short), sget_sset, List.length_cons]
    by_cases first : q = 16 + a
    · subst first
      rw [if_neg (by omega), if_pos rfl, if_pos (by omega)]
      simp
    · rw [if_neg first]
      by_cases later : 16 + (a + 1) ≤ q ∧ q < 16 + (a + 1) + r.length
      · rw [if_pos later, if_pos (by omega), show q - 16 - a = (q - 16 - (a + 1)) + 1 by omega, List.getD_cons_succ]
      · rw [if_neg later, if_neg (by omega)]

/-- The scalar registers a task starts with (R30). -/
theorem startCl_reg (t : Task) (c : Cluster) (x : Cl) (short : t.params.length ≤ 16) (q : Reg) :
    (startCl t c x).reg q = if q.toNat < 16 then 0 else t.params.getD (q.toNat - 16) 0 := by
  have params := sget_params t.params 0 16 [] q.toNat short
  rw [← List.range_eq_range'] at params
  unfold Cl.reg startCl
  dsimp only
  split
  · next zero => simp [zero]
  · rw [params]
    by_cases low : q.toNat < 16
    · rw [if_pos low, if_neg (by omega)]
      rfl
    · rw [if_neg low]
      split
      · rfl
      · rw [List.getD_eq_default _ _ (by omega)]
        rfl

/-- The core as the task starts on it (R30). -/
def Core.startOf (c : Core) (t : Task) (now : Nat) : Core :=
  ({ c with ready := c.ready.filter (· != ReadyEnt.task t), toRight := [], toLeft := [], win := [], h := [] }.beginTask t true now 0 0 0 []).upAll (startCl t)

theorem Core.useSeqs_rest (k : Core) (n : Nat) :
    { k.useSeqs n with seqCtx := k.seqCtx, seqs := k.seqs, cpNext := k.cpNext, cpTail := k.cpTail, seqCp := k.seqCp, wsNext := k.wsNext, seqWs := k.seqWs } = k := by
  unfold Core.useSeqs
  split <;> rfl

theorem Core.beginTask_cl (k : Core) (t : Task) (fresh : Bool) (now tsteps jsteps xcount : Nat) (tds : Sparse (BitVec 1024)) (c : Cluster) :
    (k.beginTask t fresh now tsteps jsteps xcount tds).cl c =
      { k.cl c with wait := none, popped := [], flight := [], stopped := false, wdogFrom := now, trapped := none, aflags := 0 } := by
  have seqs := k.useSeqs_rest t.ctx.toNat
  have same : (k.useSeqs t.ctx.toNat).cl c = k.cl c := by
    cases c
    exacts [(congrArg Core.a seqs : _), (congrArg Core.v seqs : _), (congrArg Core.t seqs : _), (congrArg Core.sc seqs : _)]
  rw [← same]
  unfold Core.beginTask
  cases c <;> rfl

theorem Core.startOf_cl (k : Core) (t : Task) (now : Nat) (c : Cluster) :
    (k.startOf t now).cl c = startCl t c { k.cl c with wait := none, popped := [], flight := [], stopped := false, wdogFrom := now, trapped := none, aflags := 0 } := by
  unfold Core.startOf
  rw [Core.cl_upAll, Core.beginTask_cl]
  cases c <;> rfl

theorem State.newStart_eq {s : State} {k : Nat} {t : Task} {r : List ReadyEnt} (first : (s.core k).ready = .task t :: r) (cont : (s.core k).readyCont = none)
    (take : s.mayTake k t.ctx.toNat = true) (steps : (s.core k).steps = t.steps) :
    s.newStart k = ((((s.acquire k 3).setCore k (((s.acquire k 3).core k).startOf t (s.acquire k 3).cycle)).noteRunning t.ctx.toNat).noteStarted t).refill t.launch t.first := by
  have next : (s.core k).readyTask = some t := by simp [Core.readyTask, first]
  unfold State.newStart
  simp only [next, cont, take, steps, Option.isSome_none, Bool.not_true, Bool.or_self, bne_self_eq_false, Bool.false_and, Bool.false_eq_true, if_false, beq_self_eq_true, if_true]
  rfl

theorem State.noteRunning_rest (s : State) (n : Nat) : { s.noteRunning n with ctxs := s.ctxs } = s := by
  unfold State.noteRunning
  split <;> rfl

/-- The core as the task starts on it, and the ready queues that its group's next tasks enter. -/
theorem State.newStart_queued {s : State} {k : Nat} {t : Task} {r : List ReadyEnt} (first : (s.core k).ready = .task t :: r) (cont : (s.core k).readyCont = none)
    (take : s.mayTake k t.ctx.toNat = true) (steps : (s.core k).steps = t.steps) :
    (Core.startOf { s.core k with l1 := (s.core k).l1.filter (·.2.dirty) } t s.cycle).Queued ((s.newStart k).core k) ∧ (s.newStart k).mem = s.mem ∧
      ∀ l ∈ (s.newStart k).launches, l.id = t.launch → ∀ g ∈ l.groups, g.first = t.first → g.st ≠ .placed := by
  have acquired : (s.acquire k 3).core k = { s.core k with l1 := (s.core k).l1.filter (·.2.dirty) } := State.core_upCore_self s k fun c => { c with l1 := c.l1.filter fun e => e.2.dirty }
  have work : (s.acquire k 3).mem = s.mem := rfl
  have clock : (s.acquire k 3).cycle = s.cycle := rfl
  rw [State.newStart_eq first cont take steps, acquired, clock]
  generalize s.acquire k 3 = u at work
  generalize Core.startOf _ t s.cycle = c
  have set : (u.setCore k c).core k = c := State.core_setCore_self u k c
  have set_mem : (u.setCore k c).mem = s.mem := work
  generalize u.setCore k c = v at set set_mem
  have running := v.noteRunning_rest t.ctx.toNat
  generalize v.noteRunning t.ctx.toNat = w at running
  have started := w.noteStarted_rest t
  have placed := w.noteStarted_placed t
  generalize w.noteStarted t = x at started placed
  obtain ⟨core, rest, groups⟩ := x.refill_queued t.launch t.first
  have cores : x.cores = v.cores := (congrArg State.cores started : _).trans (congrArg State.cores running : _)
  have mem : x.mem = v.mem := (congrArg State.mem started : _).trans (congrArg State.mem running : _)
  refine ⟨?_, ((congrArg State.mem rest : _).trans mem).trans set_mem, fun l hl hid g hg hfirst => ?_⟩
  · have queued := core k
    rwa [State.core_congr cores k, set] at queued
  · obtain ⟨m, hm, id, same⟩ := groups l hl
    obtain ⟨f, hf, ffirst, st⟩ := same g hg
    rw [← st]
    exact placed m hm (id.trans hid) f hf (ffirst.trans hfirst)

/-- Settles O39: only the ready queues and the group differ after the start that `Core.startOf` names. -/
theorem taskStarts : Obligations.TaskStarts := by
  unfold Obligations.TaskStarts
  intro s core tk r k first cont take steps short
  refine ⟨_, rfl, ?_⟩
  obtain ⟨queued, mem, placed⟩ := State.newStart_queued first cont take steps
  refine ⟨?_, mem, placed⟩
  intro m
  have cl (c : Cluster) := (queued.cl c).trans (Core.startOf_cl _ tk s.cycle c)
  have seqs := { k with l1 := k.l1.filter (·.2.dirty), ready := k.ready.filter (· != ReadyEnt.task tk), toRight := [], toLeft := [], win := [], h := [] }.useSeqs_rest tk.ctx.toNat
  refine ⟨(congrArg Core.task queued : _), (congrArg Core.inh queued : _), (congrArg Core.version queued : _), ?_, ?_, ?_, ?_, ?_, ?_, fun c => ?_⟩
  · exact (congrArg Core.toRight queued : _).trans (congrArg Core.toRight seqs : _)
  · exact (congrArg Core.toLeft queued : _).trans (congrArg Core.toLeft seqs : _)
  · exact (congrArg Core.h queued : _).trans (congrArg Core.h seqs : _)
  · exact (congrArg Core.win queued : _).trans (congrArg Core.win seqs : _)
  · exact (congrArg Core.sp queued : _).trans (congrArg Core.sp seqs : _)
  · exact (congrArg Core.l1 queued : _).trans (congrArg Core.l1 seqs : _)
  · rw [show m.cl c = _ from cl c]
    refine ⟨rfl, rfl, rfl, rfl, rfl, fun q low => ?_, fun q high => ?_, fun p hp => if_neg hp⟩
    · rw [startCl_reg tk c _ short, if_pos low]
    · rw [startCl_reg tk c _ short, if_neg (Nat.not_lt.2 high)]

end Sys2Proof.Machine
end

section
/-! Continuations (R35 to R39, R162, R340). -/

namespace Sys2Proof.Machine

open Sys2Proof Sys2Proof.Spec

/-! Wakes. -/

theorem Core.wake_rest (k : Core) (p : Cont → Option Word) : { k.wake p with conts := k.conts, ready := k.ready } = k := by
  unfold Core.wake
  dsimp only
  split <;> rfl

/-- The one continuation of a core after its wait was looked at (R39). -/
theorem Core.wake_one {k : Core} {e : Cont} (one : k.conts = [e]) (p : Cont → Option Word) :
    k.wake p = match (if e.ready || e.saving then none else p e) with
      | some r => { k with conts := [{ e with ready := true, result := r }], ready := k.ready ++ [.cont e.slot] }
      | none => k := by
  unfold Core.wake
  rw [one]
  cases h : (if e.ready || e.saving then none else p e) with
  | none => simp only [List.filter_cons, List.filter_nil, h, Option.isSome_none, Bool.false_eq_true, if_false, List.isEmpty_nil, if_true]
  | some r =>
    simp only [List.filter_cons, List.filter_nil, h, Option.isSome_some, if_true, List.isEmpty_cons, Bool.false_eq_true, if_false, List.map_cons, List.map_nil]

theorem Core.wake_keeps {k : Core} {e : Cont} (one : k.conts = [e]) (p : Cont → Option Word) : ∃ f, (k.wake p).conts = [f] ∧ f.saving = e.saving ∧ f.slot = e.slot := by
  rw [Core.wake_one one]
  split
  · exact ⟨_, rfl, rfl, rfl⟩
  · exact ⟨e, one, rfl, rfl⟩

theorem State.evaluate_core (s : State) (k : Nat) (slot : BitVec 6) :
    (s.evaluate k slot).core k = (s.core k).wake fun x => if x.slot == slot then s.waitAnswer k x else none := State.core_upCore_self _ _ _

/-- A waita of a continuation is evaluated (R38, R162). -/
theorem waitEvaluated (s : State) (core : CoreId) (e : Cont) (one : (s.core core.toNat).conts = [e]) (saved : e.saving = false) (waits : e.ready = false)
    (a : Nat) (cc : BitVec 3) (b : Reg) (v : Word) (on : e.on = .word a cc b v) (holds : Bool)
    (truth : ccHolds cc.toNat ((s.core core.toNat).spWord a) ((s.core core.toNat).spWord (4096 * e.tile.toNat + 0x100 + 8 * b.toNat)) = holds) :
    (s.evaluate core.toNat e.slot).core core.toNat = if holds then
      { s.core core.toNat with conts := [{ e with ready := true, result := 0 }], ready := (s.core core.toNat).ready ++ [.cont e.slot] } else s.core core.toNat := by
  rw [State.evaluate_core, Core.wake_one one]
  simp only [saved, waits, Bool.or_self, Bool.false_eq_true, if_false, beq_self_eq_true, if_true, State.waitAnswer, on, Core.waitaHolds, truth]
  cases holds <;> rfl

/-! Slots. -/

theorem ofBytes_toBytes (n v : Nat) : ofBytes (toBytes n v) = v % 2 ^ (8 * n) := by
  induction n generalizing v with
  | zero => simp [toBytes, ofBytes, Nat.mod_one]
  | succ n ih =>
    rw [toBytes, ofBytes, ih, BitVec.toNat_ofNat, Nat.mul_succ, Nat.pow_add, Nat.mul_comm (2 ^ (8 * n)), Nat.mod_mul]

theorem ofBytes_word (v : Nat) : BitVec.ofNat 64 (ofBytes (toBytes 8 v)) = BitVec.ofNat 64 v := by
  rw [ofBytes_toBytes]
  exact BitVec.eq_of_toNat_eq (by simp)

theorem Core.spRead_spWrite (k : Core) (a : Nat) (img : List Byte) {o n : Nat} (within : o + n ≤ img.length) :
    (k.spWrite a (allOf img)).spRead (a + o) n = (img.drop o).take n := by
  refine List.ext_getElem (by simp [Core.spRead]; omega) fun i hi hj => ?_
  have inside : i < n := by simpa [Core.spRead] using hi
  have at_ : img[o + i]? = some img[o + i] := List.getElem?_eq_getElem (by omega)
  have byte := Core.spByte_spWrite k a (allOf img) (a + o + i)
  rw [if_pos (by omega), show a + o + i - a = o + i by omega, allOf, List.getElem?_map, at_] at byte
  simpa [Core.spRead, allOf] using byte

theorem Core.spWord_congr {k j : Core} (h : j.sp = k.sp) (a : Nat) : j.spWord a = k.spWord a := by
  unfold Core.spWord Core.spRead Core.spByte
  rw [h]

theorem slotImage_pc (k : Core) (cmask : Word) (wait : Nat) (id : Word) (c : Cluster) :
    ((slotImage k cmask wait id).drop (8 * c.num)).take 8 = toBytes 8 (k.cl c).pc.toNat := by
  unfold slotImage
  simp only [List.append_assoc]
  exact fixedImage_pc k _ _ _ _ c

theorem slotImage_reg (k : Core) (cmask : Word) (wait : Nat) (id : Word) (c : Cluster) (r : Reg) :
    ((slotImage k cmask wait id).drop (0x100 + 256 * c.num + 8 * r.toNat)).take 8 = toBytes 8 ((k.cl c).reg r).toNat := by
  unfold slotImage
  simp only [List.append_assoc]
  exact fixedImage_reg k _ _ _ _ c r

/-- A saved slot read back. -/
theorem Core.spWord_saved (k : Core) (a : Nat) (img : List Byte) {o v : Nat} (bytes : (img.drop o).take 8 = toBytes 8 v) :
    (k.spWrite a (allOf img)).spWord (a + o) = .ofNat 64 v := by
  have within : o + 8 ≤ img.length := by
    have size := congrArg List.length bytes
    rw [length_toBytes, List.length_take, List.length_drop] at size
    omega
  unfold Core.spWord
  rw [Core.spRead_spWrite k a img within, bytes, ofBytes_word]

/-- The core once the slot of the continuation that it saves is written, before the wait is evaluated again (R35, R38). -/
def Core.slotSaved (k : Core) (e : Cont) (img : List Byte) : Core :=
  { k.spWrite (4096 * e.tile.toNat) (allOf img) with toRight := [], toLeft := [], conts := [{ e with saving := false }] }

theorem State.noteIdle_core (s : State) (n k : Nat) : (s.noteIdle n).core k = s.core k := by
  unfold State.noteIdle
  split <;> rfl

theorem State.saveDone_core {s : State} {k : Nat} {e : Cont} (one : (s.core k).conts = [e]) (saves : e.saving = true) (clock : s.power.stopped = false) :
    ∃ p, (s.saveDone k).core k = ((s.core k).slotSaved e (slotImage (s.core k) e.cmask (waitWord e.on) e.task.id)).wake p := by
  have found : (s.core k).conts.find? (·.saving) = some e := by simp [one, saves]
  unfold State.saveDone
  simp only [found, clock, Bool.false_eq_true, if_false]
  rw [State.noteIdle_core, State.evaluate_core, State.core_setCore_self]
  refine ⟨_, congrArg (Core.wake · _) ?_⟩
  generalize slotImage _ _ _ _ = img
  unfold Core.slotSaved
  simp only [Core.spWrite, one, List.map_cons, List.map_nil, saves, if_true]

/-- A saved slot holds each cluster's PC and scalar registers where R35 puts them. -/
theorem slotSaves (s : State) (core : CoreId) (e : Cont) (one : (s.core core.toNat).conts = [e]) (saves : e.saving = true) (clock : s.power.stopped = false) :
    let k := s.core core.toNat
    ∃ t, exec (.continuationSaveDone core) s = .next t ∧ (∃ f, (t.core core.toNat).conts = [f] ∧ f.saving = false ∧ f.slot = e.slot) ∧
      (t.core core.toNat).toRight = [] ∧ (t.core core.toNat).toLeft = [] ∧
      (∀ c, (t.core core.toNat).spWord (4096 * e.tile.toNat + 8 * c.num) = (k.cl c).pc.setWidth 64) ∧
      (∀ c r, (t.core core.toNat).spWord (4096 * e.tile.toNat + 0x100 + 256 * c.num + 8 * r.toNat) = (k.cl c).reg r) := by
  intro k
  obtain ⟨p, saved⟩ := State.saveDone_core one saves clock
  have pc := slotImage_pc k e.cmask (waitWord e.on) e.task.id
  have reg := slotImage_reg k e.cmask (waitWord e.on) e.task.id
  generalize slotImage (s.core core.toNat) e.cmask (waitWord e.on) e.task.id = img at saved pc reg
  have acts : exec (.continuationSaveDone core) s = .next (s.saveDone core.toNat) := rfl
  generalize s.saveDone core.toNat = t at saved acts
  have rest := (k.slotSaved e img).wake_rest p
  rw [← saved] at rest
  have word (a : Nat) := Core.spWord_congr (j := t.core core.toNat) (k := k.spWrite (4096 * e.tile.toNat) (allOf img)) (congrArg Core.sp rest : _) a
  refine ⟨t, acts, ?_, (congrArg Core.toRight rest : _), (congrArg Core.toLeft rest : _), fun c => ?_, fun c r => ?_⟩
  · rw [saved]
    exact Core.wake_keeps (e := { e with saving := false }) rfl p
  · rw [word, Core.spWord_saved k _ img (pc c), BitVec.ofNat_toNat]
  · rw [word, Nat.add_assoc, Nat.add_assoc, ← Nat.add_assoc 0x100, Core.spWord_saved k _ img (reg c r), BitVec.ofNat_toNat, BitVec.setWidth_eq]

/-! Restoring a slot (R36, R37). -/

/-- `j` is `k` with registers and token FIFOs of the core reloaded, and none of a cluster. -/
structure Core.Reloaded (k j : Core) : Prop where
  cl : ∀ c, j.cl c = k.cl c
  rest : { j with
    toRight := k.toRight, toLeft := k.toLeft, vr := k.vr, q := k.q, acc := k.acc, win := k.win, h := k.h, latch := k.latch, bypass := k.bypass } = k

namespace Core.Reloaded

variable {k j l : Core}

theorem refl (k : Core) : k.Reloaded k := ⟨fun _ => rfl, rfl⟩

theorem trans (h : k.Reloaded j) (g : j.Reloaded l) : k.Reloaded l :=
  ⟨fun c => (g.cl c).trans (h.cl c), (congrArg (fun x : Core => { x with
    toRight := k.toRight, toLeft := k.toLeft, vr := k.vr, q := k.q, acc := k.acc, win := k.win, h := k.h, latch := k.latch, bypass := k.bypass }) g.rest).trans h.rest⟩

theorem foldl {α : Type} {f : Core → α → Core} (step : ∀ k a, Core.Reloaded k (f k a)) (l : List α) (k : Core) : k.Reloaded (l.foldl f k) := by
  induction l generalizing k with
  | nil => exact refl k
  | cons a r ih => exact (step k a).trans (ih _)

theorem setFifo (k : Core) (c : Cluster) (d : Dir) (l : List (Option Word)) : k.Reloaded (k.setFifo c d l) := ⟨fun e => Core.setFifo_cl k c d l e, by cases d <;> rfl⟩

theorem upWindows (k : Core) (win : Sparse (BitVec 256)) (h : Sparse (BitVec 128)) : k.Reloaded { k with win := win, h := h, latch := [], bypass := [] } :=
  ⟨fun c => by cases c <;> rfl, rfl⟩

theorem upVectors (k : Core) (vr : Sparse VVal) (q : Sparse (BitVec 2048)) (acc : Sparse (BitVec 32)) : k.Reloaded { k with vr := vr, q := q, acc := acc } :=
  ⟨fun c => by cases c <;> rfl, rfl⟩

end Core.Reloaded

theorem restoreFixed_reloaded (rd : Nat → Nat → List Byte) (stale : BitVec 128 → Bool) (k : Core) :
    (k.upAll fun c x => restoreCl rd c { x with aflags := 0 }).Reloaded (restoreFixed rd stale k) :=
  (Core.Reloaded.foldl (f := fun k (f : Nat × Cluster × Dir) => k.setFifo f.2.1 f.2.2 (fifoOf rd (0x700 + 128 * f.1))) (fun k _ => .setFifo k _ _ _)
    ((List.range 8).zip fifoOrder) _).trans (.upWindows _ _ _)

theorem restoreSlot_reloaded (rd : Nat → Nat → List Byte) (cmask : Word) (stale : BitVec 128 → Bool) (k : Core) :
    (k.upAll fun c x => restoreCl rd c { x with aflags := 0 }).Reloaded (restoreSlot rd cmask stale k) := by
  have fixed := restoreFixed_reloaded rd stale k
  unfold restoreSlot
  generalize restoreFixed rd stale k = j at fixed
  have vregs := fixed.trans (Core.Reloaded.foldl (f := fun k (e : Nat × Nat) => restoreVregs rd (4096 + 8448 * e.1) (4096 + 8448 * e.1 + 8192) (32 * e.2) 32 k)
    (fun k _ => .upVectors k _ _ _) ((List.range (maskGroups cmask).length).zip (maskGroups cmask)) j)
  dsimp only
  generalize List.foldl _ j _ = l at vregs
  have operands : (k.upAll fun c x => restoreCl rd c { x with aflags := 0 }).Reloaded (if maskQ cmask then restoreQ rd (4096 + 8448 * (maskGroups cmask).length) l else l) := by
    split
    · exact vregs.trans (.upVectors l _ _ _)
    · exact vregs
  exact operands.trans (Core.Reloaded.foldl (fun k _ => .upVectors k _ _ _) _ _)

theorem sget_foldl_range (g : Nat → Word) (n : Nat) (m : Sparse Word) (q : Nat) :
    sget 0 ((List.range n).foldl (fun m r => sset 0 m (r + 1) (g (r + 1))) m) q = if 1 ≤ q ∧ q ≤ n then g q else sget 0 m q := by
  induction n with
  | zero => rw [if_neg (by omega)]; rfl
  | succ n ih =>
    rw [List.range_succ, List.foldl_concat, sget_sset, ih]
    by_cases last : q = n + 1
    · rw [if_pos last, if_pos (by omega), last]
    · rw [if_neg last]
      exact if_congr (by omega) rfl rfl

theorem restoreCl_pc (rd : Nat → Nat → List Byte) (c : Cluster) (x : Cl) : (restoreCl rd c x).pc = .ofNat 48 (rdNum rd (8 * c.num) 8) := rfl

/-- A register read back from a slot. -/
theorem restoreCl_reg (rd : Nat → Nat → List Byte) (c : Cluster) (x : Cl) {q : Reg} (h : q ≠ 0) :
    (restoreCl rd c x).reg q = .ofNat 64 (rdNum rd (0x100 + 256 * c.num + 8 * q.toNat) 8) := by
  have positive : 1 ≤ q.toNat ∧ q.toNat ≤ 31 := ⟨Nat.one_le_iff_ne_zero.2 fun zero => h (BitVec.eq_of_toNat_eq zero), by have := q.isLt; omega⟩
  unfold Cl.reg
  rw [if_neg h]
  exact (sget_foldl_range (fun r => .ofNat 64 (rdNum rd (0x100 + 256 * c.num + 8 * r) 8)) 31 [] q.toNat).trans (if_pos positive)

/-- The core of a continuation that starts, before the register of its wait is written (R36, R37). -/
def Core.resumed (k : Core) (e : Cont) (stale : BitVec 128 → Bool) (now : Nat) : Core :=
  (restoreSlot (fun o n => k.spRead (4096 * e.tile.toNat + o) n) e.cmask stale
    { k with ready := k.ready.filter (· != ReadyEnt.cont e.slot), conts := k.conts.filter fun x => x.slot != e.slot }).beginTask e.task false now e.tsteps e.jsteps e.xcount e.tds

theorem Core.upAll_sp (k : Core) (f : Cluster → Cl → Cl) : (k.upAll f).sp = k.sp := rfl
theorem Core.upAll_conts (k : Core) (f : Cluster → Cl → Cl) : (k.upAll f).conts = k.conts := rfl

theorem Core.beginTask_rest (k : Core) (t : Task) (fresh : Bool) (now tsteps jsteps xcount : Nat) (tds : Sparse (BitVec 1024)) :
    (k.beginTask t fresh now tsteps jsteps xcount tds).sp = k.sp ∧ (k.beginTask t fresh now tsteps jsteps xcount tds).conts = k.conts ∧
      (k.beginTask t fresh now tsteps jsteps xcount tds).task = some t := by
  have seqs := k.useSeqs_rest t.ctx.toNat
  exact ⟨(congrArg Core.sp seqs : _), (congrArg Core.conts seqs : _), rfl⟩

theorem Core.resumed_rest (k : Core) (e : Cont) (stale : BitVec 128 → Bool) (now : Nat) :
    (k.resumed e stale now).sp = k.sp ∧ (k.resumed e stale now).conts = (k.conts.filter fun x => x.slot != e.slot) ∧ (k.resumed e stale now).task = some e.task := by
  have rest := (restoreSlot_reloaded (fun o n => k.spRead (4096 * e.tile.toNat + o) n) e.cmask stale
    { k with ready := k.ready.filter (· != ReadyEnt.cont e.slot), conts := k.conts.filter fun x => x.slot != e.slot }).rest
  unfold Core.resumed
  generalize restoreSlot _ e.cmask stale _ = j at rest
  have sp := (congrArg Core.sp rest).trans (Core.upAll_sp _ _)
  have conts := (congrArg Core.conts rest).trans (Core.upAll_conts _ _)
  obtain ⟨began, same, task⟩ := j.beginTask_rest e.task false now e.tsteps e.jsteps e.xcount e.tds
  exact ⟨began.trans sp, same.trans conts, task⟩

theorem Core.resumed_cl (k : Core) (e : Cont) (stale : BitVec 128 → Bool) (now : Nat) (c : Cluster) :
    ((k.resumed e stale now).cl c).pc = (k.spWord (4096 * e.tile.toNat + 8 * c.num)).setWidth 48 ∧ ((k.resumed e stale now).cl c).wait = none ∧
      ∀ q, q ≠ 0 → ((k.resumed e stale now).cl c).reg q = k.spWord (4096 * e.tile.toNat + 0x100 + 256 * c.num + 8 * q.toNat) := by
  have cl := (restoreSlot_reloaded (fun o n => k.spRead (4096 * e.tile.toNat + o) n) e.cmask stale
    { k with ready := k.ready.filter (· != ReadyEnt.cont e.slot), conts := k.conts.filter fun x => x.slot != e.slot }).cl c
  rw [Core.cl_upAll] at cl
  have pc := (congrArg Cl.pc cl).trans (restoreCl_pc _ c _)
  have reg {q : Reg} (hq : q ≠ 0) := (congrArg (Cl.reg · q) cl).trans (restoreCl_reg _ c _ hq)
  unfold Core.resumed
  rw [Core.beginTask_cl]
  generalize (restoreSlot _ e.cmask stale _).cl c = x at pc reg
  refine ⟨pc.trans ?_, rfl, fun q hq => (reg hq).trans ?_⟩
  · unfold Core.spWord rdNum
    rw [BitVec.setWidth_ofNat_of_le (by decide)]
  · unfold Core.spWord rdNum
    rw [Nat.add_assoc, Nat.add_assoc, Nat.add_assoc]

/-- What the register of a satisfied bwait receives, and no other wait's (R162, R340). -/
theorem State.wakeValue_word (s : State) (k : Nat) (e : Cont) {a : Nat} {cc : BitVec 3} {b : Reg} {v : Word} (on : e.on = .word a cc b v) : s.wakeValue k e = none := by
  unfold State.wakeValue
  rw [on]

theorem State.wakeValue_barrier (s : State) (k : Nat) (e : Cont) {key lvnum : Nat} {ep : BitVec 16} {d : Reg} (on : e.on = .barrier key lvnum ep d) :
    s.wakeValue k e = some (d, e.result) := by
  unfold State.wakeValue
  rw [on]

/-- The value that a waking continuation's register receives is written. -/
def Core.woken (k : Core) (v : Option (Reg × Word)) : Core :=
  match v with | some (d, w) => k.upCl .A fun x => x.setReg d w | none => k

theorem Core.woken_rest (k : Core) (v : Option (Reg × Word)) : { k.woken v with a := k.a } = k := by
  unfold Core.woken
  split <;> rfl

theorem Core.woken_cl (k : Core) (v : Option (Reg × Word)) (c : Cluster) : { (k.woken v).cl c with s := (k.cl c).s } = k.cl c := by
  unfold Core.woken
  split
  · next d w =>
    by_cases a : c = .A
    · subst a
      rw [Core.cl_upCl_self]
      unfold Cl.setReg
      split <;> rfl
    · rw [Core.cl_upCl_ne k a]
  · rfl

/-- A start of a continuation leaves the other cores alone; its own core is the one `Core.resumed` names, with the woken register and an acquire (R36, R339). -/
theorem State.contStart_work {s : State} {k : Nat} {e : Cont} (found : (s.core k).readyCont = some e) (take : s.mayTake k e.task.ctx.toNat = true) :
    ∃ t stale, (s.contStart k).cores = t.cores ∧ CacheWork k (s.setCore k (((s.core k).resumed e stale s.cycle).woken (s.wakeValue k e))) t := by
  unfold State.contStart
  simp only [found, take, Bool.not_true, Bool.false_eq_true, if_false]
  refine ⟨_, s.stale e.task.ctx.toNat k e.tinvs e.leaves, (congrArg State.cores (State.noteRunning_rest _ _) : _), ?_⟩
  split
  · exact (CacheWork.refl k _).acquire _
  · exact .refl k _

/-- Settles O38: a wake marks its one continuation, a saved slot reads back as it was written, and `Core.resumed` is the core that a slot restores. -/
theorem continuationsMove : Obligations.ContinuationsMove := by
  unfold Obligations.ContinuationsMove
  intro s core k
  refine ⟨fun e one saved waits a cc b v on => ⟨fun holds => ?_, fun fails => ?_⟩, slotSaves s core, fun room low high => ⟨_, congrArg Host.Outcome.next (if_pos ?_), rfl⟩,
    fun e r one first take noProbe => ?_⟩
  · have woke := waitEvaluated s core e one saved waits a cc b v on true holds
    refine ⟨_, rfl, onlyCore_setCore _ _ _, ?_, ?_⟩
    · exact (congrArg Core.ready woke : _)
    · exact ⟨{ e with ready := true, result := 0 }, (congrArg Core.conts woke : _), rfl, rfl⟩
  · have woke := waitEvaluated s core e one saved waits a cc b v on false fails
    exact ⟨_, rfl, onlyCore_setCore _ _ _, (congrArg Core.ready woke : _), (congrArg Core.conts woke : _).trans one⟩
  · simp [room, low, high, k]
  · have found : k.readyCont = some e := by simp [Core.readyCont, first, one]
    obtain ⟨t, stale, cores, work⟩ := State.contStart_work found take
    have acts : exec (.continuationStart core) s = .next (s.contStart core.toNat) := rfl
    generalize s.contStart core.toNat = u at cores acts
    have mine : ∀ n, u.core n = t.core n := State.core_congr cores
    obtain ⟨sp, conts, task⟩ := (s.core core.toNat).resumed_rest e stale s.cycle
    have cl := (s.core core.toNat).resumed_cl e stale s.cycle
    intro m
    have own := work.core
    have others := work.others
    have clusters := work.cl
    rw [State.core_setCore_self] at own clusters
    generalize (s.core core.toNat).resumed e stale s.cycle = j at sp conts task cl own clusters
    have woken := j.woken_rest (s.wakeValue core.toNat e)
    have wokenCl := j.woken_cl (s.wakeValue core.toNat e)
    refine ⟨u, acts, ?_, ?_, fun c => ⟨?_, ?_⟩, fun a cc b v on c q hq => ?_, fun key lvnum ep d on hd => ?_, ?_, fun n hn => ?_⟩
    · rw [mine]
      exact ((congrArg Core.task own : _).trans (congrArg Core.task woken : _)).trans task
    · rw [mine]
      refine ((congrArg Core.conts own : _).trans (congrArg Core.conts woken : _)).trans (conts.trans ?_)
      simp [k, one]
    · rw [mine, clusters]
      exact (congrArg Cl.pc (wokenCl c) : _).trans (cl c).1
    · rw [mine, clusters]
      exact (congrArg Cl.wait (wokenCl c) : _).trans (cl c).2.1
    · rw [mine, clusters, State.wakeValue_word s _ e on]
      exact (cl c).2.2 q hq
    · have a := clusters .A
      rw [State.wakeValue_barrier s _ e on] at a
      have written : (t.core core.toNat).a = (j.cl .A).setReg d e.result := a
      rw [mine, written, Cl.reg_setReg, if_neg hd, if_pos rfl]
    · rw [mine]
      exact ((congrArg Core.sp own : _).trans (congrArg Core.sp woken : _)).trans sp
    · rw [mine, others n hn, State.core_setCore, if_neg hn]

end Sys2Proof.Machine
end

section
/-! The task-level action: when it acts, and what each of its words does (R32, R33, R38, R161, R162, R242, R340). -/

namespace Sys2Proof.Machine

open Sys2Proof Sys2Proof.Spec

/-! When the action acts. -/

theorem copyKind_tend {i : Instr} (h : copyKind i = 1) : ∃ g, i = .tend g := by cases i <;> first | exact ⟨_, rfl⟩ | cases h
theorem copyKind_yield {i : Instr} (h : copyKind i = 2) : ∃ g, i = .yield g := by cases i <;> first | exact ⟨_, rfl⟩ | cases h

theorem Cl.copyAt_wait {x : Cl} {n : Nat} (h : x.copyAt = n) (hn : n ≠ 0) : ∃ i, x.wait = some i ∧ copyKind i = n := by
  unfold Cl.copyAt at h
  cases w : x.wait with
  | none => rw [w] at h; exact absurd h.symm hn
  | some i => rw [w] at h; exact ⟨i, rfl, h⟩

/-- What the action of a task-level word is (R32). -/
def State.copyAct (s : State) (k : Nat) : Instr → State
  | .tend _ => s.endTask k
  | .yield _ => s.yieldAct k
  | .waita h a b cc => s.waitAct k (.waita h a b cc)
  | .bwait h d a lv num => s.waitAct k (.bwait h d a lv num)
  | .rprobe h d a b => s.waitAct k (.rprobe h d a b)
  | _ => s

section
variable {s : State} {k n : Nat} {tk : Task}

theorem Core.ctxNum_task {c : Core} (h : c.task = some tk) : c.ctxNum = tk.ctx.toNat := by
  unfold Core.ctxNum
  rw [h]

theorem State.taskAction_ready (task : (s.core k).task = some tk) (clock : s.power.stopped = false) (ready : CopiesReady (s.core k) n) (hn : n ≠ 0) :
    ∃ i, (s.core k).a.wait = some i ∧ copyKind i = n ∧ s.taskAction k = if s.staysThere k then s else s.copyAct k i := by
  obtain ⟨copies, ⟨-, untrapped, running⟩, ⟨drained, -⟩, unheld⟩ := ready
  have all : (s.core k).allCopies = true := by simp [Core.allCopies, copies, hn]
  have same : (s.core k).sameCopies = true := by simp [Core.sameCopies, copies, show (s.core k).a.copyAt = n from copies .A]
  have free : ((s.core k).waitHeld && decide ((s.core k).conts.length ≥ 64)) = false := by
    rcases unheld with h | h
    · rw [h]; rfl
    · rw [decide_eq_false (by omega), Bool.and_false]
  unfold State.taskAction
  obtain ⟨i, waits, kind⟩ := Cl.copyAt_wait (x := (s.core k).a) (copies .A) hn
  refine ⟨i, waits, kind, ?_⟩
  simp only [task, untrapped, running, all, clock, free, same, drained, waits, Option.isNone_some, Option.isSome_none, Bool.not_true, Bool.or_self, Bool.false_or,
    Bool.false_eq_true, if_false]
  refine if_congr Iff.rfl rfl ?_
  cases i <;> rfl

theorem State.staysThere_task (task : (s.core k).task = some tk) (at_ : (s.core k).a.copyAt = n) :
    s.staysThere k = (((s.core k).preempt.getLsbD tk.ctx.toNat && decide (3 ≤ n) && decide (n ≤ 5)) || (s.ctx tk.ctx.toNat).saving) := by
  unfold State.staysThere Core.asked
  dsimp only
  rw [Core.ctxNum_task task, task, at_]

end

/-! The four words retire. -/

/-- What the retiring of the four words leaves of a cluster. -/
theorem Core.finishAll_eq {k : Core} (empty : ∀ c, (k.cl c).flight = []) (now : Nat) :
    k.finishAll now = { k.finishEach.upAll fun _ x => { x with wdogFrom := now } with waitHeld := false } := by
  unfold Core.finishAll
  rw [Core.commitAll_empty empty]
  rfl

theorem Core.finishAll_rest {k : Core} (empty : ∀ c, (k.cl c).flight = []) (now : Nat) :
    { k.finishAll now with a := k.a, v := k.v, t := k.t, sc := k.sc, toRight := k.toRight, toLeft := k.toLeft, waitHeld := k.waitHeld } = k := by
  have rest := k.finishEach_rest
  rw [Core.finishAll_eq empty]
  exact (congrArg (fun z : Core => { z with waitHeld := k.waitHeld }) rest : _)

theorem Core.finishAll_keeps {k : Core} (empty : ∀ c, (k.cl c).flight = []) (now : Nat) :
    (k.finishAll now).task = k.task ∧ (k.finishAll now).conts = k.conts ∧ (k.finishAll now).preempt = k.preempt := by
  have rest := Core.finishAll_rest empty now
  generalize k.finishAll now = j at rest ⊢
  exact ⟨(congrArg Core.task rest : _), (congrArg Core.conts rest : _), (congrArg Core.preempt rest : _)⟩

theorem Core.finishAll_cl {k : Core} (empty : ∀ c, (k.cl c).flight = []) (now : Nat) (c : Cluster) :
    (k.finishAll now).cl c = { k.finishEach.cl c with wdogFrom := now } := by
  rw [Core.finishAll_eq empty]
  cases c <;> rfl

/-- Every cluster has moved on. -/
theorem Core.finishAll_moved {k : Core} (empty : ∀ c, (k.cl c).flight = []) (now : Nat) (c : Cluster) :
    (∀ i, (k.cl c).wait = some i → ((k.finishAll now).cl c).pc = pcPlus c (k.cl c).pc i.words) ∧ ((k.finishAll now).cl c).wait = none ∧
      ((k.finishAll now).cl c).s = (k.cl c).s ∧ ((k.finishAll now).cl c).stopped = (k.cl c).stopped := by
  have done := k.finishEach_cl c
  rw [Core.finishAll_cl empty]
  exact ⟨done.pc, done.wait, done.s, (congrArg Cl.stopped done.rest : _)⟩

/-! Where the FIFOs have space, the four pushes are made at once (R45). -/

theorem Core.finishWord_fifo (k : Core) {c e : Cluster} (he : e ≠ c) (f : Dir) : (k.finishWord c).fifoTo e f = k.fifoTo e f := by
  have soon (j : Core) (m : BitVec 2) : (j.pushSoon c m).fifoTo e f = j.fifoTo e f := by
    unfold Core.pushSoon
    split
    · rfl
    · split
      · exact (Core.Apart.pushBits c j m).fifo e he f
      · exact Core.fifoTo_upCl _ _ _ _ _
  unfold Core.finishWord
  split
  · rfl
  · dsimp only
    split
    · rw [soon, Core.fifoTo_upCl]
    · rw [Core.fifoTo_upCl]

theorem Core.finishWord_flight {k : Core} {c : Cluster} (empty : (k.cl c).flight = [])
    (room : ∀ i h, (k.cl c).wait = some i → i.hdr? = some h → k.hasRoom c h.pushes = true) : ((k.finishWord c).cl c).flight = [] := by
  unfold Core.finishWord
  split
  · exact empty
  · next i waits =>
    dsimp only
    have moved : ((k.upCl c fun x => { x with pc := pcPlus c x.pc i.words, wait := none, popped := [] }).cl c).flight = [] := by
      rw [Core.cl_upCl_self]
      exact empty
    split
    · next h header =>
      have space := room i h waits header
      rw [← Core.hasRoom_congr fun f => k.fifoTo_upCl c (fun x => { x with pc := pcPlus c x.pc i.words, wait := none, popped := [] }) c f] at space
      generalize (k.upCl c fun x => { x with pc := pcPlus c x.pc i.words, wait := none, popped := [] }) = j at moved space
      unfold Core.pushSoon
      split
      · exact moved
      · exact (Core.pushBits_flight _ _ _ _).trans moved
    · exact moved

theorem Core.finishEach_flight {k : Core} (empty : ∀ c, (k.cl c).flight = []) (room : CopiesPush k) (c : Cluster) : (k.finishEach.cl c).flight = [] := by
  have list (l : List Cluster) (nodup : l.Nodup) (j : Core) (flight : ∀ c, (j.cl c).flight = [])
      (same : ∀ c ∈ l, j.cl c = k.cl c ∧ ∀ f, j.fifoTo c f = k.fifoTo c f) : ((l.foldl Core.finishWord j).cl c).flight = [] := by
    induction l generalizing j with
    | nil => exact flight c
    | cons d r ih =>
      obtain ⟨hd, hr⟩ := List.nodup_cons.1 nodup
      obtain ⟨cl, fifo⟩ := same d List.mem_cons_self
      refine ih hr _ (fun e => ?_) fun e he => ?_
      · by_cases here : e = d
        · subst here
          refine Core.finishWord_flight (flight e) fun i h waits header => ?_
          rw [Core.hasRoom_congr fifo]
          exact room e i h (cl ▸ waits) header
        · rw [Core.finishWord_cl_ne j here]
          exact flight e
      · have other : e ≠ d := fun h => hd (h ▸ he)
        obtain ⟨cl, fifo⟩ := same e (List.mem_cons_of_mem d he)
        exact ⟨(Core.finishWord_cl_ne j other).trans cl, fun f => (Core.finishWord_fifo j other f).trans (fifo f)⟩
  exact list Cluster.all (by decide) k empty fun c _ => ⟨rfl, fun _ => rfl⟩

theorem Core.finishAll_retiring {k : Core} (empty : ∀ c, (k.cl c).flight = []) (room : CopiesPush k) (now : Nat) : (k.finishAll now).retiring = false := by
  have flight (c : Cluster) : ((k.finishAll now).cl c).flight = [] := by
    rw [Core.finishAll_cl empty]
    exact Core.finishEach_flight empty room c
  simp [Core.retiring, flight]

/-! A slot that no continuation holds (R39). -/

theorem Core.freeSlot_free {k : Core} (room : k.conts.length < 64) : k.freeSlot < 64 ∧ ∀ x ∈ k.conts, x.slot.toNat ≠ k.freeSlot := by
  have exists_ : ∃ i ∈ List.range 64, (!k.conts.any fun c => c.slot.toNat == i) = true := by
    by_contra none
    push Not at none
    have covered : List.range 64 ⊆ k.conts.map fun c => c.slot.toNat := fun i hi => by
      have taken := none i hi
      simp only [ne_eq, Bool.not_eq_true', Bool.not_eq_false, List.any_eq_true, beq_iff_eq] at taken
      exact List.mem_map.2 taken
    have size := (List.subperm_of_subset List.nodup_range covered).length_le
    simp only [List.length_range, List.length_map] at size
    omega
  unfold Core.freeSlot
  cases found : (List.range 64).find? fun i => !k.conts.any fun c => c.slot.toNat == i with
  | none =>
    obtain ⟨i, hi, free⟩ := exists_
    exact absurd free (List.find?_eq_none.1 found i hi)
  | some i =>
    have free := List.find?_some found
    refine ⟨List.mem_range.1 (List.mem_of_find?_eq_some found), fun x hx taken => ?_⟩
    have all : (k.conts.any fun c => c.slot.toNat == i) = true := List.any_eq_true.2 ⟨x, hx, beq_iff_eq.2 taken⟩
    rw [all] at free
    exact Bool.false_ne_true free

end Sys2Proof.Machine
end

section
/-! The task-level words (R33, R38, R161, R162, R340). -/

namespace Sys2Proof.Machine

open Sys2Proof Sys2Proof.Spec

variable {s : State} {n : Nat} {tk : Task}

theorem onlyCore_refl (n : Nat) (s : State) : OnlyCore n s s := ⟨fun _ _ => rfl, rfl⟩
theorem onlyCore_trans {n : Nat} {s t u : State} (h : OnlyCore n s t) (g : OnlyCore n t u) : OnlyCore n s u :=
  ⟨fun k hk => (g.1 k hk).trans (h.1 k hk), (congrArg (fun u : State => { u with cores := s.cores }) g.2 : _).trans h.2⟩
theorem onlyCore_ctx {n : Nat} {s t : State} (h : OnlyCore n s t) (c : Nat) : t.ctx c = s.ctx c := congrArg (sget Ctx.reset · c) (congrArg State.ctxs h.2 : _)
theorem onlyCore_upCore (s : State) (n : Nat) (f : Core → Core) : OnlyCore n s (s.upCore n f) := onlyCore_setCore s n _

theorem State.commit_unversioned (task : (s.core n).task = some tk) (plain : tk.ver = false) : s.commit n = s := by
  unfold State.commit
  rw [task]
  simp [plain]

/-- A core goes on with what its wait gives a register (R38 step 3). -/
def Core.wentOn (k : Core) (now : Nat) (d : Reg) (v : Option Word) : Core :=
  match v with
  | some v => (k.finishAll now).upCl .A fun x => x.setReg d v
  | none => k.finishAll now

theorem State.goOn_core (s : State) (n : Nat) (d : Reg) (v : Option Word) : (s.goOn n d v).core n = (s.core n).wentOn s.cycle d v := State.core_upCore_self _ _ _

theorem Core.wentOn_moved {k : Core} (empty : ∀ c, (k.cl c).flight = []) (now : Nat) (d : Reg) (v : Option Word) :
    (k.wentOn now d v).task = k.task ∧ MovedOn d k (k.wentOn now d v) ∧ ∀ w, v = some w → d ≠ 0 → (k.wentOn now d v).a.reg d = w := by
  have moved := k.finishAll_moved empty now
  have reg (c : Cluster) (r : Reg) : ((k.finishAll now).cl c).reg r = (k.cl c).reg r := by
    unfold Cl.reg
    rw [(moved c).2.2.1]
  have task := (k.finishAll_keeps empty now).1
  unfold Core.wentOn
  generalize k.finishAll now = j at moved reg task
  cases v with
  | none =>
    dsimp only
    exact ⟨task, fun c => ⟨(moved c).1, (moved c).2.1, fun r _ => reg c r⟩, nofun⟩
  | some w =>
    refine ⟨(Core.upCl_task _ _ _).trans task, fun c => ?_, fun v hv hd => ?_⟩
    · by_cases a : c = .A
      · subst a
        dsimp only
        rw [Core.cl_upCl_self]
        refine ⟨fun i hi => (Cl.setReg_pc _ _ _).trans ((moved .A).1 i hi), (Cl.setReg_wait _ _ _).trans (moved .A).2.1, fun r hr => ?_⟩
        rw [Cl.reg_setReg]
        split
        · next zero => rw [zero, Cl.reg_zero]
        · rw [if_neg (hr.resolve_left (fun h => h rfl)), reg]
      · dsimp only
        rw [Core.cl_upCl_ne _ a]
        exact ⟨(moved c).1, (moved c).2.1, fun r _ => reg c r⟩
    · obtain rfl := Option.some.inj hv
      have self : (j.upCl .A fun x => x.setReg d w).a = (j.cl .A).setReg d w := Core.cl_upCl_self j .A _
      dsimp only
      rw [self, Cl.reg_setReg, if_neg hd, if_pos rfl]

/-- A save that begins: the continuation, and the core without its task (R38 step 4). -/
theorem State.beginSave_eq (task : (s.core n).task = some tk) (room : (s.core n).conts.length < 64) (goes : ((s.core n).finishAll s.cycle).retiring = false)
    (on : Nat → WaitOn) : ∃ e : Cont, e.slot = .ofNat 6 (s.core n).freeSlot ∧ e.saving = true ∧ e.ready = false ∧ e.task = tk ∧ e.on = on (s.core n).freeSlot ∧
      ∃ cnt, s.beginSave n on = s.setCore n { ((s.core n).finishAll s.cycle).leaveHandler with
        task := none, version := [], conts := ((s.core n).finishAll s.cycle).conts ++ [e], issueCnt := cnt } := by
  have few : ¬ (s.core n).conts.length ≥ 64 := Nat.not_le.2 room
  unfold State.beginSave
  dsimp only
  generalize (s.core n).finishAll s.cycle = j at goes
  rw [task]
  dsimp only
  rw [if_neg few, if_neg (by rw [goes]; exact Bool.false_ne_true)]
  exact ⟨_, rfl, rfl, rfl, rfl, rfl, _, rfl⟩

/-- The core is set aside, to wait (R38 step 4). -/
theorem State.beginSave_setAside (task : (s.core n).task = some tk) (empty : ∀ c, ((s.core n).cl c).flight = []) (room : (s.core n).conts.length < 64)
    (push : CopiesPush (s.core n)) (on : Nat → WaitOn) : SetAside (s.core n) ((s.beginSave n on).core n) tk on ∧ OnlyCore n s (s.beginSave n on) := by
  obtain ⟨low, free⟩ := Core.freeSlot_free room
  have slot : (BitVec.ofNat 6 (s.core n).freeSlot).toNat = (s.core n).freeSlot := by rw [BitVec.toNat_ofNat, Nat.mod_eq_of_lt low]
  have conts := (Core.finishAll_keeps empty s.cycle).2.1
  have goes := Core.finishAll_retiring empty push s.cycle
  obtain ⟨e, at_, saving, ready, whose, waits, cnt, saved⟩ := State.beginSave_eq task room goes on
  rw [saved]
  refine ⟨?_, onlyCore_setCore _ _ _⟩
  rw [State.core_setCore_self]
  generalize (s.core n).finishAll s.cycle = j at conts
  refine ⟨rfl, rfl, e, congrArg (· ++ [e]) conts, saving, ready, whose, ?_, fun x hx same => free x hx ?_⟩
  · rw [waits, at_, slot]
  · rw [same, at_, slot]

theorem State.noteIdle_rest (s : State) (n : Nat) : { s.noteIdle n with ctxs := s.ctxs } = s := by
  unfold State.noteIdle
  split <;> rfl

/-- tend, outside a handler: the core is free, and its group counts the end (R33, R330). -/
theorem State.endTask_ends (task : (s.core n).task = some tk) (plain : tk.ver = false) (outside : (s.core n).inh = false) :
    let t := s.endTask n
    let m := t.core n
    m.task = none ∧ m.toRight = [] ∧ m.toLeft = [] ∧ t.launches = (s.taskDone tk).launches ∧ t.mem = s.mem ∧ ∀ j, j ≠ n → t.core j = s.core j := by
  have ends : s.endTask n = ((s.upCore n fun c => (c.finishAll s.cycle).clearTask).taskDone tk).noteIdle tk.ctx.toNat := by
    have commit := State.commit_unversioned task plain
    unfold State.endTask
    rw [task]
    simp only [outside, Bool.false_eq_true, if_false, commit]
  have core (j : Nat) : (s.endTask n).core j = (s.upCore n fun c => (c.finishAll s.cycle).clearTask).core j := by
    rw [ends, State.noteIdle_core]
    rfl
  have idle := ((s.upCore n fun c => (c.finishAll s.cycle).clearTask).taskDone tk).noteIdle_rest tk.ctx.toNat
  rw [← ends] at idle
  have self : (s.endTask n).core n = ((s.core n).finishAll s.cycle).clearTask := (core n).trans (State.core_upCore_self s n fun c => (c.finishAll s.cycle).clearTask)
  have others (j : Nat) (hj : j ≠ n) : (s.endTask n).core j = s.core j := (core j).trans (State.core_upCore_ne s hj _)
  dsimp only
  generalize s.endTask n = t at self others idle
  rw [self]
  exact ⟨rfl, rfl, rfl, (congrArg State.launches idle : _), (congrArg State.mem idle : _), others⟩

/-- The clusters of a core stop where a pre-emption is asked (R161). -/
def Core.stopIf (k : Core) : Core := if k.asked then k.upAll fun _ x => { x with stopped := true } else k

/-- yield: the task goes on, or stops there for a pending pre-emption (R161). -/
theorem State.yieldAct_goes (task : (s.core n).task = some tk) (plain : tk.ver = false) (empty : ∀ c, ((s.core n).cl c).flight = []) :
    let asked := (s.core n).preempt.getLsbD tk.ctx.toNat
    let t := s.yieldAct n
    let m := t.core n
    m.task = some tk ∧ MovedOn 0 (s.core n) m ∧ OnlyCore n s t ∧ (asked = true → ∀ c, (m.cl c).stopped = true) ∧
      (asked = false → ∀ c, (m.cl c).stopped = ((s.core n).cl c).stopped) := by
  have moved := (s.core n).finishAll_moved empty s.cycle
  obtain ⟨keepsTask, -, keepsPreempt⟩ := (s.core n).finishAll_keeps empty s.cycle
  obtain ⟨-, went, -⟩ := (s.core n).wentOn_moved empty s.cycle 0 none
  have acts : s.yieldAct n = s.upCore n fun c => (c.finishAll s.cycle).stopIf := by
    unfold State.yieldAct
    rw [State.commit_unversioned task plain]
    rfl
  dsimp only
  rw [acts, State.core_upCore_self]
  unfold Core.wentOn at went
  dsimp only at went
  generalize (s.core n).finishAll s.cycle = j at *
  have asked : j.asked = (s.core n).preempt.getLsbD tk.ctx.toNat := by
    unfold Core.asked
    rw [keepsTask, task, keepsPreempt]
  unfold Core.stopIf
  rw [asked]
  split
  · next on =>
    refine ⟨keepsTask.trans task, fun c => ?_, onlyCore_upCore _ _ _, fun _ c => ?_, fun off => absurd (on.symm.trans off) Bool.false_ne_true.symm⟩
    · rw [Core.cl_upAll]
      exact went c
    · rw [Core.cl_upAll]
  · next off =>
    exact ⟨keepsTask.trans task, went, onlyCore_upCore _ _ _, fun on => absurd on off, fun _ c => (moved c).2.2.2⟩

/-! Waits (R38). -/

theorem State.waitAct_steps {i : Instr} (task : (s.core n).task = some tk) (plain : tk.ver = false) (free : slotFree (s.core n)) (good : s.waitBad n i = none) :
    s.waitAct n i = s.waitStep n i := by
  unfold State.waitAct
  rw [good]
  dsimp only
  rw [State.commit_unversioned task plain]
  exact if_neg (by rw [show (s.core n).slotOk _ _ = true from free]; decide)

/-- A wait that is satisfied goes on. -/
theorem State.goOn_goes (task : (s.core n).task = some tk) (empty : ∀ c, ((s.core n).cl c).flight = []) (d : Reg) (v : Option Word) :
    let m := (s.goOn n d v).core n
    m.task = some tk ∧ MovedOn d (s.core n) m ∧ (∀ w, v = some w → d ≠ 0 → m.a.reg d = w) ∧ OnlyCore n s (s.goOn n d v) := by
  obtain ⟨keeps, moved, answer⟩ := (s.core n).wentOn_moved empty s.cycle d v
  dsimp only
  rw [State.goOn_core]
  exact ⟨keeps.trans task, moved, answer, onlyCore_upCore _ _ _⟩

/-- A wait that is satisfied and acquires goes on (R339). -/
theorem State.goOn_acquire_goes (task : (s.core n).task = some tk) (empty : ∀ c, ((s.core n).cl c).flight = []) (d : Reg) (v : Word) (scope : Nat) :
    let t := (s.goOn n d (some v)).acquire n scope
    let m := t.core n
    m.task = some tk ∧ MovedOn d (s.core n) m ∧ (d ≠ 0 → m.a.reg d = v) ∧ t.barriers = s.barriers := by
  obtain ⟨keeps, moved, answer, only⟩ := State.goOn_goes task empty d (some v)
  have cache := (CacheWork.refl n (s.goOn n d (some v))).acquire scope
  dsimp only
  generalize (s.goOn n d (some v)).acquire n scope = t at cache
  refine ⟨(congrArg Core.task cache.core : _).trans keeps, fun c => ?_, fun hd => ?_, (congrArg State.barriers cache.beside : _).trans (congrArg State.barriers only.2 : _)⟩
  · rw [cache.cl]
    exact moved c
  · have a : (t.core n).a = ((s.goOn n d (some v)).core n).a := cache.cl .A
    rw [a]
    exact answer v rfl hd

/-- waita acts on the word that it names (R162). -/
theorem State.waita_acts {h : Hdr} {a b : Reg} {cc : BitVec 3} (task : (s.core n).task = some tk) (plain : tk.ver = false) (free : slotFree (s.core n))
    (aligned : ((s.core n).a.reg a).toNat % 8 = 0) (inside : ((s.core n).a.reg a).toNat < 0x280000) (owned : (s.core n).owner' (((s.core n).a.reg a).toNat / 4096) = 0) :
    s.waitAct n (.waita h a b cc) =
      if ccHolds cc.toNat (.ofNat 64 (ofBytes ((s.core n).spRead ((s.core n).a.reg a).toNat 8))) ((s.core n).a.reg b) then s.goOn n 0 none
      else s.beginSave n fun _ => .word ((s.core n).a.reg a).toNat cc b ((s.core n).a.reg b) := by
  have good : s.waitBad n (.waita h a b cc) = none := by
    have outside : ((s.core n).a.reg a).toNat ≥ spSize ↔ False := iff_false_intro (Nat.not_le.2 inside)
    have mine : ((s.core n).owner' (((s.core n).a.reg a).toNat / 4096) != ownThread) = false := by rw [owned]; rfl
    simp [State.waitBad, aligned, outside, mine]
  rw [State.waitAct_steps task plain free good]
  rfl

/-- bwait acts on the barrier's episode (R340). -/
theorem State.bwait_acts {h : Hdr} {d a : Reg} {lv : BitVec 2} {num : BitVec 8} (task : (s.core n).task = some tk) (plain : tk.ver = false) (free : slotFree (s.core n))
    (allowed : s.barAllowed n (barKey n lv.toNat num.toNat) = true) :
    s.waitAct n (.bwait h d a lv num) = match (s.bar (barKey n lv.toNat num.toNat)).answers (((s.core n).a.reg a).toNat % 2 ^ 16) with
      | some v => (s.goOn n d (some v)).acquire n (barScope (barKey n lv.toNat num.toNat))
      | none => s.beginSave n fun _ => .barrier (barKey n lv.toNat num.toNat) (256 * lv.toNat + num.toNat) (.ofNat 16 ((s.core n).a.reg a).toNat) d := by
  have good : s.waitBad n (.bwait h d a lv num) = none := if_pos allowed
  have low : (((s.core n).a.reg a).setWidth 16).toNat = ((s.core n).a.reg a).toNat % 2 ^ 16 := BitVec.toNat_setWidth 16 _
  rw [State.waitAct_steps task plain free good, ← low, BitVec.ofNat_toNat]
  rfl

theorem barWord (e i t : Nat) : pack [(16, e), (46, 0), (1, i), (1, t)] = e % 2 ^ 16 + 2 ^ 62 * (i % 2) + 2 ^ 63 * (t % 2) := by
  simp only [pack, Nat.zero_mod, pow_one]
  ring

theorem b2n_mod (b : Bool) : b2n b % 2 = if b then 1 else 0 := by cases b <;> rfl

/-- When a barrier answers, and what (R340). -/
theorem Bar.answers_iff (b : Bar) (e : Nat) : b.answers e =
    if b.st = 0 ∨ (1 ≤ (b.episode + 2 ^ 16 - e) % 2 ^ 16 ∧ (b.episode + 2 ^ 16 - e) % 2 ^ 16 ≤ 32767) then
      some (.ofNat 64 (b.episode % 2 ^ 16 + 2 ^ 62 * (if b.st = 0 then 1 else 0) + 2 ^ 63 * (if b.tlast then 1 else 0))) else none := by
  have idle : (b.st == barIdle) = decide (b.st = 0) := rfl
  unfold Bar.answers
  simp only [idle, barWord, b2n_mod, Bool.or_eq_true, Bool.and_eq_true, decide_eq_true_eq]

end Sys2Proof.Machine
end

section
/-! A probe of pages that the RTB holds (R242). -/

namespace Sys2Proof.Machine

open Sys2Proof Sys2Proof.Spec

/-- The RTB of a core holds a page of a context (R240). -/
def Core.holdsPage (k : Core) (x : Ctx) (page : Nat) : Prop := ∃ e ∈ k.rtb, e.asid = x.asid ∧ e.gen = x.gen ∧ e.vpage.toNat = page

theorem Core.rtbFind_held {k : Core} {x : Ctx} {page : Nat} (h : k.holdsPage x page) : ∃ e ∈ k.rtb, k.rtbFind x page = some e := by
  obtain ⟨e, mem, asid, gen, at_⟩ := h
  cases found : k.rtbFind x page with
  | none => exact absurd (by simp [asid, gen, at_]) (List.find?_eq_none.1 found e mem)
  | some f => exact ⟨f, List.mem_of_find?_eq_some found, rfl⟩

/-- An entry that is used stays, with every other (R240). -/
theorem Core.rtbUse_holds {k : Core} {e : RtbEnt} (mem : e ∈ k.rtb) (size : k.rtb.length ≤ 512) :
    (k.rtbUse e).rtb.length ≤ 512 ∧ ∀ x page, k.holdsPage x page → (k.rtbUse e).holdsPage x page := by
  have shorter : (k.rtb.filter fun f => !(f.asid == e.asid && f.gen == e.gen && f.vpage == e.vpage)).length < k.rtb.length :=
    List.length_filter_lt_length_iff_exists.2 ⟨e, mem, by simp⟩
  have whole : (k.rtbUse e).rtb = e :: k.rtb.filter fun f => !(f.asid == e.asid && f.gen == e.gen && f.vpage == e.vpage) :=
    List.take_of_length_le (by rw [List.length_cons]; omega)
  unfold Core.holdsPage
  rw [whole]
  refine ⟨by rw [List.length_cons]; omega, fun x page ⟨f, hf, asid, gen, at_⟩ => ?_⟩
  by_cases same : f.asid = e.asid ∧ f.gen = e.gen ∧ f.vpage = e.vpage
  · obtain ⟨a, g, v⟩ := same
    exact ⟨e, List.mem_cons_self, a ▸ asid, g ▸ gen, v ▸ at_⟩
  · refine ⟨f, List.mem_cons_of_mem _ (List.mem_filter.2 ⟨hf, ?_⟩), asid, gen, at_⟩
    simpa [imp_iff_not_or, or_assoc] using same

/-- `t` is `s` once a core has looked up pages that its RTB holds. -/
structure Probed (k : Nat) (s t : State) : Prop where
  only : OnlyCore k s t
  core : { t.core k with rtb := (s.core k).rtb } = s.core k
  size : (t.core k).rtb.length ≤ 512
  holds : ∀ x page, (s.core k).holdsPage x page → (t.core k).holdsPage x page

namespace Probed

variable {k n : Nat} {s t : State}

theorem page (h : Probed k s t) {page : Nat} (low : page < 2 ^ 27) (held : (s.core k).holdsPage (s.ctx n) page) :
    Probed k s (t.probePage k n page).1 ∧ (t.probePage k n page).2 = .resolved := by
  obtain ⟨e, mem, found⟩ := Core.rtbFind_held (h.holds _ _ held)
  obtain ⟨size, keeps⟩ := Core.rtbUse_holds mem h.size
  have probed : t.probePage k n page = (t.upCore k fun c => c.rtbUse e, .resolved) := by
    unfold State.probePage
    rw [if_neg (Nat.not_le.2 low), onlyCore_ctx h.only, found]
  rw [probed]
  have core : (t.upCore k fun c => c.rtbUse e).core k = (t.core k).rtbUse e := State.core_upCore_self _ _ _
  refine ⟨⟨onlyCore_trans h.only (onlyCore_upCore t k _), ?_, ?_, fun x p hp => ?_⟩, rfl⟩
  · rw [core]
    exact h.core
  · rw [core]
    exact size
  · rw [core]
    exact keeps x p (h.holds x p hp)

/-- Pages that the RTB holds are resolved, one after another. -/
theorem all {base count : Nat} (low : ∀ j, j < count → base + j < 2 ^ 27) (held : ∀ j, j < count → (s.core k).holdsPage (s.ctx n) (base + j))
    (size : (s.core k).rtb.length ≤ 512) : Probed k s (s.probeAll k n base count).1 ∧ ((s.probeAll k n base count).2.all fun e => e.2 == .resolved) = true := by
  unfold State.probeAll
  induction count with
  | zero => exact ⟨⟨onlyCore_refl k s, rfl, size, fun _ _ h => h⟩, rfl⟩
  | succ count ih =>
    obtain ⟨probed, resolved⟩ := ih (fun j hj => low j (Nat.lt_succ_of_lt hj)) fun j hj => held j (Nat.lt_succ_of_lt hj)
    obtain ⟨next, answer⟩ := probed.page (low count (Nat.lt_succ_self _)) (held count (Nat.lt_succ_self _))
    rw [List.range_succ, List.foldl_concat]
    refine ⟨next, ?_⟩
    rw [List.all_append, resolved]
    simp [answer]

end Probed

/-- The result of a probe all of whose pages the RTB holds (R242). -/
theorem State.probeResult_held {s : State} {k n base count : Nat} (low : ∀ j, j < count → base + j < 2 ^ 27)
    (held : ∀ j, j < count → (s.core k).holdsPage (s.ctx n) (base + j)) (few : count ≤ 512) : s.probeResult k n base count [] [] = .ofNat 64 count := by
  have found (j : Nat) (hj : j ∈ List.range count) : (((s.core k).rtbFind (s.ctx n) (base + j)).isSome && decide (base + j < 2 ^ 27)) = true := by
    obtain ⟨e, -, look⟩ := Core.rtbFind_held (held j (List.mem_range.1 hj))
    rw [look]
    exact decide_eq_true (low j (List.mem_range.1 hj))
  have refused : ((List.range count).any fun i => decide (base + i ≥ 2 ^ 27)) = false :=
    List.any_eq_false.2 fun j hj => by rw [decide_eq_true_eq]; exact Nat.not_le.2 (low j (List.mem_range.1 hj))
  unfold State.probeResult
  rw [List.filter_eq_self.2 found, refused, List.length_range]
  simp only [pack, List.isEmpty_nil, Bool.not_true, Bool.or_self]
  rw [Nat.mod_eq_of_lt (by omega)]
  rfl

theorem Probed.cl {k : Nat} {s t : State} (h : Probed k s t) (c : Cluster) : (t.core k).cl c = (s.core k).cl c := (congrArg (Core.cl · c) h.core : _)
theorem Probed.task {k : Nat} {s t : State} (h : Probed k s t) : (t.core k).task = (s.core k).task := (congrArg Core.task h.core : _)

theorem movedOn_of_cl {d : Reg} {k j m : Core} (h : MovedOn d k m) (same : ∀ c, k.cl c = j.cl c) : MovedOn d j m := by
  intro c
  rw [← same]
  exact h c

/-- rprobe of pages that the RTB holds goes on with their number (R242). -/
theorem State.rprobe_acts {s : State} {k : Nat} {tk : Task} {h : Hdr} {d a b : Reg} (task : (s.core k).task = some tk) (plain : tk.ver = false)
    (empty : ∀ c, ((s.core k).cl c).flight = []) (free : slotFree (s.core k)) (size : (s.core k).rtb.length ≤ 512)
    (pages : ∀ j, j < min ((s.core k).a.reg b).toNat 512 → ((s.core k).a.reg a).toNat / 2 ^ 21 + j < 2 ^ 27 ∧
      (s.core k).holdsPage (s.ctx (s.core k).ctxNum) (((s.core k).a.reg a).toNat / 2 ^ 21 + j)) :
    let t := s.waitAct k (.rprobe h d a b)
    let m := t.core k
    m.task = some tk ∧ MovedOn d (s.core k) m ∧ (d ≠ 0 → m.a.reg d = .ofNat 64 (min ((s.core k).a.reg b).toNat 512)) ∧ t.mem = s.mem := by
  have low := fun j hj => (pages j hj).1
  have held := fun j hj => (pages j hj).2
  obtain ⟨probed, resolved⟩ := Probed.all low held size
  have result := State.probeResult_held (s := (s.probeAll k (s.core k).ctxNum (((s.core k).a.reg a).toNat / 2 ^ 21) (min ((s.core k).a.reg b).toNat 512)).1) low
    (fun j hj => by rw [onlyCore_ctx probed.only]; exact probed.holds _ _ (held j hj)) (Nat.min_le_right _ _)
  have acts : s.waitAct k (.rprobe h d a b) = (s.probeAll k (s.core k).ctxNum (((s.core k).a.reg a).toNat / 2 ^ 21) (min ((s.core k).a.reg b).toNat 512)).1.goOn k d
      (some (.ofNat 64 (min ((s.core k).a.reg b).toNat 512))) := by
    rw [State.waitAct_steps task plain free rfl, ← result]
    exact if_pos resolved
  dsimp only
  rw [acts]
  generalize (s.probeAll k _ _ _).1 = u at probed
  obtain ⟨keeps, moved, answer, only⟩ := State.goOn_goes (probed.task.trans task) (fun c => by rw [probed.cl]; exact empty c) d
    (some (.ofNat 64 (min ((s.core k).a.reg b).toNat 512)))
  exact ⟨keeps, movedOn_of_cl moved probed.cl, answer _ rfl, (congrArg State.mem only.2 : _).trans (congrArg State.mem probed.only.2 : _)⟩

/-! Copies that disagree (R32). -/

/-- `j` is `k` once traps of its clusters are recorded. -/
structure Core.Marked (k j : Core) : Prop where
  cl : ∀ c, { j.cl c with trapped := (k.cl c).trapped, trapCause := (k.cl c).trapCause } = k.cl c
  rest : { j with a := k.a, v := k.v, t := k.t, sc := k.sc, trap := k.trap, version := k.version } = k

theorem Core.Marked.refl (k : Core) : Core.Marked k k := ⟨fun _ => rfl, rfl⟩
theorem Core.Marked.trans {k j l : Core} (h : Core.Marked k j) (g : Core.Marked j l) : Core.Marked k l :=
  ⟨fun c => (congrArg (fun x : Cl => { x with trapped := (k.cl c).trapped, trapCause := (k.cl c).trapCause }) (g.cl c) : _).trans (h.cl c),
    (congrArg (fun x : Core => { x with a := k.a, v := k.v, t := k.t, sc := k.sc, trap := k.trap, version := k.version }) g.rest : _).trans h.rest⟩

/-- The core with the trap of one cluster recorded, the first with `st` (R296). -/
def Core.marked (x : Core) (c : Cluster) (t : ClTrap) (st : TrapSt) : Core :=
  match x.trap with
  | some _ => x.upCl c fun y => { y with trapped := y.trapped <|> some t }
  | none => { x.commitAll.upAll fun _ y => { y with trapCause := 0 } with trap := some st, version := [] }.upCl c fun y => { y with trapped := some t }

theorem Core.marked_marked {x : Core} {c : Cluster} {t : ClTrap} (empty : ∀ c, (x.cl c).flight = []) (fresh : (x.cl c).trapped = none) (st : TrapSt) :
    Core.Marked x (x.marked c t st) ∧ ((x.marked c t st).cl c).trapped = some t ∧ ∀ d, d ≠ c → ((x.marked c t st).cl d).trapped = (x.cl d).trapped := by
  unfold Core.marked
  split
  · refine ⟨⟨fun d => ?_, by cases c <;> rfl⟩, ?_, fun d hd => by rw [Core.cl_upCl_ne _ hd]⟩
    · by_cases hd : d = c
      · rw [hd, Core.cl_upCl_self]
      · rw [Core.cl_upCl_ne _ hd]
    · rw [Core.cl_upCl_self, fresh]
      rfl
  · rw [Core.commitAll_empty empty]
    dsimp only
    have before (d : Cluster) : ({ x.upAll fun _ y => { y with trapCause := 0 } with trap := some st, version := [] } : Core).cl d = { x.cl d with trapCause := 0 } := by
      cases d <;> rfl
    have rest : { ({ x.upAll fun _ y => { y with trapCause := 0 } with trap := some st, version := [] } : Core) with
      a := x.a, v := x.v, t := x.t, sc := x.sc, trap := x.trap, version := x.version } = x := rfl
    generalize ({ x.upAll fun _ y => { y with trapCause := 0 } with trap := some st, version := [] } : Core) = j at before rest
    refine ⟨⟨fun d => ?_, ?_⟩, ?_, fun d hd => ?_⟩
    · by_cases hd : d = c
      · rw [hd, Core.cl_upCl_self, before]
      · rw [Core.cl_upCl_ne _ hd, before]
    · refine Eq.trans ?_ rest
      cases c <;> rfl
    · rw [Core.cl_upCl_self]
    · rw [Core.cl_upCl_ne _ hd, before]

/-- Recording a trap where nothing is in flight. -/
theorem State.markTrap_marked {s : State} {k : Nat} (task : (s.core k).task.isNone = false) (empty : ∀ c, ((s.core k).cl c).flight = []) (c : Cluster) (cause : Cause) (pc : VAddr)
    (info : Word) (operand : List Byte) (fresh : ((s.core k).cl c).trapped = none) :
    let m := (s.markTrap k c cause pc info operand).core k
    Core.Marked (s.core k) m ∧ (m.cl c).trapped = some { cause := cause, pc := pc, info := info } ∧ ∀ d, d ≠ c → (m.cl d).trapped = ((s.core k).cl d).trapped := by
  have marked : ∃ st, (s.markTrap k c cause pc info operand).core k = (s.core k).marked c { cause := cause, pc := pc, info := info } st := by
    unfold State.markTrap
    rw [if_neg (by rw [task]; exact Bool.false_ne_true), State.core_upCore_self]
    unfold Core.marked
    generalize s.core k = x
    cases x.trap with
    | none => exact ⟨_, rfl⟩
    | some t => exact ⟨⟨c, false, [], 0⟩, rfl⟩
  obtain ⟨st, marked⟩ := marked
  dsimp only
  rw [marked]
  exact Core.marked_marked empty fresh st

namespace Core.Marked

variable {k j : Core}

theorem flight (h : Core.Marked k j) (c : Cluster) : (j.cl c).flight = (k.cl c).flight := (congrArg Cl.flight (h.cl c) : _)
theorem pc (h : Core.Marked k j) (c : Cluster) : (j.cl c).pc = (k.cl c).pc := (congrArg Cl.pc (h.cl c) : _)
theorem task (h : Core.Marked k j) : j.task = k.task := (congrArg Core.task h.rest : _)
theorem inh (h : Core.Marked k j) : j.inh = k.inh := (congrArg Core.inh h.rest : _)

theorem drained (h : Core.Marked k j) : j.drained = k.drained := by
  have loads (c : Cluster) : (j.cl c).loadQ = (k.cl c).loadQ := (congrArg Cl.loadQ (h.cl c) : _)
  have stores (c : Cluster) : (j.cl c).storeQ = (k.cl c).storeQ := (congrArg Cl.storeQ (h.cl c) : _)
  have rets (c : Cluster) : (j.cl c).rets = (k.cl c).rets := (congrArg Cl.rets (h.cl c) : _)
  have steps : j.tsCount = k.tsCount := (congrArg Core.tsCount h.rest : _)
  have nests : j.nests = k.nests := (congrArg Core.nests h.rest : _)
  unfold Core.drained
  simp only [loads, stores, rets, steps, nests]

end Core.Marked

/-- A trap that is not fatal waits until the core is drained (R296). -/
theorem State.settle_waits {s : State} {k : Nat} (outside : (s.core k).inh = false) (busy : (s.core k).drained = false)
    (mild : ∀ c t, ((s.core k).cl c).trapped = some t → t.cause.fatal = false) : s.settle k = s := by
  have none_fatal : (Cluster.all.any fun cl => match ((s.core k).cl cl).trapped with | some y => y.cause.fatal | none => false) = false := by
    refine List.any_eq_false.2 fun c _ => ?_
    cases found : ((s.core k).cl c).trapped with
    | none => simp
    | some t => simp [mild c t found]
  unfold State.settle
  dsimp only
  split
  · rfl
  · rw [outside, busy, Bool.or_false, Bool.false_and]
    split
    · rfl
    · exact (if_neg (ne_of_eq_of_ne none_fatal Bool.false_ne_true)).trans (if_neg Bool.false_ne_true)

/-- The trap of a copy that disagrees with the others (R32). -/
def disagrees (pc : VAddr) : ClTrap := { cause := .illop, pc := pc, info := 0x0A }

/-- Every cluster whose copy disagrees traps (R32). -/
theorem State.disagree_marks {s : State} {k : Nat} (task : (s.core k).task.isNone = false) (outside : (s.core k).inh = false) (busy : (s.core k).drained = false)
    (fresh : ∀ c, ((s.core k).cl c).trapped = none) (empty : ∀ c, ((s.core k).cl c).flight = []) (c : Cluster) :
    (((s.disagree k).core k).cl c).trapped = some (disagrees ((s.core k).cl c).pc) := by
  have list (l : List Cluster) (nodup : l.Nodup) (f : State → Cluster → List Byte) (u : State) (marked : Core.Marked (s.core k) (u.core k))
      (left : ∀ c ∈ l, ((u.core k).cl c).trapped = none) (done : ∀ c, c ∉ l → ((u.core k).cl c).trapped = some (disagrees ((s.core k).cl c).pc)) :
      let v := l.foldl (fun u c => u.markTrap k c .illop ((u.core k).cl c).pc 0x0A (f u c)) u
      Core.Marked (s.core k) (v.core k) ∧ ∀ c, ((v.core k).cl c).trapped = some (disagrees ((s.core k).cl c).pc) := by
    induction l generalizing u with
    | nil => exact ⟨marked, fun c => done c List.not_mem_nil⟩
    | cons d r ih =>
      obtain ⟨hd, hr⟩ := List.nodup_cons.1 nodup
      obtain ⟨next, mine, others⟩ := State.markTrap_marked (s := u) (by rw [marked.task]; exact task) (fun c => by rw [marked.flight]; exact empty c) d .illop
        ((u.core k).cl d).pc 0x0A (f u d) (left d List.mem_cons_self)
      refine ih hr _ (marked.trans next) (fun c hc => ?_) fun c hc => ?_
      · rw [others c fun h => hd (h ▸ hc)]
        exact left c (List.mem_cons_of_mem d hc)
      · by_cases here : c = d
        · rw [here, mine, marked.pc]
          rfl
        · rw [others c here]
          exact done c fun h => (List.mem_cons.1 h).elim here hc
  obtain ⟨marked, traps⟩ := list Cluster.all (by decide) (fun u c => match ((u.core k).cl c).wait with | some i => wordImage c i | none => []) s (.refl _)
    (fun c _ => fresh c) fun c hc => absurd (by cases c <;> decide) hc
  have acts : s.disagree k = (Cluster.all.foldl (fun u c => u.markTrap k c .illop ((u.core k).cl c).pc 0x0A
      (match ((u.core k).cl c).wait with | some i => wordImage c i | none => [])) s).settle k := rfl
  rw [acts]
  dsimp only at marked traps
  generalize Cluster.all.foldl _ s = v at marked traps
  rw [State.settle_waits (marked.inh.trans outside) (marked.drained.trans busy)]
  · exact traps c
  · intro c t found
    rw [traps c] at found
    rw [← Option.some.inj found]
    rfl

/-- Copies of different words, all four there, act by trapping (R32). -/
theorem State.taskAction_disagrees {s : State} {k : Nat} {tk : Task} (task : (s.core k).task = some tk) (clock : s.power.stopped = false)
    (all : ∀ c, ((s.core k).cl c).copyAt ≠ 0) (differ : ∃ c, ((s.core k).cl c).copyAt ≠ (s.core k).a.copyAt) (untrapped : (s.core k).trap = none)
    (running : (s.core k).halted = false) (unheld : (s.core k).waitHeld = false) : s.taskAction k = s.disagree k := by
  have there : (s.core k).allCopies = true := by simp [Core.allCopies, all]
  have mixed : (s.core k).sameCopies = false := by
    obtain ⟨c, hc⟩ := differ
    exact List.all_eq_false.2 ⟨c, by cases c <;> decide, by simpa using hc⟩
  unfold State.taskAction
  simp only [task, untrapped, running, there, mixed, clock, unheld, Option.isNone_some, Option.isSome_none, Bool.not_true, Bool.false_and, Bool.or_self, Bool.false_eq_true,
    if_false, Bool.not_false, if_true]

end Sys2Proof.Machine
end

section
/-! The task-level action, word by word (R32, R33, R38, R51, R161, R162, R242, R330, R340, R397). -/

namespace Sys2Proof.Machine

open Sys2Proof Sys2Proof.Spec

/-- Settles O37: with the four copies there the action is the word's own, but for a pre-emption or a save that has begun; each word's effect is its lemma's. -/
theorem taskLevelActs : Obligations.TaskLevelActs := by
  unfold Obligations.TaskLevelActs
  intro s core tk k asked saving task plain clock acts
  have whole {n : Nat} (ready : CopiesReady k n) (hn : n ≠ 0) := State.taskAction_ready task clock ready hn
  have stays {n : Nat} (ready : CopiesReady k n) : s.staysThere core.toNat = (asked && decide (3 ≤ n) && decide (n ≤ 5) || saving) :=
    State.staysThere_task task (ready.copies .A)
  have runs {n : Nat} (ready : CopiesReady k n) (hn : n ≠ 0) (saved : saving = false) (free : asked = false ∨ n < 3) {i : Instr} (waits : k.a.wait = some i) :
      exec (.taskLevelAction core) s = .next (s.copyAct core.toNat i) := by
    obtain ⟨j, waitsJ, -, acts⟩ := whole ready hn
    obtain rfl : j = i := Option.some.inj (waitsJ.symm.trans waits)
    have here : s.staysThere core.toNat = false := by
      rw [stays ready, saved, Bool.or_false]
      rcases free with h | h
      · rw [h]; rfl
      · rw [decide_eq_false (by omega), Bool.and_false, Bool.false_and]
    exact congrArg Host.Outcome.next (acts.trans (if_neg (by rw [here]; exact Bool.false_ne_true)))
  refine ⟨fun n ready held => ?held, fun ready outside saved => ?tend, fun ready saved => ?yield, fun h a b cc ready free saved waits slot aligned inside owned => ?waita,
    fun h d a lv num ready free saved waits slot allowed => ?bwait, fun h d a b ready free saved waits slot size => ?rprobe,
    fun all differ untrapped running outside busy unheld fresh empty => ?disagree⟩
  case held =>
    obtain ⟨i, -, -, acts⟩ := whole ready (by omega)
    refine congrArg Host.Outcome.next (acts.trans (if_pos ?_))
    rw [stays ready]
    rcases held with ⟨-, -, saves⟩ | ⟨low, high, asks⟩
    · rw [saves, Bool.or_true]
    · rw [asks, decide_eq_true low, decide_eq_true high]
      rfl
  case tend =>
    obtain ⟨i, waits, kind⟩ := Cl.copyAt_wait (x := k.a) (ready.copies .A) (by decide)
    obtain ⟨g, rfl⟩ := copyKind_tend kind
    exact ⟨_, runs ready (by decide) saved (.inr (by decide)) waits, State.endTask_ends task plain outside⟩
  case yield =>
    obtain ⟨i, waits, kind⟩ := Cl.copyAt_wait (x := k.a) (ready.copies .A) (by decide)
    obtain ⟨g, rfl⟩ := copyKind_yield kind
    exact ⟨_, runs ready (by decide) saved (.inr (by decide)) waits, State.yieldAct_goes task plain ready.idle.2⟩
  case waita =>
    intro word
    have act := (runs ready (by decide) saved (.inl free) waits).trans (congrArg Host.Outcome.next (State.waita_acts (h := h) task plain slot aligned inside owned))
    refine ⟨fun holds => ?_, fun fails room push => ?_⟩
    · obtain ⟨keeps, moved, -, only⟩ := State.goOn_goes task ready.idle.2 0 none
      exact ⟨_, act.trans (congrArg Host.Outcome.next (if_pos holds)), keeps, moved, only⟩
    · exact ⟨_, act.trans (congrArg Host.Outcome.next (if_neg (ne_of_eq_of_ne fails Bool.false_ne_true))), State.beginSave_setAside task ready.idle.2 room push _⟩
  case bwait =>
    intro b gone
    have act := (runs ready (by decide) saved (.inl free) waits).trans (congrArg Host.Outcome.next (State.bwait_acts (h := h) (d := d) task plain slot allowed))
    have answers := b.answers_iff ((k.a.reg a).toNat % 2 ^ 16)
    refine ⟨fun gives => ?_, fun busy late room push => ?_⟩
    · rw [if_pos gives] at answers
      rw [answers] at act
      exact ⟨_, act, State.goOn_acquire_goes task ready.idle.2 d _ _⟩
    · rw [if_neg (by rintro (h | ⟨h, h'⟩); exacts [busy h, by omega])] at answers
      rw [answers] at act
      exact ⟨_, act, State.beginSave_setAside task ready.idle.2 room push _⟩
  case rprobe =>
    intro base n pages
    exact ⟨_, runs ready (by decide) saved (.inl free) waits, State.rprobe_acts task plain ready.idle.2 slot size pages⟩
  case disagree =>
    exact ⟨_, congrArg Host.Outcome.next (State.taskAction_disagrees task clock all differ untrapped running unheld),
      fun c => State.disagree_marks (by rw [show (s.core core.toNat).task = some tk from task]; rfl) outside busy fresh empty c⟩

end Sys2Proof.Machine
end

section
/-! The host's context commands (R287, R289, R305, R330). -/

namespace Sys2Proof.Machine

open Sys2Proof Sys2Proof.Spec

theorem State.core_mapCores {f : Core → Core} (reset : f Core.reset = Core.reset) (s : State) (k : Nat) :
    sget Core.reset (s.cores.map fun (e : Nat × Core) => (e.1, f e.2)) k = f (s.core k) := sget_map reset s.cores k

theorem State.ctx_congr {s t : State} (h : t.ctxs = s.ctxs) (n : Nat) : t.ctx n = s.ctx n := congrArg (sget Ctx.reset · n) h

theorem State.upCtx_rest (s : State) (n : Nat) (f : Ctx → Ctx) : { s.upCtx n f with ctxs := s.ctxs } = s := rfl

theorem State.ctx_upCtx_ne (s : State) {n m : Nat} (h : m ≠ n) (f : Ctx → Ctx) : (s.upCtx n f).ctx m = s.ctx m := by rw [State.ctx_upCtx, if_neg h]

/-- An ignored command leaves a record (R289). -/
theorem State.ctxIgnored_recorded (s : State) (n op : Nat) : Recorded 6 s (s.ctxIgnored n op) := ⟨_, rfl, rfl, rfl⟩

/-- CTXCMD as it was written (R287). -/
theorem State.ctxWrite_op (s : State) {op : Nat} (small : op < 4) (n : CtxId) (daddr : BitVec 52) :
    bits (s.ctxWrite op n.toNat daddr.toNat).ctxcmd.toNat 5 0 = n.toNat ∧ bits (s.ctxWrite op n.toNat daddr.toNat).ctxcmd.toNat 7 6 = op ∧
      bits (s.ctxWrite op n.toNat daddr.toNat).ctxcmd.toNat 51 8 = daddr.toNat / 256 := by
  have hn := n.isLt
  have ha := daddr.isLt
  have word : (s.ctxWrite op n.toNat daddr.toNat).ctxcmd.toNat = n.toNat + 64 * op + 256 * (daddr.toNat / 256) := by
    show (BitVec.ofNat 64 (pack [(6, n.toNat), (2, op), (44, daddr.toNat / 256)])).toNat = _
    simp only [pack, BitVec.toNat_ofNat]
    omega
  rw [word]
  unfold bits
  omega

/-- A pre-emption is asked of a core (R51). -/
def Core.ask (c : Core) (n : Nat) : Core := { c with preempt := c.preempt ||| BitVec.ofNat 64 (2 ^ n) }

theorem Core.ask_ask (c : Core) (n : Nat) : (c.ask n).ask n = c.ask n := by
  unfold Core.ask
  simp [BitVec.or_assoc]

theorem State.foldl_upCore_rest (f : Core → Core) (l : List Nat) (s : State) : { l.foldl (fun s k => s.upCore k f) s with cores := s.cores } = s := by
  have list (u : State) (h : { u with cores := s.cores } = s) : { l.foldl (fun s k => s.upCore k f) u with cores := s.cores } = s := by
    induction l generalizing u with
    | nil => exact h
    | cons k r ih => exact ih _ h
  exact list s rfl

/-- Cores changed one after another by an update that made twice is made once. -/
theorem State.foldl_upCore_core {f : Core → Core} (once : ∀ c, f (f c) = f c) (l : List Nat) (s : State) (j : Nat) :
    (l.foldl (fun s k => s.upCore k f) s).core j = if j ∈ l then f (s.core j) else s.core j := by
  induction l generalizing s with
  | nil => rfl
  | cons k r ih =>
    rw [List.foldl_cons, ih]
    by_cases here : j = k
    · subst here
      rw [State.core_upCore_self, once, if_pos List.mem_cons_self, ite_self]
    · rw [State.core_upCore_ne s here]
      exact if_congr (by simp [here]) rfl rfl

/-- CTX_PREEMPT of a context that can be pre-empted: the request stands on every core of CORES (R51, R289). -/
theorem State.preemptCtx_asks (s : State) (n : Nat) :
    let t := s.preemptCtx n
    (t.ctx n).st = .preempting ∧ (∀ m, m ≠ n → t.ctx m = s.ctx m) ∧
      (∀ k ∈ (s.ctx n).coreList, t.core k = (s.core k).ask n) ∧ (∀ k, k ∉ (s.ctx n).coreList → t.core k = s.core k) ∧ { t with ctxs := s.ctxs, cores := s.cores } = s := by
  have rest := State.foldl_upCore_rest (fun c => c.ask n) (s.ctx n).coreList s
  have core := State.foldl_upCore_core (f := fun c => c.ask n) (fun c => c.ask_ask n) (s.ctx n).coreList s
  have asks : s.preemptCtx n = ((s.ctx n).coreList.foldl (fun s k => s.upCore k fun c => c.ask n) s).upCtx n fun x => { x with st := .preempting, saving := false } := rfl
  rw [asks]
  generalize (s.ctx n).coreList.foldl (fun s k => s.upCore k fun c => c.ask n) s = u at rest core
  dsimp only
  have ctxs : u.ctxs = s.ctxs := (congrArg State.ctxs rest : _)
  refine ⟨by rw [State.ctx_upCtx_self], fun m hm => ?_, fun k hk => (core k).trans (if_pos hk), fun k hk => (core k).trans (if_neg hk),
    (congrArg (fun z : State => { z with ctxs := s.ctxs }) rest : _)⟩
  rw [State.ctx_upCtx_ne u hm, State.ctx_congr ctxs]

/-! CTX_SEAL (R305, R310, R315, R330). -/

theorem Core.stopClusters_task (k : Core) : k.stopClusters.task = none := rfl

theorem Core.dropCtx_task (k : Core) (n : Nat) : ∀ t, (k.dropCtx n).task = some t → t.ctx.toNat ≠ n := by
  intro t task mine
  unfold Core.dropCtx at task
  dsimp only at task
  split at task
  · exact absurd (task.symm.trans (Core.stopClusters_task k)) nofun
  · next none =>
    refine none ?_
    have worker : k.worker = some t := by
      unfold Core.worker
      rw [task]
    rw [worker]
    exact beq_iff_eq.2 mine

theorem Core.dropCtx_conts (k : Core) (n : Nat) : ∀ e ∈ (k.dropCtx n).conts, e.task.ctx.toNat ≠ n := by
  intro e he
  exact bne_iff_ne.1 (List.mem_filter.1 he).2

theorem Core.abortEngines_cp (k : Core) (n : Nat) : ∀ c ∈ (k.abortEngines n).cp, c.ctx.toNat = n → c.aborted = true := by
  intro c hc mine
  obtain ⟨d, -, rfl⟩ := List.mem_map.1 hc
  split at mine
  · next h => rw [if_pos h]
  · next h => exact absurd (beq_iff_eq.2 mine) h

/-- The groups of a sealed context's launch (R330). -/
def Launch.gone (l : Launch) : Launch := { l with
  dropped := true
  groups := l.groups.map fun g => match g.st with
    | .placed | .running | .draining => { g with st := .faulted, unqueued := [] }
    | _ => g }

theorem State.sealStart_eq (s : State) (n : Nat) : s.sealStart n = (({ s with
    cores := s.cores.map fun (e : Nat × Core) => (e.1, (e.2.dropCtx n).abortEngines n)
    launches := s.launches.map fun (l : Launch) => if l.ctx.toNat == n then l.gone else l
    recs := seraseRange s.recs (recKeyOf n 0) (recKeyOf (n + 1) 0) } : State).queuesGone n).upCtx n fun x =>
      { x with st := .sealing, saving := false, restoring := false, launchCnt := 0 } := rfl

theorem sget_seraseRange_mem {α : Type} (d : α) (m : Sparse α) {lo hi k : Nat} (h : lo ≤ k ∧ k < hi) : sget d (seraseRange m lo hi) k = d := by
  induction m with
  | nil => rfl
  | cons e r ih =>
    unfold seraseRange at ih ⊢
    rw [List.filter_cons]
    split
    · next kept =>
      obtain ⟨j, v⟩ := e
      have other : k ≠ j := by
        rintro rfl
        simp [h] at kept
      simp only [sget, if_neg other]
      exact ih
    · exact ih

/-- The records of a context are blank once they have been cleared (R305). -/
theorem record_blank (m : Sparse Rec) (n r : Nat) (h : r < 65536) : (sget Rec.reset (seraseRange m (recKeyOf n 0) (recKeyOf (n + 1) 0)) (recKeyOf n r)).st = .blank := by
  rw [sget_seraseRange_mem Rec.reset m (by unfold recKeyOf; omega)]
  rfl

theorem Queue.ctxGone_st {q : Queue} (on : q.st ≠ .disabled) (runs : q.st ≠ .draining) : q.ctxGone.st = .error ∧ q.ctxGone.err = 6 := by
  unfold Queue.ctxGone
  split
  · next h => exact absurd h on
  · next h => exact absurd h runs
  · exact ⟨rfl, rfl⟩

theorem State.queue_queuesGone (s : State) (n q : Nat) : (s.queuesGone n).queue q = if (s.queue q).ctx = n then (s.queue q).ctxGone else s.queue q := by
  have map : (s.queuesGone n).queues = s.queues.map fun e => (e.1, if e.2.ctx == n then e.2.ctxGone else e.2) := by
    refine List.map_congr_left fun e _ => ?_
    split <;> rfl
  unfold State.queue
  rw [map, sget_map (g := fun q : Queue => if q.ctx == n then q.ctxGone else q) (d := Queue.reset) (by simp [Queue.ctxGone, Queue.reset])]
  exact if_congr beq_iff_eq rfl rfl

/-- The groups of a sealed context that are PLACED, RUNNING or DRAINING are FAULTED, and no other changes (R330). -/
theorem Launch.gone_groups (l : Launch) : l.gone.groups.map (·.st) = l.groups.map fun g => if g.st = .placed ∨ g.st = .running ∨ g.st = .draining then .faulted else g.st := by
  unfold Launch.gone
  rw [List.map_map]
  refine List.map_congr_left fun g _ => ?_
  show (match g.st with | .placed | .running | .draining => { g with st := GrpSt.faulted, unqueued := [] } | _ => g).st = _
  cases st : g.st <;> simp [st]

/-- A seal that begins (R305, R310, R315, R330). -/
theorem State.sealStart_seals (s : State) (ctx : CtxId) :
    let n := ctx.toNat
    let t := s.sealStart n
    (t.ctx n).st = .sealing ∧ t.mem = s.mem ∧
      (∀ k tk, (t.core k).task = some tk → tk.ctx ≠ ctx) ∧ (∀ k, ∀ e ∈ (t.core k).conts, e.task.ctx ≠ ctx) ∧ (∀ k, ∀ c ∈ (t.core k).cp, c.ctx = ctx → c.aborted = true) ∧
      (∀ r, r < 65536 → (t.record n r).st = .blank) ∧
      (∀ q, (s.queue q).ctx = n → (s.queue q).st ≠ .disabled → (s.queue q).st ≠ .draining → (t.queue q).st = .error ∧ (t.queue q).err = 6) ∧
      t.launches.map (fun l => l.groups.map (·.st)) = s.launches.map (fun l => l.groups.map fun g =>
        if l.ctx = ctx ∧ (g.st = .placed ∨ g.st = .running ∨ g.st = .draining) then .faulted else g.st) := by
  intro n t
  have core (k : Nat) : t.core k = ((s.core k).dropCtx n).abortEngines n :=
    State.core_mapCores (f := fun c => (c.dropCtx n).abortEngines n) (by simp [Core.dropCtx, Core.abortEngines, Core.reset, Core.worker]) s k
  have number (c : CtxId) : c.toNat = n ↔ c = ctx := ⟨fun h => BitVec.eq_of_toNat_eq h, fun h => congrArg _ h⟩
  refine ⟨by rw [show t = _ from s.sealStart_eq n, State.ctx_upCtx_self], rfl, fun k tk task => ?_, fun k e he => ?_, fun k c hc mine => ?_, fun r hr => record_blank s.recs n r hr,
    fun q own on runs => ?_, ?_⟩
  · rw [core] at task
    exact fun h => (s.core k).dropCtx_task n tk task ((number _).2 h)
  · rw [core] at he
    exact fun h => (s.core k).dropCtx_conts n e he ((number _).2 h)
  · rw [core] at hc
    exact ((s.core k).dropCtx n).abortEngines_cp n c hc ((number _).2 mine)
  · have gone : t.queue q = (s.queue q).ctxGone := (State.queue_queuesGone _ n q).trans (if_pos own)
    rw [gone]
    exact Queue.ctxGone_st on runs
  · show (s.launches.map fun (l : Launch) => if l.ctx.toNat == n then l.gone else l).map _ = _
    rw [List.map_map]
    refine List.map_congr_left fun l _ => ?_
    by_cases mine : l.ctx = ctx
    · have same : (l.ctx.toNat == n) = true := beq_iff_eq.2 ((number _).2 mine)
      refine (congrArg (fun l : Launch => l.groups.map (·.st)) (if_pos same)).trans (l.gone_groups.trans ?_)
      simp only [mine, true_and]
    · have other : (l.ctx.toNat == n) = false := by simpa using fun h => mine ((number _).1 h)
      simp only [Function.comp, other, mine, Bool.false_eq_true, if_false, false_and]

/-- CTX_PREEMPT acts by the state it finds (R289; log 59). -/
theorem ctxPreempt_acts (s : State) (ctx : CtxId) :
    let p := s.ctxWrite 1 ctx.toNat 0
    exec (.ctxPreempt ctx) s = .next (match (s.ctx ctx.toNat).st with
      | .resident | .running => p.preemptCtx ctx.toNat
      | .preempting | .saved => p
      | _ => p.ctxIgnored ctx.toNat 1) := by
  show execCtxPreempt ctx s = _
  have st : ((s.ctxWrite 1 ctx.toNat 0).ctx ctx.toNat).st = (s.ctx ctx.toNat).st := rfl
  unfold execCtxPreempt
  dsimp only
  rw [st] <;> cases (s.ctx ctx.toNat).st <;> rfl

/-- CTX_SEAL acts by the state it finds (R289, R305). -/
theorem ctxSeal_acts (s : State) (ctx : CtxId) :
    let p := s.ctxWrite 3 ctx.toNat 0
    exec (.ctxSeal ctx) s = .next (match (s.ctx ctx.toNat).st with
      | .free | .sealing => p.ctxIgnored ctx.toNat 3
      | _ => p.sealStart ctx.toNat) := by
  show execCtxSeal ctx s = _
  have st : ((s.ctxWrite 3 ctx.toNat 0).ctx ctx.toNat).st = (s.ctx ctx.toNat).st := rfl
  unfold execCtxSeal
  dsimp only
  rw [st] <;> cases (s.ctx ctx.toNat).st <;> rfl

/-- Every context command acts or is ignored as R289's table says. -/
theorem contextCommands : Spec.ContextCommands := by
  intro s ctx daddr n x load preempt restore sealing
  have zero (op : Nat) : s.ctxWrite op n 0 = s.ctxWrite op ctx.toNat (0 : BitVec 52).toNat := rfl
  refine ⟨⟨s.ctxWrite_op (by decide) ctx daddr, ?_, ?_, ?_⟩, fun free still => ?_, fun held => ?_, fun on => ?_, fun done => ?_, fun out => ?_, fun saved => ?_, fun out => ?_,
    fun out => ?_, fun live calm => ?_⟩
  · exact (s.ctxWrite_op (by decide) ctx 0).2.1
  · exact (s.ctxWrite_op (by decide) ctx 0).2.1
  · exact (s.ctxWrite_op (by decide) ctx 0).2.1
  · have go : ((load.ctx n).st == .free && load.turn.isNone) = true := by
      rw [show (load.ctx n).st = .free from free, show load.turn = none from still]
      rfl
    exact ⟨_, congrArg Host.Outcome.next (if_pos go), by rw [State.ctx_upCtx_self], fun m hm => State.ctx_upCtx_ne load hm _, load.upCtx_rest n _⟩
  · have no : ((load.ctx n).st == .free && load.turn.isNone) = false := by
      rw [show load.turn = s.turn from rfl, show load.ctx n = x from rfl]
      rcases held with h | h
      · rw [beq_eq_false_iff_ne.2 h, Bool.false_and]
      · rw [Option.isNone_eq_false_iff.2 (Option.isSome_iff_ne_none.2 h), Bool.and_false]
    exact ⟨_, congrArg Host.Outcome.next (if_neg (by rw [no]; exact Bool.false_ne_true)), State.ctxIgnored_recorded _ _ _⟩
  · have acts := ctxPreempt_acts s ctx
    refine ⟨_, acts.trans (congrArg Host.Outcome.next (a₂ := preempt.preemptCtx n) ?_), preempt.preemptCtx_asks n⟩
    rcases on with h | h <;> rw [show (s.ctx ctx.toNat).st = _ from h]
  · refine (ctxPreempt_acts s ctx).trans (congrArg Host.Outcome.next ?_)
    rcases done with h | h <;> rw [show (s.ctx ctx.toNat).st = _ from h]
  · refine ⟨_, (ctxPreempt_acts s ctx).trans (congrArg Host.Outcome.next (a₂ := preempt.ctxIgnored n 1) ?_), State.ctxIgnored_recorded _ _ _⟩
    rcases out with h | h | h | h <;> rw [show (s.ctx ctx.toNat).st = _ from h]
  · refine ⟨_, congrArg Host.Outcome.next (if_pos (beq_iff_eq.2 saved)), ?_, ?_, restore.upCtx_rest n _⟩
    · rw [State.ctx_upCtx_self]
    · rw [State.ctx_upCtx_self]
      exact saved
  · exact ⟨_, congrArg Host.Outcome.next (if_neg fun h => out (beq_iff_eq.1 h)), State.ctxIgnored_recorded _ _ _⟩
  · refine ⟨_, (ctxSeal_acts s ctx).trans (congrArg Host.Outcome.next (a₂ := sealing.ctxIgnored n 3) ?_), State.ctxIgnored_recorded _ _ _⟩
    rcases out with h | h <;> rw [show (s.ctx ctx.toNat).st = _ from h]
  · refine ⟨_, (ctxSeal_acts s ctx).trans (congrArg Host.Outcome.next (a₂ := sealing.sealStart n) ?_), sealing.sealStart_seals ctx⟩
    split
    · next h => exact absurd h live
    · next h => exact absurd h calm
    · rfl

end Sys2Proof.Machine
end

section
/-! The end of a load (R259, R288, R289, R301). -/

namespace Sys2Proof.Machine

open Sys2Proof Sys2Proof.Spec

theorem sget_map_keyed {α : Type} {d : α} {g : Nat → α → α} (hg : ∀ k, g k d = d) (m : Sparse α) (k : Nat) :
    sget d (m.map fun p => (p.1, g p.1 p.2)) k = g k (sget d m k) := by
  induction m with
  | nil => exact (hg k).symm
  | cons p r ih =>
    obtain ⟨j, v⟩ := p
    simp only [List.map_cons, sget, ih]
    split
    · next h => rw [h]
    · rfl

/-- A core's numbers of a context begin afresh (R259). -/
def Core.freshSeqs (k : Core) (n : Nat) : Core :=
  let k := if k.seqCtx == some n then { k with seqCtx := none } else k
  { k with seqs := serase k.seqs n }

/-- A core that has no numbers of a context takes it up from the first command and fill (R259). -/
theorem Core.useSeqs_fresh {k : Core} {n : Nat} (other : k.seqCtx ≠ some n) (blank : sget SeqSt.reset k.seqs n = SeqSt.reset) :
    (k.useSeqs n).cpNext = 1 ∧ (k.useSeqs n).seqCp = 0 ∧ (k.useSeqs n).wsNext = 1 ∧ (k.useSeqs n).seqWs = 0 := by
  unfold Core.useSeqs
  rw [if_neg (by simpa using other)]
  rcases held : k.seqCtx with _ | m
  · simp only [blank]
    exact ⟨rfl, rfl, rfl, rfl⟩
  · have apart : n ≠ m := fun e => other (by rw [held, e])
    simp only [sget_sset, if_neg apart, blank]
    exact ⟨rfl, rfl, rfl, rfl⟩

theorem Core.freshSeqs_fresh (k : Core) (n : Nat) : (k.freshSeqs n).seqCtx ≠ some n ∧ sget SeqSt.reset (k.freshSeqs n).seqs n = SeqSt.reset := by
  unfold Core.freshSeqs
  refine ⟨?_, (sget_serase _ _ _ _).trans (if_pos rfl)⟩
  split
  · exact nofun
  · next h => simpa using h

/-- The cores of a context that is loaded: those of CORES have their numbers of it afresh (R259). -/
def State.freshCores (s : State) (n : Nat) : Sparse Core := s.cores.map fun e => (e.1, if (s.ctx n).coreList.contains e.1 then e.2.freshSeqs n else e.2)

/-- A context as a load leaves it (R289). -/
def State.loadCtx (s : State) (n : Nat) (d : Desc) : State := s.upCtx n fun x =>
  { x with st := .resident, lerr := 0, cause := 0, desc := d, fqHead := 0, fqTail := 0, frHead := 0, frTail := 0, tinvs := [], leaves := [], saved := [], savedQuads := [] }

theorem State.loadOk_eq (s : State) (n : Nat) (d : Desc) :
    let t := s.loadCtx n d
    let u : State := { t with cores := t.freshCores n }
    let x := t.ctx n
    s.loadOk n d = if x.gen == 0 then (u.dropRtb (fun r => r.asid == x.asid) fun _ => true).dropWalks fun a _ => a == x.asid else u := by
  have cores (t : State) : (t.cores.map fun (e : Nat × Core) => if (t.ctx n).coreList.contains e.1 then (e.1, e.2.freshSeqs n) else e) = t.freshCores n := by
    refine congrArg (t.cores.map ·) (funext fun e => ?_)
    rcases e with ⟨k, c⟩
    dsimp only
    split <;> rfl
  dsimp only
  rw [← cores (s.loadCtx n d)]
  rfl

theorem State.freshCores_core (s : State) (n k : Nat) (hk : k ∈ (s.ctx n).coreList) : sget Core.reset (s.freshCores n) k = (s.core k).freshSeqs n := by
  have reset : Core.reset.freshSeqs n = Core.reset := rfl
  unfold State.freshCores
  rw [sget_map_keyed (d := Core.reset) (g := fun j c => if (s.ctx n).coreList.contains j then c.freshSeqs n else c) (fun j => by rw [reset, ite_self])]
  exact if_pos (List.contains_iff_mem.2 hk)

/-- Entries leave a core's RTB (R350). -/
def Core.dropRtb (p : RtbEnt → Bool) (c : Core) : Core := { c with rtb := c.rtb.filter fun x => !p x }

theorem State.core_dropRtb (s : State) (p : RtbEnt → Bool) (k : Nat) : (s.dropRtb p fun _ => true).core k = (s.core k).dropRtb p :=
  sget_map (d := Core.reset) (g := Core.dropRtb p) rfl s.cores k

theorem State.loadOk_ctxs (s : State) (n : Nat) (d : Desc) : (s.loadOk n d).ctxs = (s.loadCtx n d).ctxs := by
  have eq := s.loadOk_eq n d
  dsimp only at eq
  split at eq <;> exact (congrArg State.ctxs eq : _)

/-- A load leaves a core's numbers of its context afresh, and drops entries of its RTB at most (R259, R350). -/
theorem State.loadOk_fresh (s : State) (n : Nat) (d : Desc) :
    let t := s.loadOk n d
    ∀ k ∈ (t.ctx n).coreList, ((t.core k).useSeqs n).cpNext = 1 ∧ ((t.core k).useSeqs n).seqCp = 0 ∧ ((t.core k).useSeqs n).wsNext = 1 ∧ ((t.core k).useSeqs n).seqWs = 0 := by
  intro t k hk
  have eq : t = _ := s.loadOk_eq n d
  have here : k ∈ ((s.loadCtx n d).ctx n).coreList := by
    rw [← State.ctx_congr (s.loadOk_ctxs n d) n]
    exact hk
  have fresh := ((s.loadCtx n d).core k).freshSeqs_fresh n
  split at eq
  · have cores : t.core k = (((s.loadCtx n d).core k).freshSeqs n).dropRtb _ :=
      (congrArg (State.core · k) eq).trans ((State.core_dropRtb _ _ k).trans (congrArg (Core.dropRtb _) (State.freshCores_core _ n k here)))
    rw [cores]
    exact Core.useSeqs_fresh fresh.1 fresh.2
  · have cores : t.core k = ((s.loadCtx n d).core k).freshSeqs n := (congrArg (State.core · k) eq).trans (State.freshCores_core _ n k here)
    rw [cores]
    exact Core.useSeqs_fresh fresh.1 fresh.2

theorem State.loadOk_ctx (s : State) (n : Nat) (d : Desc) :
    let t := s.loadOk n d
    (t.ctx n).st = .resident ∧ (t.ctx n).desc = d ∧ (t.ctx n).lerr = 0 ∧ (t.ctx n).cause = 0 ∧
      (t.ctx n).fqHead = 0 ∧ (t.ctx n).fqTail = 0 ∧ (t.ctx n).frHead = 0 ∧ (t.ctx n).frTail = 0 ∧ (t.ctx n).saved = [] ∧ ∀ m, m ≠ n → t.ctx m = s.ctx m := by
  intro t
  have ctx (m : Nat) : t.ctx m = (s.loadCtx n d).ctx m := State.ctx_congr (s.loadOk_ctxs n d) m
  rw [ctx n, show (s.loadCtx n d).ctx n = _ from State.ctx_upCtx_self _ _ _]
  exact ⟨rfl, rfl, rfl, rfl, rfl, rfl, rfl, rfl, rfl, fun m hm => (ctx m).trans (State.ctx_upCtx_ne s hm _)⟩

theorem State.contextLoad_checked {s : State} {n : Nat} (loading : (s.ctx n).st = .loading) (load : (s.ctx n).restoring = false) :
    let r := s.devRead (s.ctx n).daddr.toNat 256
    let d := Desc.ofImage (ofBytes r.2.1)
    let code := r.1.loadError n d (ofBytes r.2.1) r.2.2
    s.contextLoad n = if code = 0 then r.1.loadOk n d else r.1.upCtx n fun x => { x with st := .free, lerr := .ofNat 8 code } := by
  intro r d code
  unfold State.contextLoad
  dsimp only
  rw [loading, load, if_neg (by decide)]
  split
  · next h => rw [if_pos h]
  · next h => rw [if_neg h]

/-- The end of a load: the descriptor's checks decide (R288, R289). -/
theorem contextLoads : Spec.ContextLoads := by
  intro s ctx n x r d code loading load small
  have work : HomeWork s r.1 := (HomeWork.refl s).devReadAs none _ _
  have acts : exec (.contextLoadDone ctx) s = .next (if code = 0 then r.1.loadOk n d else r.1.upCtx n fun x => { x with st := .free, lerr := .ofNat 8 code }) :=
    congrArg Host.Outcome.next (State.contextLoad_checked loading load)
  have ctxs (m : Nat) : r.1.ctx m = s.ctx m := State.ctx_congr work.ctxs m
  refine ⟨fun good => ?_, fun bad => ?_⟩
  · rw [if_pos good] at acts
    obtain ⟨st, desc, lerr, cause, fq, ft, fr, frt, saved, others⟩ := r.1.loadOk_ctx n d
    exact ⟨_, acts, st, desc, lerr, cause, fq, ft, fr, frt, saved, fun m hm => (others m hm).trans (ctxs m), r.1.loadOk_fresh n d⟩
  · rw [if_neg bad] at acts
    refine ⟨_, acts, ?_, ?_, work.cores, fun m hm => (State.ctx_upCtx_ne _ hm _).trans (ctxs m)⟩
    · rw [State.ctx_upCtx_self]
    · rw [State.ctx_upCtx_self]
      exact (BitVec.toNat_ofNat _ _).trans (Nat.mod_eq_of_lt small)

end Sys2Proof.Machine
end

section
/-! The start of a save (R41, R52, R291). -/

namespace Sys2Proof.Machine

open Sys2Proof Sys2Proof.Spec

/-! Cores changed one after another. -/

theorem State.foldl_core_ne {g : State → Nat → State} (apart : ∀ s k j, j ≠ k → (g s k).core j = s.core j) {l : List Nat} {j : Nat} (hj : j ∉ l) (s : State) :
    (l.foldl g s).core j = s.core j :=
  List.foldlRecOn (motive := fun t : State => t.core j = s.core j) l g rfl fun t ht k hk => (apart t k j (ne_of_mem_of_not_mem hk hj).symm).trans ht

/-- A core's turn in a list of distinct cores: it finds the core as it was, and the turns after it leave the core alone. -/
theorem State.foldl_own {g : State → Nat → State} (apart : ∀ s k j, j ≠ k → (g s k).core j = s.core j) {l : List Nat} (distinct : l.Nodup) {k : Nat} (hk : k ∈ l) (s : State) :
    ∃ before after : List Nat, l.foldl g s = after.foldl g (g (before.foldl g s) k) ∧ (before.foldl g s).core k = s.core k ∧
      (l.foldl g s).core k = (g (before.foldl g s) k).core k := by
  obtain ⟨before, after, rfl⟩ := List.append_of_mem hk
  have once := (List.nodup_middle.1 distinct).notMem
  have fold : (before ++ k :: after).foldl g s = after.foldl g (g (before.foldl g s) k) := by rw [List.foldl_append, List.foldl_cons]
  refine ⟨before, after, fold, State.foldl_core_ne apart (fun h => once (List.mem_append_left _ h)) s, ?_⟩
  rw [fold]
  exact State.foldl_core_ne apart (fun h => once (List.mem_append_right _ h)) _

theorem Ctx.coreList_nodup (x : Ctx) : x.coreList.Nodup := List.nodup_range.filter _

theorem State.coresOf_nodup (s : State) (n : Nat) : (s.coresOf n).Nodup := (Ctx.coreList_nodup _).filter _

/-! A version commits. -/

namespace CacheWork

variable {k : Nat} {s t : State}

theorem allHome (h : CacheWork k s t) (l : Nat) : CacheWork k s (t.allHome l) := h.home ((HomeWork.refl t).othersFlush _ _ _ _)

theorem lineHome (h : CacheWork k s t) (l : Nat) : CacheWork k s (t.lineHome k l) := (h.evictL1 l).allHome l

theorem lineHomes (h : CacheWork k s t) (l : List Nat) : CacheWork k s (l.foldl (fun s l => s.lineHome k l) t) :=
  List.foldlRecOn (motive := CacheWork k s) l _ h fun _ g l _ => g.lineHome l

theorem homeWrite (h : CacheWork k s t) (acc : Acc) (o : Nat) (bs : List (Option Byte)) : CacheWork k s (t.homeWrite acc o bs) :=
  h.home ((HomeWork.refl t).homeWrite acc o bs)

theorem redDropped (h : CacheWork k s t) (hd : BitVec 128) (kd : BitVec 8) (o : Nat) : CacheWork k s (t.redDropped k hd kd o) :=
  h.home ((HomeWork.refl t).logError _ _ _ _ _ _)

theorem atomHome (h : CacheWork k s t) (hd : BitVec 128) (kd : BitVec 8) (o : Nat) (m : AtomLit) (v c : Word) : CacheWork k s (t.atomHome k hd kd o m v c).1 := by
  have read (acc : Acc) (n : Nat) : CacheWork k s ((t.lineHome k (lineOf (byteKey (hFrame hd) o))).homeRead acc o n).1 := (h.lineHome _).home ((HomeWork.refl _).homeRead acc o n)
  unfold State.atomHome
  dsimp only
  split
  · exact read _ _
  · exact (read _ _).home ((HomeWork.refl _).entryAt _ _ _)

/-- A version's updates go home (R41). -/
theorem commitVersion (s : State) (k : Nat) (kd : BitVec 8) : CacheWork k (s.upCore k fun c => { c with version := [] }) (s.commitVersion k kd) := by
  unfold State.commitVersion
  refine release ?_ 3
  refine List.foldlRecOn (motive := fun t => CacheWork k (s.upCore k fun c => { c with version := [] }) t) _ _ (refl k _) fun t h e _ => ?_
  dsimp only
  split
  · exact (h.lineHomes _).homeWrite _ _ _
  · have at_ := fun hd kd o m w c => h.atomHome hd kd o m w c
    split
    · exact (at_ _ _ _ _ _ _).redDropped _ _ _
    · exact at_ _ _ _ _ _ _

end CacheWork

theorem State.commit_apart (s : State) (k j : Nat) (hj : j ≠ k) : (s.commit k).core j = s.core j := by
  unfold State.commit
  split
  · split
    · exact ((CacheWork.commitVersion s k _).others j hj).trans (State.core_upCore_ne s hj _)
    · rfl
  · rfl

theorem State.commit_ctxs (s : State) (k : Nat) : (s.commit k).ctxs = s.ctxs := by
  unfold State.commit
  split
  · split
    · exact (CacheWork.commitVersion s k _).ctxs
    · rfl
  · rfl

theorem State.commit_cl (s : State) (k : Nat) (c : Cluster) : ((s.commit k).core k).cl c = (s.core k).cl c := by
  unfold State.commit
  split
  · split
    · refine ((CacheWork.commitVersion s k _).cl c).trans ?_
      rw [State.core_upCore_self]
      cases c <;> rfl
    · rfl
  · rfl

theorem State.commit_version {s : State} {k : Nat} {tk : Task} (task : (s.core k).task = some tk) (ver : tk.ver = true) : ((s.commit k).core k).version = [] := by
  unfold State.commit
  rw [task]
  dsimp only
  rw [if_pos ver]
  refine (congrArg Core.version (CacheWork.commitVersion s k _).core : _).trans ?_
  rw [State.core_upCore_self]

/-! Results in flight reach their registers. -/

theorem Core.hasRoom_zero (k : Core) (c : Cluster) : k.hasRoom c 0 = true := by
  unfold Core.hasRoom
  simp

theorem Core.writeDue_room {c : Cluster} {l : List InFlight} (free : ∀ f ∈ l, f.need = 0) (k : Core) : (Core.writeDue c l k).2 = [] := by
  induction l generalizing k with
  | nil => rfl
  | cons f r ih =>
    unfold Core.writeDue
    rw [free f List.mem_cons_self, if_pos (k.hasRoom_zero c)]
    exact ih (fun g hg => free g (List.mem_cons_of_mem _ hg)) _

theorem Core.commitCl_ne (k : Core) (c : Cluster) {d : Cluster} (h : d ≠ c) : ((k.commitCl c).cl d).flight = (k.cl d).flight := by
  have due (l m : List InFlight) : ((Core.writeDue c l (k.upCl c fun x => { x with flight := m })).1.cl d).flight = (k.cl d).flight := by
    rw [Core.writeDue_flight, Core.cl_upCl_ne _ h]
  unfold Core.commitCl Core.commitWhere
  dsimp only
  split
  · exact due _ _
  · rw [Core.cl_upCl_ne _ h]
    exact due _ _

theorem Core.commitCl_free {k : Core} {c : Cluster} (free : ∀ f ∈ (k.cl c).flight, f.need = 0) : ((k.commitCl c).cl c).flight = [] := by
  unfold Core.commitCl Core.commitWhere
  dsimp only
  rw [Core.writeDue_room (fun f hf => free f (List.mem_of_mem_filter hf)), if_pos List.isEmpty_nil, Core.writeDue_flight, Core.cl_upCl_self]
  simp

theorem Core.commitAll_free {k : Core} {c : Cluster} (free : ∀ f ∈ (k.cl c).flight, f.need = 0) : (k.commitAll.cl c).flight = [] := by
  have eq : k.commitAll = (((k.commitCl .A).commitCl .V).commitCl .T).commitCl .S := by
    simp only [Core.commitAll, List.foldl_cons, List.foldl_nil]
  rw [eq]
  cases c
  · rw [Core.commitCl_ne _ _ (by decide), Core.commitCl_ne _ _ (by decide), Core.commitCl_ne _ _ (by decide), Core.commitCl_free free]
  · rw [Core.commitCl_ne _ _ (by decide), Core.commitCl_ne _ _ (by decide)]
    exact Core.commitCl_free (by rwa [Core.commitCl_ne _ _ (by decide)])
  · rw [Core.commitCl_ne _ _ (by decide)]
    exact Core.commitCl_free (by rwa [Core.commitCl_ne _ _ (by decide), Core.commitCl_ne _ _ (by decide)])
  · exact Core.commitCl_free (by rwa [Core.commitCl_ne _ _ (by decide), Core.commitCl_ne _ _ (by decide), Core.commitCl_ne _ _ (by decide)])

theorem Core.Delivered.version {k j : Core} (h : Core.Delivered k j) : j.version = k.version := (congrArg Core.version h.rest : _)

theorem Core.Delivered.commitAll (k : Core) : Core.Delivered k k.commitAll := List.foldlRecOn _ _ (Core.Delivered.refl k) fun _ h c _ => h.commitWhere c _

/-! The start of a save. -/

/-- What the start of a save does to a core that has stopped (R41, R52). -/
def State.calm (s : State) (k : Nat) : State := (s.commit k).upCore k Core.commitAll

theorem State.calm_apart (s : State) (k j : Nat) (hj : j ≠ k) : (s.calm k).core j = s.core j := (State.core_upCore_ne _ hj _).trans (s.commit_apart k j hj)

theorem State.calm_flight {s : State} {k : Nat} {c : Cluster} (free : ∀ f ∈ ((s.core k).cl c).flight, f.need = 0) : (((s.calm k).core k).cl c).flight = [] := by
  unfold State.calm
  rw [State.core_upCore_self]
  exact Core.commitAll_free (by rwa [State.commit_cl])

theorem State.calm_version {s : State} {k : Nat} {tk : Task} (task : (s.core k).task = some tk) (ver : tk.ver = true) : ((s.calm k).core k).version = [] := by
  unfold State.calm
  rw [State.core_upCore_self]
  exact (Core.Delivered.commitAll _).version.trans (State.commit_version task ver)

theorem State.calm_ctxs (s : State) (l : List Nat) : (l.foldl State.calm s).ctxs = s.ctxs :=
  List.foldlRecOn (motive := fun t : State => t.ctxs = s.ctxs) l _ rfl fun t h k _ => (t.commit_ctxs k).trans h

end Sys2Proof.Machine
end

section
/-! The end of a save (R289, R291, R326, R343). -/

namespace Sys2Proof.Machine

open Sys2Proof Sys2Proof.Spec

/-! What a save keeps of a core. -/

/-- Two cores with one task, the same handles and scratchpad, and the same PCs and scalar registers. -/
structure Core.Keeps (k j : Core) : Prop where
  task : j.task = k.task
  h : j.h = k.h
  sp : j.sp = k.sp
  cl : ∀ c, (j.cl c).pc = (k.cl c).pc ∧ (j.cl c).s = (k.cl c).s

namespace Core.Keeps

variable {k j : Core}

theorem refl (k : Core) : Core.Keeps k k := ⟨rfl, rfl, rfl, fun _ => ⟨rfl, rfl⟩⟩

theorem trans {l : Core} (h : Core.Keeps k j) (g : Core.Keeps j l) : Core.Keeps k l :=
  ⟨g.task.trans h.task, g.h.trans h.h, g.sp.trans h.sp, fun c => ⟨(g.cl c).1.trans (h.cl c).1, (g.cl c).2.trans (h.cl c).2⟩⟩

theorem setFifo (h : Core.Keeps k j) (c : Cluster) (d : Dir) (l : List (Option Word)) : Core.Keeps k (j.setFifo c d l) :=
  h.trans ⟨by cases d <;> rfl, by cases d <;> rfl, by cases d <;> rfl, fun e => by rw [Core.setFifo_cl]; exact ⟨rfl, rfl⟩⟩

theorem upCl (h : Core.Keeps k j) (c : Cluster) {f : Cl → Cl} (pc : (f (j.cl c)).pc = (j.cl c).pc) (s : (f (j.cl c)).s = (j.cl c).s) : Core.Keeps k (j.upCl c f) := by
  refine h.trans ⟨by cases c <;> rfl, by cases c <;> rfl, by cases c <;> rfl, fun e => ?_⟩
  by_cases he : e = c
  · subst he
    rw [Core.cl_upCl_self]
    exact ⟨pc, s⟩
  · rw [Core.cl_upCl_ne _ he]
    exact ⟨rfl, rfl⟩

theorem unheld (h : Core.Keeps k j) : Core.Keeps k { j with waitHeld := false } := h.trans ⟨rfl, rfl, rfl, fun c => by cases c <;> exact ⟨rfl, rfl⟩⟩

theorem giveBack (h : Core.Keeps k j) (c : Cluster) : Core.Keeps k (j.giveBack c) := by
  unfold Core.giveBack
  refine upCl (f := fun x => { x with popped := [], wait := none }) (unheld (List.foldlRecOn (motive := Core.Keeps k) _ _ h fun l g e _ => ?_)) c rfl rfl
  exact (g.setFifo _ _ _).upCl c (by cases e.1 <;> rfl) (by cases e.1 <;> rfl)

theorem kept (h : Core.Keeps k j) (n : Nat) : Core.Keeps k (j.kept n) := by
  have given : Core.Keeps k (Cluster.all.foldl Core.giveBack j) := List.foldlRecOn (motive := Core.Keeps k) _ _ h fun _ g c _ => g.giveBack c
  unfold Core.kept
  generalize Cluster.all.foldl Core.giveBack j = m at given
  exact given.trans ⟨rfl, rfl, rfl, fun c => by cases c <;> exact ⟨rfl, rfl⟩⟩

theorem of_seqs (k : Core) (n : Nat) : Core.Keeps k (k.useSeqs n) := by
  unfold Core.useSeqs
  split
  · exact refl k
  · exact ⟨rfl, rfl, rfl, fun c => by cases c <;> exact ⟨rfl, rfl⟩⟩

theorem of_l1 {k j : Core} (h : { j with l1 := k.l1 } = k) : Core.Keeps k j :=
  ⟨(congrArg Core.task h : _), (congrArg Core.h h : _), (congrArg Core.sp h : _), fun c => by
    have cl : j.cl c = k.cl c := by
      cases c
      · exact (congrArg Core.a h : _)
      · exact (congrArg Core.v h : _)
      · exact (congrArg Core.t h : _)
      · exact (congrArg Core.sc h : _)
    rw [cl]
    exact ⟨rfl, rfl⟩⟩

end Core.Keeps

/-! Bytes go home (R291 step 2). -/

theorem State.carryHome_apart (s : State) (k j : Nat) (hj : j ≠ k) : (s.carryHome k).core j = s.core j :=
  (State.core_upCore_ne _ hj _).trans (((CacheWork.refl k s).release 3).others j hj)

theorem State.carryHome_core (s : State) (k : Nat) : (s.carryHome k).core k = { s.core k with l1 := [] } := by
  unfold State.carryHome
  rw [State.core_upCore_self]
  exact (congrArg (fun c : Core => { c with l1 := [] }) ((CacheWork.refl k s).release 3).core : _)

theorem State.carryHome_ctxs (s : State) (k : Nat) : (s.carryHome k).ctxs = s.ctxs := ((CacheWork.refl k s).release 3).ctxs

theorem State.carriedHome_core (s : State) {l : List Nat} (distinct : l.Nodup) {k : Nat} (hk : k ∈ l) : (l.foldl State.carryHome s).core k = { s.core k with l1 := [] } := by
  obtain ⟨before, after, -, found, left⟩ := State.foldl_own State.carryHome_apart distinct hk s
  rw [left, State.carryHome_core, found]

theorem State.carriedHome_ctxs (s : State) (l : List Nat) : (l.foldl State.carryHome s).ctxs = s.ctxs :=
  List.foldlRecOn (motive := fun t : State => t.ctxs = s.ctxs) l _ rfl fun t h k _ => (t.carryHome_ctxs k).trans h

/-! A core's state leaves it. -/

theorem HomeWork.saveRead {s t : State} (h : HomeWork s t) (n a m : Nat) : HomeWork s (t.saveRead n a m).1 := h.devReadAs _ a m

theorem HomeWork.saveWrite {s t : State} (h : HomeWork s t) (n a : Nat) (bs : List Byte) : HomeWork s (t.saveWrite n a bs) := h.devWriteAs _ a bs

theorem HomeWork.devNum {s t : State} (h : HomeWork s t) (a n : Nat) : HomeWork s (t.devNum a n).1 := h.devReadAs none a n

theorem HomeWork.writeRecord {s t : State} (h : HomeWork s t) (n k : Nat) (c : Core) : HomeWork s (t.writeRecord n k c) := by
  unfold State.writeRecord
  refine HomeWork.foldl (fun u i g => ?_) _ (h.saveWrite n _ _)
  split
  · exact g
  · exact g.saveWrite n _ _

theorem HomeWork.writeHeader {s t : State} (h : HomeWork s t) (n : Nat) (l : List Nat) : HomeWork s (t.writeHeader n l) := (h.saveRead n _ 8).saveWrite n _ _

theorem HomeWork.saveBars {s t : State} (h : HomeWork s t) (n : Nat) (l : List (Nat × QuadSt)) : HomeWork s (t.saveBars n l) := by
  have words : HomeWork s (l.foldl (fun s e => (List.range 16).foldl (fun s b =>
      s.devWrite ((t.ctx n).mailbox + 256 * e.1 + 16 * b) (toBytes 8 (sget 0 s.barriers (16 * e.1 + b)).toNat ++ toBytes 8 0)) s) t) :=
    HomeWork.foldl (fun _ _ g => HomeWork.foldl (fun _ _ f => f.devWrite _ _) _ g) l h
  unfold State.saveBars
  dsimp only
  refine HomeWork.devWrite ?_ _ _
  exact words.devNum _ 8

/-- A save writes a core's record, keeps its state with the context and clears the core (R291, R292). -/
theorem State.saveCore_eq (s : State) (n k : Nat) : ∃ (t : State) (f : Ctx → Ctx), HomeWork s t ∧
    s.saveCore n k = (t.setCore k (((s.core k).useSeqs n).leftBy n)).upCtx n f ∧ ∀ x, (f x).saved = x.saved ++ [(k, ((s.core k).useSeqs n).kept n)] := by
  have work := (HomeWork.refl s).writeRecord n k (((s.core k).useSeqs n).kept n)
  unfold State.saveCore
  dsimp only
  generalize s.writeRecord n k (((s.core k).useSeqs n).kept n) = t at work
  exact ⟨t, _, work, rfl, fun _ => rfl⟩

theorem State.saveCore_apart (s : State) (n k j : Nat) (hj : j ≠ k) : (s.saveCore n k).core j = s.core j := by
  obtain ⟨t, f, work, eq, -⟩ := s.saveCore_eq n k
  rw [eq, State.core_upCtx, State.core_setCore, if_neg hj, State.core_congr work.cores]

theorem State.saveCore_core (s : State) (n k : Nat) : (s.saveCore n k).core k = ((s.core k).useSeqs n).leftBy n := by
  obtain ⟨t, f, -, eq, -⟩ := s.saveCore_eq n k
  rw [eq, State.core_upCtx, State.core_setCore_self]

theorem State.saveCore_saved (s : State) (n k : Nat) : ((s.saveCore n k).ctx n).saved = (s.ctx n).saved ++ [(k, ((s.core k).useSeqs n).kept n)] := by
  obtain ⟨t, f, work, eq, saved⟩ := s.saveCore_eq n k
  rw [eq, State.ctx_upCtx_self, saved]
  exact congrArg (fun x : Ctx => x.saved ++ _) (State.ctx_congr work.ctxs n)

/-- Engine entries of a context leave a core, if there are any, and the context keeps them (log 39). -/
theorem State.parkEngines_cases (s : State) (n k : Nat) : s.parkEngines n k = s ∨
    ∃ (c m : Core), c.l1 = (s.core k).l1 ∧ s.parkEngines n k = (s.setCore k c).upCtx n fun x => { x with saved := x.saved ++ [(k, m)] } := by
  unfold State.parkEngines
  dsimp only
  split
  · exact .inl rfl
  · exact .inr ⟨{ s.core k with cp := (s.core k).cp.filter fun x => x.ctx.toNat != n, ws := (s.core k).ws.filter fun x => x.ctx.toNat != n }, _, rfl, rfl⟩

theorem State.parkEngines_apart (s : State) (n k j : Nat) (hj : j ≠ k) : (s.parkEngines n k).core j = s.core j := by
  obtain h | ⟨c, m, -, h⟩ := s.parkEngines_cases n k
  · rw [h]
  · rw [h, State.core_upCtx, State.core_setCore, if_neg hj]

theorem State.parkEngines_l1 (s : State) (n k : Nat) : ((s.parkEngines n k).core k).l1 = (s.core k).l1 := by
  obtain h | ⟨c, m, l1, h⟩ := s.parkEngines_cases n k
  · rw [h]
  · rw [h, State.core_upCtx, State.core_setCore_self, l1]

theorem State.parkEngines_saved (s : State) (n k : Nat) : ∀ e ∈ (s.ctx n).saved, e ∈ ((s.parkEngines n k).ctx n).saved := by
  intro e he
  obtain h | ⟨c, m, -, h⟩ := s.parkEngines_cases n k
  · rwa [h]
  · rw [h, State.ctx_upCtx_self]
    exact List.mem_append_left _ he

/-- One core's turn in a save: its whole state, or the engine entries alone (R291; log 39). -/
def State.saveTurn (n : Nat) (l : List Nat) (s : State) (k : Nat) : State := if l.contains k then s.saveCore n k else s.parkEngines n k

theorem State.saveTurn_apart (n : Nat) (l : List Nat) (s : State) (k j : Nat) (hj : j ≠ k) : (s.saveTurn n l k).core j = s.core j := by
  unfold State.saveTurn
  split
  · exact s.saveCore_apart n k j hj
  · exact s.parkEngines_apart n k j hj

theorem State.saveTurn_saved (n : Nat) (l : List Nat) (s : State) (k : Nat) : ∀ e ∈ (s.ctx n).saved, e ∈ ((s.saveTurn n l k).ctx n).saved := by
  intro e he
  unfold State.saveTurn
  split
  · rw [s.saveCore_saved n k]
    exact List.mem_append_left _ he
  · exact s.parkEngines_saved n k e he

theorem State.saveTurn_l1 {n : Nat} {l : List Nat} {s : State} {k : Nat} (empty : (s.core k).l1 = []) : ((s.saveTurn n l k).core k).l1 = [] := by
  unfold State.saveTurn
  split
  · rw [State.saveCore_core]
    rfl
  · rw [State.parkEngines_l1, empty]

theorem Core.leftBy_xb (k : Core) (n : Nat) : (k.leftBy n).xb = k.xb := rfl
theorem Core.leftBy_rtb (k : Core) (n : Nat) : (k.leftBy n).rtb = k.rtb := rfl

/-- Nothing of the work and the registers of a context stays with a core that it leaves (R291, R305). -/
theorem Core.leftBy_clear (k : Core) (n : Nat) : (k.leftBy n).task = none ∧ (k.leftBy n).conts = [] ∧ (k.leftBy n).sp = [] ∧ (k.leftBy n).h = [] ∧
    (k.leftBy n).vr = [] ∧ (k.leftBy n).acc = [] ∧ (k.leftBy n).bank = [] ∧ (k.leftBy n).l1 = [] := ⟨rfl, rfl, rfl, rfl, rfl, rfl, rfl, rfl⟩

/-- Every core that the save takes is empty, with what it held among the cores saved. -/
theorem State.saveTurns_core (s : State) (n : Nat) {l all : List Nat} (distinct : all.Nodup) {k : Nat} (within : k ∈ all) (taken : k ∈ l) :
    let t := all.foldl (State.saveTurn n l) s
    t.core k = ((s.core k).useSeqs n).leftBy n ∧ (k, ((s.core k).useSeqs n).kept n) ∈ (t.ctx n).saved := by
  obtain ⟨before, after, fold, found, left⟩ := State.foldl_own (State.saveTurn_apart n l) distinct within s
  have turn (u : State) : u.saveTurn n l k = u.saveCore n k := if_pos (List.contains_iff_mem.2 taken)
  dsimp only
  refine ⟨by rw [left, turn, State.saveCore_core, found], ?_⟩
  rw [fold]
  refine List.foldlRecOn (motive := fun t : State => (k, ((s.core k).useSeqs n).kept n) ∈ (t.ctx n).saved) after _ ?_ fun t h j _ => t.saveTurn_saved n l j _ h
  rw [turn, State.saveCore_saved, found]
  exact List.mem_append_right _ List.mem_cons_self

theorem State.saveTurns_l1 {s : State} {n : Nat} {l all : List Nat} (distinct : all.Nodup) {k : Nat} (within : k ∈ all) (empty : (s.core k).l1 = []) :
    ((all.foldl (State.saveTurn n l) s).core k).l1 = [] := by
  obtain ⟨before, after, -, found, left⟩ := State.foldl_own (State.saveTurn_apart n l) distinct within s
  rw [left]
  exact State.saveTurn_l1 (by rw [found, empty])

/-! Arrivals on their way reach their units (R343). -/

theorem Core.wake_idle {k : Core} (idle : k.conts = []) (p : Cont → Option Word) : (k.wake p).conts = [] := by
  unfold Core.wake
  simp [idle]

theorem State.wakeBar_core (s : State) (key : Nat) : ∃ p, ∀ k, (s.wakeBar key).core k = (s.core k).wake p := by
  have reset (p : Cont → Option Word) : Core.reset.wake p = Core.reset := rfl
  unfold State.wakeBar
  exact ⟨_, fun k => sget_map (d := Core.reset) (g := fun c : Core => c.wake _) (reset _) s.cores k⟩

/-- What arrivals at barriers leave: contexts and quads, and of the cores all but what wakes their continuations. -/
structure Arrived (s t : State) : Prop where
  ctxs : t.ctxs = s.ctxs
  quads : t.quads = s.quads
  cores : ∀ k, { t.core k with conts := [], ready := [] } = { s.core k with conts := [], ready := [] }
  idle : ∀ k, (s.core k).conts = [] → (t.core k).conts = []

namespace Arrived

variable {s t u : State}

theorem refl (s : State) : Arrived s s := ⟨rfl, rfl, fun _ => rfl, fun _ h => h⟩

theorem trans (h : Arrived s t) (g : Arrived t u) : Arrived s u :=
  ⟨g.ctxs.trans h.ctxs, g.quads.trans h.quads, fun k => (g.cores k).trans (h.cores k), fun k e => g.idle k (h.idle k e)⟩

theorem of_cores (cores : t.cores = s.cores) (ctxs : t.ctxs = s.ctxs) (quads : t.quads = s.quads) : Arrived s t :=
  ⟨ctxs, quads, fun k => by rw [State.core_congr cores], fun k h => by rw [State.core_congr cores, h]⟩

theorem home (h : Arrived s t) (g : HomeWork t u) : Arrived s u :=
  h.trans (.of_cores g.cores g.ctxs (show u.besideHome.quads = t.besideHome.quads by rw [g.beside]))

theorem lost (h : Arrived s t) (ctx : Option Nat) (key : Nat) : Arrived s (t.arrivalLost ctx key) := h.trans (.of_cores rfl rfl rfl)

theorem setBar (h : Arrived s t) (key : Nat) (b : Bar) : Arrived s (t.setBar key b) :=
  h.trans (of_cores (s := t) (t := t.setBar key b) (by unfold State.setBar; rfl) (by unfold State.setBar; rfl) (by unfold State.setBar; rfl))

theorem wakeBar (h : Arrived s t) (key : Nat) : Arrived s (t.wakeBar key) := by
  obtain ⟨p, core⟩ := t.wakeBar_core key
  refine h.trans ⟨rfl, rfl, fun k => ?_, fun k empty => ?_⟩
  · rw [core]
    exact (congrArg (fun c : Core => { c with conts := [], ready := [] }) (Core.wake_rest (t.core k) p) : _)
  · rw [core]
    exact Core.wake_idle empty p

theorem countArrival (h : Arrived s t) (ctx : Option Nat) (key : Nat) (tainted : Bool) : Arrived s (t.countArrival ctx key tainted).1 := by
  unfold State.countArrival
  dsimp only
  split
  · exact h.lost ctx key
  · exact h.setBar key _

theorem arriveAt (h : Arrived s t) (ctx : Option Nat) (key : Nat) (tainted : Bool) : Arrived s (t.arriveAt ctx key tainted).1 := by
  have counted := h.countArrival ctx key tainted
  unfold State.arriveAt
  dsimp only
  split
  · exact counted.wakeBar key
  · exact counted

theorem logArrival (h : Arrived s t) (ctx key : Nat) (tainted : Bool) : Arrived s (t.logArrival ctx key tainted) := by
  have read (a : Nat) : Arrived s (t.devNum a 8).1 := h.home ((HomeWork.refl t).devNum a 8)
  have stored (a b : Nat) (bs : List Byte) : Arrived s ((t.devNum a 8).1.devWrite b bs) := (read a).home ((HomeWork.refl _).devWrite b bs)
  unfold State.logArrival
  dsimp only
  generalize (if tainted then _ else _ : Nat) = count
  split
  · exact (read _).lost _ _
  · exact stored _ _ _

theorem engineArrive (h : Arrived s t) (a : Arrival) : Arrived s (t.engineArrive a) := by
  unfold State.engineArrive
  dsimp only
  split
  · split
    · exact h.logArrival _ _ _
    · split
      · split
        · exact h.arriveAt _ _ _
        · exact h.lost _ _
      · exact h.lost _ _
  · split
    · exact h.arriveAt _ _ _
    · exact h.lost _ _

theorem flushArrivals (h : Arrived s t) (n : Nat) : Arrived s (t.flushArrivals n) := by
  unfold State.flushArrivals
  exact List.foldlRecOn (motive := Arrived s) _ _ (h.trans (.of_cores rfl rfl rfl)) fun _ g a _ => g.engineArrive a

end Arrived

end Sys2Proof.Machine
end

section
/-! Saves (R52, R289, R291, R326). -/

namespace Sys2Proof.Machine

open Sys2Proof Sys2Proof.Spec

/-- Engine entries of the context are in flight on a core. -/
def State.inFlight (s : State) (n : Nat) : Bool :=
  (s.ctx n).coreList.any fun k => (s.core k).cp.any (fun c => c.ctx.toNat == n && c.entry.isSome) || (s.core k).ws.any fun f => f.ctx.toNat == n && f.started

theorem State.inFlight_of {s : State} {ctx : CtxId}
    (h : ∃ k ∈ (s.ctx ctx.toNat).coreList, (∃ c ∈ (s.core k).cp, c.ctx = ctx ∧ c.entry.isSome = true) ∨ ∃ f ∈ (s.core k).ws, f.ctx = ctx ∧ f.started = true) :
    s.inFlight ctx.toNat = true := by
  obtain ⟨k, hk, h⟩ := h
  refine List.any_eq_true.2 ⟨k, hk, ?_⟩
  rcases h with ⟨c, hc, rfl, entry⟩ | ⟨f, hf, rfl, started⟩
  · exact Bool.or_eq_true_iff.2 (.inl (List.any_eq_true.2 ⟨c, hc, by simp [entry]⟩))
  · exact Bool.or_eq_true_iff.2 (.inr (List.any_eq_true.2 ⟨f, hf, by simp [started]⟩))

theorem State.inFlight_not {s : State} {ctx : CtxId}
    (h : ∀ k ∈ (s.ctx ctx.toNat).coreList, (∀ c ∈ (s.core k).cp, c.ctx = ctx → c.entry = none) ∧ ∀ f ∈ (s.core k).ws, f.ctx = ctx → f.started = false) :
    s.inFlight ctx.toNat = false := by
  refine List.any_eq_false.2 fun k hk flies => ?_
  rcases Bool.or_eq_true_iff.1 flies with any | any
  · obtain ⟨c, hc, both⟩ := List.any_eq_true.1 any
    obtain ⟨mine, entry⟩ := Bool.and_eq_true_iff.1 both
    rw [(h k hk).1 c hc (BitVec.eq_of_toNat_eq (beq_iff_eq.1 mine))] at entry
    exact Bool.false_ne_true entry
  · obtain ⟨f, hf, both⟩ := List.any_eq_true.1 any
    obtain ⟨mine, started⟩ := Bool.and_eq_true_iff.1 both
    exact Bool.false_ne_true (((h k hk).2 f hf (BitVec.eq_of_toNat_eq (beq_iff_eq.1 mine))).symm.trans started)

/-- A context's cores have all stopped. -/
def State.allStopped (s : State) (n : Nat) : Bool := (s.coresOf n).all fun k => (s.core k).atPoint

theorem State.allStopped_of {s : State} {n : Nat} (h : ∀ k ∈ s.coresOf n, (s.core k).atPoint = true) : s.allStopped n = true := List.all_eq_true.2 h

theorem State.allStopped_not {s : State} {n : Nat} (h : ∃ k ∈ s.coresOf n, (s.core k).atPoint = false) : s.allStopped n = false := by
  obtain ⟨k, hk, runs⟩ := h
  exact List.all_eq_false.2 ⟨k, hk, by simp [runs]⟩

theorem State.saveStart_eq (s : State) (ctx : CtxId) : exec (.contextSaveStart ctx) s = .next (
    if (s.ctx ctx.toNat).st != .preempting || (s.ctx ctx.toNat).saving || !s.allStopped ctx.toNat || s.power.stopped then s
    else ((s.coresOf ctx.toNat).foldl State.calm s).upCtx ctx.toNat fun x => { x with saving := true }) := rfl

/-- The state in which a save has written everything but the context's own row (R291). -/
def State.savedOut (s : State) (n : Nat) : State :=
  let x := s.ctx n
  let s' := s.upCtx n fun x => { x with saved := [], tinvs := [], leaves := [] }
  x.coreList.foldl (State.saveTurn n (s.coresOf n)) (x.coreList.foldl State.carryHome (s'.saveBars n (s.quadsOf n)))

/-- A save answers the requests of the context, and its quads are free (R289, R326). -/
def State.leave (s : State) (n : Nat) (qs : List (Nat × QuadSt)) : State :=
  let s := s.preemptEnds n
  let now := s.us
  let s := s.upCtx n fun x => { x with st := .saved, saving := false, restoring := false, savedAt := now,
                                       savedQuads := qs.map fun e => { quad := e.1, launch := e.2.launch, first := e.2.first, tag := e.2.tag } }
  { s with quads := s.quads.map fun (e : Nat × Option QuadSt) => if qs.any (fun q => q.1 == e.1) then (e.1, none) else e }

theorem State.contextSave_eq (s : State) (n : Nat) : s.contextSave n =
    if (s.ctx n).st != .preempting || !(s.ctx n).saving || s.inFlight n then s
    else if !s.allStopped n then s.upCtx n fun x => { x with saving := false }
    else (((s.savedOut n).writeHeader n (s.coresOf n)).leave n (s.quadsOf n)).flushArrivals n := by
  have turn : State.saveTurn n (s.coresOf n) = fun s' k => if (s.coresOf n).contains k then s'.saveCore n k else s'.parkEngines n k := rfl
  unfold State.contextSave State.leave State.savedOut
  rw [turn]
  dsimp only
  rfl

/-- A core whose pre-emption request for a context is answered. -/
def Core.answered (k : Core) (n : Nat) : Core := { k with preempt := k.preempt &&& ~~~(BitVec.ofNat 64 (2 ^ n)) }

theorem Core.answered_bit (k : Core) {n : Nat} (small : n < 64) : (k.answered n).preempt.getLsbD n = false := by
  show (k.preempt &&& ~~~(BitVec.ofNat 64 (2 ^ n))).getLsbD n = false
  rw [BitVec.getLsbD_and, BitVec.getLsbD_not, BitVec.getLsbD_ofNat, Nat.testBit_two_pow_self]
  simp [small]

theorem State.leave_core (s : State) (n : Nat) (qs : List (Nat × QuadSt)) (k : Nat) : (s.leave n qs).core k = (s.core k).answered n := by
  have reset : Core.reset.answered n = Core.reset := by simp [Core.answered, Core.reset]
  exact sget_map (d := Core.reset) (g := fun c : Core => c.answered n) reset s.cores k

theorem State.leave_ctx (s : State) (n : Nat) (qs : List (Nat × QuadSt)) :
    ((s.leave n qs).ctx n).st = .saved ∧ ((s.leave n qs).ctx n).saving = false ∧ ((s.leave n qs).ctx n).saved = (s.ctx n).saved := by
  have row := State.ctx_upCtx_self (s.preemptEnds n) n fun x => { x with
    st := .saved, saving := false, restoring := false, savedAt := s.us
    savedQuads := qs.map fun e => { quad := e.1, launch := e.2.launch, first := e.2.first, tag := e.2.tag } }
  exact ⟨(congrArg Ctx.st row : _), (congrArg Ctx.saving row : _), (congrArg Ctx.saved row : _)⟩

theorem State.leave_quads (s : State) (n : Nat) {qs : List (Nat × QuadSt)} {q : Nat × QuadSt} (hq : q ∈ qs) : sget none (s.leave n qs).quads q.1 = none := by
  have keyed : (s.leave n qs).quads = s.quads.map fun e => (e.1, if qs.any (fun q => q.1 == e.1) then none else e.2) := by
    refine congrArg (s.quads.map ·) (funext fun e => ?_)
    rcases e with ⟨j, g⟩
    dsimp only
    split <;> rfl
  rw [keyed, sget_map_keyed (d := none) (g := fun j g => if qs.any (fun q => q.1 == j) then none else g) fun j => ite_self none]
  exact if_pos (List.any_eq_true.2 ⟨q, hq, beq_self_eq_true q.1⟩)

/-- The cores and the context when everything of them is written out. -/
theorem State.savedOut_core (s : State) (n : Nat) {k : Nat} (within : k ∈ (s.ctx n).coreList) : ((s.savedOut n).core k).l1 = [] := by
  have carried := State.carriedHome_core ((s.upCtx n fun x => { x with saved := [], tinvs := [], leaves := [] }).saveBars n (s.quadsOf n)) (Ctx.coreList_nodup (s.ctx n)) within
  exact State.saveTurns_l1 (Ctx.coreList_nodup _) within (congrArg Core.l1 carried : _)

theorem State.savedOut_taken (s : State) (n : Nat) {k : Nat} (taken : k ∈ s.coresOf n) :
    let c : Core := { s.core k with l1 := [] }
    (s.savedOut n).core k = (c.useSeqs n).leftBy n ∧ (k, (c.useSeqs n).kept n) ∈ ((s.savedOut n).ctx n).saved := by
  have within : k ∈ (s.ctx n).coreList := List.mem_of_mem_filter taken
  have carried := State.carriedHome_core ((s.upCtx n fun x => { x with saved := [], tinvs := [], leaves := [] }).saveBars n (s.quadsOf n)) (Ctx.coreList_nodup (s.ctx n)) within
  have bars := ((HomeWork.refl (s.upCtx n fun x => { x with saved := [], tinvs := [], leaves := [] })).saveBars n (s.quadsOf n)).cores
  rw [State.core_congr bars, State.core_upCtx] at carried
  have turns := State.saveTurns_core ((s.ctx n).coreList.foldl State.carryHome ((s.upCtx n fun x => { x with saved := [], tinvs := [], leaves := [] }).saveBars n (s.quadsOf n)))
    n (Ctx.coreList_nodup (s.ctx n)) within taken
  rw [carried] at turns
  exact turns

/-- A save begins once every core of the context has stopped, and ends once no engine entry is in flight (R52, R289, R291). -/
theorem contextSaves : Spec.ContextSaves := by
  intro s ctx n x preempting
  have begins := s.saveStart_eq ctx
  have ends : exec (.contextSaveDone ctx) s = .next _ := congrArg Host.Outcome.next (s.contextSave_eq n)
  rw [show (s.ctx ctx.toNat).st = _ from preempting] at begins
  rw [show (s.ctx n).st = _ from preempting] at ends
  refine ⟨fun idle clock stopped => ?_, fun idle waits => ?_, fun saving flies => ?_, fun saving still runs => ?_, fun saving still stopped => ?_⟩
  · rw [show (s.ctx ctx.toNat).saving = _ from idle, State.allStopped_of stopped, clock] at begins
    refine ⟨_, begins, ?_, ?_, fun k hk => ?_⟩
    · rw [if_neg (by decide), State.ctx_upCtx_self]
    · rw [if_neg (by decide), State.ctx_upCtx_self]
      exact (congrArg Ctx.st (State.ctx_congr (s.calm_ctxs _) n)).trans preempting
    · rw [if_neg (by decide), State.core_upCtx]
      obtain ⟨before, -, -, found, left⟩ := State.foldl_own State.calm_apart (s.coresOf_nodup n) hk s
      rw [left]
      refine ⟨fun c free => State.calm_flight (by rwa [found]), fun tk task ver => State.calm_version (by rwa [found]) ver⟩
  · rcases waits with stopped | runs
    · rw [stopped, Bool.or_true, if_pos rfl] at begins
      exact begins
    · rw [State.allStopped_not runs, Bool.not_false, Bool.or_true, Bool.true_or, if_pos rfl] at begins
      exact begins
  · rw [State.inFlight_of flies, Bool.or_true, if_pos rfl] at ends
    exact ends
  · rw [show (s.ctx n).saving = _ from saving, State.inFlight_not still, State.allStopped_not runs, if_neg (by decide), if_pos (by decide)] at ends
    refine ⟨_, ends, ?_, ?_, rfl, rfl⟩
    · rw [State.ctx_upCtx_self]
    · rw [State.ctx_upCtx_self]
      exact preempting
  · rw [show (s.ctx n).saving = _ from saving, State.inFlight_not still, State.allStopped_of stopped, if_neg (by decide), if_neg (by decide)] at ends
    have work := (HomeWork.refl (s.savedOut n)).writeHeader n (s.coresOf n)
    have core (k : Nat) : (((s.savedOut n).writeHeader n (s.coresOf n)).leave n (s.quadsOf n)).core k = ((s.savedOut n).core k).answered n := by
      rw [State.leave_core, State.core_congr work.cores]
    have row := ((s.savedOut n).writeHeader n (s.coresOf n)).leave_ctx n (s.quadsOf n)
    rw [State.ctx_congr work.ctxs] at row
    obtain ⟨st, saves, saved⟩ := row
    have quads (q : Nat × QuadSt) (hq : q ∈ s.quadsOf n) := ((s.savedOut n).writeHeader n (s.coresOf n)).leave_quads n hq
    generalize ((s.savedOut n).writeHeader n (s.coresOf n)).leave n (s.quadsOf n) = u at ends core st saves saved quads
    have arrived := (Arrived.refl u).flushArrivals n
    generalize u.flushArrivals n = t at ends arrived
    have row : t.ctx n = u.ctx n := State.ctx_congr arrived.ctxs n
    have same (k : Nat) := (arrived.cores k).trans (congrArg (fun c : Core => { c with conts := [], ready := [] }) (core k))
    refine ⟨t, ends, by rw [row, st], by rw [row, saves], fun q hq => (congrArg (fun m => sget none m q.1) arrived.quads).trans (quads q hq), fun k hk => ?_, fun k => ?_, fun k hk => ?_⟩
    · exact (congrArg Core.l1 (same k) : _).trans (s.savedOut_core n hk)
    · exact (congrArg (fun c : Core => c.preempt.getLsbD n) (same k) : _).trans (((s.savedOut n).core k).answered_bit ctx.isLt)
    · obtain ⟨left, among⟩ := s.savedOut_taken n hk
      rw [← saved, ← row] at among
      have now := same k
      have idle : (u.core k).conts = [] := by
        rw [core, left]
        rfl
      rw [left] at now
      have keeps := ((Core.Keeps.of_l1 (k := s.core k) (j := { s.core k with l1 := [] }) rfl).trans (.of_seqs _ n)).kept n
      have xb : ({ s.core k with l1 := [] } : Core).xb = (({ s.core k with l1 := [] } : Core).useSeqs n).xb := (congrArg Core.xb (Core.useSeqs_rest { s.core k with l1 := [] } n) : _).symm
      exact ⟨(congrArg Core.task now : _), arrived.idle k idle, (congrArg Core.sp now : _), (congrArg Core.h now : _), (congrArg Core.xb now : _).trans xb.symm,
        _, among, keeps.task, keeps.h, keeps.sp, keeps.cl⟩

end Sys2Proof.Machine
end

section
/-! The start of a restore (R290, R326, R344). -/

namespace Sys2Proof.Machine

open Sys2Proof Sys2Proof.Spec

/-- `t` is `s` after groups have ended: launches, quads, queues and records differ at most. -/
def GroupWork (s t : State) : Prop := { t with launches := s.launches, quads := s.quads, queues := s.queues, recs := s.recs } = s

namespace GroupWork

variable {s t u : State}

theorem refl (s : State) : GroupWork s s := rfl

theorem trans (h : GroupWork s t) (g : GroupWork t u) : GroupWork s u := by
  unfold GroupWork at h g ⊢
  exact (congrArg (fun z : State => { z with launches := s.launches, quads := s.quads, queues := s.queues, recs := s.recs }) g).trans h

theorem cores (h : GroupWork s t) : t.cores = s.cores := (congrArg State.cores h : _)
theorem ctxs (h : GroupWork s t) : t.ctxs = s.ctxs := (congrArg State.ctxs h : _)
theorem nextTag (h : GroupWork s t) : t.nextTag = s.nextTag := (congrArg State.nextTag h : _)
theorem mem (h : GroupWork s t) : t.mem = s.mem := (congrArg State.mem h : _)

theorem upLaunch (s : State) (id : Nat) (f : Launch → Launch) : GroupWork s (s.upLaunch id f) := rfl
theorem upGroup (s : State) (id first : Nat) (f : Group → Group) : GroupWork s (s.upGroup id first f) := rfl
theorem freeQuad (s : State) (q : Nat) : GroupWork s (s.freeQuad q) := rfl
theorem setQueue (s : State) (q : Nat) (x : Queue) : GroupWork s (s.setQueue q x) := rfl
theorem setRecSt (s : State) (n r : Nat) (st : RecSt) : GroupWork s (s.setRecSt n r st) := rfl

theorem groupDone (s : State) (q : Nat) : GroupWork s (s.groupDone q) := by
  unfold State.groupDone
  split
  · rfl
  · split
    · rfl
    · exact (upGroup s _ _ _).trans (freeQuad _ _)

theorem groupFree (s : State) (q : Nat) : GroupWork s (s.groupFree q) := by
  unfold State.groupFree
  split
  · split
    · exact freeQuad s q
    · rfl
  · dsimp only
    split
    · rfl
    · refine trans ?_ (setRecSt _ _ _ _)
      split
      · exact ((upGroup s _ _ _).trans (freeQuad _ _)).trans (setQueue _ _ _)
      · exact (upGroup s _ _ _).trans (freeQuad _ _)

end GroupWork

/-- A group of a restored context takes its quad back under a new placement tag (R326, R344). -/
def State.takeBack (s : State) (g : SavedQuad) : State :=
  { s with quads := sset none s.quads g.quad (some { launch := g.launch, first := g.first, tag := s.nextTag }), nextTag := s.nextTag + 1 }

theorem State.takeBacks (l : List SavedQuad) (s : State) :
    (l.foldl State.takeBack s).nextTag = s.nextTag + l.length ∧ (l.foldl State.takeBack s).cores = s.cores ∧ (l.foldl State.takeBack s).ctxs = s.ctxs := by
  induction l generalizing s with
  | nil => exact ⟨rfl, rfl, rfl⟩
  | cons g r ih =>
    obtain ⟨tag, cores, ctxs⟩ := ih (s.takeBack g)
    refine ⟨tag.trans ?_, cores, ctxs⟩
    rw [List.length_cons, Nat.add_comm r.length, ← Nat.add_assoc]
    rfl

/-- Quads that groups of others hold still are freed where their tasks have all ended (R290). -/
def State.freeEnded (s : State) (g : SavedQuad) : State := (s.groupDone g.quad).groupFree g.quad

theorem State.freesEnded (l : List SavedQuad) (s : State) : GroupWork s (l.foldl State.freeEnded s) :=
  List.foldlRecOn (motive := GroupWork s) l _ (GroupWork.refl s) fun t h g _ => (h.trans (GroupWork.groupDone t g.quad)).trans (GroupWork.groupFree _ g.quad)

theorem State.restoreStart_eq (s : State) (ctx : CtxId) :
    let n := ctx.toNat
    let x := s.ctx n
    let named := s.savedCores n
    exec (.contextRestoreStart ctx) s = .next (
      if x.st != .saved || !x.restoring || !named.2.all (fun k => (s.core k).freeOfOthers n) || s.power.stopped then s
      else (x.savedQuads.foldl State.takeBack (x.savedQuads.foldl State.freeEnded named.1)).upCtx n fun x => { x with st := .loading }) := rfl

theorem HomeWork.savedCores (s : State) (n : Nat) : HomeWork s (s.savedCores n).1 := (HomeWork.refl s).saveRead n _ 32

/-- A restore begins on cores that are free of others' tasks, its groups on their quads again (R290, R326). -/
theorem restoreStarts (s : State) (ctx : CtxId) (saved : (s.ctx ctx.toNat).st = .saved) (restoring : (s.ctx ctx.toNat).restoring = true)
    (clock : s.power.stopped = false) (free : ∀ k ∈ (s.savedCores ctx.toNat).2, (s.core k).freeOfOthers ctx.toNat = true) :
    ∃ t, exec (.contextRestoreStart ctx) s = .next t ∧ (t.ctx ctx.toNat).st = .loading ∧ t.cores = s.cores ∧ t.nextTag = s.nextTag + (s.ctx ctx.toNat).savedQuads.length ∧
      ∀ g, (s.ctx ctx.toNat).savedQuads = [g] → sget none t.quads g.quad = some { launch := g.launch, first := g.first, tag := s.nextTag } := by
  have acts := s.restoreStart_eq ctx
  have all : (s.savedCores ctx.toNat).2.all (fun k => (s.core k).freeOfOthers ctx.toNat) = true := List.all_eq_true.2 free
  dsimp only at acts
  rw [saved, restoring, clock, all, if_neg (by decide)] at acts
  have home := HomeWork.savedCores s ctx.toNat
  have tag₀ : (s.savedCores ctx.toNat).1.nextTag = s.nextTag := show (s.savedCores ctx.toNat).1.besideHome.nextTag = s.besideHome.nextTag by rw [home.beside]
  have work := State.freesEnded (s.ctx ctx.toNat).savedQuads (s.savedCores ctx.toNat).1
  generalize (s.ctx ctx.toNat).savedQuads.foldl State.freeEnded (s.savedCores ctx.toNat).1 = u at acts work
  have tag₁ : u.nextTag = s.nextTag := work.nextTag.trans tag₀
  obtain ⟨tag, cores, ctxs⟩ := State.takeBacks (s.ctx ctx.toNat).savedQuads u
  refine ⟨_, acts, ?_, (cores.trans work.cores).trans home.cores, tag.trans (by rw [tag₁]), fun g one => ?_⟩
  · rw [State.ctx_upCtx_self]
  · rw [State.upCtx_quads, one]
    exact (sget_sset_self none u.quads g.quad _).trans (congrArg (fun n => some { launch := g.launch, first := g.first, tag := n }) tag₁)

end Sys2Proof.Machine
end

section
/-! The end of a restore (R292, R295, R302, R344). -/

namespace Sys2Proof.Machine

open Sys2Proof Sys2Proof.Spec

/-- Two cores with one task and the same scalar registers. -/
structure Core.Runs (k j : Core) : Prop where
  task : j.task = k.task
  s : ∀ c, (j.cl c).s = (k.cl c).s

namespace Core.Runs

variable {k j l : Core}

theorem refl (k : Core) : Core.Runs k k := ⟨rfl, fun _ => rfl⟩

theorem trans (h : Core.Runs k j) (g : Core.Runs j l) : Core.Runs k l := ⟨g.task.trans h.task, fun c => (g.s c).trans (h.s c)⟩

/-- A core that differs in what it holds beside its clusters and its task. -/
theorem of_cl (task : j.task = k.task) (a : j.a = k.a) (v : j.v = k.v) (t : j.t = k.t) (sc : j.sc = k.sc) : Core.Runs k j :=
  ⟨task, fun c => by
    cases c
    · exact congrArg Cl.s a
    · exact congrArg Cl.s v
    · exact congrArg Cl.s t
    · exact congrArg Cl.s sc⟩

theorem of_reloaded (h : Core.Reloaded k j) : Core.Runs k j := ⟨(congrArg Core.task h.rest : _), fun c => congrArg Cl.s (h.cl c)⟩

theorem wake (k : Core) (p : Cont → Option Word) : Core.Runs k (k.wake p) := by
  have rest := Core.wake_rest k p
  exact of_cl (congrArg Core.task rest : _) (congrArg Core.a rest : _) (congrArg Core.v rest : _) (congrArg Core.t rest : _) (congrArg Core.sc rest : _)

theorem upCl (k : Core) (c : Cluster) {f : Cl → Cl} (hf : (f (k.cl c)).s = (k.cl c).s) : Core.Runs k (k.upCl c f) := by
  refine ⟨by cases c <;> rfl, fun e => ?_⟩
  by_cases he : e = c
  · subst he
    rw [Core.cl_upCl_self, hf]
  · rw [Core.cl_upCl_ne _ he]

theorem upAll (k : Core) {f : Cluster → Cl → Cl} (hf : ∀ c x, (f c x).s = x.s) : Core.Runs k (k.upAll f) := ⟨rfl, fun c => by
  cases c
  · exact hf _ k.a
  · exact hf _ k.v
  · exact hf _ k.t
  · exact hf _ k.sc⟩

theorem spWrite (h : Core.Runs k j) (a : Nat) (bs : List (Option Byte)) : Core.Runs k (j.spWrite a bs) := h.trans (of_cl rfl rfl rfl rfl rfl)

theorem withIssue (h : Core.Runs k j) (m : Sparse Nat) : Core.Runs k { j with issueCnt := m } := h.trans (of_cl rfl rfl rfl rfl rfl)

theorem restoreMisc (rd : Nat → Nat → List Byte) (k : Core) : Core.Runs k (restoreMisc rd k) := by
  unfold Machine.restoreMisc
  dsimp only
  refine trans ?_ (upCl _ .T (f := fun x => { x with aflags := .ofNat 8 (rdNum rd 0xE6955 1) }) rfl)
  refine trans ?_ (upCl _ .V (f := fun x => { x with aflags := .ofNat 8 (rdNum rd 0xE6954 1) }) rfl)
  exact of_cl rfl rfl rfl rfl rfl

theorem withBypass (h : Core.Runs k j) (m : List (BitVec 32 × Nat)) : Core.Runs k { j with bypass := m } := h.trans (of_cl rfl rfl rfl rfl rfl)

theorem restoreVectors (h : Core.Runs k j) (rd : Nat → Nat → List Byte) (o p b a n : Nat) : Core.Runs k (restoreQ rd o (restoreVregs rd p b a n j)) :=
  h.trans (of_reloaded (.upVectors j _ _ _))

theorem restoreAccs (h : Core.Runs k j) (rd : Nat → Nat → List Byte) (o : Nat → Nat) (l : List Nat) : Core.Runs k (l.foldl (fun k a => restoreAcc rd (o a) a k) j) :=
  h.trans (of_reloaded (Core.Reloaded.foldl (fun k _ => .upVectors k _ _ _) _ _))

theorem withBank (h : Core.Runs k j) (m : Sparse Byte) (w : Word) : Core.Runs k { j with bank := m, cmask := w } := h.trans (of_cl rfl rfl rfl rfl rfl)

/-- A record's image puts the registers back; what lies beside the clusters' own words changes no task (R292). -/
theorem restoreImage (rd : Nat → Nat → List Byte) (stale : BitVec 128 → Bool) (k : Core) :
    Core.Runs (k.upAll fun c x => restoreCl rd c { x with aflags := 0 }) (restoreImage rd stale k) := by
  have fixed := of_reloaded (restoreFixed_reloaded rd stale k)
  have accs := ((fixed.withBypass k.bypass).restoreVectors rd 0x22000 0x1000 0x21000 0 512).restoreAccs rd (fun a => 0x26000 + 65536 * a) (List.range 8)
  unfold Machine.restoreImage
  exact (accs.withBank _ _).trans (restoreMisc rd _)

theorem restoreChains (rd : Nat → Nat → List Byte) (tag : Nat) (k : Core) : Core.Runs k (restoreChains rd tag k) := of_cl rfl rfl rfl rfl rfl

end Core.Runs

/-- No core changes its task or a scalar register. -/
def CoresRun (s t : State) : Prop := ∀ j, Core.Runs (s.core j) (t.core j)

namespace CoresRun

variable {s t u : State}

theorem refl (s : State) : CoresRun s s := fun _ => Core.Runs.refl _

theorem trans (h : CoresRun s t) (g : CoresRun t u) : CoresRun s u := fun j => (h j).trans (g j)

theorem of_cores (h : t.cores = s.cores) : CoresRun s t := fun j => by
  rw [State.core_congr h]
  exact Core.Runs.refl _

theorem home (h : CoresRun s t) (g : HomeWork t u) : CoresRun s u := h.trans (of_cores g.cores)

theorem upCtx (h : CoresRun s t) (n : Nat) (f : Ctx → Ctx) : CoresRun s (t.upCtx n f) := h

theorem upCore (h : CoresRun s t) (k : Nat) {f : Core → Core} (hf : ∀ c, Core.Runs c (f c)) : CoresRun s (t.upCore k f) := h.trans fun j => by
  by_cases here : j = k
  · subst here
    rw [State.core_upCore_self]
    exact hf _
  · rw [State.core_upCore_ne t here]
    exact Core.Runs.refl _

theorem arrived (h : CoresRun s t) (g : Arrived t u) : CoresRun s u := h.trans fun j => by
  have same := g.cores j
  exact .of_cl (congrArg Core.task same : _) (congrArg Core.a same : _) (congrArg Core.v same : _) (congrArg Core.t same : _) (congrArg Core.sc same : _)

theorem foldl {α : Type} {f : State → α → State} (hf : ∀ t x, CoresRun s t → CoresRun s (f t x)) (l : List α) (h : CoresRun s t) : CoresRun s (l.foldl f t) :=
  List.foldlRecOn l f h fun u g x _ => hf u x g

theorem unparkEngines (h : CoresRun s t) (k : Nat) (mine : Core) : CoresRun s (t.unparkEngines k mine) := h.upCore k fun _ => .of_cl rfl rfl rfl rfl rfl

theorem upProbe (h : CoresRun s t) (k : Nat) (slot : BitVec 6) (f : WaitOn → WaitOn) : CoresRun s (t.upProbe k slot f) := h.upCore k fun c =>
  Core.Runs.trans (j := { c with conts := c.conts.map fun (x : Cont) => if x.slot == slot then { x with on := f x.on } else x }) (.of_cl rfl rfl rfl rfl rfl) (.wake _ _)

theorem reply (h : CoresRun s t) (n token b verdict page : Nat) : CoresRun s (t.reply n token b verdict page) := by
  unfold State.reply
  dsimp only
  split
  · exact h
  · exact h.upProbe _ _ _

theorem takeReply (h : CoresRun s t) (n : Nat) : CoresRun s (t.takeReply n).1 := (h.home ((HomeWork.refl t).devReadAs none _ 16)).upCtx n _

theorem takeRefusals (h : CoresRun s t) (n j : Nat) : CoresRun s (t.takeRefusals n j) := by
  induction j generalizing t with
  | zero => exact h
  | succ j ih =>
    unfold State.takeRefusals
    dsimp only
    refine ih ?_
    split
    · exact h.takeReply n
    · exact (h.takeReply n).reply _ _ _ _ _

theorem replayQuad (h : CoresRun s t) (n m q : Nat) : CoresRun s (t.replayQuad n m q) := by
  unfold State.replayQuad
  dsimp only
  refine foldl (fun u b g => ?_) _ (foldl (fun u b g => ?_) _ h)
  · have read : CoresRun s (u.devNum (m + 256 * q + 16 * b + 8) 8).1 := g.home ((HomeWork.refl u).devNum _ 8)
    exact foldl (fun v _ f => f.arrived ((Arrived.refl v).countArrival _ _ _)) _ (foldl (fun v _ f => f.arrived ((Arrived.refl v).countArrival _ _ _)) _ read)
  · exact (g.home ((HomeWork.refl u).devNum (m + 256 * q + 16 * b) 8)).trans (of_cores rfl)

theorem replayMail (h : CoresRun s t) (n : Nat) : CoresRun s (t.replayMail n) := by
  have read (a : Nat) : CoresRun s (t.devNum a 8).1 := h.home ((HomeWork.refl t).devNum a 8)
  unfold State.replayMail
  dsimp only
  refine home (foldl (fun u g f => ?_) _ (read _)) ((HomeWork.refl _).devWrite _ _)
  split
  · exact f.replayQuad _ _ _
  · exact f

theorem evaluate (h : CoresRun s t) (k : Nat) (slot : BitVec 6) : CoresRun s (t.evaluate k slot) := h.upCore k fun c => .wake c _

theorem reissue (h : CoresRun s t) (n k : Nat) (c : Cont) : CoresRun s (t.reissue n k c) := by
  unfold State.reissue
  split
  · refine upProbe (h.upCore k fun x => ?_) _ _ _
    exact ((Core.Runs.refl x).withIssue _).spWrite _ _
  · exact h

end CoresRun

theorem Cl.shiftStages_s (x : Cl) (c : Cluster) (b : Bool) : (x.shiftStages c b).s = x.s := by
  unfold Cl.shiftStages
  dsimp only

theorem Cl.withLoops_s {x y : Cl} (h : y.s = x.s) (l : List LoopEnt) : ({ y with loops := l } : Cl).s = x.s := h

theorem Cl.startIter_s (x : Cl) (c : Cluster) (e : LoopEnt) (r : List LoopEnt) : (x.startIter c e r).s = x.s := by
  unfold Cl.startIter
  split
  · exact Cl.withLoops_s (x.shiftStages_s c true) _
  · exact Cl.withLoops_s (x.shiftStages_s c false) _

theorem Cl.resume_s (x : Cl) (c : Cluster) (now : Nat) : (x.resume c now).s = x.s := by
  unfold Cl.resume
  rcases x.loops with _ | ⟨e, r⟩
  · rfl
  · dsimp only
    split
    · exact Cl.startIter_s _ c _ r
    · rfl

end Sys2Proof.Machine
end

section
/-! A core's record is read back (R292, R295). -/

namespace Sys2Proof.Machine

open Sys2Proof Sys2Proof.Spec

/-- Bytes of a core's record. -/
def recordBytes (img : List Byte) (o m : Nat) : List Byte := (img.drop o).take m

/-- A restored core: its own breakpoints, crossbars, translations and requests, and the entries that stood there (R295; log 39). -/
theorem Core.Runs.restored {k j : Core} (h : Core.Runs k j) (cur kept : Core) (n tag old : Nat) (tinvs : List (Nat × Nat)) :
    Core.Runs k { (j.upAll fun cl y => { y with dbgbp := (cur.cl cl).dbgbp }) with
      xb := cur.xb, rtb := cur.rtb, seqs := cur.seqs, seqCtx := some n, cp := retagged old tag j.cp ++ cur.cp, ws := j.ws ++ cur.ws, ending := none,
      preempt := cur.preempt, spPoison := kept.spPoison, conts := j.conts.map fun e => { e with tinvs := e.tinvs ++ tinvs } } :=
  (h.trans (.upAll j (f := fun cl y => { y with dbgbp := (cur.cl cl).dbgbp }) fun _ _ => rfl)).trans (.of_cl rfl rfl rfl rfl rfl)

/-- A core read back from its record: no other core changes, its task is the one saved, and its registers are the record's (R292, R295).
    What reads the record is left abstract, so that no checker runs the read of a record's megabyte. -/
theorem State.restoreCore_eq (s : State) (n k : Nat) :
    ∃ t c, HomeWork s t ∧ s.restoreCore n k = t.setCore k c ∧
      Core.Runs ((sget Core.reset (s.ctx n).saved k).upAll fun c x => restoreCl (recordBytes (s.saveRead n (recordBase (s.ctx n) k) 0x100000).2) c { x with aflags := 0 }) c := by
  have read (t : State) (h : HomeWork s t) (a m : Nat) : HomeWork s (t.saveRead n a m).1 := h.saveRead n a m
  have image := Core.Runs.restoreImage
  obtain ⟨f, hf⟩ : ∃ f, @State.restoreCore = f := ⟨_, rfl⟩
  have body : s.restoreCore n k = f s n k := by rw [hf]
  delta State.restoreCore at hf
  generalize @State.saveRead = saveRead at hf read ⊢
  generalize 0x100000 = size at hf ⊢
  generalize @restoreImage = restoreImage at hf image
  generalize List.range 640 = tiles at hf
  subst hf
  generalize s.restoreCore n k = left at body ⊢
  beta_reduce at body
  extract_lets +onlyGivenNames x kept b at body
  have first := read s (HomeWork.refl s) b size
  have same : saveRead s n (recordBase (s.ctx n) k) size = saveRead s n b size := rfl
  rw [same]
  generalize saveRead s n b size = r at body first ⊢
  split at body
  next u img =>
  extract_lets +onlyGivenNames rd c at body
  have back : Core.Runs _ c := image (recordBytes img) (u.stale n k x.tinvs x.leaves) kept
  generalize hp : List.foldl _ (u, c) tiles = p at body
  have all : HomeWork s p.1 ∧ Core.Runs c p.2 := by
    rw [← hp]
    refine List.foldlRecOn (motive := fun p : State × Core => HomeWork s p.1 ∧ Core.Runs c p.2) _ _ ⟨first, .refl c⟩ fun st h t _ => ?_
    have tile := read st.1 h.1 (b + size + 4096 * t) 4096
    generalize saveRead st.1 n (b + size + 4096 * t) 4096 = q at tile ⊢
    obtain ⟨w, bytes⟩ := q
    split
    · exact h
    · exact ⟨tile, h.2.spWrite _ _⟩
  split at body
  next v e =>
  exact ⟨v, _, all.1, body, ((back.trans all.2).trans (.restoreChains _ _ _)).restored _ kept n _ _ x.tinvs⟩

end Sys2Proof.Machine
end

section
/-! Restores (R289, R290, R292, R295, R326). -/

namespace Sys2Proof.Machine

open Sys2Proof Sys2Proof.Spec

/-- What a restore does once the cores are back: engine entries, refusals, the mailbox, the waits, probes and clusters (R295, R302, R344). -/
def State.afterRestore (s : State) (n : Nat) (x : Ctx) (l : List Nat) : State :=
  let s := (x.saved.filter fun e => !l.contains e.1).foldl (fun s e => s.unparkEngines e.1 e.2) s
  let s := s.takeRefusals n x.standing
  let s := s.replayMail n
  let s := l.foldl (fun s k => (s.core k).conts.foldl (fun s c => match c.on with | .probe _ _ _ _ _ _ _ _ => s | _ => s.evaluate k c.slot) s) s
  let s := l.foldl (fun s k => (s.core k).conts.foldl (fun s c => if c.ready then s else s.reissue n k c) s) s
  let now := s.cycle
  let s := l.foldl (fun s k => s.upCore k fun c => if c.task.isSome then (c.upAll fun cl y => y.resume cl now) else c) s
  l.foldl (fun s k => s.upCore k fun c => if c.halted then { c with haltedAt := now } else c) s

theorem State.contextRestore_eq (s : State) (n : Nat) : s.contextRestore n =
    if (s.ctx n).st != .loading || !(s.ctx n).restoring || s.power.stopped then s else
    let named := s.savedCores n
    let t := (named.2.foldl (fun s k => s.restoreCore n k) named.1).afterRestore n (s.ctx n) named.2
    t.upCtx n fun x => { x with
      st := if named.2.any fun k => (t.core k).task.isSome then .running else .resident
      restoring := false, saved := [], savedQuads := [], tinvs := [], leaves := [] } := by
  unfold State.contextRestore
  generalize s.savedCores n = named
  obtain ⟨u, l⟩ := named
  rfl

theorem State.afterRestore_runs (s : State) (n : Nat) (x : Ctx) (l : List Nat) : CoresRun s (s.afterRestore n x l) := by
  unfold State.afterRestore
  dsimp only
  refine CoresRun.foldl (fun t k h => h.upCore k fun c => ?_) l (CoresRun.foldl (fun t k h => h.upCore k fun c => ?_) l
    (CoresRun.foldl (fun t k h => CoresRun.foldl (fun u c g => ?_) _ h) l (CoresRun.foldl (fun t k h => CoresRun.foldl (fun u c g => ?_) _ h) l
      (((CoresRun.foldl (fun t e h => h.unparkEngines e.1 e.2) _ (CoresRun.refl s)).takeRefusals n x.standing).replayMail n))))
  · split
    · exact .of_cl rfl rfl rfl rfl rfl
    · exact .refl c
  · split
    · exact .upAll c fun cl y => Cl.resume_s y cl _
    · exact .refl c
  · split
    · exact g
    · exact g.reissue n k c
  · split
    · exact g
    · exact g.evaluate k c.slot

theorem Cl.reg_congr {x y : Cl} (h : x.s = y.s) (r : Reg) : x.reg r = y.reg r := by
  unfold Cl.reg
  rw [h]

/-- A restore of one core ends with the task that was saved, and the registers of its record (R292, R295). -/
theorem restoreEnds (s : State) (ctx : CtxId) (k : Nat) (loading : (s.ctx ctx.toNat).st = .loading) (restoring : (s.ctx ctx.toNat).restoring = true)
    (clock : s.power.stopped = false) (one : (s.savedCores ctx.toNat).2 = [k])
    {img : List Byte} (record : ((s.savedCores ctx.toNat).1.saveRead ctx.toNat (recordBase (s.ctx ctx.toNat) k) 0x100000).2 = img) :
    let n := ctx.toNat
    let kept := sget Core.reset (s.ctx n).saved k
    ∃ t, exec (.contextRestoreDone ctx) s = .next t ∧ (t.ctx n).restoring = false ∧ (t.ctx n).saved = [] ∧ (t.core k).task = kept.task ∧
      (t.ctx n).st = (if kept.task.isSome then .running else .resident) ∧
      (∀ c (r : Reg), r ≠ 0 → ((t.core k).cl c).reg r = .ofNat 64 (ofBytes ((img.drop (0x100 + 256 * c.num + 8 * r.toNat)).take 8))) ∧
      (∀ j, j ≠ k → (t.core j).task = (s.core j).task) := by
  intro n kept
  have home := HomeWork.savedCores s n
  have acts : exec (.contextRestoreDone ctx) s = .next _ := congrArg Host.Outcome.next (s.contextRestore_eq n)
  rw [loading, restoring, clock, if_neg (by decide)] at acts
  dsimp only at acts
  rw [one, List.foldl_cons, List.foldl_nil, List.any_cons, List.any_nil, Bool.or_false] at acts
  obtain ⟨v, c, work, back, runs⟩ := (s.savedCores n).1.restoreCore_eq n k
  rw [State.ctx_congr home.ctxs n, record] at runs
  have after := ((s.savedCores n).1.restoreCore n k).afterRestore_runs n (s.ctx n) [k]
  generalize ((s.savedCores n).1.restoreCore n k).afterRestore n (s.ctx n) [k] = t at acts after
  have mine := after k
  rw [back, State.core_setCore_self] at mine
  have task : (t.core k).task = kept.task := mine.task.trans (runs.task.trans rfl)
  rw [task] at acts
  refine ⟨_, acts, ?_, ?_, task, ?_, fun e r hr => ?_, fun j hj => ?_⟩
  · rw [State.ctx_upCtx_self]
  · rw [State.ctx_upCtx_self]
  · rw [State.ctx_upCtx_self]
  · have read := (mine.s e).trans (runs.s e)
    rw [Core.cl_upAll] at read
    exact (Cl.reg_congr read r).trans (restoreCl_reg _ e _ hr)
  · have theirs := after j
    rw [back, State.core_setCore, if_neg hj, State.core_congr work.cores, State.core_congr home.cores] at theirs
    exact theirs.task

/-- Restores begin on cores free of others, and end with what was saved (R289, R290, R295). -/
theorem contextRestores : Spec.ContextRestores := by
  intro s ctx n x named
  refine ⟨restoreStarts s ctx, fun saved waits => ?_, fun k loading restoring clock one => restoreEnds s ctx k loading restoring clock one rfl⟩
  obtain ⟨k, hk, taken⟩ := waits
  have free : named.2.all (fun k => (s.core k).freeOfOthers n) = false := List.all_eq_false.2 ⟨k, hk, by simp [taken]⟩
  have acts := s.restoreStart_eq ctx
  dsimp only at acts
  rw [show (s.savedCores ctx.toNat).2.all (fun k => (s.core k).freeOfOthers ctx.toNat) = false from free, Bool.not_false, Bool.or_true, Bool.true_or, if_pos rfl] at acts
  exact acts

end Sys2Proof.Machine
end

section
/-! Seals (R305), and the obligation on contexts. -/

namespace Sys2Proof.Machine

open Sys2Proof Sys2Proof.Spec

namespace GroupWork

theorem setQuads (s : State) (m : Sparse (Option QuadSt)) : GroupWork s { s with quads := m } := rfl

theorem setLaunches (s : State) (l : List Launch) : GroupWork s { s with launches := l } := rfl

theorem setQueues (s : State) (m : Sparse Queue) : GroupWork s { s with queues := m } := rfl

theorem launchFaults (s : State) (l : Launch) : GroupWork s (s.launchFaults l) := by
  unfold State.launchFaults
  exact ((setRecSt s _ _ _).trans (setQueue _ _ _)).trans (setQuads _ _)

theorem faultLaunches (s : State) (n : Nat) : GroupWork s (s.faultLaunches n) := by
  unfold State.faultLaunches State.queuesGone
  exact ((List.foldlRecOn (motive := GroupWork s) _ State.launchFaults (refl s) fun t h l _ => h.trans (launchFaults t l)).trans (setLaunches _ _)).trans (setQueues _ _)

end GroupWork

/-- A core whose arrays no longer name a context (R305). -/
def Core.forget (ctx : CtxId) (c : Core) : Core := { c with xb := forgetArrays ctx c.xb }

theorem forgetArrays_owner (ctx : CtxId) (m : Sparse XArr) : ∀ a ∈ forgetArrays ctx m, a.2.owner ≠ some ctx := by
  intro a ha
  obtain ⟨e, -, kept⟩ := List.mem_filterMap.1 ha
  dsimp only at kept
  split at kept
  · exact absurd kept nofun
  · cases kept
    show (e.2.forget ctx).owner ≠ some ctx
    unfold XArr.forget
    split
    · exact nofun
    · next other => exact fun h => other (beq_iff_eq.2 h)

/-- Steps 3 and 4 of R305: what is in flight completes, bytes go home, and the context's own cores are zeroed. -/
def State.sealCores (s : State) (n : Nat) : State :=
  ((s.ctx n).coreList.filter fun k => !s.usedByOthers n k).foldl (fun s k => s.upCore k fun c => (c.useSeqs n).leftBy n)
    ((s.ctx n).coreList.foldl (fun s k => s.release k 3) (((s.ctx n).coreList.foldl (fun s k => s.endEngines n k) s).flushArrivals n))

/-- The launches, barriers and records of a sealed context are gone (R305, R330). -/
def State.sealGroups (s : State) (n : Nat) : State :=
  let s := ((s.quadsOf n).foldl (fun s q => s.clearQuadBars q.1) s).faultLaunches n
  { s with recs := seraseRange s.recs (recKeyOf n 0) (recKeyOf (n + 1) 0) }

/-- A sealed context's barriers of its own and its exports are gone (R305). -/
def State.sealOwn (s : State) (n : Nat) : State :=
  let owned := s.bcfg
  let s := s.resetBars fun k => decide (1024 ≤ k) && (let v := (sget 0 owned k).toNat; bit v 7 && bits v 5 0 == n)
  { s with exports := s.exports.filter fun (e : Nat × BitVec 128) => bits e.2.toNat 69 64 != n }

/-- No array and no translation names a sealed context (R305). -/
def State.sealNames (s : State) (n : Nat) (x : Ctx) : State :=
  let s := { s with cores := s.cores.map fun (e : Nat × Core) => (e.1, { e.2 with xb := forgetArrays (.ofNat 6 n) e.2.xb }) }
  (s.dropRtb (fun r => r.asid == x.asid && r.gen == x.gen) fun _ => true).dropWalks fun a g => a == x.asid && g == x.gen

/-- Mailbox and header of a sealed context are cleared (R305). -/
def State.sealWrites (s : State) (n : Nat) (x : Ctx) : State :=
  (s.devWrite (x.mailbox + 0x4000) (toBytes 8 0)).saveWrite n x.desc.save.toNat (List.replicate 0x800 0)

theorem State.contextSeal_eq (s : State) (n : Nat) : s.contextSeal n =
    if (s.ctx n).st != .sealing || !(s.coresOf n).all (fun k => (s.core k).drained) then s else
    (((((s.sealCores n).sealGroups n).sealNames n (s.ctx n)).sealWrites n (s.ctx n)).sealOwn n).upCtx n fun y =>
      { Ctx.reset with rpool := y.rpool, cause := y.cause, lerr := y.lerr, freeze := y.freeze, frTail := y.frTail, frHead := y.frTail } := by
  unfold State.contextSeal State.sealOwn State.sealWrites State.sealNames State.sealGroups State.sealCores
  rfl

/-- A core of the context's own that a seal zeroes. -/
theorem State.sealCores_zeroed (s : State) (n : Nat) {k : Nat} (within : k ∈ (s.ctx n).coreList) (own : s.usedByOthers n k = false) :
    ∃ c : Core, (s.sealCores n).core k = c.leftBy n := by
  have hk : k ∈ (s.ctx n).coreList.filter fun k => !s.usedByOthers n k := List.mem_filter.2 ⟨within, by rw [own]; rfl⟩
  unfold State.sealCores
  generalize List.foldl _ (State.flushArrivals _ n) _ = u
  obtain ⟨before, after, -, -, left⟩ := State.foldl_own (g := fun s k => s.upCore k fun c => (c.useSeqs n).leftBy n) (fun s k j hj => State.core_upCore_ne s hj _)
    ((Ctx.coreList_nodup (s.ctx n)).filter _) hk u
  exact ⟨_, left.trans (State.core_upCore_self _ _ _)⟩

theorem State.sealGroups_leaves (s : State) (n : Nat) : (s.sealGroups n).cores = s.cores ∧ ∀ r, r < 65536 → ((s.sealGroups n).record n r).st = .blank := by
  have bars : ((s.quadsOf n).foldl (fun s q => s.clearQuadBars q.1) s).cores = s.cores :=
    List.foldlRecOn (motive := fun t : State => t.cores = s.cores) _ _ rfl fun t h q _ => h
  exact ⟨(GroupWork.faultLaunches _ n).cores.trans bars, fun r hr => record_blank _ n r hr⟩

theorem State.sealNames_core (s : State) (n : Nat) (x : Ctx) (k : Nat) :
    (s.sealNames n x).core k = ((s.core k).forget (.ofNat 6 n)).dropRtb fun r => r.asid == x.asid && r.gen == x.gen :=
  (State.core_dropRtb _ _ k).trans (congrArg (Core.dropRtb _) (State.core_mapCores (f := Core.forget (.ofNat 6 n)) rfl s k))

theorem HomeWork.sealWrites (s : State) (n : Nat) (x : Ctx) : HomeWork s (s.sealWrites n x) := by
  unfold State.sealWrites
  exact ((HomeWork.refl s).devWrite _ _).saveWrite n _ _

theorem State.sealOwn_leaves (s : State) (n : Nat) :
    (s.sealOwn n).cores = s.cores ∧ (s.sealOwn n).recs = s.recs ∧ ∀ e ∈ (s.sealOwn n).exports, bits e.2.toNat 69 64 ≠ n :=
  ⟨rfl, rfl, fun _ he => bne_iff_ne.1 (List.mem_filter.1 he).2⟩

/-- A seal ends once its cores are quiet, and leaves nothing of the context (R305). -/
theorem contextSeals : Spec.ContextSeals := by
  intro s ctx n x ending
  have acts : exec (.contextSealDone ctx) s = .next _ := congrArg Host.Outcome.next (s.contextSeal_eq n)
  rw [show (s.ctx n).st = _ from ending] at acts
  refine ⟨fun busy => ?_, fun quiet => ?_⟩
  · obtain ⟨k, hk, works⟩ := busy
    rw [show (s.coresOf n).all (fun k => (s.core k).drained) = false from List.all_eq_false.2 ⟨k, hk, by simp [works]⟩, if_pos (by decide)] at acts
    exact acts
  · rw [show (s.coresOf n).all (fun k => (s.core k).drained) = true from List.all_eq_true.2 quiet, if_neg (by decide)] at acts
    obtain ⟨cores, blank⟩ := (s.sealCores n).sealGroups_leaves n
    have core := ((s.sealCores n).sealGroups n).sealNames_core n (s.ctx n)
    have recs : (((s.sealCores n).sealGroups n).sealNames n (s.ctx n)).recs = ((s.sealCores n).sealGroups n).recs := rfl
    have work := HomeWork.sealWrites (((s.sealCores n).sealGroups n).sealNames n (s.ctx n)) n (s.ctx n)
    generalize ((s.sealCores n).sealGroups n).sealNames n (s.ctx n) = u at acts core recs work
    generalize u.sealWrites n (s.ctx n) = v at acts work
    obtain ⟨cores', recs', exports⟩ := v.sealOwn_leaves n
    replace core (k : Nat) := (State.core_congr (cores'.trans work.cores) k).trans (core k)
    replace recs := recs'.trans ((show v.besideHome.recs = u.besideHome.recs by rw [work.beside]).trans recs)
    have name : (BitVec.ofNat 6 n : CtxId) = ctx := by simp [n]
    refine ⟨_, acts, ?_, ?_, fun k e he same => ?_, fun k => ?_, exports, fun r hr => ?_, fun k hk own => ?_⟩
    · rw [State.ctx_upCtx_self]
      rfl
    · rw [State.ctx_upCtx_self]
      rfl
    · rw [State.core_upCtx, core] at he
      have kept := (List.mem_filter.1 he).2
      simp only [same.1, same.2, x] at kept
      simp at kept
    · rw [State.core_upCtx, core, ← name]
      exact forgetArrays_owner _ _
    · exact (congrArg (fun m => (sget Rec.reset m (recKeyOf n r)).st) recs).trans (blank r hr)
    · obtain ⟨c, zero⟩ := s.sealCores_zeroed n hk own
      rw [State.core_upCtx, core, State.core_congr cores, zero]
      obtain ⟨task, -, sp, h, vr, acc, bank, -⟩ := c.leftBy_clear n
      exact ⟨task, sp, h, vr, acc, bank⟩

/-- Settles O45, by the context's steps: each command, and the ends of a load, a save, a restore and a seal. -/
theorem contexts : Obligations.Contexts := ⟨contextCommands, contextLoads, contextSaves, contextRestores, contextSeals⟩

end Sys2Proof.Machine
end

section
/-! The ends of groups (R315, R330). -/

namespace Sys2Proof.Machine

open Sys2Proof Sys2Proof.Spec

/-- A group changed is changed in every launch of its number. -/
theorem State.upGroup_groups (s : State) (id first : Nat) (f : Group → Group) :
    ∀ m ∈ (s.upGroup id first f).launches, m.id = id → ∀ x ∈ m.groups, x.first = first → (∀ g, (f g).first = g.first) → ∃ g, x = f g := by
  intro m hm hid x hx hfirst keeps
  obtain ⟨l, -, rfl⟩ := List.mem_map.1 hm
  by_cases mine : l.id == id
  · rw [if_pos mine] at hx
    obtain ⟨g, -, rfl⟩ := List.mem_map.1 hx
    by_cases this : g.first == first
    · exact ⟨g, if_pos this⟩
    · rw [if_neg this] at hfirst
      exact absurd (beq_iff_eq.2 hfirst) this
  · rw [if_neg mine] at hid
    exact absurd (beq_iff_eq.2 hid) mine

theorem State.freeQuad_quads (s : State) (q : Nat) :
    sget none (s.freeQuad q).quads q = none ∧ ∀ p, p ≠ q → sget none (s.freeQuad q).quads p = sget none s.quads p :=
  ⟨(sget_serase _ _ _ _).trans (if_pos rfl), fun _ hp => (sget_serase _ _ _ _).trans (if_neg hp)⟩

theorem State.groupDone_eq {s : State} {q : Nat} {l : Launch} {g : Group} (on : s.groupOn q = some (l, g)) (quiet : s.quadQuiet q = true) (drains : g.st = .draining) :
    s.groupDone q = (s.upGroup l.id g.first fun g => { g with st := .done, freed := true }).freeQuad q := by
  unfold State.groupDone
  rw [on]
  dsimp only
  rw [drains, quiet, if_neg (by decide)]

/-- A live launch's queue entry ends with it (R330). -/
def State.endEntry (s : State) (l : Launch) : State :=
  if s.launchLive l then s.setQueue l.queue.toNat ((s.queue l.queue.toNat).entryEnds l.entry) else s

theorem State.endEntry_rest (s : State) (l : Launch) : { s.endEntry l with queues := s.queues } = s := by
  unfold State.endEntry
  split <;> rfl

theorem State.groupFree_eq {s : State} {q : Nat} {l : Launch} {g : Group} (on : s.groupOn q = some (l, g)) (quiet : s.quadQuiet q = true) (faulted : g.st = .faulted)
    (lives : (s.ctx l.ctx.toNat).st ≠ .sealing) :
    s.groupFree q = ((((s.upGroup l.id g.first fun g => { g with freed := true }).freeQuad q).endEntry l).setRecSt l.ctx.toNat l.recNo .faulted) := by
  unfold State.groupFree
  rw [on]
  dsimp only
  rw [faulted, quiet, if_neg (by simpa using lives)]
  rfl

theorem State.record_setRecSt (s : State) (n r : Nat) (st : RecSt) : ((s.setRecSt n r st).record n r).st = st :=
  congrArg Rec.st (sget_sset_self Rec.reset s.recs (recKeyOf n r) _)

/-- A group ends when its quad is quiet (R330). -/
theorem groupsEnd : Spec.GroupsEnd := by
  intro s quad l g on quiet
  refine ⟨fun drains => ?_, fun faulted lives => ?_⟩
  · have acts : exec (.groupDone quad) s = .next _ := congrArg Host.Outcome.next (State.groupDone_eq on quiet drains)
    refine ⟨_, acts, (State.freeQuad_quads _ _).1, (State.freeQuad_quads _ _).2, fun m hm hid x hx hfirst => ?_, rfl, rfl, rfl⟩
    obtain ⟨f, rfl⟩ := State.upGroup_groups s l.id g.first _ m hm hid x hx hfirst fun _ => rfl
    exact ⟨rfl, rfl⟩
  · have acts : exec (.groupQuadFree quad) s = .next _ := congrArg Host.Outcome.next (State.groupFree_eq on quiet faulted lives)
    have free := State.freeQuad_quads (s.upGroup l.id g.first fun g => { g with freed := true }) quad.toNat
    have freed := State.upGroup_groups s l.id g.first fun g => { g with freed := true }
    have work := (GroupWork.upGroup s l.id g.first fun g => { g with freed := true }).trans (GroupWork.freeQuad _ quad.toNat)
    have launches : ((s.upGroup l.id g.first fun g => { g with freed := true }).freeQuad quad.toNat).launches = (s.upGroup l.id g.first fun g => { g with freed := true }).launches := rfl
    rw [← launches] at freed
    generalize (s.upGroup l.id g.first fun g => { g with freed := true }).freeQuad quad.toNat = t at acts free freed work
    have ended := t.endEntry_rest l
    generalize t.endEntry l = u at acts ended
    have quads : u.quads = t.quads := (congrArg State.quads ended : _)
    have same : u.launches = t.launches := (congrArg State.launches ended : _)
    have cores : u.cores = t.cores := (congrArg State.cores ended : _)
    have mem : u.mem = t.mem := (congrArg State.mem ended : _)
    refine ⟨_, acts, ?_, fun p hp => ?_, State.record_setRecSt u _ _ _, fun m hm hid x hx hfirst => ?_, cores.trans work.cores, mem.trans work.mem⟩
    · exact (congrArg (fun m => sget none m quad.toNat) quads).trans free.1
    · exact (congrArg (fun m => sget none m p) quads).trans (free.2 p hp)
    · obtain ⟨f, rfl⟩ := freed m (same ▸ hm) hid x hx hfirst fun _ => rfl
      rfl

end Sys2Proof.Machine
end

section
/-! The ends of supersteps and kernels (R28, R29, R291, R315, R319). -/

namespace Sys2Proof.Machine

open Sys2Proof Sys2Proof.Spec

/-- `t` is `s` after the caches of some cores have worked. -/
structure CachesWork (s t : State) : Prop where
  beside : t.besideCaches = s.besideCaches
  core : ∀ j, { t.core j with l1 := (s.core j).l1 } = s.core j

namespace CachesWork

variable {s t u : State}

theorem refl (s : State) : CachesWork s s := ⟨rfl, fun _ => rfl⟩

theorem trans (h : CachesWork s t) (g : CachesWork t u) : CachesWork s u :=
  ⟨g.beside.trans h.beside, fun j => (congrArg (fun c : Core => { c with l1 := (s.core j).l1 }) (g.core j)).trans (h.core j)⟩

theorem of_one {k : Nat} (h : CacheWork k s t) : CachesWork s t := ⟨h.beside, fun j => by
  by_cases here : j = k
  · subst here
    exact h.core
  · rw [h.others j here]⟩

theorem ctx (h : CachesWork s t) (n : Nat) : t.ctx n = s.ctx n := State.ctx_congr (show t.besideCaches.ctxs = s.besideCaches.ctxs by rw [h.beside]) n
theorem launches (h : CachesWork s t) : t.launches = s.launches := show t.besideCaches.launches = s.besideCaches.launches by rw [h.beside]
theorem recs (h : CachesWork s t) : t.recs = s.recs := show t.besideCaches.recs = s.besideCaches.recs by rw [h.beside]
theorem quads (h : CachesWork s t) : t.quads = s.quads := show t.besideCaches.quads = s.besideCaches.quads by rw [h.beside]
theorem cp (h : CachesWork s t) (j : Nat) : (t.core j).cp = (s.core j).cp := (congrArg Core.cp (h.core j) : _)
theorem sp (h : CachesWork s t) (j : Nat) : (t.core j).sp = (s.core j).sp := (congrArg Core.sp (h.core j) : _)
theorem owner (h : CachesWork s t) (j n : Nat) : (t.core j).owner' n = (s.core j).owner' n := (congrArg (fun c : Core => c.owner' n) (h.core j) : _)

theorem releaseCtx (s : State) (n : Nat) : CachesWork s (s.releaseCtx n) :=
  List.foldlRecOn (motive := CachesWork s) _ _ (refl s) fun t h k _ => h.trans (of_one ((CacheWork.refl k t).release 3))

end CachesWork

theorem State.l1ToL2_clean (s : State) (k : Nat) : ∀ b ∈ ((s.l1ToL2 k fun _ => true).core k).l1, b.2.dirty = false := by
  intro b hb
  unfold State.l1ToL2 at hb
  dsimp only at hb
  split at hb
  · next clean =>
    have none : ((s.core k).l1.filter fun e => e.2.dirty && true) = [] := List.isEmpty_iff.1 clean
    simpa using List.filter_eq_nil_iff.1 none b hb
  · rw [State.core_upCore_self] at hb
    obtain ⟨e, -, rfl⟩ := List.mem_map.1 hb
    rfl

/-- A release at dev scope leaves no byte of the core's L1 dirty (R90). -/
theorem State.release_clean (s : State) (k : Nat) : ∀ b ∈ ((s.release k 3).core k).l1, b.2.dirty = false := by
  have eq : s.release k 3 = (s.l1ToL2 k fun _ => true).l2Release k fun _ => true := rfl
  rw [eq, State.core_congr ((HomeWork.refl (s.l1ToL2 k fun _ => true)).l2Release k _).cores]
  exact s.l1ToL2_clean k

theorem State.releaseCtx_released (s : State) (n : Nat) : Released s (s.releaseCtx n) n := by
  intro k hk
  obtain ⟨before, after, -, -, left⟩ := State.foldl_own (g := fun s k => s.release k 3) (fun s k j hj => ((CacheWork.refl k s).release 3).others j hj) (s.ctx n).coreList_nodup hk s
  unfold State.releaseCtx
  rw [left]
  exact State.release_clean _ k

theorem released_of_l1 {s t u : State} {n : Nat} (h : Released s t n) (same : ∀ j, (u.core j).l1 = (t.core j).l1) : Released s u n := by
  intro k hk b hb
  rw [same] at hb
  exact h k hk b hb

theorem Core.recheck_rest (k : Core) : { k.recheck with conts := k.conts, ready := k.ready } = k := by
  unfold Core.recheck
  split
  · rfl
  · exact Core.wake_rest k _

theorem State.core_spWrite_recheck (s : State) (k a : Nat) (bs : List (Option Byte)) (j : Nat) :
    { ((s.upCore k fun c => c.spWrite a bs).recheck k).core j with conts := (s.core j).conts, ready := (s.core j).ready } = if j = k then (s.core j).spWrite a bs else s.core j := by
  unfold State.recheck
  by_cases here : j = k
  · subst here
    rw [State.core_upCore_self, State.core_upCore_self, if_pos rfl]
    exact Core.recheck_rest ((s.core j).spWrite a bs)
  · rw [State.core_upCore_ne _ here, State.core_upCore_ne _ here, if_neg here]

/-- The completion signal of a kernel writes no L1 and no launch (R163, R319). -/
theorem State.kernelSignal_rest (s : State) (l : Launch) : (∀ j, ((s.kernelSignal l).core j).l1 = (s.core j).l1) ∧ (s.kernelSignal l).launches = s.launches := by
  unfold State.kernelSignal
  dsimp only
  split
  · exact ⟨fun _ => rfl, rfl⟩
  · split
    · exact ⟨fun _ => rfl, rfl⟩
    · refine ⟨fun j => (congrArg Core.l1 (State.core_spWrite_recheck s _ _ _ j) : _).trans ?_, rfl⟩
      split <;> rfl

theorem State.kernelSignal_none {s : State} {l : Launch} (unset : bit (recKcdst l.image.toNat) 63 = false) : s.kernelSignal l = s := by
  unfold State.kernelSignal
  dsimp only
  rw [unset]
  rfl

theorem getElem?_toBytes {n j : Nat} (hj : j < n) (v : Nat) : (toBytes n v)[j]? = some (.ofNat 8 (v / 256 ^ j)) := by
  induction n generalizing j v with
  | zero => exact absurd hj (Nat.not_lt_zero j)
  | succ n ih =>
    rw [toBytes]
    cases j with
    | zero => simp
    | succ j => rw [List.getElem?_cons_succ, ih (Nat.lt_of_succ_lt_succ hj), Nat.div_div_eq_div_mul, Nat.pow_succ']

/-- The completion signal where KCDST names a THREAD word of the context (R319). -/
theorem State.kernelSignal_byte {s : State} {l : Launch} (set : bit (recKcdst l.image.toNat) 63 = true) (aligned : bits (recKcdst l.image.toNat) 21 0 % 8 = 0)
    (small : bits (recKcdst l.image.toNat) 21 0 < 0x280000) (mine : bits (recKcdst l.image.toNat) 29 22 ∈ (s.ctx l.ctx.toNat).coreList)
    (thread : (s.core (bits (recKcdst l.image.toNat) 29 22)).owner' (bits (recKcdst l.image.toNat) 21 0 / 4096) = 0) {j : Nat} (hj : j < 8) :
    ((s.kernelSignal l).core (bits (recKcdst l.image.toNat) 29 22)).spByte (bits (recKcdst l.image.toNat) 21 0 + j) = .ofNat 8 (recKcval l.image.toNat / 256 ^ j) := by
  have acts : s.kernelSignal l = (s.upCore (bits (recKcdst l.image.toNat) 29 22) fun c =>
      c.spWrite (bits (recKcdst l.image.toNat) 21 0) (allOf (toBytes 8 (recKcval l.image.toNat)))).recheck (bits (recKcdst l.image.toNat) 29 22) := by
    have inside : ¬ bits (recKcdst l.image.toNat) 21 0 ≥ spSize := Nat.not_le.2 small
    unfold State.kernelSignal
    dsimp only
    rw [set, if_neg (by decide), if_neg]
    simp [aligned, inside, mine, thread, ownThread]
  rw [acts]
  generalize bits (recKcdst l.image.toNat) 29 22 = k
  generalize bits (recKcdst l.image.toNat) 21 0 = a
  have core := State.core_spWrite_recheck s k a (allOf (toBytes 8 (recKcval l.image.toNat))) k
  rw [if_pos rfl] at core
  refine (congrArg (fun c : Core => c.spByte (a + j)) core : _).trans ?_
  rw [Core.spByte_spWrite, if_pos (Nat.le_add_right a j), Nat.add_sub_cancel_left, allOf, List.getElem?_map, getElem?_toBytes hj]
  rfl

/-- The end of a superstep, where no chain waits (R28, R29). -/
theorem superstepEnds (s : State) (id : Nat) (l : Launch) (found : s.launch id = some l) (lives : s.launchLive l = true) (done : l.stepDone = true)
    (more : l.superstep + 1 < recSupersteps l.image.toNat) (run : (s.ctx l.ctx.toNat).enginesRun = true)
    (idle : ∀ k ∈ (s.ctx l.ctx.toNat).coreList, splitCp (s.core k).cp = none) :
    exec (.superstepRelease id) s = .next ((s.releaseCtx l.ctx.toNat).upLaunch l.id fun l => { l with superstep := l.superstep + 1, nextGroup := 0, groups := [] }) := by
  have work := CachesWork.releaseCtx s l.ctx.toNat
  have chains : ((s.releaseCtx l.ctx.toNat).ctx l.ctx.toNat).coreList.foldl (fun s k =>
      if (splitCp (s.core k).cp).isSome then (s.upCore k fun c => c.startChain l.ctx.toNat).copyStart k else s) (s.releaseCtx l.ctx.toNat) = s.releaseCtx l.ctx.toNat := by
    refine List.foldlRecOn (motive := fun t => t = s.releaseCtx l.ctx.toNat) _ _ rfl fun t h k hk => ?_
    subst h
    rw [work.ctx] at hk
    rw [work.cp, idle k hk]
    rfl
  refine congrArg Host.Outcome.next ?_
  rw [found]
  dsimp only
  rw [lives, run, done, chains, if_neg]
  simpa using more

/-- The end of a kernel (R319). -/
theorem kernelEnds (s : State) (id : Nat) (l : Launch) (found : s.launch id = some l) (lives : s.launchLive l = true) (done : l.stepDone = true)
    (last : recSupersteps l.image.toNat ≤ l.superstep + 1) (open_ : (s.ctx l.ctx.toNat).st ≠ .sealing) :
    exec (.kernelRetire id) s = .next ((((s.releaseCtx l.ctx.toNat).kernelSignal l).setRecSt l.ctx.toNat l.recNo .retired).upLaunch l.id fun x => { x with retiredNo := s.retiredNext }) := by
  refine congrArg Host.Outcome.next ?_
  rw [found]
  dsimp only
  rw [lives, done, if_neg]
  simpa [open_] using last

/-- Supersteps and kernels end with their writes released (R28, R29, R319). -/
theorem stepsEnd : Spec.StepsEnd := by
  intro s id l found lives done
  have work := CachesWork.releaseCtx s l.ctx.toNat
  have released := s.releaseCtx_released l.ctx.toNat
  have among : l ∈ s.launches := List.mem_of_find?_eq_some found
  have number : l.id = id := beq_iff_eq.1 (List.find?_some (p := fun x : Launch => x.id == id) found)
  refine ⟨fun more run idle => ?_, fun last open_ => ?_⟩
  · have acts := superstepEnds s id l found lives done more run idle
    generalize s.releaseCtx l.ctx.toNat = u at acts work released
    refine ⟨_, acts, released_of_l1 released fun _ => rfl, ⟨{ l with superstep := l.superstep + 1, nextGroup := 0, groups := [] }, ?_, number, rfl, rfl, rfl⟩, work.recs, work.quads⟩
    exact List.mem_map.2 ⟨l, by rw [work.launches]; exact among, if_pos (beq_self_eq_true l.id)⟩
  · have acts := kernelEnds s id l found lives done last open_
    generalize s.releaseCtx l.ctx.toNat = u at acts work released
    obtain ⟨l1, launches⟩ := u.kernelSignal_rest l
    have silent (unset) := State.kernelSignal_none (s := u) (l := l) unset
    have byte := State.kernelSignal_byte (s := u) (l := l)
    rw [work.ctx, work.owner] at byte
    generalize u.kernelSignal l = v at acts l1 launches silent byte
    refine ⟨_, acts, released_of_l1 released l1, State.record_setRecSt v l.ctx.toNat l.recNo .retired, fun m hm hid => ?_, fun unset j => ?_, fun set aligned small mine thread j hj => byte set aligned small mine thread hj⟩
    · obtain ⟨x, -, rfl⟩ := List.mem_map.1 hm
      by_cases this : x.id == l.id
      · rw [if_pos this]
      · rw [if_neg this] at hid
        exact absurd (beq_iff_eq.2 (hid.trans number.symm)) this
    · have same : v = u := silent unset
      rw [same] at acts ⊢
      exact work.sp j

end Sys2Proof.Machine
end

section
/-! The dispatcher's choice (R321, R322). -/

namespace Sys2Proof.Machine

open Sys2Proof Sys2Proof.Spec

theorem bestBy_mem {α : Type} {key : α → Nat} {l : List α} {x : α} (h : bestBy key l = some x) : x ∈ l := by
  induction l generalizing x with
  | nil => exact absurd h nofun
  | cons a r ih =>
    unfold bestBy at h
    split at h
    · cases h
      exact List.mem_cons_self
    · next b found =>
      split at h
      · cases h
        exact List.mem_cons_self
      · cases h
        exact List.mem_cons_of_mem a (ih found)

theorem bestBy_none {α : Type} {key : α → Nat} {l : List α} (h : bestBy key l = none) : l = [] := by
  cases l with
  | nil => rfl
  | cons a r =>
    unfold bestBy at h
    split at h
    · exact absurd h nofun
    · split at h <;> exact absurd h nofun

theorem foldl_min_le {α : Type} (f : α → Nat) (l : List α) (b : Nat) :
    l.foldl (fun m x => min m (f x)) b ≤ b ∧ (∀ x ∈ l, l.foldl (fun m x => min m (f x)) b ≤ f x) ∧
      (l.foldl (fun m x => min m (f x)) b = b ∨ ∃ x ∈ l, l.foldl (fun m x => min m (f x)) b = f x) := by
  induction l generalizing b with
  | nil => exact ⟨le_rfl, nofun, .inl rfl⟩
  | cons a r ih =>
    obtain ⟨le, each, one⟩ := ih (min b (f a))
    rw [List.foldl_cons]
    refine ⟨le.trans (min_le_left _ _), fun x hx => ?_, ?_⟩
    · rcases List.mem_cons.1 hx with rfl | hx
      · exact le.trans (min_le_right _ _)
      · exact each x hx
    · rcases one with here | ⟨x, hx, same⟩
      · rcases min_choice b (f a) with left | right
        · exact .inl (here.trans left)
        · exact .inr ⟨a, List.mem_cons_self, here.trans right⟩
      · exact .inr ⟨x, List.mem_cons_of_mem a hx, same⟩

/-- The least class among candidates is that of the one candidate below all others. -/
theorem least_class {α : Type} {f : α → Nat} {a l : α} {r : List α} (among : l ∈ a :: r) (least : ∀ x ∈ a :: r, x = l ∨ f l < f x) :
    (a :: r).foldl (fun m x => min m (f x)) (f a) = f l := by
  obtain ⟨le, each, one⟩ := foldl_min_le f (a :: r) (f a)
  have below := each l among
  have some_ : ∃ x ∈ a :: r, (a :: r).foldl (fun m x => min m (f x)) (f a) = f x := by
    rcases one with here | there
    · exact ⟨a, List.mem_cons_self, here⟩
    · exact there
  obtain ⟨x, hx, same⟩ := some_
  rcases least x hx with rfl | above
  · exact same
  · omega

theorem eraseDups_const {q : Nat} {l : List Nat} (same : ∀ x ∈ l, x = q) (some_ : l ≠ []) : l.eraseDups = [q] := by
  cases l with
  | nil => exact absurd rfl some_
  | cons a r =>
    obtain rfl := same a List.mem_cons_self
    have others : (r.filter fun b => !b == a) = [] := List.filter_eq_nil_iff.2 fun b hb => by simp [same b (List.mem_cons_of_mem a hb)]
    rw [List.eraseDups_cons, others]
    rfl

/-- `u` is `s` after the credits of queues have changed. -/
structure Tallied (s u : State) : Prop where
  rest : { u with queues := s.queues } = s
  prio : ∀ q, (u.queue q).prio = (s.queue q).prio

namespace Tallied

variable {s t u : State}

theorem refl (s : State) : Tallied s s := ⟨rfl, fun _ => rfl⟩

theorem credit (h : Tallied s t) (q c : Nat) : Tallied s (t.setQueue q { t.queue q with credit := c }) := by
  refine ⟨h.rest, fun p => Eq.trans ?_ (h.prio p)⟩
  unfold State.queue State.setQueue
  dsimp only
  rw [sget_sset]
  split
  · next here =>
    subst here
    rfl
  · rfl

theorem credits (h : Tallied s t) (l : List Nat) (c : State → Nat → Nat) : Tallied s (l.foldl (fun s q => s.setQueue q { s.queue q with credit := c s q }) t) :=
  List.foldlRecOn (motive := Tallied s) l _ h fun _ g q _ => g.credit q _

end Tallied

/-- The one candidate of the least class is picked, and credits change at most (R322). -/
theorem State.pick_least {s : State} {l : Launch} {cands : List Launch} (among : l ∈ cands) (least : ∀ x ∈ cands, x = l ∨ s.effClass l < s.effClass x) :
    ∃ u, s.pick cands = (u, some l) ∧ Tallied s u := by
  obtain ⟨a, r, rfl⟩ := List.exists_cons_of_ne_nil (List.ne_nil_of_mem among)
  unfold State.pick
  dsimp only
  rw [least_class among least]
  have mine : ∀ x ∈ (a :: r).filter fun x => s.effClass x == s.effClass l, x = l := fun x hx => by
    obtain ⟨inside, same⟩ := List.mem_filter.1 hx
    rcases least x inside with here | above
    · exact here
    · exact absurd (beq_iff_eq.1 same) (Nat.ne_of_gt above)
  have inC : l ∈ (a :: r).filter fun x => s.effClass x == s.effClass l := List.mem_filter.2 ⟨among, beq_self_eq_true _⟩
  generalize (a :: r).filter (fun x => s.effClass x == s.effClass l) = c at mine inC
  split
  · next x best =>
    have : x = l := mine x (List.mem_of_mem_filter (bestBy_mem best))
    exact ⟨s, by rw [this], .refl s⟩
  · have queues : (c.map fun x => x.queue.toNat).eraseDups = [l.queue.toNat] :=
      eraseDups_const (fun q hq => by
        obtain ⟨x, hx, rfl⟩ := List.mem_map.1 hq
        rw [mine x hx]) fun none => List.ne_nil_of_mem inC (List.map_eq_nil_iff.1 none)
    have found : c.find? (fun x => x.queue.toNat == l.queue.toNat) = some l := by
      obtain ⟨b, d, rfl⟩ := List.exists_cons_of_ne_nil (List.ne_nil_of_mem inC)
      have : b = l := mine b List.mem_cons_self
      rw [this]
      exact List.find?_cons_of_pos (beq_self_eq_true _)
    rw [queues]
    have tally : Tallied s (if [l.queue.toNat].all (fun q => (s.queue q).credit == 0) then
        [l.queue.toNat].foldl (fun s q => s.setQueue q { s.queue q with credit := (s.queue q).weight }) s else s) := by
      split
      · exact (Tallied.refl s).credits _ fun s q => (s.queue q).weight
      · exact .refl s
    generalize (if [l.queue.toNat].all (fun q => (s.queue q).credit == 0) then
        [l.queue.toNat].foldl (fun s q => s.setQueue q { s.queue q with credit := (s.queue q).weight }) s else s) = u at tally
    refine ⟨_, ?_, tally.credit l.queue.toNat ((u.queue l.queue.toNat).credit - 1)⟩
    simp only [bestBy, found]

/-- With no claim standing, the dispatcher chooses among the candidates (R321, R325). -/
theorem candidates_unclaimed {s : State} (free : s.claims = []) :
    (s.launches.filter fun x => (s.dispatchable x && !s.claims.contains x.id) || s.restorable x) = candidates s := by
  rw [free]
  exact List.filter_congr fun x _ => by simp

theorem State.retryClaims_free {s : State} (free : s.claims = []) : s.retryClaims = s := by
  unfold State.retryClaims
  rw [free]
  rfl

theorem State.choose_picked {s u : State} {l : Launch} (free : s.claims = []) (picks : s.pick (candidates s) = (u, some l)) : s.choose = u.serve l := by
  unfold State.choose
  rw [State.retryClaims_free free]
  dsimp only
  rw [candidates_unclaimed free, picks]

theorem State.choose_none {s : State} (free : s.claims = []) (empty : candidates s = []) : s.choose = s := by
  unfold State.choose
  rw [State.retryClaims_free free]
  dsimp only
  rw [candidates_unclaimed free, empty, State.pick]

theorem State.choose_serves {s : State} {l : Launch} (free : s.claims = []) (among : l ∈ candidates s) (least : ∀ x ∈ candidates s, x = l ∨ s.effClass l < s.effClass x) :
    ∃ u, s.choose = u.serve l ∧ Tallied s u := by
  obtain ⟨u, picks, tally⟩ := State.pick_least among least
  exact ⟨u, State.choose_picked free picks, tally⟩

end Sys2Proof.Machine
end

section
/-! What the chosen launch gets (R322 to R325), and the obligation on the dispatcher. -/

namespace Sys2Proof.Machine

open Sys2Proof Sys2Proof.Spec

/-! Claims, and the context that is pre-empted for one (R324). -/

theorem Tallied.victim {s u : State} (h : Tallied s u) (c : List Nat) (l : Launch) : ({ u with claims := c } : State).victim l = s.victim l := by
  have queues : u = { s with queues := u.queues } := (congrArg (fun z : State => { z with queues := u.queues }) h.rest : _)
  have prio : ({ u with claims := c } : State).prio = s.prio := funext fun l => h.prio l.queue.toNat
  rw [queues] at prio ⊢
  generalize u.queues = q at prio ⊢
  have eff : ({ ({ s with queues := q } : State) with claims := c } : State).effClass = s.effClass := by
    funext l
    unfold State.effClass
    rw [prio]
    rfl
  have top : ({ ({ s with queues := q } : State) with claims := c } : State).topClass = s.topClass := by
    funext n
    unfold State.topClass
    rw [prio, eff]
    rfl
  unfold State.victim
  rw [top, eff]
  rfl

/-- A launch that finds no quad, no claim standing: it keeps its claim, and the victim is pre-empted or goes on being so (R324; log 76). -/
theorem State.claimFor_free {s : State} (free : s.claims = []) (l : Launch) :
    let v : State := { s with claims := [l.id] }
    (v.victim l = none → s.claimFor l = v) ∧ ∀ m, v.victim l = some m → s.claimFor l = if (v.ctx m).st == .preempting then v else v.preemptCtx m := by
  intro v
  have new : s.claims.contains l.id = false := by rw [free]; rfl
  have claims : ({ s with claims := s.claims ++ [l.id] } : State) = v := by rw [free]; rfl
  refine ⟨fun none => ?_, fun m victim => ?_⟩ <;> unfold State.claimFor <;> dsimp only <;> rw [new, if_neg Bool.false_ne_true, claims, Bool.false_and, if_neg Bool.false_ne_true]
  · rw [none]
  · rw [victim]

/-! Placement (R323, R328). -/

theorem State.claimed_free {s : State} (free : s.claims = []) (id q : Nat) : s.claimed id q = false := by
  unfold State.claimed
  rw [free]
  rfl

theorem State.quadFor_lowest {s : State} {l : Launch} {q : Nat} (free : s.claims = []) (here : q < 64 ∧ hasQuad (s.ctx l.ctx.toNat) q = true ∧ sget none s.quads q = none)
    (lower : ∀ p, p < q → hasQuad (s.ctx l.ctx.toNat) p = true → sget none s.quads p ≠ none) : s.quadFor l = some q := by
  obtain ⟨small, has, empty⟩ := here
  unfold State.quadFor
  refine List.find?_range_eq_some.2 ⟨?_, List.mem_range.2 small, fun p hp => ?_⟩
  · rw [State.claimed_free free, State.quadFree, has, empty]
    rfl
  · rw [State.claimed_free free, State.quadFree]
    cases taken : hasQuad (s.ctx l.ctx.toNat) p
    · rfl
    · simpa [Option.ne_none_iff_isSome] using lower p hp taken

theorem State.quadFor_none {s : State} {l : Launch} (taken : ∀ q, q < 64 → hasQuad (s.ctx l.ctx.toNat) q = true → sget none s.quads q ≠ none) : s.quadFor l = none := by
  unfold State.quadFor
  refine List.find?_eq_none.2 fun q hq free => ?_
  have quad := (Bool.and_eq_true_iff.1 free).1
  unfold State.quadFree at quad
  obtain ⟨has, empty⟩ := Bool.and_eq_true_iff.1 quad
  exact taken q (List.mem_range.1 hq) has (Option.isNone_iff_eq_none.1 empty)

/-- The first ordinal of a launch's next group (R323). -/
def Launch.nextFirst (l : Launch) : Nat := (l.superstep * recGroups l.image.toNat + l.nextGroup) * recGroupSize l.image.toNat

/-- A launch's next group on a quad. -/
def State.nextGroup (s : State) (l : Launch) (q : Nat) : Group :=
  { first := l.nextFirst, quad := q, st := .placed, ended := 0
    unqueued := (List.range (recGroupSize l.image.toNat)).map fun j => s.taskOf l l.nextFirst (recGroupSize l.image.toNat) q (l.nextFirst + j), freed := false }

/-- A group's record goes from QUEUED to DISPATCHING with its first placement (R315). -/
def State.noteDispatching (s : State) (n r : Nat) : State := if (s.record n r).st == .queued then s.setRecSt n r .dispatching else s

/-- A group is placed, before its tasks enter the ready queues (R323, R328, R341). -/
def State.placed (s : State) (l : Launch) (q : Nat) : State :=
  let g := s.nextGroup l q
  let now := s.us
  let t := (s.clearQuadBars q).upLaunch l.id fun l => { l with nextGroup := l.nextGroup + 1, groups := l.groups ++ [g], waitFrom := now }
  let t := { t with quads := sset none t.quads q (some { launch := l.id, first := l.nextFirst, tag := s.nextTag }), nextTag := s.nextTag + 1, claims := t.claims.filter (· != l.id) }
  (t.upCtx l.ctx.toNat fun x => { x with lastPlaced := s.nextTag }).noteDispatching l.ctx.toNat l.recNo

theorem State.place_eq (s : State) (l : Launch) (q : Nat) : s.place l q = (s.placed l q).refill l.id l.nextFirst := rfl

theorem State.noteDispatching_rest (s : State) (n r : Nat) : { s.noteDispatching n r with recs := s.recs } = s := by
  unfold State.noteDispatching
  split <;> rfl

theorem State.noteDispatching_st {s : State} {n r : Nat} (queued : (s.record n r).st = .queued) : ((s.noteDispatching n r).record n r).st = .dispatching := by
  unfold State.noteDispatching
  rw [queued, if_pos (by decide)]
  exact s.record_setRecSt n r .dispatching

theorem State.placed_leaves (s : State) (l : Launch) (q : Nat) :
    let t := s.placed l q
    t.quads = sset none s.quads q (some { launch := l.id, first := l.nextFirst, tag := s.nextTag }) ∧ t.nextTag = s.nextTag + 1 ∧
      t.barriers = (s.clearQuadBars q).barriers ∧ t.mem = s.mem ∧
      t.launches = (s.upLaunch l.id fun m => { m with nextGroup := m.nextGroup + 1, groups := m.groups ++ [s.nextGroup l q], waitFrom := s.us }).launches ∧
      ((s.record l.ctx.toNat l.recNo).st = .queued → (t.record l.ctx.toNat l.recNo).st = .dispatching) := by
  intro t
  let u : State := (({ (s.clearQuadBars q).upLaunch l.id fun m => { m with nextGroup := m.nextGroup + 1, groups := m.groups ++ [s.nextGroup l q], waitFrom := s.us } with
    quads := sset none s.quads q (some { launch := l.id, first := l.nextFirst, tag := s.nextTag }), nextTag := s.nextTag + 1
    claims := s.claims.filter (· != l.id) } : State).upCtx l.ctx.toNat fun x => { x with lastPlaced := s.nextTag })
  have rest := u.noteDispatching_rest l.ctx.toNat l.recNo
  have same : t = u.noteDispatching l.ctx.toNat l.recNo := rfl
  rw [← same] at rest
  refine ⟨(congrArg State.quads rest : _), (congrArg State.nextTag rest : _), (congrArg State.barriers rest : _), (congrArg State.mem rest : _), (congrArg State.launches rest : _), fun queued => ?_⟩
  rw [same]
  exact State.noteDispatching_st queued

theorem sget_absent {α : Type} {d : α} {m : Sparse α} {k : Nat} (h : ∀ e ∈ m, e.1 ≠ k) : sget d m k = d := by
  induction m with
  | nil => rfl
  | cons e r ih =>
    obtain ⟨j, v⟩ := e
    rw [sget, if_neg fun here => h _ List.mem_cons_self here.symm]
    exact ih fun e he => h e (List.mem_cons_of_mem _ he)

theorem State.clearQuadBars_bar (s : State) (q b : Nat) (small : b < 16) (within : q < 64) : sget 0 (s.clearQuadBars q).barriers (16 * q + b) = 0 := by
  have gone : ∀ e ∈ (s.clearQuadBars q).barriers, e.1 ≠ 16 * q + b := by
    intro e he here
    have kept := (List.mem_filter.1 he).2
    rw [here] at kept
    have quad : (16 * q + b) / 16 = q := by omega
    have low : 16 * q + b < 1024 := by omega
    simp [quad, low] at kept
  exact sget_absent gone

/-- Entering ready queues keeps every launch, with its groups where they stand. -/
theorem State.refill_launch (s : State) (id first : Nat) {m : Launch} (hm : m ∈ s.launches) :
    ∃ x ∈ (s.refill id first).launches, x.id = m.id ∧ x.nextGroup = m.nextGroup ∧ ∀ g ∈ m.groups, ∃ f ∈ x.groups, f.first = g.first ∧ f.quad = g.quad := by
  unfold State.refill
  split
  · exact ⟨m, hm, rfl, rfl, fun g hg => ⟨g, hg, rfl, rfl⟩⟩
  · split
    · exact ⟨m, hm, rfl, rfl, fun g hg => ⟨g, hg, rfl, rfl⟩⟩
    · refine ⟨_, List.mem_map.2 ⟨m, hm, rfl⟩, ?_, ?_, fun g hg => ?_⟩
      · split <;> rfl
      · split <;> rfl
      · split
        · exact ⟨_, List.mem_map.2 ⟨g, hg, rfl⟩, by split <;> rfl, by split <;> rfl⟩
        · exact ⟨g, hg, rfl, rfl⟩

/-- The next group of a launch on a quad (R322, R323, R328). -/
theorem State.place_places (s : State) {l : Launch} (among : l ∈ s.launches) (q : Nat) :
    let t := s.place l q
    sget none t.quads q = some { launch := l.id, first := l.nextFirst, tag := s.nextTag } ∧ (∀ p, p ≠ q → sget none t.quads p = sget none s.quads p) ∧
      t.nextTag = s.nextTag + 1 ∧ (∀ b, b < 16 → q < 64 → sget 0 t.barriers (16 * q + b) = 0) ∧
      (∃ m ∈ t.launches, m.id = l.id ∧ m.nextGroup = l.nextGroup + 1 ∧ ∃ g ∈ m.groups, g.first = l.nextFirst ∧ g.quad = q) ∧ t.mem = s.mem ∧
      ((s.record l.ctx.toNat l.recNo).st = .queued → (t.record l.ctx.toNat l.recNo).st = .dispatching) := by
  obtain ⟨quads, tag, barriers, mem, launches, record⟩ := s.placed_leaves l q
  have entered := (s.placed l q).refill_queued l.id l.nextFirst
  have launch := (s.placed l q).refill_launch l.id l.nextFirst (m := { l with nextGroup := l.nextGroup + 1, groups := l.groups ++ [s.nextGroup l q], waitFrom := s.us })
    (launches ▸ List.mem_map.2 ⟨l, among, if_pos (beq_self_eq_true l.id)⟩)
  rw [State.place_eq]
  generalize (s.placed l q).refill l.id l.nextFirst = t at entered launch
  have rest := entered.rest
  have quads' : t.quads = (s.placed l q).quads := (congrArg State.quads rest : _)
  have bars : t.barriers = (s.placed l q).barriers := (congrArg State.barriers rest : _)
  have recs : t.recs = (s.placed l q).recs := (congrArg State.recs rest : _)
  refine ⟨?_, fun p hp => ?_, (congrArg State.nextTag rest : _).trans tag, fun b small within => ?_, ?_, (congrArg State.mem rest : _).trans mem, fun queued => ?_⟩
  · rw [quads', quads, sget_sset_self]
  · rw [quads', quads, sget_sset, if_neg hp]
  · rw [bars, barriers]
    exact s.clearQuadBars_bar q b small within
  · obtain ⟨m, hm, id, next, groups⟩ := launch
    obtain ⟨g, hg, first, quad⟩ := groups (s.nextGroup l q) (List.mem_append_right _ List.mem_cons_self)
    exact ⟨m, hm, id, next, g, hg, first, quad⟩
  · exact (congrArg (fun m => (sget Rec.reset m (recKeyOf l.ctx.toNat l.recNo)).st) recs).trans (record queued)

/-- A claim leaves quads, launches and memory, and pre-empts a victim at most (R324; log 76). -/
theorem State.claimFor_claims {s : State} (free : s.claims = []) (l : Launch) :
    let t := s.claimFor l
    let v := ({ s with claims := [l.id] } : State).victim l
    t.claims = [l.id] ∧ t.quads = s.quads ∧ t.launches = s.launches ∧ t.mem = s.mem ∧ (v = none → t.cores = s.cores ∧ t.ctxs = s.ctxs) ∧
      ∀ m, v = some m → (t.ctx m).st = .preempting ∧ ((s.ctx m).st = .preempting → t.cores = s.cores ∧ t.ctxs = s.ctxs) := by
  obtain ⟨alone, hit⟩ := State.claimFor_free free l
  dsimp only
  cases victim : ({ s with claims := [l.id] } : State).victim l with
  | none =>
    rw [alone victim]
    exact ⟨rfl, rfl, rfl, rfl, fun _ => ⟨rfl, rfl⟩, nofun⟩
  | some m =>
    rw [hit m victim]
    by_cases on : (s.ctx m).st = .preempting
    · have stays : ((({ s with claims := [l.id] } : State).ctx m).st == .preempting) = true := beq_iff_eq.2 on
      rw [if_pos stays]
      refine ⟨rfl, rfl, rfl, rfl, nofun, fun k hk => ?_⟩
      cases hk
      exact ⟨on, fun _ => ⟨rfl, rfl⟩⟩
    · have asks : ¬ ((({ s with claims := [l.id] } : State).ctx m).st == .preempting) = true := fun h => on (beq_iff_eq.1 h)
      rw [if_neg asks]
      obtain ⟨st, -, -, -, rest⟩ := ({ s with claims := [l.id] } : State).preemptCtx_asks m
      generalize ({ s with claims := [l.id] } : State).preemptCtx m = t at st rest
      refine ⟨(congrArg State.claims rest : _), (congrArg State.quads rest : _), (congrArg State.launches rest : _), (congrArg State.mem rest : _), nofun, fun k hk => ?_⟩
      cases hk
      exact ⟨st, fun h => absurd h on⟩

/-- The dispatcher's choice, no claim standing (R322 to R325). -/
theorem dispatcherChooses : Spec.DispatcherChooses := by
  intro s free
  refine ⟨fun empty => ⟨s, congrArg Host.Outcome.next (State.choose_none free empty), rfl⟩, fun l among least => ?_⟩
  obtain ⟨u, serves, tally⟩ := State.choose_serves free among least
  have acts : exec .dispatchChoice s = .next (u.serve l) := congrArg Host.Outcome.next serves
  have launches : u.launches = s.launches := (congrArg State.launches tally.rest : _)
  have cores : u.cores = s.cores := (congrArg State.cores tally.rest : _)
  have ctxs : u.ctxs = s.ctxs := (congrArg State.ctxs tally.rest : _)
  have quads : u.quads = s.quads := (congrArg State.quads tally.rest : _)
  have mem : u.mem = s.mem := (congrArg State.mem tally.rest : _)
  have tag : u.nextTag = s.nextTag := (congrArg State.nextTag tally.rest : _)
  have recs : u.recs = s.recs := (congrArg State.recs tally.rest : _)
  have standing : u.claims = s.claims := (congrArg State.claims tally.rest : _)
  have claims : u.claims = [] := standing.trans free
  have ctx (m : Nat) : u.ctx m = s.ctx m := State.ctx_congr ctxs m
  have here : l ∈ u.launches := launches ▸ List.mem_of_mem_filter among
  intro n first
  have serve (other : (s.ctx n).st ≠ .saved) : u.serve l = u.placeOrClaim l := by
    unfold State.serve
    rw [ctx, if_neg fun h => other (beq_iff_eq.1 h)]
  refine ⟨fun saved => ?_, fun q other lowest below => ?_, fun other taken => ?_⟩
  · have restores : u.serve l = u.upCtx n fun x => { x with restoring := true } := by
      unfold State.serve
      rw [ctx, if_pos (beq_iff_eq.2 saved)]
    rw [restores] at acts
    refine ⟨_, acts, ?_, ?_, cores, quads⟩
    · rw [State.ctx_upCtx_self]
    · rw [State.ctx_upCtx_self, ctx]
      exact saved
  · have places : u.placeOrClaim l = u.place l q := by
      unfold State.placeOrClaim
      rw [State.quadFor_lowest claims (by rw [ctx, quads]; exact lowest) (by rw [ctx, quads]; exact below)]
    rw [serve other, places] at acts
    have placed := u.place_places here q
    rw [tag, quads, mem] at placed
    obtain ⟨at_, others, next, bars, launch, same, record⟩ := placed
    exact ⟨_, acts, at_, others, next, bars, launch, same, fun queued => record ((congrArg (fun m => (sget Rec.reset m (recKeyOf n l.recNo)).st) recs).trans queued)⟩
  · have claim : u.placeOrClaim l = u.claimFor l := by
      unfold State.placeOrClaim
      rw [State.quadFor_none (by rw [ctx, quads]; exact taken)]
    rw [serve other, claim] at acts
    have claimed := State.claimFor_claims claims l
    dsimp only at claimed
    rw [tally.victim, ctxs, cores, quads, launches, mem] at claimed
    obtain ⟨claims', quads', launches', mem', alone, hit⟩ := claimed
    refine ⟨_, acts, claims', quads', launches', mem', alone, fun m victim => ⟨(hit m victim).1, fun on => (hit m victim).2 (by rw [ctx]; exact on)⟩⟩

/-- Settles O44, by the choice among the candidates, and by the groups, supersteps and kernels whose ends the dispatcher sees. -/
theorem dispatching : Obligations.Dispatching := ⟨dispatcherChooses, groupsEnd, stepsEnd⟩

end Sys2Proof.Machine
end

section
/-! What a word that enters a queue, or joins the version, leaves as it is (R40, R246). -/

namespace Sys2Proof.Machine

open Sys2Proof Sys2Proof.Spec

variable {s u w : State} {i : Instr}

theorem Core.vname_congr {k j : Core} (vr : j.vr = k.vr) (q : j.q = k.q) (latch : j.latch = k.latch) (m : Nat) : j.vname m = k.vname m := by
  unfold Core.vname
  rw [vr, q, latch]

theorem sameCore_vname (h : SameCore s u) (m : Nat) : u.mine.vname m = s.mine.vname m :=
  Core.vname_congr (congrArg Core.vr h.2 : _) (congrArg Core.q h.2 : _) (congrArg Core.latch h.2 : _) m

/-! What the body of a word reads is what stood there when the word began. -/

theorem State.bodyOf_handle (s : State) (i : Instr) (r : Reg) : (s.bodyOf i).mine.handle r = (s.begun i).mine.handle r :=
  congrArg (sget 0 · r.toNat) (congrArg Core.h (s.bodyOf_quiet i).core.2 : _)
theorem State.bodyOf_vname (s : State) (i : Instr) (m : Nat) : (s.bodyOf i).mine.vname m = (s.begun i).mine.vname m :=
  sameCore_vname (s.bodyOf_quiet i).core m
theorem State.bodyOf_owner (s : State) (i : Instr) (n : Nat) : (s.bodyOf i).mine.owner' n = (s.begun i).mine.owner' n :=
  congrArg (sget 0 · n) (congrArg Core.owner (s.bodyOf_quiet i).core.2 : _)
theorem State.bodyOf_me (s : State) (i : Instr) : (s.bodyOf i).me = (s.begun i).me :=
  congrArg BitVec.toNat (congrArg State.cur (s.bodyOf_quiet i).outside.2 : _)
theorem State.bodyOf_task (s : State) (i : Instr) : (s.bodyOf i).mine.task = (s.begun i).mine.task := (congrArg Core.task (s.bodyOf_quiet i).core.2 : _)
theorem State.bodyOf_version (s : State) (i : Instr) : (s.bodyOf i).mine.version = (s.begun i).mine.version := (congrArg Core.version (s.bodyOf_quiet i).core.2 : _)
theorem State.bodyOf_frames (s : State) (i : Instr) : (s.bodyOf i).frames = (s.begun i).frames := (congrArg State.frames (s.bodyOf_quiet i).outside.2 : _)
theorem State.bodyOf_quads (s : State) (i : Instr) : (s.bodyOf i).quads = (s.begun i).quads := (congrArg State.quads (s.bodyOf_quiet i).outside.2 : _)
theorem State.bodyOf_bcfg (s : State) (i : Instr) : (s.bodyOf i).bcfg = (s.begun i).bcfg := (congrArg State.bcfg (s.bodyOf_quiet i).outside.2 : _)
theorem State.bodyOf_versionFull (s : State) (i : Instr) (v : List VEnt) : (s.bodyOf i).versionFull v = (s.begun i).versionFull v := by
  unfold State.versionFull State.versionLines State.frameAcc State.frame
  rw [bodyOf_frames]
theorem State.bodyOf_barTag (s : State) (i : Instr) (key : Nat) : (s.bodyOf i).barTag key = (s.begun i).barTag key := by
  unfold State.barTag State.quadTag
  rw [bodyOf_quads]
theorem State.bodyOf_versioned (s : State) (i : Instr) : (s.bodyOf i).versioned = (s.begun i).versioned := by
  unfold State.versioned
  rw [bodyOf_task]
theorem State.bodyOf_barAllowed (s : State) (i : Instr) (key : Nat) :
    (s.bodyOf i).barAllowed (s.bodyOf i).me key = (s.begun i).barAllowed (s.begun i).me key := by
  have task : ((s.bodyOf i).core (s.bodyOf i).me).task = ((s.begun i).core (s.begun i).me).task := s.bodyOf_task i
  unfold State.barAllowed State.barOwned
  rw [task, bodyOf_quads, bodyOf_bcfg, bodyOf_me]
theorem State.bodyOf_loadQ (s : State) (i : Instr) : (s.bodyOf i).myCl.loadQ = (s.begun i).myCl.loadQ := by
  obtain ⟨pc, own⟩ := s.bodyOf_own i
  exact (congrArg Cl.loadQ own : _)
theorem State.bodyOf_storeQ (s : State) (i : Instr) : (s.bodyOf i).myCl.storeQ = (s.begun i).myCl.storeQ := by
  obtain ⟨pc, own⟩ := s.bodyOf_own i
  exact (congrArg Cl.storeQ own : _)
theorem State.bodyOf_nseq (s : State) (i : Instr) : (s.bodyOf i).myCl.nseq = (s.begun i).myCl.nseq := by
  obtain ⟨pc, own⟩ := s.bodyOf_own i
  exact (congrArg Cl.nseq own : _)
theorem State.bodyOf_active (s : State) (i : Instr) (h : Hdr) : (s.bodyOf i).active h = (s.begun i).active h := by
  obtain ⟨pc, own⟩ := s.bodyOf_own i
  exact (congrArg (guardMask · h) own : _)

/-- A core whose task is not versioned commits nothing (R40). -/
theorem State.commit_plain (plain : s.versioned = false) : s.commit s.me = s := by
  unfold State.versioned at plain
  unfold State.commit
  cases task : (s.core s.me).task with
  | none => rfl
  | some t =>
    rw [show s.mine.task = some t from task] at plain
    exact if_neg (by rw [show t.ver = false from plain]; exact Bool.false_ne_true)

/-! A word's end. -/

/-- As a word that neither waits nor stops retires, its cluster's tokens and results in flight may change, and nothing else of it. -/
theorem State.retire_own (wait : w.myCl.wait = none) (stopped : w.myCl.stopped = false) (i : Instr) :
    { (w.retire i).myCl with flight := w.myCl.flight, need := w.myCl.need, outL := w.myCl.outL, outR := w.myCl.outR, popped := w.myCl.popped } = w.myCl := by
  have cur : (w.retire i).curCl = w.curCl := (State.retire_still stopped i).quiet.outside.curCl
  have still : Core.Still w.curCl w.mine (w.retire i).mine := by
    rw [State.retire_mine wait stopped i]
    exact (Core.Still.upCl w.curCl w.mine (fun x => { x with need := 0, popped := [] }) rfl).trans (.pushAfter _ _ _ _ _)
  unfold State.myCl
  rw [cur]
  exact still.cluster

/-- From `u`, the state a word's body reads, to `t`, where it has passed: its cluster's queues are now `l`, `q` and `n`, and only tokens and
    results in flight changed beside (R246). -/
structure Entered (l : List LoadEnt) (q : List StoreEnt) (n : Nat) (pc : VAddr) (u t : State) : Prop where
  loadQ : t.myCl.loadQ = l
  storeQ : t.myCl.storeQ = q
  nseq : t.myCl.nseq = n
  pc : t.myCl.pc = pc
  outside : SameOutside u t
  core : SameCore u t
  beside : SameBesideQueues u t

/-- A word that does not stay, and whose body changes nothing but the queues, enters them. -/
theorem Ready.enters (ready : Ready s i) (moves : i.stays = false) {body : State → Eff} {f : Cl → Cl} {l : List LoadEnt} {q : List StoreEnt} {n : Nat}
    (acts : body (s.bodyOf i) = .ok ((s.bodyOf i).upMyCl f)) (joins : f (s.bodyOf i).myCl = { (s.bodyOf i).myCl with loadQ := l, storeQ := q, nseq := n }) :
    ∃ t, issue s i body = .next t ∧ Entered l q n (pcPlus (s.begun i).curCl (s.begun i).myCl.pc i.words) (s.begun i) t := by
  have ends := ready.ok (body := body) (by rw [if_neg (by rw [moves]; exact Bool.false_ne_true)]; exact acts)
  refine ⟨_, ends, ?_⟩
  obtain ⟨pc, body⟩ := s.bodyOf_own i
  have place : pc = pcPlus (s.begun i).curCl (s.begun i).myCl.pc i.words := (congrArg Cl.pc body : _).symm.trans (s.bodyOf_pc i)
  have joined := (State.myCl_upMyCl (s.bodyOf i) f).trans joins
  rw [body] at joined
  have quiet := s.bodyOf_quiet i
  have outside : SameOutside (s.bodyOf i) ((s.bodyOf i).upMyCl f) := .upMine _ _
  have core : SameCore (s.bodyOf i) ((s.bodyOf i).upMyCl f) := .upMyCl _ _
  generalize (s.bodyOf i).upMyCl f = w at joined outside core
  have wait : w.myCl.wait = none := (congrArg Cl.wait joined : _).trans ready.unwaited
  have stopped : w.myCl.stopped = false := (congrArg Cl.stopped joined : _).trans ready.stopped
  have still := (State.retire_still stopped i).quiet
  have own := State.retire_own wait stopped i
  rw [joined] at own
  refine ⟨(congrArg Cl.loadQ own : _), (congrArg Cl.storeQ own : _), (congrArg Cl.nseq own : _), (congrArg Cl.pc own : _).trans place,
    quiet.outside.trans (outside.trans still.outside), ?_, ?_⟩
  · exact quiet.core.trans quiet.outside.curCl (core.trans outside.curCl still.core)
  · exact (congrArg (fun x : Cl => { x with pc := (s.begun i).myCl.pc, loadQ := (s.begun i).myCl.loadQ, storeQ := (s.begun i).myCl.storeQ,
                                            nseq := (s.begun i).myCl.nseq, need := (s.begun i).myCl.need }) own : _)

theorem Core.cl_version (k : Core) (v : List VEnt) (c : Cluster) : ({ k with version := v } : Core).cl c = k.cl c := by cases c <;> rfl

/-- A word that does not stay, and whose body changes nothing but its core's version, joins it (R40). -/
theorem Ready.versions (ready : Ready s i) (moves : i.stays = false) {body : State → Eff} {v : List VEnt}
    (acts : body (s.bodyOf i) = .ok ((s.bodyOf i).upMine fun k => { k with version := v })) :
    ∃ t, issue s i body = .next t ∧ t.mine.version = v ∧ t.myCl.loadQ = (s.begun i).myCl.loadQ ∧ t.myCl.storeQ = (s.begun i).myCl.storeQ ∧
      SameOutside (s.begun i) t ∧ RegsBut none (s.begun i) t ∧ PredsKept (s.begun i) t := by
  have ends := ready.ok (body := body) (by rw [if_neg (by rw [moves]; exact Bool.false_ne_true)]; exact acts)
  refine ⟨_, ends, ?_⟩
  obtain ⟨pc, own⟩ := s.bodyOf_own i
  have mine := State.mine_upMine (s.bodyOf i) fun k => { k with version := v }
  have joined : ((s.bodyOf i).upMine fun k => { k with version := v }).myCl = (s.bodyOf i).myCl := by
    unfold State.myCl
    rw [mine]
    exact Core.cl_version _ _ _
  rw [own] at joined
  have outside : SameOutside (s.bodyOf i) ((s.bodyOf i).upMine fun k => { k with version := v }) := .upMine _ _
  replace mine := congrArg Core.version mine
  generalize (s.bodyOf i).upMine (fun k => { k with version := v }) = w at joined outside mine
  have wait : w.myCl.wait = none := (congrArg Cl.wait joined : _).trans ready.unwaited
  have stopped : w.myCl.stopped = false := (congrArg Cl.stopped joined : _).trans ready.stopped
  have still := (State.retire_still stopped i).quiet
  have own := State.retire_own wait stopped i
  rw [joined] at own
  refine ⟨(congrArg Core.version still.core.2 : _).trans mine, (congrArg Cl.loadQ own : _), (congrArg Cl.storeQ own : _),
    (s.bodyOf_quiet i).outside.trans (outside.trans still.outside), fun r _ => (congrArg (Cl.reg · r) own : _), fun p => (congrArg (Cl.pmask · p) own : _)⟩

end Sys2Proof.Machine
end

section
/-! The words of global memory and the other words that enter a queue (R40, R42, R163, R186, R243 to R250, R261 to R264, R337, R338). -/

namespace Sys2Proof.Machine

open Sys2Proof Sys2Proof.Spec

variable {s : State} {i : Instr}

/-! The checks of a word whose operands pass. -/

theorem askew_iff {x al n m : Nat} : (x % al != 0 || decide (x + n > m)) = true ↔ ¬ (x % al = 0 ∧ x + n ≤ m) := by
  simp only [Bool.or_eq_true, bne_iff_ne, decide_eq_true_eq]
  omega

theorem globalCheck_ok {hd : BitVec 128} {x al n : Nat} {load : Bool} (ok : globalOk hd x al n load) (go : Eff) : globalCheck hd x al n load go = go := by
  obtain ⟨aligned, inside, valid, allowed⟩ := ok
  unfold globalCheck hValid hRead hWrite
  rw [if_neg (fun h => askew_iff.1 h ⟨aligned, inside⟩), if_neg]
  cases load <;> simp_all

theorem globalCheck_align {hd : BitVec 128} {x al n : Nat} {load : Bool} (bad : ¬ (x % al = 0 ∧ x + n ≤ 2 ^ 21)) (go : Eff) :
    globalCheck hd x al n load go = alignTrap x := by
  unfold globalCheck
  exact if_pos (askew_iff.2 bad)

theorem globalCheck_handle {hd : BitVec 128} {x al n : Nat} {load : Bool} (aligned : x % al = 0) (inside : x + n ≤ 2 ^ 21)
    (bad : hd.getLsbD 63 = false ∨ (if load then hd.getLsbD 62 else hd.getLsbD 61) = false) (go : Eff) :
    globalCheck hd x al n load go = .trap .handle 0 [] := by
  unfold globalCheck hValid hRead hWrite
  rw [if_neg (fun h => askew_iff.1 h ⟨aligned, inside⟩), if_pos]
  cases load <;> simp_all

theorem localCheck_ok {u : State} {x n : Nat} (pos : 0 < n) (ok : localOk u.mine x n) (go : Eff) : localCheck u x n n go = go := by
  obtain ⟨aligned, inside, thread⟩ := ok
  unfold localCheck spSize
  rw [if_neg (fun h => askew_iff.1 h ⟨aligned, inside⟩), if_neg]
  suffices u.mine.owned ownThread x n = true by simp [this]
  unfold Core.owned
  refine List.all_eq_true.2 fun j hj => ?_
  rw [List.mem_range] at hj
  have byte := thread (max x ((x / 4096 + j) * 4096) - x) (by omega)
  rw [show (x + (max x ((x / 4096 + j) * 4096) - x)) / 4096 = x / 4096 + j by omega] at byte
  rw [byte]
  rfl

theorem rangeCheck_ok {hd : BitVec 128} {x n : Nat} (pos : 0 < n) (inside : x + n ≤ 2 ^ 21) (valid : hd.getLsbD 63 = true) (go : Eff) : rangeCheck hd x n go = go := by
  unfold rangeCheck hValid
  rw [if_neg (by simp only [Bool.or_eq_true, beq_iff_eq, decide_eq_true_eq]; omega), if_neg (by simp [valid])]

theorem exactCheck_ok {u : State} {d : Option Nat} {srcs : List Nat} {part : Bool} (plain : ∀ n ∈ srcs, (u.mine.vname n).bounded = false)
    (whole : ∀ n, d = some n → part = true → (u.mine.vname n).bounded = false) (go : Eff) : exactCheck u i d srcs part go = go := by
  unfold exactCheck
  refine if_neg ?_
  simp only [Bool.or_eq_true, List.any_eq_true, Bool.and_eq_true, not_or, not_exists, not_and, Bool.not_eq_true]
  refine ⟨plain, fun hp => ?_⟩
  cases d with
  | none => rfl
  | some n => exact whole n rfl hp

theorem State.intoVersion_fits {u : State} {e : VEnt} (fits : u.versionFull (u.mine.version ++ [e]) = none) :
    u.intoVersion e .ok = .ok (u.upMine fun k => { k with version := u.mine.version ++ [e] }) := by
  unfold State.intoVersion
  dsimp only
  rw [fits]

/-! Addresses and bytes. -/

theorem pageOff_eq (u : State) (b : Reg) (off : BitVec 21) : pageOff u b off = offsetOf u b off := by
  unfold pageOff offsetOf
  rw [BitVec.toNat_add, BitVec.toNat_setWidth, Nat.mod_eq_of_lt (a := off.toNat) (by omega)]

theorem offsetOf_lt (u : State) (b : Reg) (off : BitVec 21) : offsetOf u b off < 2 ^ 64 := Nat.mod_lt _ (by decide)

theorem State.offsetOf_bodyOf (s : State) (i : Instr) (b : Reg) (off : BitVec 21) : offsetOf (s.bodyOf i) b off = offsetOf (s.begun i) b off := by
  unfold offsetOf
  rw [bodyOf_reg]

theorem State.localOk_bodyOf (s : State) {i : Instr} {x n : Nat} (ok : localOk (s.begun i).mine x n) : localOk (s.bodyOf i).mine x n :=
  ⟨ok.1, ok.2.1, fun j hj => (s.bodyOf_owner i _).trans (ok.2.2 j hj)⟩

theorem placementTag_eq (u : State) (key : Nat) : u.barTag key = placementTag u key := by
  unfold State.barTag State.quadTag placementTag
  split
  · cases sget none u.quads (key / 16) <;> rfl
  · rfl

theorem allOf_toBytes (v : Word) (n : Nat) : allOf (toBytes n v.toNat) = storeData v n := by
  refine List.ext_getElem? fun j => ?_
  unfold allOf storeData
  rw [List.getElem?_map, List.getElem?_map]
  by_cases hj : j < n
  · rw [getElem?_toBytes hj, List.getElem?_range hj]
    rfl
  · rw [List.getElem?_eq_none (by rw [length_toBytes]; omega), List.getElem?_eq_none (by rw [List.length_range]; omega)]
    rfl

/-! What a word's entry is. -/

/-- An entry joins the queue it is of (R246). -/
def State.entering (u : State) (i : Instr) (ac : BitVec 2) : LoadKind ⊕ StoreKind → State
  | .inl l => u.enqLoad i ac l
  | .inr q => u.enqStore i ac q

variable {ac push : BitVec 2} {kind : LoadKind ⊕ StoreKind}

theorem queueEntry_words {u : State} (entry : QueueEntry u i ac push kind) : i.words = 2 := by cases entry <;> rfl

theorem queueEntry_moves {u : State} (entry : QueueEntry u i ac push kind) : i.stays = false := by cases entry <;> rfl

/-- The pushes of a word are its entry's where the model leaves them to the entry, and else its own. -/
theorem queueEntry_push {u : State} (entry : QueueEntry u i ac push kind) : (if i.pushesLater then Instr.entryPush i else 0) = push := by
  cases entry
  case ld h d a b m global _ => exact if_pos global
  all_goals rfl

/-- A word whose operands pass its checks puts its entry into its queue (R246). -/
theorem queueEntry_issues (s : State) {i : Instr} (entry : QueueEntry (s.begun i) i ac push kind) :
    ∃ body, exec i s = issue s i body ∧ body (s.bodyOf i) = .ok ((s.bodyOf i).entering i ac kind) := by
  have plain : (s.begun i).versioned = false → (s.bodyOf i).versioned = false := (s.bodyOf_versioned i).trans
  cases entry with
  | ld h d a b m global ok =>
    refine ⟨_, rfl, ?_⟩
    dsimp only
    rw [if_pos global, s.bodyOf_handle, pageOff_eq, s.offsetOf_bodyOf]
    exact globalCheck_ok ok _
  | st h d a b m global unversioned ok =>
    refine ⟨_, rfl, ?_⟩
    dsimp only
    rw [if_pos global, s.bodyOf_handle, pageOff_eq, s.offsetOf_bodyOf, if_neg (by rw [plain unversioned]; decide), allOf_toBytes, s.bodyOf_reg]
    exact globalCheck_ok ok _
  | amo h d a b m unversioned ok =>
    refine ⟨_, rfl, ?_⟩
    dsimp only
    rw [if_neg (by rw [plain unversioned, Bool.false_and]; exact Bool.false_ne_true), State.commit_plain (plain unversioned), s.bodyOf_handle, s.bodyOf_reg, s.bodyOf_reg, s.bodyOf_reg]
    unfold atomBytes
    simp only [beq_iff_eq]
    exact globalCheck_ok ok _
  | red h d a b m unversioned ok =>
    refine ⟨_, rfl, ?_⟩
    dsimp only
    rw [if_neg (by rw [plain unversioned]; decide), s.bodyOf_handle, s.bodyOf_reg, s.bodyOf_reg]
    unfold atomBytes
    simp only [beq_iff_eq]
    exact globalCheck_ok ok _
  | release h scope => exact ⟨_, rfl, rfl⟩
  | acquire h scope => exact ⟨_, rfl, rfl⟩
  | dgld h d a b ac off ok =>
    refine ⟨_, rfl, ?_⟩
    dsimp only
    rw [s.bodyOf_handle, pageOff_eq, s.offsetOf_bodyOf]
    exact globalCheck_ok ok _
  | dgq h d a b ac cpy l test ok copies =>
    refine ⟨_, rfl, ?_⟩
    have inside := ok.2.1
    dsimp only
    rw [s.bodyOf_handle, s.bodyOf_reg, s.bodyOf_reg, if_neg (by simp only [ok.1, bne_self_eq_false, Bool.false_or, decide_eq_true_eq]; omega), globalCheck_ok ok]
    cases cpy with
    | false => rfl
    | true =>
      rw [if_pos rfl]
      exact localCheck_ok (by decide) (s.localOk_bodyOf (copies rfl)) _
  | dgseal h a b ac n ok =>
    refine ⟨_, rfl, ?_⟩
    dsimp only
    rw [s.bodyOf_handle, s.bodyOf_reg]
    exact globalCheck_ok ok _
  | cflush h d a b ac scope some inside valid =>
    refine ⟨_, rfl, ?_⟩
    dsimp only
    rw [s.bodyOf_handle, s.bodyOf_reg, s.bodyOf_reg]
    exact rangeCheck_ok some inside valid _
  | cinv h d a b ac scope some inside valid =>
    refine ⟨_, rfl, ?_⟩
    dsimp only
    rw [s.bodyOf_handle, s.bodyOf_reg, s.bodyOf_reg]
    exact rangeCheck_ok some inside valid _
  | signal h d a b self =>
    refine ⟨_, rfl, ?_⟩
    dsimp only
    rw [s.bodyOf_me, s.bodyOf_reg, s.bodyOf_reg, s.bodyOf_reg]
    rfl
  | binit h d a lv num allowed =>
    refine ⟨_, rfl, ?_⟩
    dsimp only
    rw [s.bodyOf_barAllowed, s.bodyOf_me, if_neg (by rw [show (s.begun _).barAllowed _ (barKey _ _ _) = true from allowed]; decide), s.bodyOf_barTag, s.bodyOf_reg,
      placementTag_eq]
    rfl
  | barv h d lv num unversioned allowed =>
    refine ⟨_, rfl, ?_⟩
    dsimp only
    rw [s.bodyOf_barAllowed, s.bodyOf_me, if_neg (by rw [show (s.begun _).barAllowed _ (barKey _ _ _) = true from allowed]; decide), s.bodyOf_barTag,
      ← s.bodyOf_me, State.commit_plain (plain unversioned), s.bodyOf_me, placementTag_eq]
    rfl

end Sys2Proof.Machine
end

section
/-! The statements about the words of global memory (R40, R42, R186, R243, R244, R246, R247). -/

namespace Sys2Proof.Machine

open Sys2Proof Sys2Proof.Spec

variable {s : State} {i : Instr}

/-! The traps of ld and st. -/

theorem alignTrap_eq {x : Nat} (small : x < 2 ^ 64) : alignTrap x = .trap .align 0 (toBytes 8 x ++ [0]) := by
  unfold alignTrap operandAddr
  rw [Nat.mod_eq_of_lt small]
  rfl

/-- What a ld or st of the global memory answers goes through the check of its access. -/
theorem globalAccess (s : State) (h : Hdr) (d a b : Reg) (m : MemLit) (load : Bool) (shape : (i = .ld h d a b m ∧ load = true) ∨ (i = .st h d a b m ∧ load = false))
    (global : m.sp = true) : ∃ body, exec i s = issue s i body ∧
      ∃ go, body (s.bodyOf i) = globalCheck ((s.begun i).mine.handle a) (offsetOf (s.begun i) b m.off) (2 ^ m.wd.toNat) (2 ^ m.wd.toNat) load go := by
  obtain ⟨rfl, rfl⟩ | ⟨rfl, rfl⟩ := shape
  all_goals
    refine ⟨_, rfl, ?_⟩
    dsimp only
    rw [if_pos global, s.bodyOf_handle, pageOff_eq, s.offsetOf_bodyOf]
    exact ⟨_, rfl⟩

/-- Part of O30: the traps of ld and st are those of the check of their access. -/
theorem globalTraps : GlobalTraps := by
  intro s h d a b m i load shape ready global u x
  obtain ⟨body, issues, go, acts⟩ := globalAccess s h d a b m load shape global
  have moves : i.stays = false := by obtain ⟨rfl, -⟩ | ⟨rfl, -⟩ := shape <;> rfl
  have traps {cause : Cause} {operand : List Byte} (check : body (s.bodyOf i) = .trap cause 0 operand) :
      exec i s = .next (u.trapHere u.curCl cause u.myCl.pc 0 operand) :=
    issues.trans (ready.trap (by rw [if_neg (by rw [moves]; exact Bool.false_ne_true)]; exact check))
  refine ⟨fun bad => traps ?_, fun aligned inside bad => traps ?_⟩
  · rw [acts, globalCheck_align bad, alignTrap_eq (offsetOf_lt _ _ _)]
  · rw [acts, globalCheck_handle aligned inside bad]

/-! Words that enter a queue. -/

/-- Part of O30: a word that enters a queue puts its entry at its end, and changes nothing else (R246). -/
theorem queueWordEnters : QueueWordEnters := by
  intro s i ac push kind ready entry
  obtain ⟨body, issues, acts⟩ := queueEntry_issues s entry
  have moves := queueEntry_moves entry
  have pushes := queueEntry_push entry
  rw [issues]
  have words := queueEntry_words entry
  have cur : (s.begun i).curCl = s.curCl := s.begun_curCl i
  cases kind with
  | inl l =>
    obtain ⟨t, ends, done⟩ := ready.enters moves acts (l := _ ++ [_]) rfl
    refine ⟨t, ends, ⟨done.storeQ.trans (s.bodyOf_storeQ _), _, done.loadQ.trans (by rw [s.bodyOf_loadQ]), rfl, rfl, pushes, s.bodyOf_nseq i⟩, done.nseq.trans (by rw [s.bodyOf_nseq]), ?_, done.outside, done.core, done.beside⟩
    rw [done.pc, words, cur]
    rfl
  | inr q =>
    obtain ⟨t, ends, done⟩ := ready.enters moves acts (q := _ ++ [_]) rfl
    refine ⟨t, ends, ⟨done.loadQ.trans (s.bodyOf_loadQ _), _, done.storeQ.trans (by rw [s.bodyOf_storeQ]), rfl, rfl, pushes, s.bodyOf_nseq i⟩, done.nseq.trans (by rw [s.bodyOf_nseq]), ?_, done.outside, done.core, done.beside⟩
    rw [done.pc, words, cur]
    rfl

/-- Part of O30: mark enters both queues (R247). -/
theorem markEnters : MarkEnters := by
  intro s h ready u
  let l : LoadEnt := { seq := (s.bodyOf (.mark h)).myCl.nseq, ac := 0, push := h.pushes, pc := (s.bodyOf (.mark h)).ownPc (.mark h), kind := .mark }
  let q : StoreEnt := { seq := (s.bodyOf (.mark h)).myCl.nseq, ac := 0, push := 0, pc := (s.bodyOf (.mark h)).ownPc (.mark h), kind := .mark }
  have enters : ∃ t, exec (.mark h) s = .next t ∧ Entered ((s.bodyOf (.mark h)).myCl.loadQ ++ [l]) ((s.bodyOf (.mark h)).myCl.storeQ ++ [q])
      ((s.bodyOf (.mark h)).myCl.nseq + 1) _ u t := ready.enters rfl rfl rfl
  obtain ⟨t, ends, done⟩ := enters
  exact ⟨t, _, _, ends, done.loadQ.trans (by rw [s.bodyOf_loadQ]), done.storeQ.trans (by rw [s.bodyOf_storeQ]), rfl, rfl, s.bodyOf_nseq _, s.bodyOf_nseq _, done.nseq.trans (by rw [s.bodyOf_nseq]),
    done.outside, done.core, done.beside⟩

/-! The version (R40, R42). -/

/-- Part of O30: in a versioned kernel st and red join the version (R40, R42). -/
theorem versionHolds : VersionHolds := by
  intro s h d a b m r i e shape ready versioned fits
  have fits' : (s.bodyOf i).versionFull ((s.bodyOf i).mine.version ++ [e]) = none := by rwa [s.bodyOf_versionFull, s.bodyOf_version]
  have holds : ∃ body, exec i s = issue s i body ∧ body (s.bodyOf i) = (s.bodyOf i).intoVersion e .ok := by
    have kept : (s.bodyOf i).versioned = true := (s.bodyOf_versioned i).trans versioned
    obtain ⟨rfl, global, rfl, ok⟩ | ⟨rfl, rfl, ok⟩ := shape
    · refine ⟨_, rfl, ?_⟩
      dsimp only
      rw [if_pos global, if_pos kept, s.bodyOf_handle, pageOff_eq, s.offsetOf_bodyOf, allOf_toBytes, s.bodyOf_reg]
      exact globalCheck_ok ok _
    · refine ⟨_, rfl, ?_⟩
      dsimp only
      rw [if_pos kept, s.bodyOf_handle, s.bodyOf_reg, s.bodyOf_reg]
      unfold atomBytes
      simp only [beq_iff_eq]
      exact globalCheck_ok ok _
  obtain ⟨body, issues, acts⟩ := holds
  have moves : i.stays = false := by obtain ⟨rfl, -⟩ | ⟨rfl, -⟩ := shape <;> rfl
  rw [issues, ← s.bodyOf_version]
  exact ready.versions moves (acts.trans (State.intoVersion_fits fits'))

end Sys2Proof.Machine
end

section
/-! vldg and vstg (R40, R186, R246). -/

namespace Sys2Proof.Machine

open Sys2Proof Sys2Proof.Spec

variable {s : State} {i : Instr}

/-! What a vector word of the global memory reads. -/

theorem State.bodyOf_dn (s : State) (i : Instr) (o : VOps) : o.dn (s.bodyOf i).myCl = o.dn (s.begun i).myCl := by
  obtain ⟨pc, own⟩ := s.bodyOf_own i
  exact (congrArg o.dn own : _)

theorem State.bodyOf_bn (s : State) (i : Instr) (o : VOps) : o.bn (s.bodyOf i).myCl = o.bn (s.begun i).myCl := by
  obtain ⟨pc, own⟩ := s.bodyOf_own i
  exact (congrArg o.bn own : _)

theorem State.vAddr_bodyOf (s : State) (i : Instr) (o : VOps) : vAddr (s.bodyOf i) o = vecAddr (s.begun i) o := by
  unfold vAddr vecAddr VOps.sb bits
  rw [bodyOf_reg, BitVec.toNat_add, BitVec.toNat_ofNat, Nat.add_mod_mod]
  simp

theorem State.bodyOf_vecHandle (s : State) (i : Instr) (o : VOps) : (s.bodyOf i).mine.handle (VOps.hreg o) = vecHandle (s.begun i) o := s.bodyOf_handle i _

theorem vecLen_eq (o : VOps) : VOps.len o = vecLen o := rfl

theorem partialMask_iff (x : Cl) (h : Hdr) : partialMask (guardMask x h) = partialGuard x h := by
  unfold partialMask partialGuard allLanes
  exact Bool.eq_iff_iff.2 (by rw [bne_iff_ne, decide_eq_true_eq])

theorem storeBytes_eq (u : State) (h : Hdr) (b n : Nat) : storeBytes (guardMask u.myCl h) (u.mine.vname b).val n = lanesStored u h b n := by
  unfold storeBytes lanesStored activeEl elem Spec.elemOf
  refine List.map_congr_left fun j _ => ?_
  rw [show 8 * j / 32 = j / 4 by omega, BitVec.toNat_ushiftRight, Nat.shiftRight_eq_div_pow]

/-- A vldg that passes its checks enters the load queue (R186, R246). -/
theorem vldgEnters {h : Hdr} {o : VOps} (ready : Ready s (.vldg h o)) :
    let u := s.begun (.vldg h o)
    let d := o.dn u.myCl
    let x := vecAddr u o
    let n := vecLen o
    globalOk (vecHandle u o) x n n true → (partialGuard u.myCl h = true → (u.mine.vname d).bounded = false) →
    ∃ t e, exec (.vldg h o) s = .next t ∧ t.myCl.loadQ = u.myCl.loadQ ++ [e] ∧ t.myCl.storeQ = u.myCl.storeQ ∧ t.myCl.nseq = u.myCl.nseq + 1 ∧
      e.kind = .vldg (vecHandle u o) x n d (guardMask u.myCl h) (vecPd o) 0 ∧ e.ac = .ofNat 2 (o.c.toNat / 2 ^ 13) ∧ e.push = h.k.setWidth 2 ∧ e.seq = u.myCl.nseq ∧
      (∀ m, t.mine.vname m = u.mine.vname m) ∧ SameOutside u t ∧ SameCore u t ∧ SameBesideQueues u t ∧ t.myCl.pc = pcPlus u.curCl u.myCl.pc 1 := by
  intro u d x n ok whole
  have acts : ∃ body, exec (.vldg h o) s = issue s (.vldg h o) body ∧ body (s.bodyOf (.vldg h o)) =
      .ok ((s.bodyOf (.vldg h o)).enqLoad (.vldg h o) (VOps.acls o) (.vldg (vecHandle u o) x n d (guardMask u.myCl h) (VOps.pd o) 0)) := by
    refine ⟨_, rfl, ?_⟩
    dsimp only
    rw [s.bodyOf_dn, s.bodyOf_active, s.vAddr_bodyOf, s.bodyOf_vecHandle, vecLen_eq]
    refine (exactCheck_ok (fun _ hn => absurd hn (List.not_mem_nil)) (fun m hm part => ?_) _).trans (globalCheck_ok ok _)
    rw [s.bodyOf_vname, ← Option.some.inj hm]
    exact whole ((partialMask_iff u.myCl h).symm.trans part)
  obtain ⟨body, issues, acts⟩ := acts
  obtain ⟨t, ends, done⟩ := ready.enters rfl acts (l := _ ++ [_]) rfl
  exact ⟨t, _, issues.trans ends, done.loadQ.trans (by rw [s.bodyOf_loadQ]), done.storeQ.trans (s.bodyOf_storeQ _), done.nseq.trans (by rw [s.bodyOf_nseq]), rfl, rfl, rfl, s.bodyOf_nseq _,
    fun m => sameCore_vname done.core m, done.outside, done.core, done.beside, done.pc⟩

/-- What a vstg that passes its checks does: it is held in the version, or enters the store queue (R40, R186). -/
theorem vstgActs {h : Hdr} {o : VOps} :
    let u := s.begun (.vstg h o)
    let x := vecAddr u o
    let n := vecLen o
    let bs := lanesStored u h (o.bn u.myCl) n
    globalOk (vecHandle u o) x n n false → (u.mine.vname (o.bn u.myCl)).bounded = false →
    ∃ body, exec (.vstg h o) s = issue s (.vstg h o) body ∧ body (s.bodyOf (.vstg h o)) =
      if u.versioned then (s.bodyOf (.vstg h o)).intoVersion { h := vecHandle u o, off := x, upd := .bytes bs } .ok
      else .ok ((s.bodyOf (.vstg h o)).enqStore (.vstg h o) (VOps.acls o) (.st (vecHandle u o) x bs)) := by
  intro u x n bs ok plain
  refine ⟨_, rfl, ?_⟩
  dsimp only
  rw [s.bodyOf_bn, s.bodyOf_active, s.vAddr_bodyOf, s.bodyOf_vecHandle, vecLen_eq, s.bodyOf_versioned]
  unfold State.vval
  rw [s.bodyOf_vname]
  unfold State.active
  rw [storeBytes_eq]
  refine (exactCheck_ok (fun m hm => ?_) (fun _ hm => absurd hm (Option.some_ne_none _).symm) _).trans (globalCheck_ok ok _)
  rw [s.bodyOf_vname, List.mem_singleton.1 hm]
  exact plain

/-- Part of O30: vldg and vstg (R40, R186, R246). -/
theorem vectorGlobal : VectorGlobal := by
  refine fun s h o => ⟨vldgEnters, ?_⟩
  intro ready u x n ok plain
  obtain ⟨body, issues, acts⟩ := vstgActs ok plain
  refine ⟨fun unversioned => ?_, ?_⟩
  · rw [if_neg (by rw [unversioned]; decide)] at acts
    obtain ⟨t, ends, done⟩ := ready.enters rfl acts (q := _ ++ [_]) rfl
    exact ⟨t, _, issues.trans ends, done.storeQ.trans (by rw [s.bodyOf_storeQ]), done.loadQ.trans (s.bodyOf_loadQ _), done.nseq.trans (by rw [s.bodyOf_nseq]), rfl, rfl, rfl, s.bodyOf_nseq _,
      done.outside, done.core, done.beside, done.pc⟩
  · intro versioned e fits
    rw [if_pos versioned] at acts
    rw [issues, ← s.bodyOf_version]
    exact ready.versions rfl (acts.trans (State.intoVersion_fits (by rw [s.bodyOf_versionFull, s.bodyOf_version]; exact fits)))

/-- Settles O30: the words of global memory, each part by its own theorem. -/
theorem globalWords : Obligations.GlobalWords := ⟨globalTraps, queueWordEnters, vectorGlobal, markEnters, versionHolds⟩

end Sys2Proof.Machine
end

section
/-! Scalar loads and results that return (R43, R45, R245, R246). -/

namespace Sys2Proof.Machine

open Sys2Proof Sys2Proof.Spec

variable {s u : State} {k : Core} {c : Cluster} {j : Nat}

/-! A core's pushes and marks. -/

/-- No marks retire behind a load that no mark follows (R247). -/
theorem Core.retireMarks_none (plain : noMarkL (k.cl c).loadQ) (n : Nat) : k.retireMarks c n = k := by
  cases n with
  | zero => rfl
  | succ n =>
    unfold Core.retireMarks
    split
    · next l lr t tr loads _ =>
      have other : (l.kind == .mark) = false := beq_eq_false_iff_ne.2 (plain l lr loads)
      exact if_neg (by rw [other]; simp)
    · rfl

/-- The head of the load queue leaves it, with no mark behind it. -/
theorem State.popLoad_plain {e : LoadEnt} {r : List LoadEnt} (head : ((s.core j).cl c).loadQ = e :: r) (plain : noMarkL r) :
    (s.popLoad j c).core j = (s.core j).upCl c fun x => { x with loadQ := r } := by
  unfold State.popLoad
  have tail : (s.core j).upCl c (fun x => { x with loadQ := x.loadQ.tail }) = (s.core j).upCl c fun x => { x with loadQ := r } :=
    Core.upCl_congr (by rw [head]; rfl)
  rw [State.core_upCore_self, tail]
  exact Core.retireMarks_none (by rw [Core.cl_upCl_self]; exact plain) _

theorem State.cl_popLoad {e : LoadEnt} {r : List LoadEnt} (head : ((s.core j).cl c).loadQ = e :: r) (plain : noMarkL r) :
    ((s.popLoad j c).core j).cl c = { (s.core j).cl c with loadQ := r } := by
  rw [State.popLoad_plain head plain]
  exact Core.cl_upCl_self _ _ _

theorem State.cl_upCl (s : State) (j : Nat) (c : Cluster) (f : Cl → Cl) : ((s.upCore j fun k => k.upCl c f).core j).cl c = f ((s.core j).cl c) := by
  rw [State.core_upCore_self]
  exact Core.cl_upCl_self _ _ _

/-- A cluster's pushes change its tokens, and nothing else of it (R45). -/
theorem State.cl_pushAt (s : State) (j : Nat) (c : Cluster) (m : BitVec 2) :
    { ((s.pushAt j c m).core j).cl c with flight := ((s.core j).cl c).flight, need := ((s.core j).cl c).need, outL := ((s.core j).cl c).outL,
                                          outR := ((s.core j).cl c).outR, popped := ((s.core j).cl c).popped } = (s.core j).cl c := by
  unfold State.pushAt
  rw [State.core_upCore_self]
  exact (Core.Still.pushBits c (s.core j) m).cluster

/-- The register `d` of a cluster has been written with `v` as a load left the queue or a result its list. -/
structure Wrote (c : Cluster) (d : Reg) (v : Word) (x y : Cl) : Prop where
  reg : y.reg d = if d = 0 then 0 else v
  others : ∀ q, q ≠ d → y.reg q = x.reg q
  p : y.p = x.p
  pc : y.pc = x.pc
  loadQ : y.loadQ = x.loadQ
  rets : y.rets = x.rets

/-- A register is written, and the pushes follow (R45, R245). -/
theorem State.wrote (s : State) (j : Nat) (c : Cluster) (d : Reg) (v : Word) (m : BitVec 2) :
    Wrote c d v ((s.core j).cl c) ((((s.setRegAt j c d v).pushAt j c m).core j).cl c) := by
  have own := (s.setRegAt j c d v).cl_pushAt j c m
  have self : ((s.setRegAt j c d v).core j).cl c = ((s.core j).cl c).setReg d v := s.cl_upCl j c _
  rw [self] at own
  refine ⟨?_, fun q hq => ?_, ?_, ?_, ?_, ?_⟩
  · refine (congrArg (Cl.reg · d) own : _).trans ?_
    rw [Cl.reg_setReg, if_pos rfl]
  · refine (congrArg (Cl.reg · q) own : _).trans ?_
    rw [Cl.reg_setReg, if_neg hq]
    split
    · next zero => exact zero ▸ rfl
    · rfl
  · exact (congrArg Cl.p own : _).trans (Cl.setReg_p _ _ _)
  · exact (congrArg Cl.pc own : _).trans (Cl.setReg_pc _ _ _)
  · exact (congrArg Cl.loadQ own : _).trans (Cl.setReg_loadQ _ _ _)
  · exact (congrArg Cl.rets own : _).trans (Cl.setReg_rets _ _ _)

/-- Part of O29: a result on its way reaches its register (R43, R45). -/
theorem resultDelivered : Spec.ResultDelivered := by
  intro s core c e r rets ways clean room
  let w := s.upCore core.toNat fun k => k.upCl c fun y => { y with rets := r }
  have acts : s.loadReturn core.toNat c = (w.setRegAt core.toNat c e.d e.val).pushAt core.toNat c e.push := by
    have first : s.readyRet (fun r => (s.core core.toNat).roomFor c r.push) ((s.core core.toNat).cl c).rets = some (e, r) := by
      rw [rets]
      unfold State.readyRet
      rw [ways]
      exact if_pos (by rw [room]; rfl)
    have value : s.retValue e = e.val := by
      unfold State.retValue
      rw [ways]
    unfold State.loadReturn State.retReturn
    dsimp only
    rw [first]
    dsimp only
    rw [value, clean]
    rfl
  have wrote := w.wrote core.toNat c e.d e.val e.push
  have self : (w.core core.toNat).cl c = { (s.core core.toNat).cl c with rets := r } := s.cl_upCl _ _ _
  rw [self] at wrote
  have only : OnlyCore core.toNat s ((w.setRegAt core.toNat c e.d e.val).pushAt core.toNat c e.push) :=
    onlyCore_trans (onlyCore_upCore s _ _) (onlyCore_trans (onlyCore_upCore w _ _) (onlyCore_upCore _ _ _))
  exact ⟨_, congrArg Host.Outcome.next acts, wrote.rets, wrote.reg, wrote.others, wrote.p, wrote.pc, only.1, only.2⟩

/-! The head of the load queue. -/

/-- With no result before it, nothing of its bytes before it and space for its pushes, the head of the load queue is performed (R45, R245, R246). -/
theorem State.loadReturn_head {e : LoadEnt} {r : List LoadEnt} (none : ((s.core j).cl c).rets = []) (head : ((s.core j).cl c).loadQ = e :: r)
    (free : ((s.core j).cl c).loadFree e = true) (room : (s.core j).roomFor c e.push = true) : s.loadReturn j c = s.headReturn j c e := by
  unfold State.loadReturn
  dsimp only
  rw [none]
  unfold State.readyRet
  dsimp only
  rw [head]
  exact if_pos (by rw [free, room]; rfl)

/-- A load's bytes are read and it leaves the queue: its cluster changes by the queue alone. -/
theorem State.popLoad_read {t : State} (work : CacheWork j s t) {e : LoadEnt} {r : List LoadEnt} (head : ((s.core j).cl c).loadQ = e :: r) (plain : noMarkL r) :
    ((t.popLoad j c).core j).cl c = { (s.core j).cl c with loadQ := r } := by
  rw [State.cl_popLoad (e := e) (by rw [work.cl c]; exact head) plain, work.cl c]

theorem Cl.pbit_setPred (x : Cl) (p : Pred) (some : p ≠ 0) (c : Cluster) : (x.setPred p (predLanes c) 0).pbit p = false := by
  unfold Cl.pbit
  rw [Cl.pmask_setPred, if_neg some, if_pos rfl]
  cases c <;> simp [predLanes, allLanes]

/-- A read of a core leaves its clusters, and a load that is performed with it writes one register (R245). -/
theorem State.wrote_read {t : State} (work : CacheWork j s t) {e : LoadEnt} {r : List LoadEnt} (head : ((s.core j).cl c).loadQ = e :: r) (plain : noMarkL r)
    (d : Reg) (v : Word) (m : BitVec 2) :
    Wrote c d v { (s.core j).cl c with loadQ := r } (((((t.popLoad j c).setRegAt j c d v).pushAt j c m).core j).cl c) := by
  rw [← State.popLoad_read work head plain]
  exact State.wrote _ _ _ _ _ _

section

variable {e : LoadEnt} {h : BitVec 128} {off n : Nat} {d : Reg} {pp : Bool} {pd : Pred} {t : State} {data : List (Byte × Bool)}

theorem State.ldReturn_clean (read : s.coreRead j h (s.ctx (s.core j).ctxNum).kdom off n = (t, data)) (clean : ∀ b ∈ data, b.2 = false) :
    s.ldReturn j c e h off n d pp pd = ((t.popLoad j c).setRegAt j c d (.ofNat 64 (ofBytes (data.map (·.1))))).pushAt j c e.push := by
  have none : data.any (·.2) = false := List.any_eq_false.2 fun b hb => by rw [clean b hb]; exact Bool.false_ne_true
  unfold State.ldReturn
  rw [read]
  exact if_pos (by rw [none]; rfl)

theorem State.ldReturn_poisoned (read : s.coreRead j h (s.ctx (s.core j).ctxNum).kdom off n = (t, data)) (bad : ∃ b ∈ data, b.2 = true) :
    s.ldReturn j c e h off n d true pd = (((t.popLoad j c).setRegAt j c d 0).upCore j fun x => x.upCl c fun y => y.setPred pd (predLanes c) 0).pushAt j c e.push := by
  have some : data.any (·.2) = true := List.any_eq_true.2 bad
  unfold State.ldReturn
  rw [read]
  exact (if_neg (by rw [some]; decide)).trans (if_pos rfl)

end

/-- Part of O29: a scalar load returns its bytes, or poison to its predicate (R245). -/
theorem loadReturns : Spec.LoadReturns := by
  intro s core c e r h off n d pp pd x rets head plain kind free here room data
  have work : CacheWork core.toNat s (s.coreRead core.toNat h (s.ctx (s.core core.toNat).ctxNum).kdom off n).1 := (CacheWork.refl _ s).coreRead h _ off n
  have returns : exec (.loadReturn core c) s = .next (s.ldReturn core.toNat c e h off n d pp pd) := by
    refine congrArg Host.Outcome.next ((State.loadReturn_head rets head free room).trans ?_)
    unfold State.headReturn
    rw [kind]
    exact if_neg (by rw [here]; exact Bool.false_ne_true)
  have read : s.coreRead core.toNat h (s.ctx (s.core core.toNat).ctxNum).kdom off n =
      ((s.coreRead core.toNat h (s.ctx (s.core core.toNat).ctxNum).kdom off n).1, data) := rfl
  generalize (s.coreRead core.toNat h (s.ctx (s.core core.toNat).ctxNum).kdom off n).1 = w at work read
  refine ⟨fun clean => ?_, fun bad asked => ?_⟩
  · have wrote := State.wrote_read work head plain d (.ofNat 64 (ofBytes (data.map (·.1)))) e.push
    exact ⟨_, returns.trans (congrArg _ (State.ldReturn_clean read clean)), wrote.loadQ, wrote.reg, wrote.others, wrote.p⟩
  · subst asked
    refine ⟨_, returns.trans (congrArg _ (State.ldReturn_poisoned read bad)), ?_⟩
    have popped := State.popLoad_read work head plain
    generalize w.popLoad core.toNat c = w at popped ⊢
    have own := ((w.setRegAt core.toNat c d 0).upCore core.toNat fun x => x.upCl c fun y => y.setPred pd (predLanes c) 0).cl_pushAt core.toNat c e.push
    have zeroed : ((w.setRegAt core.toNat c d 0).core core.toNat).cl c = ({ x with loadQ := r } : Cl).setReg d 0 := (w.cl_upCl _ c _).trans (congrArg (Cl.setReg · d 0) popped)
    rw [State.cl_upCl, zeroed] at own
    generalize ((State.pushAt _ core.toNat c e.push).core core.toNat).cl c = y at own ⊢
    refine ⟨?_, ?_, fun some => ?_, fun q hq => ?_⟩
    · refine (congrArg Cl.loadQ own : _).trans ?_
      rw [Cl.setPred_loadQ, Cl.setReg_loadQ]
    · refine (congrArg (Cl.reg · d) own : _).trans ?_
      rw [Cl.reg_setPred, Cl.reg_setReg, if_pos rfl]
      exact ite_self _
    · exact (congrArg (Cl.pbit · pd) own : _).trans (Cl.pbit_setPred _ pd some c)
    · refine (congrArg (Cl.reg · q) own : _).trans ?_
      rw [Cl.reg_setPred, Cl.reg_setReg, if_neg hq]
      split
      · next zero => exact zero ▸ rfl
      · rfl

end Sys2Proof.Machine
end

section
/-! dgld and dgq at the head of the load queue (R45, R261, R262). -/

namespace Sys2Proof.Machine

open Sys2Proof Sys2Proof.Spec

variable {s : State} {k : Core} {c : Cluster} {j : Nat}

/-! Records that are read. -/

theorem HomeWork.loadRecAt {t : State} (work : HomeWork s t) (h : BitVec 128) (off : Nat) : HomeWork s (t.loadRecAt h off) := by
  unfold State.loadRecAt
  split
  · split
    · exact work
    · exact work.loadRec _
  · exact work

/-- One record is read after others (R262). -/
def readNext (h : BitVec 128) (off : Nat) (p : State × List (BitVec 128)) (i : Nat) : State × List (BitVec 128) :=
  (p.1.loadRecAt h (off + 512 * i), p.2 ++ [(p.1.loadRecAt h (off + 512 * i)).readRec h (off + 512 * i)])

theorem State.readRecs_eq (s : State) (h : BitVec 128) (off : Nat) : s.readRecs h off = (List.range 64).foldl (readNext h off) (s, []) := rfl

/-- Reading records one after another is home work, and gives as many as are asked for. -/
theorem readNexts (h : BitVec 128) (off : Nat) (l : List Nat) (p : State × List (BitVec 128)) :
    HomeWork p.1 (l.foldl (readNext h off) p).1 ∧ (l.foldl (readNext h off) p).2.length = p.2.length + l.length := by
  induction l generalizing p with
  | nil => exact ⟨.refl _, rfl⟩
  | cons i l ih =>
    obtain ⟨rest, len⟩ := ih (readNext h off p i)
    refine ⟨((HomeWork.refl p.1).loadRecAt h _).trans rest, len.trans ?_⟩
    unfold readNext
    rw [List.length_append, List.length_cons, List.length_cons, List.length_nil]
    omega

theorem State.readRecs_work (s : State) (h : BitVec 128) (off : Nat) : HomeWork s (s.readRecs h off).1 ∧ (s.readRecs h off).2.length = 64 := by
  rw [State.readRecs_eq]
  obtain ⟨work, len⟩ := readNexts h off (List.range 64) (s, [])
  exact ⟨work, len.trans (by rw [List.length_range]; rfl)⟩

theorem testBit_pack_cons (n v : Nat) (r : List (Nat × Nat)) (j : Nat) :
    (pack ((n, v) :: r)).testBit j = if j < n then v.testBit j else (pack r).testBit (j - n) := by
  have value : pack ((n, v) :: r) = 2 ^ n * pack r + v % 2 ^ n := Nat.add_comm _ _
  rw [value, Nat.testBit_two_pow_mul_add _ (Nat.mod_lt _ (Nat.two_pow_pos n))]
  split
  · next inside => rw [Nat.testBit_mod_two_pow, decide_eq_true inside, Bool.true_and]
  · rfl

theorem testBit_b2n (b : Bool) {j : Nat} (hj : j < 1) : (b2n b).testBit j = b := by
  rw [Nat.lt_one_iff.1 hj]
  cases b <;> rfl

/-- A mask packed of single bits holds each of them. -/
theorem testBit_pack (l : List Bool) (j : Nat) : (pack (l.map fun b => (1, b2n b))).testBit j = l.getD j false := by
  induction l generalizing j with
  | nil => exact Nat.zero_testBit j
  | cons b l ih =>
    rw [List.map_cons, testBit_pack_cons]
    cases j with
    | zero => exact testBit_b2n b (by decide)
    | succ j => exact ih j

/-- dgq's mask: the bit of a block is whether its record passes the test (R262). -/
theorem dgqMask_bit {recs : List (BitVec 128)} (all : recs.length = 64) (test : Nat) (hj : j < 64) :
    (BitVec.ofNat 64 (dgqMask recs test)).getLsbD j = (DRec.ofBits (recs.getD j 0)).test test := by
  rw [BitVec.getLsbD_ofNat, decide_eq_true hj, Bool.true_and]
  have mask : dgqMask recs test = pack ((recs.map fun r => (DRec.ofBits r).test test).map fun b => (1, b2n b)) := by
    unfold dgqMask
    rw [List.map_map]
    rfl
  rw [mask, testBit_pack]
  simp [List.getD_eq_getElem?_getD, List.getElem?_eq_getElem (show j < recs.length by omega)]

/-- The bytes of records as dgq copies them (R262). -/
theorem getElem?_records {recs : List (BitVec 128)} (hj : j < 16 * recs.length) :
    (allOf (recs.flatMap fun r : BitVec 128 => toBytes 16 r.toNat))[j]? = some (some (.ofNat 8 ((recs.getD (j / 16) 0).toNat / 256 ^ (j % 16)))) := by
  induction recs generalizing j with
  | nil => exact absurd hj (Nat.not_lt_zero _)
  | cons r recs ih =>
    rw [List.length_cons] at hj
    unfold allOf at ih ⊢
    rw [List.flatMap_cons, List.map_append]
    by_cases first : j < 16
    · rw [List.getElem?_append_left (by rw [List.length_map, length_toBytes]; exact first), List.getElem?_map, getElem?_toBytes first, Nat.div_eq_of_lt first,
        Nat.mod_eq_of_lt first]
      rfl
    · rw [List.getElem?_append_right (by rw [List.length_map, length_toBytes]; omega), List.length_map, length_toBytes, ih (by omega),
        show j / 16 = (j - 16) / 16 + 1 by omega, show (j - 16) % 16 = j % 16 by omega]
      rfl

/-! The load's end. -/

/-- A load copies records to the scratchpad, or does not (R262). -/
def State.copied (s : State) (j : Nat) (cp : Option Nat) (recs : List (BitVec 128)) : State :=
  match cp with
  | some a => (s.upCore j fun x => x.spWrite a (allOf (recs.flatMap fun (r : BitVec 128) => toBytes 16 r.toNat))).recheck j
  | none => s

theorem State.cl_copied (s : State) (j : Nat) (c : Cluster) (cp : Option Nat) (recs : List (BitVec 128)) : ((s.copied j cp recs).core j).cl c = (s.core j).cl c := by
  cases cp with
  | none => rfl
  | some a =>
    have rest := s.core_spWrite_recheck j a (allOf (recs.flatMap fun (r : BitVec 128) => toBytes 16 r.toNat)) j
    rw [if_pos rfl] at rest
    have same (x : Core) : ({ x with conts := (s.core j).conts, ready := (s.core j).ready } : Core).cl c = x.cl c := by cases c <;> rfl
    refine (same _).symm.trans ((congrArg (Core.cl · c) rest).trans ?_)
    cases c <;> rfl

/-- The bytes that a load has copied (R262). -/
theorem State.spByte_copied (s : State) (j a : Nat) (recs : List (BitVec 128)) (n : Nat) (hn : n < 16 * recs.length) :
    ((s.copied j (some a) recs).core j).spByte (a + n) = .ofNat 8 ((recs.getD (n / 16) 0).toNat / 256 ^ (n % 16)) := by
  have rest := s.core_spWrite_recheck j a (allOf (recs.flatMap fun (r : BitVec 128) => toBytes 16 r.toNat)) j
  rw [if_pos rfl] at rest
  refine (congrArg (Core.spByte · (a + n)) rest).trans ?_
  rw [Core.spByte_spWrite, if_pos (Nat.le_add_right a n), Nat.add_sub_cancel_left, getElem?_records hn]

theorem State.spByte_upCl (s : State) (j : Nat) (c : Cluster) (f : Cl → Cl) (a : Nat) : ((s.upCore j fun k => k.upCl c f).core j).spByte a = (s.core j).spByte a := by
  rw [State.core_upCore_self]
  cases c <;> rfl

theorem State.spByte_pushAt (s : State) (j : Nat) (c : Cluster) (m : BitVec 2) (a : Nat) : ((s.pushAt j c m).core j).spByte a = (s.core j).spByte a := by
  unfold State.pushAt
  rw [State.core_upCore_self]
  exact congrArg (sget 0 · a) (congrArg Core.sp (Core.Still.pushBits c (s.core j) m).rest : _)

/-- Part of O29: digest loads return (R45, R261, R262). -/
theorem digestLoadsReturn : Spec.DigestLoadsReturn := by
  intro s core c e r h off d test x rets head plain free room
  have returns : exec (.loadReturn core c) s = .next (s.headReturn core.toNat c e) := congrArg Host.Outcome.next (State.loadReturn_head rets head free room)
  unfold State.headReturn at returns
  refine ⟨fun kind => ?_, fun cp kind => ?_⟩
  · intro v
    rw [kind] at returns
    have work : CacheWork core.toNat s (s.loadRecAt h off) := ((HomeWork.refl s).loadRecAt h off).caches _
    have popped := State.popLoad_read work head plain
    have low := ((s.loadRecAt h off).popLoad core.toNat c).cl_upCl core.toNat c fun y => y.setReg d (v.setWidth 64)
    have wrote := (((s.loadRecAt h off).popLoad core.toNat c).setRegAt core.toNat c d (v.setWidth 64)).wrote core.toNat c (d + 1) ((v >>> 64).setWidth 64) e.push
    unfold State.setRegAt at wrote
    rw [low, popped] at wrote
    refine ⟨_, returns, wrote.loadQ.trans (Cl.setReg_loadQ _ _ _), fun some last => ⟨?_, ?_⟩, fun q hq hq' => ?_⟩
    · refine (wrote.others d (by bv_omega)).trans ?_
      rw [Cl.reg_setReg, if_neg some, if_pos rfl]
    · exact wrote.reg.trans (if_neg (by bv_omega))
    · refine (wrote.others q hq').trans ?_
      rw [Cl.reg_setReg, if_neg hq]
      split
      · next zero => exact zero ▸ rfl
      · rfl
  · intro recs
    rw [kind] at returns
    obtain ⟨work, all⟩ := s.readRecs_work h off
    have popped := State.popLoad_read (work.caches core.toNat) head plain
    have copied := ((s.readRecs h off).1.popLoad core.toNat c).cl_copied core.toNat c cp recs
    have bytes (a : Nat) := ((s.readRecs h off).1.popLoad core.toNat c).spByte_copied core.toNat a recs
    have wrote := (((s.readRecs h off).1.popLoad core.toNat c).copied core.toNat cp recs).wrote core.toNat c d (.ofNat 64 (dgqMask recs test.toNat)) e.push
    rw [copied, popped] at wrote
    refine ⟨all, _, returns, wrote.loadQ, fun some n hn => ?_, fun a ha n hn => ?_, wrote.others⟩
    · rw [← dgqMask_bit all test.toNat hn, ← wrote.reg.trans (if_neg some)]
      rfl
    · subst ha
      refine (State.spByte_pushAt _ _ _ _ _).trans ((State.spByte_upCl _ _ _ _ _).trans (bytes a n ?_))
      rw [all]
      exact hn

end Sys2Proof.Machine
end

section
/-! What dgld and dgq read of a record (R7, R104, R105, R108). -/

namespace Sys2Proof.Machine

open Sys2Proof Sys2Proof.Spec

variable {s : State} {k j : Nat}

/-! The bits of bytes and of packed fields. -/

theorem testBit_ofBytes (l : List Byte) (j : Nat) : (ofBytes l).testBit j = (l.getD (j / 8) 0).getLsbD (j % 8) := by
  induction l generalizing j with
  | nil => simp [ofBytes]
  | cons b r ih =>
    have value : ofBytes (b :: r) = 2 ^ 8 * ofBytes r + b.toNat := Nat.add_comm _ _
    rw [value, Nat.testBit_two_pow_mul_add _ b.isLt]
    by_cases first : j < 8
    · rw [if_pos first, Nat.div_eq_of_lt first, Nat.mod_eq_of_lt first]
      rfl
    · rw [if_neg first, ih, show j / 8 = (j - 8) / 8 + 1 by omega, show j % 8 = (j - 8) % 8 by omega]
      rfl

theorem testBit_bits (w hi lo j : Nat) : (bits w hi lo).testBit j = (decide (j < hi + 1 - lo) && w.testBit (lo + j)) := by
  unfold bits
  rw [Nat.testBit_mod_two_pow, Nat.testBit_div_two_pow, Nat.add_comm j lo]

/-- The fields of a record are its bits, but for those that its kind reserves (R104, R105). -/
theorem kindBits_testBit (kind w j : Nat) (hj : j < 96) : (kindBits kind w).testBit j = (w.testBit j && !reservedBit kind j) := by
  unfold kindBits reservedBit
  split
  · rw [Nat.testBit_mod_two_pow, Bool.and_comm]
    refine congrArg (w.testBit j && ·) (Bool.eq_iff_iff.2 ?_)
    simp
    omega
  · rw [Nat.testBit_mod_two_pow, Bool.and_comm]
    refine congrArg (w.testBit j && ·) (Bool.eq_iff_iff.2 ?_)
    simp
    omega
  · next other1 other3 =>
    rw [Nat.testBit_mod_two_pow, Bool.and_comm]
    refine congrArg (w.testBit j && ·) (Bool.eq_iff_iff.2 ?_)
    rw [beq_eq_false_iff_ne.2 other1, beq_eq_false_iff_ne.2 other3]
    simp
    omega

/-- A field below the reserved bits of a record holds the record's bits. -/
theorem testBit_field (w : Nat) {lo n j : Nat} (first : lo ≤ j) (last : j - lo < n) (known : lo + n ≤ 122) :
    (decide (j - lo < n) && w.testBit (lo + (j - lo))) = (w.testBit j && decide (j < 122)) := by
  rw [decide_eq_true last, decide_eq_true (show j < 122 by omega), Nat.add_sub_cancel' first, Bool.true_and, Bool.and_true]

theorem testBit_flag (w : Nat) {lo j : Nat} (first : lo ≤ j) (last : j - lo < 1) (known : lo < 122) :
    (b2n (bit w lo)).testBit (j - lo) = (w.testBit j && decide (j < 122)) := by
  rw [testBit_b2n _ last, show j = lo by omega, decide_eq_true known, Bool.and_true]
  rfl

/-- A record packed again from the fields it reads as. -/
theorem recordBits (r : BitVec 128) (hj : j < 128) : (DRec.ofBits r).toBits.getLsbD j = (r.toNat.testBit j && !reservedBit (r.toNat / 2 ^ 116 % 8) j) := by
  unfold DRec.toBits DRec.ofBits
  dsimp only
  rw [BitVec.getLsbD_ofNat, decide_eq_true hj, Bool.true_and, testBit_pack_cons]
  split
  · next low => exact kindBits_testBit _ _ _ low
  next high =>
    have kept : (!reservedBit (r.toNat / 2 ^ 116 % 8) j) = decide (j < 122) := by
      refine Bool.eq_iff_iff.2 ?_
      unfold reservedBit
      simp
      omega
    rw [kept]
    simp only [testBit_pack_cons, testBit_bits, Nat.sub_sub]
    split
    · next gen => exact testBit_field _ (by omega) gen (by decide)
    split
    · next valid => exact testBit_flag _ (by omega) valid (by decide)
    split
    · next loose => exact testBit_flag _ (by omega) loose (by decide)
    split
    · next unknown => exact testBit_flag _ (by omega) unknown (by decide)
    split
    · next poison => exact testBit_flag _ (by omega) poison (by decide)
    split
    · next kind => exact testBit_field _ (by omega) kind (by decide)
    split
    · next etype => exact testBit_field _ (by omega) etype (by decide)
    · rw [decide_eq_false (by omega), Bool.and_false]
      exact Nat.zero_testBit _

/-! A record brought into way 0. -/

/-- A plane's line that can be read is corrected at most (R382). -/
theorem State.findPlane_found {acc : Acc} {o : Nat} (found : s.unfound acc o = false) :
    ∃ a b l, s.findPlane acc o = { s with cecnt := a, ceSeen := b, todo := l } := by
  unfold State.findPlane
  dsimp only
  rw [if_neg (by rw [found]; exact Bool.false_ne_true)]
  split
  · unfold State.corrected
    dsimp only
    split
    · exact ⟨_, _, _, rfl⟩
    · exact ⟨_, _, _, rfl⟩
  · exact ⟨_, _, _, rfl⟩

/-- The line of a plane that holds a record, as way 0 takes it (R108). -/
def State.planeLine (s : State) (k : Nat) : DLine :=
  { line := k / 128, recs := .ofNat 1024 (ofBytes (s.memBytes (s.stored (k / 128 * 128)) 128)), dirty := false }

/-- A record that the home does not hold is read from its plane, with the seven others of its line (R92, R108). -/
theorem State.loadRec_fresh (empty : s.digests = []) (free : s.cellHeld (k / 128 * 128) = false) (reach : s.cellReach (k / 128 * 128) = true)
    (found : s.unfound (State.planeAcc (k / 128 * 128)).1 (State.planeAcc (k / 128 * 128)).2 = false)
    (clean : (s.line (s.lineNo (State.planeAcc (k / 128 * 128)).1 (State.planeAcc (k / 128 * 128)).2)).poisoned = false) :
    ∃ a b l, s.loadRec k = { s with cecnt := a, ceSeen := b, todo := l, digests := [(way0Key k, s.planeLine k)] } := by
  have absent : (s.way0 k).isSome = false := by
    unfold State.way0
    rw [empty]
    rfl
  have back : s.way0Back (way0Key k) = s := by
    unfold State.way0Back
    rw [empty]
    rfl
  obtain ⟨a, b, l, plane⟩ := State.findPlane_found found
  refine ⟨a, b, l, ?_⟩
  unfold State.loadRec
  rw [if_neg (by rw [absent]; exact Bool.false_ne_true), back]
  dsimp only
  rw [if_neg (by rw [free]; exact Bool.false_ne_true), if_pos reach, plane]
  generalize State.planeAcc (k / 128 * 128) = p at clean ⊢
  have reach' : ({ s with cecnt := a, ceSeen := b, todo := l } : State).cellReach (k / 128 * 128) = true := reach
  have clean' : (({ s with cecnt := a, ceSeen := b, todo := l } : State).line (({ s with cecnt := a, ceSeen := b, todo := l } : State).lineNo p.1 p.2)).poisoned = false := clean
  rw [if_neg (by rw [reach', clean']; decide)]
  exact congrArg (fun m => ({ s with cecnt := a, ceSeen := b, todo := l, digests := sput m (way0Key k) (s.planeLine k) } : State)) empty

/-- Records stand at multiples of their size (R104). -/
theorem State.recKey_aligned {acc : Acc} {o : Nat} (key : s.recKey acc o = some k) : k % 16 = 0 := by
  unfold State.recKey at key
  obtain ⟨-, key⟩ := Option.ite_none_left_eq_some.1 key
  dsimp only at key
  split at key
  · cases key
  · cases key
  · obtain ⟨-, key⟩ := Option.ite_none_right_eq_some.1 key
    cases key
    unfold State.planeCell
    omega

/-- Sixteen bytes of a line, shifted down to their place, are those bytes' bits. -/
theorem line_record (f : Nat → Byte) {p : Nat} (hp : p % 16 = 0) (small : p < 128) :
    (((BitVec.ofNat 1024 (ofBytes ((List.range 128).map f))) >>> (p * 8)).setWidth 128).toNat = ofBytes ((List.range 16).map fun j => f (p + j)) := by
  refine Nat.eq_of_testBit_eq fun i => ?_
  rw [BitVec.testBit_toNat, BitVec.getLsbD_setWidth, BitVec.getLsbD_ushiftRight, BitVec.getLsbD_ofNat, testBit_ofBytes, testBit_ofBytes,
    List.getD_eq_getElem?_getD, List.getD_eq_getElem?_getD, List.getElem?_map, List.getElem?_map]
  by_cases hi : i < 128
  · rw [decide_eq_true hi, decide_eq_true (show p * 8 + i < 1024 by omega), show (p * 8 + i) / 8 = p + i / 8 by omega, show (p * 8 + i) % 8 = i % 8 by omega,
      List.getElem?_range (show p + i / 8 < 128 by omega), List.getElem?_range (show i / 8 < 16 by omega)]
    rfl
  · rw [decide_eq_false hi, List.getElem?_eq_none (l := List.range 16) (by rw [List.length_range]; omega), Bool.false_and]
    exact BitVec.getLsbD_zero.symm

theorem State.recKey_congr {s t : State} (dpl : t.dpl = s.dpl) (acc : Acc) (o : Nat) : t.recKey acc o = s.recKey acc o := by
  unfold State.recKey State.planeCell State.dplOf
  rw [dpl]

/-- A record of the line that way 0 holds (R108). -/
theorem State.recBits_line {d : DLine} (held : s.digests = [(way0Key k, d)]) (line : d.line = k / 128) : s.recBits k = (d.recs >>> (k % 128 * 8)).setWidth 128 := by
  have way : s.way0 k = some d := by
    unfold State.way0
    rw [held]
    unfold sfind
    rw [if_pos rfl]
    exact if_pos (beq_iff_eq.2 line)
  unfold State.recBits
  rw [way]

/-- Part of O29: what a digest load reads of a block (R7, R104, R105, R108). -/
theorem recordRead : Spec.RecordRead := by
  intro s h off t r key
  refine ⟨fun none => ?_, fun some absent => ?_, fun k some found empty => ?_⟩
  · exact if_pos (beq_iff_eq.2 none)
  · have same : t = s := by
      show s.loadRecAt h off = s
      unfold State.loadRecAt
      rw [show s.recKey _ _ = none from absent]
    show t.readRec h off = _
    rw [same]
    unfold State.readRec
    rw [if_neg (by rw [beq_eq_false_iff_ne.2 some]; exact Bool.false_ne_true), show s.recKey _ _ = none from absent]
    rfl
  · intro cell acc o w free reach known clean
    obtain ⟨a, b, l, fresh⟩ := State.loadRec_fresh empty free reach known clean
    have loaded : t = s.loadRec k := by
      show s.loadRecAt h off = _
      unfold State.loadRecAt
      rw [show s.recKey _ _ = Option.some k from found]
      exact if_neg (by rw [beq_eq_false_iff_ne.2 some]; exact Bool.false_ne_true)
    rw [fresh] at loaded
    have frames : t.frames = s.frames := (congrArg State.frames loaded : _)
    have bits : t.recBits k = ((s.planeLine k).recs >>> (k % 128 * 8)).setWidth 128 := State.recBits_line (congrArg State.digests loaded : _) rfl
    have kept : t.recKey (t.frameAcc (hFrame h) (hAttr h 0)) off = Option.some k := by
      unfold State.frameAcc State.frame
      rw [frames, State.recKey_congr (congrArg State.dpl loaded : _)]
      exact found
    have value : (t.recBits k).toNat = w := by
      rw [bits]
      refine (line_record (fun i => s.memByte (s.stored cell + i)) (by have := State.recKey_aligned found; omega) (Nat.mod_lt _ (by decide))).trans ?_
      simp only [← Nat.add_assoc]
      rfl
    refine ⟨(congrArg State.mem loaded : _), fun j hj => ?_⟩
    have reads : r = (DRec.ofBits (t.recBits k)).toBits := by
      show t.readRec h off = _
      unfold State.readRec
      rw [if_neg (by rw [beq_eq_false_iff_ne.2 some]; exact Bool.false_ne_true), kept]
      rfl
    rw [reads, recordBits _ hj, value]

end Sys2Proof.Machine
end

section
/-! vldg returns (R45, R170, R171, R186, R189). -/

namespace Sys2Proof.Machine

open Sys2Proof Sys2Proof.Spec

variable {s : State} {k : Core} {j : Nat}

/-! Registers and latches. -/

theorem Core.vname_setVname (k : Core) {n : Nat} (hn : n < 576) {v : VVal} (plain : v.bounded = false) (zero : v.bound = 0) (m : Nat) :
    (k.setVname n v).vname m = if m = n then v else k.vname m := by
  obtain ⟨val, bounded, bound⟩ := v
  dsimp only at plain zero
  subst plain zero
  unfold Core.setVname Core.vname
  by_cases reg : n < 512
  · rw [if_pos reg]
    by_cases same : m = n
    · rw [if_pos same, same, if_pos reg]
      exact sget_sset_self _ _ _ _
    · rw [if_neg same]
      refine congrArg (fun x => if m < 512 then x else _) ?_
      exact (sget_sset _ _ _ _ _).trans (if_neg same)
  · rw [if_neg reg, if_pos hn]
    by_cases same : m = n
    · rw [if_pos same, same, if_neg reg, if_pos hn]
      exact congrArg (fun x => ({ val := x, bounded := false, bound := 0 } : VVal)) (sget_sset_self _ _ _ _)
    · rw [if_neg same]
      by_cases low : m < 512
      · rw [if_pos low, if_pos low]
      · rw [if_neg low, if_neg low]
        by_cases q : m < 576
        · rw [if_pos q, if_pos q]
          exact congrArg (fun x => ({ val := x, bounded := false, bound := 0 } : VVal)) ((sget_sset _ _ _ _ _).trans (if_neg (by omega)))
        · rw [if_neg q, if_neg q]

/-- A run of values written one after another. -/
theorem sget_foldl_run {α : Type} [DecidableEq α] (z : α) (base n : Nat) (f : Nat → α) (m : Sparse α) (i : Nat) :
    sget z (((List.range n).zip ((List.range n).map f)).foldl (fun m e => sset z m (base + e.1 + 1) e.2) m) i =
      if base < i ∧ i ≤ base + n then f (i - base - 1) else sget z m i := by
  have pairs : (List.range n).zip ((List.range n).map f) = (List.range n).map fun a => (a, f a) := by
    have both := List.zip_map' (f := id) (g := f) (l := List.range n)
    rwa [List.map_id] at both
  rw [pairs, List.foldl_map]
  clear pairs
  induction n with
  | zero => exact (if_neg (by omega)).symm
  | succ n ih =>
    rw [List.range_succ, List.foldl_append, List.foldl_cons, List.foldl_nil, sget_sset, ih]
    split
    · next last => rw [if_pos (by omega), last, show base + n + 1 - base - 1 = n by omega]
    · next other =>
      split
      · next inside => exact (if_pos (by omega)).symm
      · next outside => exact (if_neg (by omega)).symm

theorem Core.latchAt_rest (k : Core) (port age : Nat) (v : VVal) : { k.latchAt port age v with latch := k.latch } = k := by
  unfold Core.latchAt
  split <;> rfl

/-- A value enters a port's latches behind younger ones: those from its place on move one place up (R170, R171). -/
theorem Core.sget_latchAt (k : Core) {age : Nat} (young : age ≤ 7) (v : VVal) (i : Nat) :
    sget VVal.zero (k.latchAt 7 age v).latch i =
      if i = 56 + age then v else if 56 + age < i ∧ i < 64 then sget VVal.zero k.latch (i - 1) else sget VVal.zero k.latch i := by
  unfold Core.latchAt
  rw [if_neg (by omega)]
  refine (sget_sset _ _ _ _ _).trans (congrArg (if i = 56 + age then v else ·) ((sget_foldl_run _ _ _ _ _ _).trans ?_))
  by_cases moved : 56 + age < i ∧ i < 64
  · rw [if_pos (by omega), if_pos moved, show 8 * 7 + age + (i - (8 * 7 + age) - 1) = i - 1 by omega]
  · rw [if_neg (by omega), if_neg moved]

theorem Core.vname_latchAt (k : Core) {age : Nat} (young : age ≤ 7) (v : VVal) (m : Nat) :
    (k.latchAt 7 age v).vname m = if m = 632 + age then v else if 632 + age < m ∧ m < 640 then k.vname (m - 1) else k.vname m := by
  have vr : (k.latchAt 7 age v).vr = k.vr := (congrArg Core.vr (k.latchAt_rest 7 age v) : _)
  have q : (k.latchAt 7 age v).q = k.q := (congrArg Core.q (k.latchAt_rest 7 age v) : _)
  unfold Core.vname
  rw [vr, q, Core.sget_latchAt k young]
  by_cases low : m < 576
  · rw [if_neg (show ¬ m = 632 + age by omega), if_neg (show ¬ (632 + age < m ∧ m < 640) by omega), if_pos low, if_pos low]
  · rw [if_neg (show ¬ m < 512 by omega), if_neg low, if_neg (show ¬ m < 512 by omega), if_neg low]
    by_cases moved : 632 + age < m ∧ m < 640
    · rw [if_neg (show ¬ m - 576 = 56 + age by omega), if_pos (show 56 + age < m - 576 ∧ m - 576 < 64 by omega), if_neg (show ¬ m = 632 + age by omega), if_pos moved,
        if_neg (show ¬ m - 1 < 512 by omega), if_neg (show ¬ m - 1 < 576 by omega), show m - 576 - 1 = m - 1 - 576 by omega]
    · rw [if_neg moved, if_neg (show ¬ (56 + age < m - 576 ∧ m - 576 < 64) by omega)]
      exact if_congr (by omega) rfl rfl

theorem Core.latchAt_old (k : Core) {age : Nat} (old : 7 < age) (v : VVal) : k.latchAt 7 age v = k := if_pos old

/-! Lanes. -/

theorem testBit_pack_width (n : Nat) (pos : 0 < n) (f : Nat → Nat) (m j : Nat) :
    (pack ((List.range m).map fun i => (n, f i))).testBit j = (decide (j < n * m) && (f (j / n)).testBit (j % n)) := by
  induction m generalizing f j with
  | zero => exact Nat.zero_testBit j
  | succ m ih =>
    rw [List.range_succ_eq_map, List.map_cons, List.map_map, testBit_pack_cons, Nat.mul_succ]
    split
    · next first => rw [decide_eq_true (by omega), Nat.div_eq_of_lt first, Nat.mod_eq_of_lt first, Bool.true_and]
    · next later =>
      obtain ⟨i, rfl⟩ := Nat.exists_eq_add_of_le' (Nat.le_of_not_lt later)
      rw [Nat.add_sub_cancel, Nat.add_div_right i pos, Nat.add_mod_right, decide_eq_decide.2 (Nat.add_lt_add_iff_right : i + n < n * m + n ↔ i < n * m)]
      exact ih (fun i => f (i + 1)) i

theorem laneBits_bit (m : Mask) {j : Nat} (hj : j < 2048) : (laneBits m).getLsbD j = m.getLsbD (j / 32) := by
  unfold laneBits
  rw [BitVec.getLsbD_ofNat, decide_eq_true hj, Bool.true_and, testBit_pack_width 32 (by decide), decide_eq_true (by omega), Bool.true_and]
  cases m.getLsbD (j / 32) with
  | false => exact Nat.zero_testBit _
  | true => exact (Nat.testBit_two_pow_sub_one 32 _).trans (decide_eq_true (Nat.mod_lt _ (by decide)))

theorem vecOf_bit (bs : List Byte) {j : Nat} (hj : j < 2048) : (vecOf bs).getLsbD j = (bs.getD (j / 8) 0).getLsbD (j % 8) := by
  unfold vecOf
  rw [BitVec.getLsbD_ofNat, decide_eq_true hj, Bool.true_and, testBit_ofBytes]

/-- A lane of four bytes received poison. -/
def laneBad (data : List (Byte × Bool)) (l : Nat) : Bool := (List.range 4).any fun j => match data[4 * l + j]? with | some b => b.2 | none => false

theorem laneBad_eq (data : List (Byte × Bool)) (l : Nat) : ((data.drop (4 * l)).take 4).any (·.2) = laneBad data l := by
  refine Bool.eq_iff_iff.2 ?_
  unfold laneBad
  rw [List.any_eq_true, List.any_eq_true]
  constructor
  · rintro ⟨b, hb, poisoned⟩
    obtain ⟨i, found⟩ := List.mem_iff_getElem?.1 hb
    rw [List.getElem?_take] at found
    split at found
    · next small =>
      rw [List.getElem?_drop] at found
      exact ⟨i, List.mem_range.2 small, by rw [found]; exact poisoned⟩
    · cases found
  · rintro ⟨i, hi, poisoned⟩
    have small := List.mem_range.1 hi
    split at poisoned
    · next b found => exact ⟨b, List.mem_iff_getElem?.2 ⟨i, by rw [List.getElem?_take, if_pos small, List.getElem?_drop, found]⟩, poisoned⟩
    · cases poisoned

theorem poisonLanes_bit (active : Mask) (data : List (Byte × Bool)) {l : Nat} (hl : l < 64) :
    (poisonLanes active data).getLsbD l = (active.getLsbD l && laneBad data l) := by
  unfold poisonLanes
  rw [BitVec.getLsbD_ofNat, decide_eq_true hl, Bool.true_and, testBit_pack_width 1 (by decide), decide_eq_true (by omega), Bool.true_and, Nat.div_one,
    testBit_b2n _ (Nat.mod_lt _ (by decide)), laneBad_eq]

/-- What a vector register holds once the active lanes have taken what a load gives (R186, R189). -/
def loadedInto (o : VReg) (active : Mask) (data : List (Byte × Bool)) : VReg :=
  (o &&& ~~~ laneBits active) ||| (loadedVec active (poisonLanes active data) data &&& laneBits active)

theorem loadedInto_bit (o : VReg) (active : Mask) (data : List (Byte × Bool)) {j : Nat} (hj : j < 2048) :
    (loadedInto o active data).getLsbD j = if active.getLsbD (j / 32) then
      (((data.map (·.1)).getD (j / 8) 0).getLsbD (j % 8) && !laneBad data (j / 32)) else o.getLsbD j := by
  have lane : j / 32 < 64 := by omega
  unfold loadedInto loadedVec
  rw [BitVec.getLsbD_or, BitVec.getLsbD_and, BitVec.getLsbD_and, BitVec.getLsbD_and, BitVec.getLsbD_not, laneBits_bit _ hj, laneBits_bit _ hj, vecOf_bit _ hj,
    BitVec.getLsbD_and, BitVec.getLsbD_not, poisonLanes_bit _ _ lane, decide_eq_true hj, decide_eq_true lane]
  cases active.getLsbD (j / 32) <;> simp

theorem loadedInto_byte (o : VReg) (active : Mask) (data : List (Byte × Bool)) {j : Nat} (hj : j < 256) :
    Spec.elemOf (loadedInto o active data) 8 j = if active.getLsbD (j / 4) then (if laneBad data (j / 4) then 0 else match data[j]? with | some b => b.1.toNat | none => 0)
      else Spec.elemOf o 8 j := by
  have bit (x : VReg) (i : Nat) : (Spec.elemOf x 8 j).testBit i = (decide (i < 8) && x.getLsbD (8 * j + i)) := by
    unfold Spec.elemOf
    rw [Nat.testBit_mod_two_pow, Nat.testBit_div_two_pow, BitVec.testBit_toNat, Nat.add_comm]
  have byte : (match data[j]? with | some b => b.1.toNat | none => 0) = ((data.map fun b : Byte × Bool => b.1).getD j (0 : Byte)).toNat := by
    rw [List.getD_eq_getElem?_getD, List.getElem?_map]
    cases data[j]? <;> rfl
  have small (i : Nat) (hi : ¬ i < 8) : ((data.map fun b : Byte × Bool => b.1).getD j (0 : Byte)).toNat.testBit i = false := by
    rw [BitVec.testBit_toNat]
    exact BitVec.getLsbD_of_ge _ _ (Nat.le_of_not_lt hi)
  rw [byte]
  refine Nat.eq_of_testBit_eq fun i => ?_
  rw [bit]
  by_cases hi : i < 8
  · rw [decide_eq_true hi, Bool.true_and, loadedInto_bit o active data (by omega), show (8 * j + i) / 32 = j / 4 by omega, show (8 * j + i) / 8 = j by omega,
      show (8 * j + i) % 8 = i by omega]
    cases active.getLsbD (j / 4) with
    | false => rw [if_neg Bool.false_ne_true, if_neg Bool.false_ne_true, bit, decide_eq_true hi, Bool.true_and]
    | true =>
      rw [if_pos rfl, if_pos rfl]
      cases laneBad data (j / 4) with
      | false => rw [if_neg Bool.false_ne_true, BitVec.testBit_toNat, Bool.not_false, Bool.and_true]
      | true => rw [if_pos rfl, Nat.zero_testBit, Bool.not_true, Bool.and_false]
  · rw [decide_eq_false hi, Bool.false_and]
    split
    · split
      · exact (Nat.zero_testBit i).symm
      · exact (small i hi).symm
    · rw [bit, decide_eq_false hi, Bool.false_and]

end Sys2Proof.Machine
end

section
/-! The vldg at the head of V's load queue (R45, R171, R186, R189), and the loads together. -/

namespace Sys2Proof.Machine

open Sys2Proof Sys2Proof.Spec

variable {s : State} {k : Core} {j : Nat} {d newer : Nat} {active : Mask} {pd : Pred} {data : List (Byte × Bool)}

/-- A core takes what a vector load gives (R186, R189). -/
def Core.loadVec (k : Core) (d : Nat) (active : Mask) (data : List (Byte × Bool)) (pd : Pred) (newer : Nat) : Core :=
  ((k.applyVal .V (.vreg d (laneBits active) (loadedVec active (poisonLanes active data) data) false 0 false none)).latchAt 7 newer
    ((k.applyVal .V (.vreg d (laneBits active) (loadedVec active (poisonLanes active data) data) false 0 false none)).vname d)).upCl .V
    fun z => if poisonLanes active data == 0 then z else z.setPred pd (poisonLanes active data) 0

theorem Core.applyVal_vreg (k : Core) (d : Nat) (m v : VReg) : k.applyVal .V (.vreg d m v false 0 false none) =
    k.setVname d { val := ((k.vname d).val &&& ~~~m) ||| (v &&& m), bounded := false, bound := 0 } := rfl

theorem Core.vname_upCl (k : Core) (c : Cluster) (f : Cl → Cl) (m : Nat) : (k.upCl c f).vname m = k.vname m := by cases c <;> rfl

/-- The registers and the latches of port 7 after a vector load. -/
theorem Core.vname_loadVec (hd : d < 576) (m : Nat) :
    let w : VVal := { val := loadedInto (k.vname d).val active data, bounded := false, bound := 0 }
    (k.loadVec d active data pd newer).vname m =
      if m = d then w else if newer ≤ 7 ∧ m = 632 + newer then w else if newer ≤ 7 ∧ 632 + newer < m ∧ m < 640 then k.vname (m - 1) else k.vname m := by
  intro w
  have written (i : Nat) : (k.setVname d w).vname i = if i = d then w else k.vname i := k.vname_setVname hd rfl rfl i
  unfold Core.loadVec
  rw [Core.vname_upCl, Core.applyVal_vreg]
  show ((k.setVname d w).latchAt 7 newer ((k.setVname d w).vname d)).vname m = _
  by_cases young : newer ≤ 7
  · rw [Core.vname_latchAt _ young, written, written, written, if_pos rfl]
    by_cases here : m = d
    · rw [if_neg (show ¬ m = 632 + newer by omega), if_neg (show ¬ (632 + newer < m ∧ m < 640) by omega), if_pos here, if_pos here]
    · rw [if_neg here, if_neg here, if_congr (show newer ≤ 7 ∧ m = 632 + newer ↔ m = 632 + newer by omega) rfl rfl,
        if_congr (show newer ≤ 7 ∧ 632 + newer < m ∧ m < 640 ↔ 632 + newer < m ∧ m < 640 by omega) rfl rfl]
      refine if_congr Iff.rfl rfl ?_
      by_cases moved : 632 + newer < m ∧ m < 640
      · rw [if_pos moved, if_pos moved, if_neg (show ¬ m - 1 = d by omega)]
      · rw [if_neg moved, if_neg moved]
  · rw [Core.latchAt_old _ (by omega), written, if_neg (show ¬ (newer ≤ 7 ∧ m = 632 + newer) by omega),
      if_neg (show ¬ (newer ≤ 7 ∧ 632 + newer < m ∧ m < 640) by omega)]

theorem Core.latchAt_v (k : Core) (port age : Nat) (v : VVal) : (k.latchAt port age v).v = k.v := by
  unfold Core.latchAt
  split <;> rfl

theorem Core.latched_v (k : Core) (port age : Nat) (v : VVal) (f : Cl → Cl) : ((k.latchAt port age v).upCl .V f).v = f k.v :=
  (Core.cl_upCl_self (k.latchAt port age v) .V f).trans (congrArg f (k.latchAt_v port age v))

/-- V's own state after a vector load: only the predicate of the poisoned lanes changes. -/
theorem Core.v_loadVec : (k.loadVec d active data pd newer).v = if poisonLanes active data == 0 then k.v else k.v.setPred pd (poisonLanes active data) 0 := by
  unfold Core.loadVec
  rw [Core.latched_v, Core.applyVal_vreg, show (k.setVname d _).v = k.v from Core.setVname_cl k d _ .V]

theorem Cl.pmask_congr {x y : Cl} (same : x.p = y.p) (q : Pred) : x.pmask q = y.pmask q := by
  unfold Cl.pmask
  rw [same]

/-- A predicate's lanes that received poison are cleared (R189). -/
def Cl.poisoned (x : Cl) (pd : Pred) (bad : Mask) : Cl := if bad == 0 then x else x.setPred pd bad 0

theorem Cl.poisoned_loadQ (x : Cl) (pd : Pred) (bad : Mask) : (x.poisoned pd bad).loadQ = x.loadQ := by
  unfold Cl.poisoned
  split
  · rfl
  · exact Cl.setPred_loadQ _ _ _ _

theorem Cl.poisoned_s (x : Cl) (pd : Pred) (bad : Mask) : (x.poisoned pd bad).s = x.s := by
  unfold Cl.poisoned
  split
  · rfl
  · exact Cl.setPred_s _ _ _ _

theorem Cl.pmask_poisoned (x : Cl) (pd : Pred) (bad : Mask) (q : Pred) :
    (x.poisoned pd bad).pmask q = if q = pd ∧ q ≠ 0 then x.pmask q &&& ~~~ bad else x.pmask q := by
  unfold Cl.poisoned
  split
  · next none =>
    rw [beq_iff_eq.1 none, show ~~~(0 : Mask) = BitVec.allOnes 64 from rfl, BitVec.and_allOnes]
    exact (ite_self _).symm
  · rw [Cl.pmask_setPred]
    by_cases zero : q = 0
    · rw [if_pos zero, if_neg (fun both => both.2 zero), zero]
      rfl
    · rw [if_neg zero]
      by_cases same : q = pd
      · rw [if_pos same, if_pos ⟨same, zero⟩, same]
        simp
      · rw [if_neg same, if_neg (fun both => same both.1)]

/-- A vldg that returns, and may write what it received (R186, R189). -/
theorem State.vldgReturn_writes {t : State} {e : LoadEnt} {r : List LoadEnt} {h : BitVec 128} {off n : Nat} (head : (s.core j).v.loadQ = e :: r)
    (kind : e.kind = .vldg h off n d active pd newer) (free : (s.core j).v.loadFree e = true) (here : s.holdsAt h off = false)
    (room : (s.core j).roomFor .V e.push = true) (read : s.coreRead j h (s.ctx (s.core j).ctxNum).kdom off n = (t, data))
    (fits : pd = 0 → poisonLanes active data = 0) :
    s.vldgReturn j = ((t.popLoad j .V).upCore j fun y => y.loadVec d active data pd newer).pushAt j .V e.push := by
  unfold State.vldgReturn
  dsimp only
  rw [head]
  dsimp only
  rw [kind]
  dsimp only
  rw [if_neg (by rw [free, here, room]; decide), read]
  refine if_neg ?_
  rw [Bool.and_eq_true, bne_iff_ne, beq_iff_eq]
  exact fun both => both.1 (fits both.2)

/-- The registers of a core after its pushes are those it had (R45). -/
theorem State.vname_pushAt (s : State) (j : Nat) (c : Cluster) (p : BitVec 2) (m : Nat) : ((s.pushAt j c p).core j).vname m = (s.core j).vname m := by
  have rest := (Core.Still.pushBits c (s.core j) p).rest
  have core : (s.pushAt j c p).core j = (s.core j).pushBits c p := State.core_upCore_self _ _ _
  rw [core]
  exact Core.vname_congr (congrArg Core.vr rest : _) (congrArg Core.q rest : _) (congrArg Core.latch rest : _) m

theorem CacheWork.vname {t : State} (work : CacheWork j s t) (m : Nat) : (t.core j).vname m = (s.core j).vname m :=
  Core.vname_congr (congrArg Core.vr work.core : _) (congrArg Core.q work.core : _) (congrArg Core.latch work.core : _) m

/-- Part of O29: the vldg at the head of V's load queue returns (R186, R189). -/
theorem vectorReturns : Spec.VectorReturns := by
  intro s core e r h off n d active pd newer k head plain kind free here room _ hd data bad fits
  have work : CacheWork core.toNat s (s.coreRead core.toNat h (s.ctx k.ctxNum).kdom off n).1 := (CacheWork.refl _ s).coreRead h _ off n
  have read : s.coreRead core.toNat h (s.ctx k.ctxNum).kdom off n = ((s.coreRead core.toNat h (s.ctx k.ctxNum).kdom off n).1, data) := rfl
  generalize (s.coreRead core.toNat h (s.ctx k.ctxNum).kdom off n).1 = w at work read
  have lanes (l : Nat) (hl : l < 64) : (poisonLanes active data).getLsbD l = (active.getLsbD l && bad l) := poisonLanes_bit active data hl
  have clean : pd = 0 → poisonLanes active data = 0 := fun zero => BitVec.eq_of_getLsbD_eq fun l hl => by
    refine (lanes l hl).trans (Eq.trans ?_ BitVec.getLsbD_zero.symm)
    cases on : active.getLsbD l with
    | false => exact Bool.false_and _
    | true => rw [fits zero l hl on, Bool.and_false]
  have acts := State.vldgReturn_writes head kind free here room read clean
  -- The registers: the load's own, and the latches of port 7.
  have popped : ((w.popLoad core.toNat .V).core core.toNat) = (w.core core.toNat).upCl .V fun x => { x with loadQ := r } :=
    State.popLoad_plain (e := e) ((congrArg Cl.loadQ (work.cl .V) : _).trans head) plain
  let t := ((w.popLoad core.toNat .V).upCore core.toNat fun y => y.loadVec d active data pd newer).pushAt core.toNat .V e.push
  have names (m : Nat) : (t.core core.toNat).vname m = if m = d then { val := loadedInto (k.vname d).val active data, bounded := false, bound := 0 }
      else if newer ≤ 7 ∧ m = 632 + newer then { val := loadedInto (k.vname d).val active data, bounded := false, bound := 0 }
      else if newer ≤ 7 ∧ 632 + newer < m ∧ m < 640 then k.vname (m - 1) else k.vname m := by
    have before (i : Nat) : ((w.popLoad core.toNat .V).core core.toNat).vname i = k.vname i := by
      rw [popped, Core.vname_upCl, work.vname]
    refine (State.vname_pushAt _ _ _ _ m).trans ?_
    rw [State.core_upCore_self, Core.vname_loadVec hd, before, before, before]
  -- V's own state: its queue, and the predicate of the poisoned lanes.
  have state : (((w.popLoad core.toNat .V).upCore core.toNat fun y => y.loadVec d active data pd newer).core core.toNat).cl .V =
      ({ k.v with loadQ := r } : Cl).poisoned pd (poisonLanes active data) := by
    rw [State.core_upCore_self]
    refine Core.v_loadVec.trans ?_
    rw [show ((w.popLoad core.toNat .V).core core.toNat).v = { k.v with loadQ := r } from State.popLoad_read (c := .V) work head plain]
    rfl
  have own := State.cl_pushAt ((w.popLoad core.toNat .V).upCore core.toNat fun y => y.loadVec d active data pd newer) core.toNat .V e.push
  rw [state] at own
  have mask (q : Pred) : (t.core core.toNat).v.pmask q = if q = pd ∧ q ≠ 0 then k.v.pmask q &&& ~~~ poisonLanes active data else k.v.pmask q := by
    have p : (t.core core.toNat).v.p = (({ k.v with loadQ := r } : Cl).poisoned pd (poisonLanes active data)).p := (congrArg Cl.p own : _)
    exact (Cl.pmask_congr p q).trans (Cl.pmask_poisoned _ _ _ _)
  have self : (t.core core.toNat).vname d = { val := loadedInto (k.vname d).val active data, bounded := false, bound := 0 } := (names d).trans (if_pos rfl)
  refine ⟨t, congrArg Host.Outcome.next acts, ?_, ?_, fun young => ?_, fun a ha younger => ?_, fun a older ha => ?_, fun j hj => ?_, fun m hm other => ?_, fun l hl some => ?_,
    fun q hq => ?_, ?_⟩
  · exact (congrArg Cl.loadQ own : _).trans (Cl.poisoned_loadQ _ _ _)
  · rw [self]
  · rw [self, names, if_neg (by omega), if_pos ⟨young, rfl⟩]
  · rw [names, if_neg (by omega), if_neg (by omega), if_neg (by omega)]
  · rw [names, if_neg (by omega), if_neg (by omega), if_pos (by omega)]
    rfl
  · rw [self]
    exact loadedInto_byte _ active data hj
  · rw [names, if_neg other, if_neg (by omega), if_neg (by omega)]
  · rw [mask, if_pos ⟨rfl, some⟩, BitVec.getLsbD_and, BitVec.getLsbD_not, lanes l hl, decide_eq_true hl, Bool.true_and]
  · rw [mask, if_neg (fun both => hq both.1)]
  · exact (congrArg Cl.s own : _).trans (Cl.poisoned_s _ _ _)

/-- Settles O29: what a load that returns writes, each part by its own theorem. -/
theorem loadsReturn : Obligations.LoadsReturn := ⟨resultDelivered, loadReturns, vectorReturns, recordRead, digestLoadsReturn⟩

end Sys2Proof.Machine
end
